-- ==== Sys2Proof/Word.lean ====
section
/-! DEFINITION. The word types that every part of the model uses. -/

namespace Sys2Proof

/-- A byte. -/
abbrev Byte := BitVec 8

/-- A run of bytes, lowest address first. -/
abbrev Bytes := List Byte

/-- A 256-bit key. -/
abbrev Key := BitVec 256

/-- A SHA-384 digest. -/
abbrev Digest := BitVec 384

/-- A finite map from numbers: pairs with strictly rising keys. -/
abbrev Tbl (α : Type) := List (Nat × α)

/-- A memory: bytes by address, in the canonical form of `Machine.Memory.wf`. -/
abbrev Memory := List Host.Cell

end Sys2Proof
end

