-- ==== Sys2Proof/Syntax.lean ====
section
/-! DEFINITION. The commands of the module and the types of their operands. One constructor of `Instr` for each row of
spec/opcode_table.json, in the table's order; the operand types follow the structures of the spec's chapters. -/

namespace Sys2Proof

/-- Table 0.1: the three variants of one silicon design (R1). -/
inductive Variant where
  | a | b | c
  deriving DecidableEq, Repr

/-- R2: the profile is integrated or enduring. -/
inductive Profile where
  | integrated | enduring
  deriving DecidableEq, Repr

/-- Table 2.4: the ledger header of a lot image. -/
structure LedgerHeader where
  magic : Nat
  version : Nat
  headerBytes : Nat
  clockKhz : Nat
  patternChains : Nat
  spanLog2 : Nat
  clusters : Nat
  subchannels : Nat
  role : Nat
  flags : Nat
  shelfRowFirst : Nat
  shelfRowCount : Nat
  swapBytes : Nat
  entryCount : Nat
  reserved : Nat
  deriving DecidableEq, Repr

/-- Table 2.5: one ledger entry. -/
structure LedgerEntry where
  patternIndex : Nat
  rod : Nat
  resource : Nat
  unit : Nat
  worst : Nat
  reserved : Nat
  deriving DecidableEq, Repr

/-- R92: a 16-byte operand reference. -/
structure Operand where
  space : Nat
  reserved : Nat
  length : Nat
  addr : Nat
  deriving DecidableEq, Repr

/-- Table 5.4: the parameter block of a node, one alternative per catalog operation (R95).
`reserved` is the sum of the block's reserved bytes. -/
inductive NodeParams where
  | fold (roundId limbCount stepScale entry : Nat) (rowBase : List Nat)
  | maskExpand (roundId limb rowBase rowCount coordFirst : Nat) (seeds : Operand) (seedCount reserved : Nat)
  | nttFwd (logN limbs workRow work : Nat) (src dst : Operand) (modSlot : List Nat)
  | nttInv (logN limbs workRow work : Nat) (src dst : Operand) (modSlot : List Nat)
  | keyswitch (logN l k dnum keyId workRow work : Nat) (src dst key acc : Operand) (seed : Key)
      (modSlot : List Nat) (reserved : Nat)
  | refreshLut (logN limbsOut dr tableLog2 nLwe workRow keyId work deltaOut : Nat)
      (src dst table key : Operand) (seed : Key) (modSlot : List Nat)
  | clipL2 (count mode rowPair bound reject coordFirst : Nat) (src dst : Operand) (reserved : Nat)
  | sumsq (samples rowPair groups drain : Nat) (src dst : Operand) (reserved : Nat)
  | meanvar (samples rowPair groups merge : Nat) (src dst : Operand) (reserved : Nat)
  | noiseGauss (rowBase rowCount sampleScale target modSlot sigma delta : Nat) (dst : Operand) (reserved : Nat)
  | decodeCenter (rowBase rowCount outFormat qScale reset : Nat) (dst : Operand) (reserved : Nat)
  | applyStep (count outFormat : Nat) (step decay : BitVec 32) (coordFirst : Nat) (w u dst : Operand) (reserved : Nat)
  | matmul (format rowBase m k ncols : Nat) (a b : Operand) (reserved : Nat)
  | seedRecover (seedCount t kind sign flags : Nat) (shares dst : Operand) (reserved : Nat)
  | pairSeed (self peerCount : Nat) (roundTag : BitVec 128) (sk peers dst : Operand)
  deriving DecidableEq, Repr

/-- Table 5.1: a node header with its parameter block (R91). -/
structure Node where
  opcode : Nat
  rodMask : Nat
  flags : Nat
  waitStake : Nat
  signalStake : Nat
  waitValue : Nat
  signalAdd : Nat
  paramBytes : Nat
  clusterMask : Nat
  stream : Nat
  draw : Nat
  params : NodeParams
  deriving DecidableEq, Repr

/-- Table 3.5: a carry descriptor (R58). -/
structure Descr where
  opcode : Nat
  flags : Nat
  srcSpace : Nat
  dstSpace : Nat
  length : Nat
  srcAddr : Nat
  dstAddr : Nat
  rows : Nat
  waitStake : Nat
  waitValue : Nat
  srcStride : Nat
  dstStride : Nat
  signalStake : Nat
  signalAdd : Nat
  connection : Nat
  fillValue : BitVec 64
  easeGen : Nat
  remoteStake : Nat
  remoteAdd : Nat
  reserved : Nat
  deriving DecidableEq, Repr

/-- R358: a queue program of a carry plan. -/
structure QueueProg where
  queue : Nat
  clusterMask : Nat
  descs : List Descr
  deriving DecidableEq, Repr

/-- R54, R83: a preload; `width` is 32 or 64, `values` has one value per column, or one for a
constant; a 64-bit preload of a `SUMSQ` pair may carry those of the odd row after those of the even one. -/
structure Preload where
  row : Nat
  mode : Nat
  width : Nat
  modSlot : Nat
  scale : Nat
  clusterMask : Nat
  values : List (BitVec 64)
  deriving DecidableEq, Repr

/-- R64, R128: one stake of an image's stake table; `close` marks the close stake. -/
structure StakeDecl where
  stake : Nat
  remoteEn : Bool
  close : Bool
  deriving DecidableEq, Repr

/-- Table 6.3: a slice map entry (R118). -/
structure SliceEntry where
  coordFirst : Nat
  coordCount : Nat
  partCoords : Nat
  owner : Nat
  parcel : Nat
  parts : Nat
  limbFirst : Nat
  limbCount : Nat
  cls : Nat
  branch : Nat
  setSize : Nat
  mapRev : Nat
  reserved : Nat
  deriving DecidableEq, Repr

/-- Table 10.6: the trailer of a lot image (R236). -/
structure Trailer where
  magic : Nat
  version : Nat
  mode : Nat
  verifySlot : Nat
  digest : Digest
  reserved : Nat
  signature : Bytes
  deriving DecidableEq, Repr

/-- A lot image by its parts: graph, carry plan, ledger, swap map, stake table, modulus table, preloads,
slice map, bench slots, trailer. `resultConn` is the connection of its slice-result SEND (R297), `holdBytes`
the intake hold area (R122) and `ledgerExact` says that the entries fill the ledger's bytes exactly (R32). -/
structure LotImage where
  ledger : LedgerHeader
  entries : List LedgerEntry
  ledgerExact : Bool
  moduli : List Nat
  preloads : List Preload
  nodes : List Node
  stakes : List StakeDecl
  plan : List QueueProg
  swapMap : List Operand
  sliceMap : List SliceEntry
  benchSlots : List Nat
  conns : List Nat
  resultConn : Option Nat
  holdBytes : Nat
  trailer : Trailer
  deriving DecidableEq, Repr

/-- R202: the payload of a taken request: plain bytes, or for lot.load its 8 leading bytes and the image. -/
inductive Payload where
  | bytes (b : Bytes)
  | lot (head : Bytes) (img : LotImage)
  deriving DecidableEq, Repr

/-- Table 9.6: a request slot as the host wrote it, with the indirect payload that its descriptor names.
`readable` is false when the payload could not be read (ST_PAYLOAD). -/
structure Slot where
  opcode : Nat
  tag : Nat
  gen : Nat
  flags : Nat
  reserved : Nat
  body : Bytes
  sealTag : BitVec 128
  payload : Payload
  payloadTag : BitVec 128
  readable : Bool
  deriving DecidableEq, Repr

/-- Table 9.14: the reset events of the host port. -/
inductive ResetEvent where
  | perst | hotReset
  | flr (fn : Nat)
  | d3hot (fn : Nat)
  | vfEnableClear
  | numVfs (n : Nat)
  deriving DecidableEq, Repr

/-- Table 9.9: a bounce record as it lies in host memory (ciphertext payload and tag). -/
structure BounceRec where
  magic : Nat
  version : Nat
  channel : Nat
  status : Nat
  reserved : Nat
  seq : Nat
  payloadBytes : Nat
  user : Nat
  reservedTail : Nat
  payload : Bytes
  tag : BitVec 128
  deriving DecidableEq, Repr

/-- Table 8.3: a transport message: its header grain, by field, and its body bytes as sent.
`viaGlobal` says that it arrived on a global link. -/
structure Msg where
  kind : Nat
  enc : Bool
  signal : Bool
  arg : Nat
  bodyGrains : Nat
  dstModule : Nat
  srcModule : Nat
  conn : Nat
  slice : Nat
  connGen : Nat
  refusedN : Nat
  seq : Nat
  tag : BitVec 96
  body : Bytes
  viaGlobal : Bool
  deriving DecidableEq, Repr

/-- Table 3.2: the formats of a tile step. -/
inductive TileFormat where
  | residue | int16 | fp32 | bf16 | int8 | addPath
  deriving DecidableEq, Repr

/-- R51: where the input rows of a tile step come from. -/
inductive RowSource where
  | scratch (addr : Nat)
  | bench (bench addr : Nat)
  | leaf (addr : Nat)
  deriving DecidableEq, Repr

/-- R49: a tile step: `count` input rows against a weight set or the add path, into rows from `firstRow` with
row increment `inc`; `scale` is the step scale of R84 and `weights` the scratch address of its weight set. -/
structure TileStep where
  format : TileFormat
  weights : Nat
  source : RowSource
  count : Nat
  firstRow : Nat
  inc : Nat
  scale : Nat
  deriving DecidableEq, Repr

/-- Table 7.6: a MARKER grain; `arrivalPs` is where its carrying flit ended, on the receiver's chain timer,
counted in ps from the start of the receiver's chain. -/
structure MarkerGrain where
  stratum : Nat
  master : Nat
  chain : Nat
  offsetPs : Nat
  state : Nat
  arrivalPs : Nat
  deriving DecidableEq, Repr

/-- R323: where a management message came from. -/
inductive MgmtPath where
  | tls (session : Nat)
  | mctp
  deriving DecidableEq, Repr

/-- Table 15.1: a management request. -/
structure MgmtMsg where
  path : MgmtPath
  tag : Nat
  flags : Nat
  reserved : Nat
  body : Bytes
  deriving DecidableEq, Repr

/-- R233: who carries a chest update: a drawer function (the head of its taken queue), or management. -/
inductive UpdateSource where
  | drawer (fn : Nat)
  | mgmt (m : MgmtMsg)
  deriving DecidableEq, Repr

/-- R296, R259: what an uncorrectable cluster error was found in. -/
inductive ClusterErr where
  | bench (b : Nat)
  | trestle
  | scratch
  deriving DecidableEq, Repr

/-- R304: the fence that did not complete. -/
inductive FenceUnit where
  | context (parcel ctx cluster : Nat)
  | cluster (c : Nat)
  | parcel (p : Nat)
  | module
  deriving DecidableEq, Repr

/-- R320: a packet on the management port. -/
inductive EthPacket where
  | icmpEcho (data : Bytes)
  | neighbourSolicit (target : BitVec 128)
  | dhcpOffer (addr : BitVec 32)
  | raPrefix (addr : BitVec 128)
  | tcp6416
  | other
  deriving DecidableEq, Repr

/-- R321: what a TLS client offers. -/
structure TlsHello where
  tls13 : Bool
  aes256GcmSha384 : Bool
  groupOk : Bool
  p384Sha384 : Bool
  clientChain : Bytes
  chainSig : Bytes
  deriving DecidableEq, Repr

/-- R325, R327: an SMBus packet received as target. -/
structure SmbusPacket where
  src : Nat
  pecOk : Bool
  msgType : Nat
  data : Bytes
  deriving DecidableEq, Repr

/-- R261: an access on the hub's field debug port. -/
inductive DebugAccess where
  | readScratch (cluster addr : Nat)
  | readStake (cluster stake : Nat)
  | readControl (cluster row : Nat)
  | halt (cluster : Nat)
  | resume (cluster : Nat)
  deriving DecidableEq, Repr

/-- R331: the readings of the module's own sensors that a telemetry refresh takes. -/
structure Readings where
  inputMv : Nat
  inputMa : Nat
  powerMw : Nat
  junctionDc : List Nat
  dramDc : List Nat
  outletDc : Nat
  vrW : List Nat
  deriving DecidableEq, Repr

/-- The commands and events of the module: one constructor for each row of spec/opcode_table.json. In the operands, `fn` is a
PCIe function (0 is PF0, n is VFn), `p` a parcel, `k` a logical cluster of it, `node` a node index of the running image,
`q` a carry queue, `ctx` a local context, `link` a Traverse link, `conn` a connection ID. -/
inductive Instr where
  /-- R219. Drawer command module.info returns the module identity, variant, profile and unit counts. -/
  | moduleInfo (fn : Nat)
  /-- R284. Drawer command module.plat returns the plat record in force. -/
  | modulePlat (fn : Nat)
  /-- R218. PF0 names the host spill area; it is refused while any record is spilled. -/
  | spillMap (fn : Nat)
  /-- R196. PF0 sets the per-VF host shares; they apply to unopened parcels at the next chain boundary. -/
  | hostShares (fn : Nat)
  /-- R193. PF0 sets the fabric slice table; it applies to unopened parcel IDs at the next chain boundary. -/
  | fabricShares (fn : Nat)
  /-- R141. A long drawer command orders a full retraining of one link and is answered when training ends. -/
  | linkRetrain (fn : Nat)
  /-- R219. Drawer command link.status returns the state, width, peer and delay of all 48 links. -/
  | linkStatus (fn : Nat)
  /-- R249. PF0 opens a parcel on the named clusters and subchannels, after the carving checks. -/
  | parcelOpen (fn : Nat)
  /-- R256. A long command makes the parcel CLOSING and starts the stop, invalidation, key destruction and memory fill. -/
  | parcelClose (fn : Nat)
  /-- R219. Drawer command parcel.status returns the parcel state, contexts, shares and units. -/
  | parcelStatus (fn : Nat)
  /-- R209. A VF opens a session: the chest derives the session keys, and the response carries MODULE_PUB and a report. -/
  | sessionOpen (fn : Nat)
  /-- R237. Drawer command attest.report returns a signed attestation report bound to the nonce. -/
  | attestReport (fn : Nat)
  /-- R215. A VF attaches or reattaches its parcel with the token, and on first attach with the memory key. -/
  | parcelAttach (fn : Nat)
  /-- R211. A VF binds a host window and a bounce area with their stakes to the session. -/
  | bounceMap (fn : Nat)
  /-- R261. A VF sets the GRANT word, which takes effect at the next chain boundary. -/
  | debugConsent (fn : Nat)
  /-- R34. A VF loads a lot image into a context after the signature, format and ledger admission checks. -/
  | lotLoad (fn : Nat)
  /-- R251. A VF unloads a context that is not started, effective at the next chain boundary. -/
  | lotUnload (fn : Nat)
  /-- R251. A VF starts a loaded context with its LATE_LIMIT; it joins the rotation at the next chain boundary. -/
  | contextStart (fn : Nat)
  /-- R251. A VF stops a started context at the next chain boundary; held rows are invalidated and its round ends. -/
  | contextStop (fn : Nat)
  /-- R87. A VF sets the context's rounding seed, effective at the next chain boundary. -/
  | contextSeed (fn : Nat)
  /-- R219. Drawer command context.status returns the context state, counters and per-cluster status. -/
  | contextStatus (fn : Nat)
  /-- R116. A VF opens a round on a context with the round descriptor, after the format, map and state checks. -/
  | roundOpen (fn : Nat)
  /-- R119. A VF sends a map revision that grows a fold set; intake contexts apply it at the next chain boundary. -/
  | roundMap (fn : Nat)
  /-- R128. A VF closes a slice at a fold member; records published after acceptance are discarded. -/
  | roundClose (fn : Nat)
  /-- R178. A VF opens a connection, binds its leaf easement and begins sending OPEN. -/
  | connOpen (fn : Nat)
  /-- R182. A VF closes a connection: new sends stop and CLOSE follows once sent messages finish. -/
  | connClose (fn : Nat)
  /-- R219. Drawer command conn.status returns bytes 0-63 of the connection record. -/
  | connStatus (fn : Nat)
  /-- R188. A VF grants an easement at the lowest free index, with GEN raised; it takes effect at the next rod boundary. -/
  | easementGrant (fn : Nat)
  /-- R192. A long command revokes an easement at the next rod boundary and is answered with the drain record. -/
  | easementRevoke (fn : Nat)
  /-- R242. A VF obtains a key certificate for the sealed key or the unwrap key. -/
  | chestCertify (fn : Nat)
  /-- R233. An update message fills an allowed chest slot with a public key or a wrapped secret. -/
  | install (src : UpdateSource)
  /-- R233. An update message destroys an allowed filled chest slot. -/
  | destroy (src : UpdateSource)
  /-- R231. A signed update moves the life-cycle state through the fuses, destroying keys, then cold-resets. -/
  | lifecycle (src : UpdateSource)
  /-- R233. A signed update installs a new operator authority key in slot 10. -/
  | authority (src : UpdateSource)
  /-- R243. A tenant update installs the sealed-model key in parcel slot 6 and opens the model window. -/
  | modelKey (src : UpdateSource)
  /-- R245. An unsigned service request returns a fresh field-access challenge in DEPLOYED. -/
  | fieldChallenge (src : UpdateSource)
  /-- R245. A signed answer to a valid challenge moves the module to RETURNED. -/
  | fieldOpen (src : UpdateSource)
  /-- R201. Writing ENABLE = 1 opens the drawer and zeroes its ring indices, once drawers are offered. -/
  | drawerOpen (fn : Nat) (irqEn : Bool) (ringLog2 : Nat)
  /-- R201. Writing ENABLE = 0 closes the drawer, raises GEN, ends the session and forgets untaken slots. -/
  | drawerClose (fn : Nat) (irqEn : Bool) (ringLog2 : Nat)
  /-- R203. The host writes REQ_TAIL; the module reads and takes request slots in order, or sets CFG_ERR. -/
  | reqTailDoorbell (fn : Nat) (value : BitVec 32) (slots : List Slot)
  /-- R207. The host writes RESP_HEAD, freeing response room and re-arming the MSI-X message. -/
  | respHeadDoorbell (fn : Nat) (value : BitVec 32)
  /-- R198. A write to any other BAR0 register applies its field, or is ignored and sets CFG_ERR. -/
  | registerWrite (fn offset size : Nat) (value : BitVec 64)
  /-- R206. A response or event slot is written once there is ring room, followed by the MSI-X message. -/
  | responseWrite (fn : Nat)
  /-- R216. PERST#, hot reset, FLR, D3hot entry or a VF enable change closes the drawers in its scope. -/
  | functionReset (ev : ResetEvent)
  /-- R197. The PCIe link trains; below full rate the shares are scaled and EV_HOST_LINK is raised. -/
  | pcieLinkTrained (rateGt width : Nat)
  /-- R213. The host port takes an IN record, checks and decrypts it into the bounce area, and signals IN_READY. -/
  | bounceInRecord (vf : Nat) (r : BounceRec)
  /-- R213. The host port seals a ready OUT record, writes it to host memory, and signals OUT_FREE. -/
  | bounceOutRecord (vf : Nat)
  /-- R211. A later mapping takes effect at the first chain boundary with no record in transfer. -/
  | bounceMapEffect (vf : Nat)
  /-- R26. The chain timer opens chain n and the module runs the ordered boundary actions. -/
  | chainBoundary (late : List Nat) (mj : Nat) (idx : List (Nat × Nat × Nat))
  /-- R23. The chain timer begins the next rod, applying rod-scoped grants, revocations and link rod roles. -/
  | rodBoundary (idx : List (Nat × Nat × Nat))
  /-- R24. The last 128 cycles of a rod begin; engines start no new work and unfinished due work is stopped. -/
  | boundaryReserve (late : List Nat)
  /-- R28. At rod 3 of a span's last working chain, the outgoing context is saved and the incoming one restored. -/
  | contextSwap (p : Nat)
  /-- R251. A started context whose graph or carry plan is complete becomes finished at the end of the chain. -/
  | contextFinish (p ctx : Nat)
  /-- R302. A suspect's replay ends by a hang or its chain limit, and the next replay or the verdict follows. -/
  | hangReplayEnd (p : Nat) (hung : Bool)
  /-- R49. A tile step issues 1-64 input rows against a weight set or the add path into shelf rows. -/
  | tileStep (p k : Nat) (t : TileStep)
  /-- R50. A weight set loads into the shadow weights in 128 cycles. -/
  | weightLoad (p k addr : Nat)
  /-- R80. An output row lands in a shelf tile row and accumulates by the row's mode. -/
  | shelfWrite (p k : Nat)
  /-- R312. The die's spare finishes rerunning the step and the vote lands the result or faults a member. -/
  | pairVote (p k : Nat) (agree eq0 eq1 : Bool)
  /-- R83. A preload sets a row's control word and values once the row is free. -/
  | preload (p k : Nat) (pl : Preload)
  /-- R54. A drain reduces a row to canonical or raw form once the row is free, optionally resetting it. -/
  | drain (p k row : Nat) (raw reset : Bool) (dst : Nat)
  /-- R93. A node starts on a cluster once its predecessor has started and its wait is met. -/
  | nodeStart (p k node : Nat)
  /-- R93. A node's part on a cluster completes and its signal is applied. -/
  | nodeComplete (p k node : Nat)
  /-- R96. A standing FOLD node folds its slice map entry from the reading leaf. -/
  | fold (p k node : Nat)
  /-- R96. A leaf record is read and folded into tile rows, or discarded and counted by reason. -/
  | foldRecord (p k : Nat)
  /-- R99. The mask expander adds or subtracts seed-derived masks in named rows. -/
  | maskExpand (p k node : Nat)
  /-- R100. Forward negacyclic transform of each limb. -/
  | nttFwd (p k node : Nat)
  /-- R100. Inverse negacyclic transform of each limb. -/
  | nttInv (p k node : Nat)
  /-- R101. Switches a ciphertext to another key with the fused digit sequence. -/
  | keyswitch (p k node : Nat)
  /-- R103. Refreshes a one-limb ciphertext through a lookup table. -/
  | refreshLut (p k node : Nat)
  /-- R104. Clips an update to an L2 bound, or rejects it. -/
  | clipL2 (p k node : Nat)
  /-- R105. Accumulates sums and sums of squares into row pairs and drains them. -/
  | sumsq (p k node : Nat)
  /-- R105. Accumulates running means and variances, optionally merging clusters. -/
  | meanvar (p k node : Nat)
  /-- R106. Draws discrete-Gaussian noise into rows or scratch. -/
  | noiseGauss (p k node : Nat)
  /-- R108. Drains rows canonically, centres and converts them, and with RESET ends the fold. -/
  | decodeCenter (p k node : Nat)
  /-- R109. Applies a decayed step update to model weights. -/
  | applyStep (p k node : Nat)
  /-- R110. Multiplies A by B into shelf tile rows. -/
  | matmul (p k node : Nat)
  /-- R111. Reconstructs secrets from Shamir shares into seed entries. -/
  | seedRecover (p k node : Nat)
  /-- R112. Derives pairwise seeds by X25519 and HKDF into seed entries. -/
  | pairSeed (p k node : Nat)
  /-- R358. A bench pushes a carry descriptor into its cluster's queue before the next ROD_MARK. -/
  | descriptorPush (p k q : Nat) (d : Descr)
  /-- R58. A carry descriptor copies one row between spaces. -/
  | copy (p k q : Nat)
  /-- R58. A carry descriptor copies strided rows between spaces. -/
  | copy2d (p k q : Nat)
  /-- R58. A carry descriptor fills a destination with the 8-byte pattern. -/
  | fill (p k q : Nat)
  /-- R360. A carry descriptor sends data to the fabric as WRITE pieces or one LEAF message. -/
  | send (p k q : Nat)
  /-- R358. A queue passes the mark that ends one rod's due work. -/
  | rodMark (p k q : Nat)
  /-- R60. A descriptor's writes become visible, or a SEND is handed over, and its signal applies. -/
  | carryComplete (p k q i : Nat)
  /-- R65. A queue blocked on a stake resumes when its wait is met. -/
  | stakeWaitMet (p k q : Nat)
  /-- R68. A station writes an admitted LEAF record into the filling leaf and publishes its index entry. -/
  | leafDeliver (p k conn : Nat) (header data : Bytes)
  /-- R71. A held record is delivered after the swap that frees the leaf. -/
  | leafDeliveryResume (p k : Nat)
  /-- R121. The intake path checks a client fragment in order and holds or discards it. -/
  | clientFragment (p ctx : Nat) (frag : Bytes)
  /-- R122. The INTAKE_DEADLINE boundary drops incomplete clients and invalidates their held fragments. -/
  | intakeDeadline (p ctx : Nat)
  /-- R125. After every forward is visible, the intake sends its FINAL receipt. -/
  | finalReceipt (p ctx : Nat)
  /-- R125. The keep takes a receipt and fixes each client's first status. -/
  | receipt (p ctx : Nat) (msg : Bytes)
  /-- R128. After round.close, at the first boundary with no unconsumed pre-acceptance record, the close stake is signalled. -/
  | closeStakeSignal (p ctx : Nat)
  /-- R134. The keep takes a slice result and publishes or ends the round when all are in. -/
  | sliceResult (p ctx : Nat) (msg : Bytes)
  /-- R117. At CLOSE_DEADLINE every member ends an unpublished round with outcome 2. -/
  | closeDeadline (p ctx : Nat)
  /-- R138. Signal detected on a lane starts a full link training. -/
  | signalDetect (link : Nat)
  /-- R138. A training not UP within 250 ms is abandoned; after three the link is DOWN. -/
  | trainingTimeout (link : Nat)
  /-- R138. A DOWN link makes a new training attempt every 32,768 chains. -/
  | trainingRetry (link : Nat)
  /-- R139. A HELLO grain is checked against R19 and the survey; a mismatch makes the link MISWIRED. -/
  | hello (link module linkId width : Nat) (digest : BitVec 128)
  /-- R138. An ECHO grain is answered or used to measure the one-way delay. -/
  | echo (link : Nat) (reply : Bool) (sentPs turnPs nowPs : Nat)
  /-- R147. A received flit is decoded and checked, and accepted or discarded. -/
  | flit (link : Nat) (symbols : List (BitVec 10))
  /-- R148. A NAK grain makes the sender resume from the expected flit. -/
  | nak (link seq : Nat)
  /-- R148. The receiver repeats its NAK every 64 flit times until the flit arrives. -/
  | nakRepeat (link : Nat)
  /-- R148. An uncovered flit unacknowledged for 512 flit times is replayed. -/
  | replayTimeout (link : Nat)
  /-- R142. A lane's error ratio over 1,024 chains fails it and the link retrains. -/
  | laneFail (link lane : Nat)
  /-- R149. No flit accepted for 1,024 flit times puts the link in RELOCK. -/
  | flitLockLoss (link : Nat)
  /-- R149. A link still in RELOCK after one chain counts as not UP and its messages are resent by detour. -/
  | relockRouteLoss (link : Nat)
  /-- R149. Relock completes and the link returns to UP with replay. -/
  | relockDone (link : Nat)
  /-- R149. Relock not complete in 4 chains puts the link in TRAINING. -/
  | relockTimeout (link : Nat)
  /-- R153. A CREDIT grain grants a slice its grains for the next even rod. -/
  | credit (link first chain rod : Nat) (grants : List Nat)
  /-- R154. A MARKER grain sets the followed boundary; the timer slews or steps. -/
  | marker (link : Nat) (m : MarkerGrain)
  /-- R158. After waiting for the source boundary, the module adopts its chain number and raises EV_CHAIN_STEP. -/
  | chainStep (waitNs : Nat)
  /-- R157. 8 chains without a followable marker raise EV_MARKER_HOLDOVER. -/
  | markerHoldover
  /-- R157. After 1,024 chains of holdover the module free-runs and raises EV_MARKER_LOST. -/
  | markerLost
  /-- R156. An eligible module with no followable marker for 64 chains becomes system master. -/
  | masterTakeover
  /-- R187. A WRITE message is admitted, tag-checked and written, with its stake signal. -/
  | write (m : Msg)
  /-- R185. A READ_REQ is admitted and answered with READ_RESP at its turn. -/
  | readReq (m : Msg)
  /-- R124. A LEAF message is admitted against the bound leaf easement as a fold record. -/
  | leaf (m : Msg)
  /-- R185. A READ_RESP for an outstanding request lands in the requester's parcel and signals its stake. -/
  | readResp (m : Msg)
  /-- R185. A COMPLETE advances TX_DONE and signals COMPLETE_STAKE by the visible count. -/
  | complete (m : Msg)
  /-- R191. A REFUSE is matched to its connection and counted, with a resend after AR_FETCH. -/
  | refuse (m : Msg)
  /-- R179. An OPEN is matched to an OPENING connection and answered with OPEN_ACK. -/
  | msgOpen (m : Msg)
  /-- R180. An OPEN_ACK confirms the derived keys, moving the connection to OPEN or VERIFYING. -/
  | openAck (m : Msg)
  /-- R182. A CLOSE received moves the connection toward CLOSED. -/
  | msgClose (m : Msg)
  /-- R181. An ATTEST report is verified against EXPECT and the binding, setting VERIFIED. -/
  | attest (m : Msg)
  /-- R183. A held out-of-order message becomes visible once the messages before it are visible or refused. -/
  | messageVisible (conn : Nat)
  /-- R185. A message outstanding TIMEOUT_CHAINS without progress fails the connection. -/
  | connTimeout (conn : Nat)
  /-- R179. A refused OPEN is sent again every 64 chains. -/
  | openResend (conn : Nat)
  /-- R179. A connection OPENING for 1,024 chains fails with cause open timeout. -/
  | openTimeout (conn : Nat)
  /-- R177. A connection CLOSING for 64 chains becomes CLOSED. -/
  | closingTimeout (conn : Nat)
  /-- R172. A message refused with AR_FETCH is resent 2 chains after the refusal. -/
  | fetchResend (conn seq : Nat)
  /-- R171. A fetched spill record is checked and made resident, or the connection fails. -/
  | spillFetchDone (conn recConn recBootGen : Nat) (recCount : Nat) (recSealed : Bytes) (recTag : BitVec 128)
  /-- R192. The last admitted message under the old generation finishes and the revoke response is posted. -/
  | revokeDrainDone (ease ns : Nat)
  /-- R192. Messages unfinished 16 chains after the boundary are discarded with AR_REVOKED. -/
  | revokeDrainLimit (ease : Nat)
  /-- R256. The last line of the close fill is written; the parcel is CLOSED and its units freed. -/
  | closeFillDone (p : Nat)
  /-- R262. Snapshot records are complete; EV_SNAPSHOT is raised and the stores invalidated. -/
  | snapshotDone (p : Nat)
  /-- R296. A context fault halts its engines and fences its queues, stakes, held rows and round. -/
  | contextFault (p ctx cause : Nat)
  /-- R296. An uncorrectable bench, trestle, scratch or shelf error fences the cluster. -/
  | clusterError (cluster : Nat) (err : ClusterErr)
  /-- R259. An uncorrectable external memory read faults the reading context. -/
  | memPoison (p ctx : Nat)
  /-- R259. A subchannel failing training or its command path faults its parcel. -/
  | subchFail (subch : Nat)
  /-- R259. Corrections above 4,096 in 1,024 chains raise EV_SUBCH_DEGRADED and start migration in enduring. -/
  | subchDegraded (subch count : Nat)
  /-- R315. The last line is copied and the spare takes the degraded subchannel's place. -/
  | migrationDone (subch : Nat)
  /-- R9. An uncorrectable die-to-die link error raises a module fault. -/
  | d2dError
  /-- R304. A fence not complete in its time escalates to the next level. -/
  | fenceTimeout (unit : FenceUnit)
  /-- R305. At the chain boundary after the fault push, the module takes a reset that ends all its work. -/
  | moduleReset (hubOk : Bool)
  /-- R306. A mismatch in the active pair hands over to the standby, or raises FC_LOCKSTEP. -/
  | lockstepMismatch (pair : Nat)
  /-- R306. Ebxel missing its 4-chain watchdog raises FC_WATCHDOG. -/
  | watchdogMiss
  /-- R336. PWR_WARN# asserted starts power-fail handling. -/
  | pwrWarn (asserted : Bool)
  /-- R336. J1 below 40 V for 10 us starts power-fail handling. -/
  | inputUndervoltage (mv us : Nat)
  /-- R336. After 32 clear chains, working chains resume. -/
  | powerFailRecovered
  /-- R336. The store reaches its stop reserve; the module pushes FC_POWER_FAIL, saves the meter and powers down. -/
  | powerFailStop (storeMj : Nat)
  /-- R347. J1 above 62 V for 10 us opens the input switch as an input loss. -/
  | inputOvervoltage (mv us : Nat)
  /-- R341. PWR_CYCLE# held low for 10 ms opens the input switch. -/
  | pwrCycle (low : Bool) (ms : Nat)
  /-- R341. The input switch closes 2 s after release, with inrush limited, and the cold path starts. -/
  | inputSwitchClose (mv : Nat) (hubOk : Bool)
  /-- R350. PRESENT_J1 breaking opens the switch within 1 us and the module runs from the store. -/
  | presentJ1Break
  /-- R277. The input rises through 40 V and the cold path begins. -/
  | powerOn (mv : Nat) (hubOk : Bool)
  /-- R349. A rail not in regulation within 5 ms stops bring-up with FC_POWER_RAIL. -/
  | railFail (rail timeUs : Nat)
  /-- R335. A junction at 105 C or a regulator warning halves the clock from the next rod boundary. -/
  | throttleTrigger (die dc : Nat) (overcurrent : Bool)
  /-- R352. A junction at 115 C or DRAM at 100 C shuts the module down with FC_THERMAL. -/
  | thermalShutdown (isDram : Bool) (unit dc : Nat)
  /-- R352. A DRAM device at 95 C forces every chain idle from the next boundary. -/
  | thermalIdle (device dc : Nat)
  /-- R352. All devices below 90 C for 32 chains end the thermal idle. -/
  | thermalIdleClear
  /-- R351. An inlet outside 20-45 C, or a high outlet rise for 1,024 chains, raises EV_COOLANT. -/
  | coolantLimit (inletDc outletDc : Nat)
  /-- R344. A cable end drawing beyond its allowance has its supply cut and its link goes DOWN. -/
  | cableOverdraw (link : Nat)
  /-- R332. Once per 1,024 chains the inlet is read and the idle ratio recomputed. -/
  | inletReading (dc : Nat)
  /-- R331. The telemetry record is refreshed every 1,024 chains. -/
  | telemetryRefresh (r : Readings)
  /-- R334. In chain START_CHAIN - 1 a schedule entry is acknowledged and its ratio computed. -/
  | scheduleAck
  /-- R338. The meter counter is saved to boot flash every 32,768 chains. -/
  | meterSave
  /-- R331. Management reads the telemetry record. -/
  | mgmtTelemetry (m : MgmtMsg)
  /-- R267. Management reads both source estimate records. -/
  | mgmtEntropy (m : MgmtMsg)
  /-- R322. Management reads a parcel's per-rod ledger use under a PROFILE grant. -/
  | mgmtProfile (m : MgmtMsg)
  /-- R333. Management sets or clears the standing cap and is answered with the new ratio's first chain. -/
  | mgmtCap (m : MgmtMsg)
  /-- R334. Management replaces the unacknowledged schedule entries. -/
  | mgmtSchedule (m : MgmtMsg)
  /-- R338. Management reads meter records. -/
  | mgmtMeter (m : MgmtMsg)
  /-- R339. Erases the non-running firmware copy and opens staging. -/
  | fwBegin (m : MgmtMsg)
  /-- R339. Writes image bytes into the staged copy. -/
  | fwData (m : MgmtMsg)
  /-- R339. Verifies the staged copy and marks it valid, raising EV_FW_STAGED. -/
  | fwEnd (m : MgmtMsg)
  /-- R340. Raises the counter floor to the running copy's counter. -/
  | fwCommit (m : MgmtMsg)
  /-- R275. Stores a signed boot settings record for the next reset. -/
  | settingsWrite (m : MgmtMsg)
  /-- R289. Stores a signed survey, effective at the next boundary or reset. -/
  | surveyWrite (m : MgmtMsg)
  /-- R324. Installs the management TLS certificate chain. -/
  | tlsCert (m : MgmtMsg)
  /-- R277. Management orders a warm module reset after the response. -/
  | moduleResetWarm (m : MgmtMsg)
  /-- R277. Management orders a cold module reset after the response. -/
  | moduleResetCold (m : MgmtMsg)
  /-- R269. Management requests a hub DRBG reseed within one chain. -/
  | drbgReseed (m : MgmtMsg)
  /-- R268. In MANUFACTURED only, replaces the source output with a test pattern. -/
  | entropyPattern (m : MgmtMsg)
  /-- R141. Management orders a link retraining. -/
  | mgmtLinkRetrain (m : MgmtMsg)
  /-- R324. Management reads the status of all links. -/
  | mgmtLinkStatus (m : MgmtMsg)
  /-- R321. A TLS 1.3 handshake on port 6416 is accepted or refused. -/
  | tlsHandshake (h : TlsHello)
  /-- R320. A management Ethernet packet is answered (ICMP, ND, DHCP) or discarded. -/
  | ethPacket (pkt : EthPacket)
  /-- R325. MCTP control sets the module's endpoint ID. -/
  | setEndpointId (src eid : Nat)
  /-- R325. MCTP control returns the endpoint ID. -/
  | getEndpointId
  /-- R325. MCTP control returns the endpoint UUID. -/
  | getEndpointUuid
  /-- R325. MCTP control returns the supported versions. -/
  | getMctpVersionSupport (msgType : Nat)
  /-- R325. MCTP control returns the supported message types. -/
  | getMessageTypeSupport
  /-- R325. MCTP control returns vendor-defined message support. -/
  | getVendorMessageSupport (selector : Nat)
  /-- R325. Any other MCTP control command is answered with ERROR_UNSUPPORTED_CMD. -/
  | mctpUnsupportedCmd (cmd : Nat)
  /-- R326. SPDM GET_VERSION answered with version 1.2. -/
  | getVersion
  /-- R326. SPDM GET_CAPABILITIES answered with cert, challenge and signed measurement capability. -/
  | getCapabilities
  /-- R326. SPDM algorithm negotiation for P-384 and SHA-384. -/
  | negotiateAlgorithms (p384Sha384 : Bool)
  /-- R326. SPDM GET_DIGESTS returns certificate chain digests. -/
  | getDigests
  /-- R326. SPDM GET_CERTIFICATE returns slot 0 or slot 1 chains. -/
  | getCertificate (slot offset length : Nat)
  /-- R326. SPDM CHALLENGE signed by the named slot's leaf key. -/
  | challenge (slot : Nat) (nonce : BitVec 256)
  /-- R326. SPDM GET_MEASUREMENTS returns signed measurement blocks. -/
  | getMeasurements (index : Nat) (nonce : BitVec 256)
  /-- R326. Any other SPDM request is answered with UnsupportedRequest. -/
  | spdmUnsupportedRequest (code : Nat)
  /-- R328. SDA low with SCL high is cleared by up to nine clocks and a STOP. -/
  | smbusLineRecovery (highAfter : Option Nat)
  /-- R327. As target, the module releases the bus after SCL low 25 ms or 35 ms without an edge. -/
  | smbusTargetTimeout (sclLowUs noEdgeUs : Nat)
  /-- R329. Lines stuck low for 32,768 chains fence the SMBus port. -/
  | smbusFence (sdaLow : Bool) (chains : Nat)
  /-- R329. A periodic sample finding both lines high for 35 ms lifts the fence. -/
  | smbusUnfence (highUs : Nat)
  /-- R330. An unacknowledged packet is retried at 10 ms, then discarded with entry to no-partner. -/
  | smbusRetry (acked : Bool)
  /-- R330. In no-partner state one probe is sent per 32,768 chains. -/
  | smbusProbe (acked : Bool)
  /-- R327. A received SMBus packet is PEC-checked and passed to MCTP, ending no-partner. -/
  | smbusPacket (pkt : SmbusPacket)
  /-- R266. A source health-test failure marks it failed and switches to the fallback. -/
  | healthTestFail (primary rct : Bool)
  /-- R266. Every 32,768 chains the failed primary is retested and reselected if it passes. -/
  | primaryRetest (pass : Bool)
  /-- R269. The hub DRBG reseeds every 1,024 chains or at 2^20 requests. -/
  | hubReseed (ok : Bool)
  /-- R270. A cluster noise generator reseeds from the hub every 1,024 chains. -/
  | clusterGeneratorReseed (p k : Nat) (ok : Bool)
  /-- R245. A challenge expires 67,108,864 chains after issue. -/
  | fieldChallengeExpiry
  /-- R277. Ebxel starts and the chain timer free-runs from chain 0. -/
  | ebxelStart
  /-- R280. A wave of clusters wakes at its interval. -/
  | waveWake (wave : Nat)
  /-- R285. A wave's cold tests finish; failed units go to state 2 and WAVES advances. -/
  | waveTestDone (wave : Nat) (failed : List Nat) (failedBenches : List (Nat × Nat))
  /-- R278. A memory device finishes training, test and fill. -/
  | deviceReady (device : Nat) (failed : List Nat)
  /-- R282. With EARLY set, drawers and the early parcel are offered. -/
  | earlyService
  /-- R290. At settlement or after SURVEY_WAIT, topology agreement is judged. -/
  | topologyJudge
  /-- R195. The host sets VF Enable or raises NumVFs, and the VFs so enabled become present with their own BAR0 and drawer. -/
  | vfEnable (n : Nat)
  /-- R138. A link training ends with lanes locked, equalizer settled, deskew done and the width chosen, so the link can become UP or DEGRADED at the next boundary and a pending link.retrain is answered. -/
  | trainingComplete (link : Nat) (good : BitVec 4)
  /-- R347. After an overvoltage opening, J1 falls below 60 V and the input switch closes again. -/
  | overvoltageRecovery (mv : Nat)
  /-- R327. As SMBus controller, the module abandons a transfer once SCL has been held low for 35 ms in all, then recovers the lines and retries. -/
  | transferAbandon (lowMs : Nat)
  /-- R265. A noise source finishes its 4,096-bit start-up test and is put in use, or marked failed. -/
  | startUpTestEnd (primary pass : Bool)
  /-- R231. Factory fuse programming moves the module from BLANK to MANUFACTURED and generates the UDS from the live entropy source. -/
  | factoryFuseProgramming
  /-- R349. A compute die's core rail is brought up in its turn, 2 ms after the previous one, and the die's stations begin training. -/
  | diePowerUp (die : Nat)
  /-- R261. An access on the hub's field debug port reads or halts units, and reaches a parcel only while that port is open and the parcel has granted FIELD_PORT. -/
  | fieldDebugAccess (a : DebugAccess)
  deriving DecidableEq, Repr

end Sys2Proof
end

