-- ==== Sys2Proof/Machine/Bits.lean ====
section
/-! DEFINITION. Byte strings, little-endian fields, finite maps and the link check codes. -/

namespace Sys2Proof.Machine

/-- The low `n` bytes of a number, lowest first (R5). -/
def le : Nat → Nat → Bytes
  | 0, _ => []
  | n + 1, v => BitVec.ofNat 8 v :: le n (v / 256)

/-- The number that bytes spell, lowest first (R5). -/
def leNat : Bytes → Nat
  | [] => 0
  | b :: r => b.toNat + 256 * leNat r

/-- The number that bytes spell, highest first (R228, R233). -/
def beNat (b : Bytes) : Nat := leNat b.reverse

/-- Fields one after another. -/
def cat (l : List Bytes) : Bytes := l.flatten

/-- `n` bytes from offset `off`. -/
def cut (off n : Nat) (b : Bytes) : Bytes := (b.drop off).take n

/-- The little-endian field of `n` bytes at offset `off`. -/
def fld (off n : Nat) (b : Bytes) : Nat := leNat (cut off n b)

/-- `n` zero bytes. -/
def zeros (n : Nat) : Bytes := List.replicate n 0

/-- Every byte is zero. -/
def allZero (b : Bytes) : Bool := b.all (· == 0)

/-- Bytes cut or zero-padded to exactly `n`. -/
def padTo (n : Nat) (b : Bytes) : Bytes := (b ++ zeros (n - b.length)).take n

/-- The ASCII bytes of a text. -/
def ascii (t : String) : Bytes := t.toList.map fun c => BitVec.ofNat 8 c.toNat

/-- Bit `i` of a number. -/
def bit (i v : Nat) : Bool := v.testBit i

/-- The bits [hi:lo] of a number. -/
def bits (hi lo v : Nat) : Nat := v / 2 ^ lo % 2 ^ (hi + 1 - lo)

/-- 1 for true. -/
def b2n (b : Bool) : Nat := if b then 1 else 0

/-- The quotient rounded up. -/
def ceilDiv (a b : Nat) : Nat := (a + b - 1) / b

/-- A bit mask of the listed positions. -/
def maskOf (l : List Nat) : Nat := l.foldl (fun m i => m ||| 2 ^ i) 0

/-- The positions below `n` whose bits are set, ascending. -/
def bitsOf (n v : Nat) : List Nat := (List.range n).filter fun i => v.testBit i

/-- A power of two. -/
def isPow2 (n : Nat) : Bool := n != 0 && n &&& (n - 1) == 0

/-- The words of `w` bytes that bytes spell; `fuel` words at most. -/
def wordsOf (w : Nat) : Nat → Bytes → List Nat
  | 0, _ => []
  | _ + 1, [] => []
  | n + 1, b => leNat (b.take w) :: wordsOf w n (b.drop w)

/-- The bytes of a list of words of `w` bytes. -/
def bytesOf (w : Nat) (l : List Nat) : Bytes := l.flatMap (le w)

/-- Chunks of `w` items; `fuel` chunks at most. -/
def chunks {α : Type} (w : Nat) : Nat → List α → List (List α)
  | 0, _ => []
  | _ + 1, [] => []
  | n + 1, l => l.take w :: chunks w n (l.drop w)

/-- A two's complement value of `w` bits. -/
def sgn (w v : Nat) : Int := if 2 ^ (w - 1) ≤ v % 2 ^ w then (v % 2 ^ w : Nat) - (2 ^ w : Nat) else (v % 2 ^ w : Nat)

/-- The low `w` bits of an integer. -/
def trunc (w : Nat) (x : Int) : Nat := (x % ((2 ^ w : Nat) : Int)).toNat

/-- An integer held within bounds. -/
def clampInt (lo hi x : Int) : Int := if x < lo then lo else if hi < x then hi else x

/-- Add `x` to place `i` of a list of counts. -/
def addAt (i x : Nat) (l : List Nat) : List Nat := l.set i (l.getD i 0 + x)

/-! Finite maps: pairs with strictly rising keys. -/

/-- What the map holds at a key. -/
def tget {α : Type} (k : Nat) : Tbl α → Option α
  | [] => none
  | (j, v) :: r => if j = k then some v else tget k r

/-- The map with a value at a key. -/
def tset {α : Type} (k : Nat) (v : α) : Tbl α → Tbl α
  | [] => [(k, v)]
  | (j, w) :: r => if k < j then (k, v) :: (j, w) :: r else if k = j then (k, v) :: r else (j, w) :: tset k v r

/-- The map without a key. -/
def tdel {α : Type} (k : Nat) : Tbl α → Tbl α
  | [] => []
  | (j, w) :: r => if j = k then r else (j, w) :: tdel k r

/-- Keys rise strictly. -/
def rising {α : Type} : Tbl α → Bool
  | [] => true
  | [_] => true
  | (j, _) :: (k, w) :: r => decide (j < k) && rising ((k, w) :: r)

/-! Memories. -/

/-- A memory is in its canonical form: rising addresses, and, where an unlisted byte reads as zero, no zero byte listed. -/
def Memory.wf (zeroDefault : Bool) (m : Memory) : Bool :=
  rising m && (!zeroDefault || m.all fun c => c.2 != 0)

/-- Write one byte into a memory whose unlisted bytes read as zero. -/
def Memory.put0 (a : Nat) (b : Byte) (m : Memory) : Memory := if b = 0 then tdel a m else tset a b m

/-- Read one byte of a memory whose unlisted bytes read as zero. -/
def Memory.get0 (a : Nat) (m : Memory) : Byte := (tget a m).getD 0

/-- Write bytes from an address into a memory whose unlisted bytes read as zero. -/
def Memory.write0 : Nat → Bytes → Memory → Memory
  | _, [], m => m
  | a, b :: r, m => Memory.write0 (a + 1) r (Memory.put0 a b m)

/-- Read `n` bytes of such a memory. -/
def Memory.read0 (a n : Nat) (m : Memory) : Bytes := (List.range n).map fun i => Memory.get0 (a + i) m

/-- Write bytes from an address into a memory whose unlisted bytes have not been written. -/
def Memory.write : Nat → Bytes → Memory → Memory
  | _, [], m => m
  | a, b :: r, m => Memory.write (a + 1) r (tset a b m)

/-! Check codes. -/

/-- One bit step of CRC-32C, reflected (R120). -/
def crc32cBit : Nat → Nat → Nat
  | 0, c => c
  | n + 1, c => crc32cBit n (if c % 2 = 1 then (c / 2) ^^^ 0x82F63B78 else c / 2)

/-- CRC-32C of bytes with the usual initial value and final inversion (R120). -/
def crc32c (b : Bytes) : Nat := (b.foldl (fun c x => crc32cBit 8 (c ^^^ x.toNat)) 0xFFFFFFFF) ^^^ 0xFFFFFFFF

end Sys2Proof.Machine
end

