-- ==== Sys2Proof/Machine/Flit.lean ====
section
/-! DEFINITION. The flit codec of a link: RS(544,514) over GF(2^10), the scrambler, `CRC12` and the layout of Table 7.3 (R143 to R147). The field
polynomial x^10 + x^3 + 1, the generator with roots alpha^0 to alpha^29 and the order of the coefficients, first symbol highest, are those of
IEEE 802.3 Clause 91, which Table 7.3 names (PRESUMED, log entry 22). -/

namespace Sys2Proof.Machine

/-! GF(2^10). -/

/-- Double an element. -/
def gfDouble (a : Nat) : Nat := if 1024 ≤ 2 * a then (2 * a) ^^^ 0x409 else 2 * a
/-- Product: `n` bits of `b` from the lowest. -/
def gfMulAux : Nat → Nat → Nat → Nat
  | 0, _, _ => 0
  | n + 1, a, b => (if b % 2 = 1 then a else 0) ^^^ gfMulAux n (gfDouble a) (b / 2)
/-- Product of two elements. -/
def gfMul (a b : Nat) : Nat := gfMulAux 10 a b
/-- Power by squaring over `n` bits of the exponent. -/
def gfPowAux : Nat → Nat → Nat → Nat
  | 0, _, _ => 1
  | n + 1, a, e => gfMul (if e % 2 = 1 then a else 1) (gfPowAux n (gfMul a a) (e / 2))
/-- Power of an element; exponents count modulo 1,023. -/
def gfPow (a e : Nat) : Nat := gfPowAux 10 a (e % 1023)
/-- Inverse of a nonzero element. -/
def gfInv (a : Nat) : Nat := gfPow a 1022
/-- alpha^i. -/
def gfAlpha (i : Nat) : Nat := gfPow 2 i

/-! Polynomials with the lowest coefficient first. -/

/-- Sum. -/
def polyAdd : List Nat → List Nat → List Nat
  | [], b => b
  | a, [] => a
  | x :: a, y :: b => (x ^^^ y) :: polyAdd a b
/-- Product with an element. -/
def polyScale (c : Nat) (a : List Nat) : List Nat := a.map (gfMul c)
/-- Product. -/
def polyMul : List Nat → List Nat → List Nat
  | [], _ => []
  | x :: a, b => polyAdd (polyScale x b) (0 :: polyMul a b)
/-- Value at an element. -/
def polyEval (x : Nat) (a : List Nat) : Nat := a.foldr (fun c v => c ^^^ gfMul v x) 0
/-- Formal derivative. -/
def polyDeriv (a : List Nat) : List Nat := (a.drop 1).mapIdx fun i c => if i % 2 = 0 then c else 0

/-! Decoding (R147). -/

/-- Syndrome `i` of a received word, first symbol highest. -/
def syndrome (w : List Nat) (i : Nat) : Nat := w.foldl (fun v c => gfMul v (gfAlpha i) ^^^ c) 0

/-- State of the Berlekamp-Massey iteration: locator, previous locator, length, gap and previous discrepancy. -/
structure Massey where
  c : List Nat
  b : List Nat
  l : Nat
  m : Nat
  d : Nat
  deriving DecidableEq, Repr

/-- One step of the iteration for syndrome `n`. -/
def masseyStep (s : List Nat) (x : Massey) (n : Nat) : Massey :=
  let d := (List.range (x.l + 1)).foldl (fun v i => v ^^^ gfMul (x.c.getD i 0) (s.getD (n - i) 0)) 0
  if d = 0 then { x with m := x.m + 1 }
  else
    let c := polyAdd x.c (List.replicate x.m 0 ++ polyScale (gfMul d (gfInv x.d)) x.b)
    if 2 * x.l ≤ n then { c := c, b := x.c, l := n + 1 - x.l, m := 1, d := d } else { x with c := c, m := x.m + 1 }

/-- The error locator of 30 syndromes, with its length. -/
def locator (s : List Nat) : List Nat × Nat :=
  let x := (List.range 30).foldl (masseyStep s) { c := [1], b := [1], l := 0, m := 1, d := 1 }
  (x.c, x.l)

/-- The codeword within 15 symbol errors of a received word of 544 symbols, and the places that were wrong; none where the decoder cannot
correct it. -/
def rsDecode (w : List Nat) : Option (List Nat × List Nat) :=
  let s := (List.range 30).map (syndrome w)
  if s.all (· == 0) then some (w, [])
  else
    let (c, l) := locator s
    let places := (List.range 544).filter fun j => polyEval (gfPow (gfInv 2) (543 - j)) c == 0
    if l ≤ 15 && places.length == l then
      let omega := (polyMul s c).take 30
      let fix := w.mapIdx fun j v =>
        if places.contains j then
          let x := gfAlpha (543 - j)
          v ^^^ gfMul x (gfMul (polyEval (gfInv x) omega) (gfInv (polyEval (gfInv x) (polyDeriv c))))
        else v
      if (List.range 30).all fun i => syndrome fix i == 0 then some (fix, places) else none
    else none

/-! Scrambler and check (R144, R145). -/

/-- The bits of a list of 10-bit symbols, first symbol first, least significant first. -/
def symbolBits (w : List Nat) : List Bool := w.flatMap fun v => (List.range 10).map v.testBit

/-- Descramble with 1 + x^39 + x^58: each received bit is added to those 39 and 58 before it. The register's bit i is the bit received i + 1
ago. -/
def descramble : List Bool → BitVec 58 → List Bool × BitVec 58
  | [], r => ([], r)
  | b :: l, r =>
    let rest := descramble l ((r <<< 1) ||| BitVec.ofNat 58 (b2n b))
    ((b ^^ r.getLsbD 38 ^^ r.getLsbD 57) :: rest.1, rest.2)

/-- The number that bits spell, lowest first. -/
def bitsNat (l : List Bool) : Nat := l.foldr (fun b v => b2n b + 2 * v) 0

/-- One byte into the CRC with generator x^12 + x^11 + x^3 + x^2 + x + 1, highest bit first. -/
def crc12Byte (c : Nat) (b : Byte) : Nat :=
  (List.range 8).foldl (fun c i =>
    let top := (c.testBit 11) ^^ (b.toNat.testBit (7 - i))
    let c := c * 2 % 4096
    if top then c ^^^ 0x80F else c) c

/-- `CRC12` of a flit (R145): le32 of its sequence number, 640 grain bytes, the `ACK` byte. -/
def crc12 (seq : Nat) (grainBytes : Bytes) (ack : Nat) : Nat := (le 4 seq ++ grainBytes ++ le 1 ack).foldl crc12Byte 0xFFF

/-- The message of a flit (Table 7.3). -/
structure FlitMsg where
  grains : List (BitVec 256)
  crc : Nat
  ack : Nat
  deriving DecidableEq, Repr

/-- Read the 5,140 descrambled message bits. -/
def parseFlit (l : List Bool) : FlitMsg :=
  let v := bitsNat l
  { grains := (List.range 20).map fun i => BitVec.ofNat 256 (v / 2 ^ (256 * i))
    crc := v / 2 ^ 5120 % 4096
    ack := v / 2 ^ 5132 % 256 }

/-- The bytes of a list of grains. -/
def grainBytes (g : List (BitVec 256)) : Bytes := g.flatMap fun x => le 32 x.toNat

/-- The check of a flit holds for a sequence value. -/
def FlitMsg.checks (seq : Nat) (f : FlitMsg) : Bool := f.crc == crc12 seq (grainBytes f.grains) f.ack

/-- A null flit: all grains idle, computed with sequence value 0x8000_0000 (R145). -/
def FlitMsg.isNull (f : FlitMsg) : Bool := f.grains.all (· == 0) && f.checks 0x80000000

end Sys2Proof.Machine
end

