-- ==== Sys2Proof/Config.lean ====
section
/-! DEFINITION. What the spec leaves to a named standard, to the part or to chance: functions and values without a body. No proof
can see a value of them, so every statement holds whatever they are (log entries 3 to 6). -/

namespace Sys2Proof.Config

/-- SHA-384 (named by R215, R238). -/
opaque sha384 : Bytes → Digest

/-- HKDF-SHA-384 (named by R209, R228): input key, salt, info and length. -/
opaque hkdf384 : Bytes → Bytes → Bytes → Nat → Bytes

/-- X25519 (named by R209, R112): private key and public key, with the clamping of RFC 7748. -/
opaque x25519 : Key → BitVec 256 → BitVec 256

/-- The public half of an X25519 private key (R209). -/
opaque x25519Pub : Key → BitVec 256

/-- AES-256 of one block (R87, R257); byte 0 of the block is bits [7:0]. -/
opaque aes256 : Key → BitVec 128 → BitVec 128

/-- AES-256-GCM encryption (R210): key, nonce, additional data, plaintext. -/
opaque gcmEncrypt : Key → Bytes → Bytes → Bytes → Bytes

/-- AES-256-GCM decryption of a ciphertext (R210): key, nonce, additional data, ciphertext. -/
opaque gcmDecrypt : Key → Bytes → Bytes → Bytes → Bytes

/-- The AES-256-GCM tag (R210): key, nonce, additional data, ciphertext. -/
opaque gcmTag : Key → Bytes → Bytes → Bytes → BitVec 128

/-- AES-256-XTS decryption of one 16-byte block (R253, R244): 64-byte key, data unit, block of the unit, block. -/
opaque xtsDecrypt : BitVec 512 → Nat → Nat → Bytes → Bytes

/-- AES-256-XTS encryption of one 16-byte block (R253, R244). -/
opaque xtsEncrypt : BitVec 512 → Nat → Nat → Bytes → Bytes

/-- The uncompressed public half (97 bytes) of a P-384 private key (R229). -/
opaque p384Pub : BitVec 384 → Bytes

/-- ECDSA P-384 with SHA-384 (R237): private key, message and the number of the draw; 96 bytes r, s. -/
opaque ecdsaSign : BitVec 384 → Bytes → Nat → Bytes

/-- ECDSA P-384 verification (R234, R236): public key, message, signature. -/
opaque ecdsaVerify : Bytes → Bytes → Bytes → Bool

/-- The DER certificate chain that a key pair's slot reports (R229): which chain (0 alias, 1 fabric), identity digest, firmware
digest, firmware counter, life cycle and module ID. -/
opaque certChain : Nat → Digest → Digest → Nat → Nat → Nat → Bytes

/-- R239: an ATTEST report's certificate chain ends in the Vutawen root and names this firmware digest. -/
opaque chainVerifies : Bytes → Digest → Bool

/-- R239: the AliasID public key that a report's chain certifies. -/
opaque chainAliasPub : Bytes → Bytes

/-- R321: a TLS client certificate chain verifies to an operator root. -/
opaque tlsChainVerifies : Bytes → Bytes → Bool

/-- R236: the bytes of a lot image before its trailer. The spec gives every part of an image its layout and its order, but not the
container that joins them; the command carries the parts. -/
opaque imageBytes : LotImage → Bytes

/-- A fresh value, by the number of the draw: what the DRBG gives (R269), 1,024 bits wide. -/
opaque freeValue : Nat → BitVec 1024

/-- R271: one discrete-Gaussian sample: its parameter (sigma × 2^32) and the number of the draw. -/
opaque gaussSample : Nat → Nat → Int

/-- R256: what a byte of external memory reads as that nothing has written since its parcel opened: the fill decrypted under
the parcel's memory key; by key, parcel and offset. -/
opaque unwrittenByte : BitVec 512 → Nat → Nat → Byte

/-- R103: the ciphertext of `REFRESH_LUT`, whose refreshing steps the spec does not give (only what its coefficients encode):
the node's parameters and the words of its operands. -/
opaque refreshLut : NodeParams → List Nat → Bytes → Bytes → Bytes → Bytes

/-- R339: a firmware image verifies under a public key; the spec does not give the image's layout. -/
opaque fwVerifies : Bytes → Bytes → Bool

/-- R339: the anti-rollback counter that a firmware image carries. -/
opaque fwCounter : Bytes → Nat

/-- R219: the version that a firmware image carries. -/
opaque fwVersion : Bytes → Nat

/-- R324: the leaf public key of a list of DER certificates. -/
opaque certLeafKey : List Bytes → Bytes

/-- R324: the last certificate of a list is signed by a key. -/
opaque certSignedBy : List Bytes → Bytes → Bool

/-- R325: the endpoint UUID that the manufacturer gives the module. -/
opaque endpointUuid : BitVec 128

/-- R320: the link-layer address that the manufacturer gives the management port. -/
opaque macAddress : BitVec 48

/-- R320: the port's IPv6 link-local address, whose form the spec does not give. -/
opaque linkLocal : BitVec 128

/-- R325: the version word that Get MCTP Version Support reports for a message type whose version the spec does not state. -/
opaque mctpVersion : Nat → BitVec 32

/-- R325: the vendor's command set number in Get Vendor Defined Message Support. -/
opaque vendorSet : BitVec 16

/-- R326: the timing exponent that the SPDM capabilities carry. -/
opaque spdmTiming : Byte

/-- R326: the transfer and message sizes that the SPDM capabilities carry. -/
opaque spdmSizes : BitVec 64

/-- R323: Vutawen's IANA enterprise number. -/
opaque enterpriseNumber : Nat

/-- The 28 data bytes of an event record (R205): its chapter names the fields and their order, not their sizes. -/
opaque eventBytes : Nat → List Nat → Bytes

end Sys2Proof.Config
end

