-- ==== Sys2Proof/Machine/State.lean ====
section
/-! DEFINITION. The state of the module as plain data: every register, buffer, counter, mode and pin that the spec gives it,
and the queue of waiting commands. Each field's docstring names its rule. -/

namespace Sys2Proof.Machine

/-- Why the machine stops. -/
inductive Fault where
  /-- Raised by `execInputOvervoltage` when J1 rises above 80 V for more than 100 us: Table 16.3
  (R347) says that damage is possible and no behaviour is defined. Safe: the model stops. -/
  | surgeUndefined
  deriving DecidableEq, Repr

/-- Why a command is refused by the model. -/
inductive Refusal where
  /-- A command that has no meaning in the model yet; raised by an arm of `exec` only. Safe: the model stops. -/
  | notModelled (mnemonic : String)
  deriving DecidableEq, Repr

/-- What the module sends outside: to the host, to a peer, to management, on a pin. -/
inductive Output where
  /-- R205: a response or event slot written at ring index `idx` (modulo the ring size) with its PHASE and SEAL. -/
  | ringSlot (fn idx opcode tag gen status flags : Nat) (body : Bytes) (sealTag : BitVec 128)
  /-- R205: a response payload written at RESP_ADDR. -/
  | respPayload (fn : Nat) (body : Bytes) (tag : BitVec 128)
  /-- R207: the function's MSI-X message. -/
  | msix (fn : Nat)
  /-- R213: the index block as written by the module. -/
  | indexBlock (vf inHead outTail chain : Nat)
  /-- R213: an OUT record written to host memory. -/
  | outRecord (vf : Nat) (r : BounceRec)
  /-- R160, R173: a transport message handed to the station of the link on which its route goes. -/
  | message (link : Nat) (m : Msg)
  /-- R170: a spill record written to host memory. -/
  | spillRecord (conn bootGen count : Nat) (sealed : Bytes) (tag : BitVec 128)
  /-- R146: a link grain sent on a link, by kind and bytes 1-31. -/
  | grain (link kind : Nat) (bytes : Bytes)
  /-- R148: a flit sent (again) on a link, by sequence number. -/
  | flitSent (link seq : Nat)
  /-- R323: a management response. -/
  | mgmtResponse (path : MgmtPath) (opcode tag status : Nat) (body : Bytes)
  /-- R323: an event to management. -/
  | mgmtEvent (code chain : Nat) (data : List Nat)
  /-- R125, R133, R127: a transfer that the firmware makes for a round: destination module and parcel, and its bytes. -/
  | roundTransfer (module parcel : Nat) (bytes : Bytes)
  /-- R126, R134: bytes that a keep context publishes through its bounce area. -/
  | published (parcel : Nat) (bytes : Bytes)
  /-- R325, R326: an MCTP control or SPDM answer. -/
  | mctp (msgType : Nat) (bytes : Bytes)
  /-- R328, R330: what the module does on the SMBus as controller. -/
  | smbus (what : Nat) (bytes : Bytes)
  /-- R320: a packet sent on the management port. -/
  | eth (what : Nat) (bytes : Bytes)
  /-- R321: a TLS handshake accepted (with its session) or refused. -/
  | tls (session : Option Nat)
  /-- R261: what the field debug port drives out. -/
  | debugPort (value : Nat)
  deriving DecidableEq, Repr

/-- The empty message, used where a field needs one. -/
def Msg.zero : Msg :=
  ⟨0, false, false, 0, 0, 0, 0, 0, 0, 0, 0, 0, 0, [], false⟩

/-- A response or event slot as the module formed it (Table 9.7); the seal is formed when it is written. -/
structure RespSlot where
  /-- R205: OPCODE, echoed; 0xFFFF for an event. -/
  opcode : Nat := 0
  /-- R205: CMD_TAG. -/
  tag : Nat := 0
  /-- R205: generation under which the command was taken. -/
  gen : Nat := 0
  /-- R205: ST_ code. -/
  status : Nat := 0
  /-- R210: the request was sealed. -/
  sealed : Bool := false
  /-- R205: FLAGS bit 2. -/
  indirect : Bool := false
  /-- R210: request index i, for the nonce of a response payload. -/
  reqIdx : Nat := 0
  /-- R205: response bytes (BODY, or the payload at RESP_ADDR). -/
  body : Bytes := []
  deriving DecidableEq, Repr

/-- `RespSlot` at reset. -/
def RespSlot.reset : RespSlot := {}

/-- An event: code, chain and the data its chapter gives, in that order (R205). -/
structure Event where
  /-- R357: EV_ code. -/
  code : Nat := 0
  /-- R205: chain. -/
  chain : Nat := 0
  /-- R205: CMD_TAG: the function's count of events raised, modulo 2^16. -/
  tag : Nat := 0
  /-- R205: event data fields in order. -/
  data : List Nat := []
  deriving DecidableEq, Repr

/-- `Event` at reset. -/
def Event.reset : Event := {}

/-- A taken request that has not been executed yet (R203). -/
structure Taken where
  /-- R202: OPCODE. -/
  opcode : Nat := 0
  /-- R202: CMD_TAG. -/
  tag : Nat := 0
  /-- R202: GEN. -/
  gen : Nat := 0
  /-- R210: REQ_HEAD when the slot was taken. -/
  idx : Nat := 0
  /-- R202: FLAGS bit 0. -/
  sealed : Bool := false
  /-- R202: FLAGS bit 1. -/
  indirect : Bool := false
  /-- R202: RESP_MAX of the payload descriptor. -/
  respMax : Nat := 0
  /-- R202: payload after decryption. -/
  payload : Payload := .bytes []
  deriving DecidableEq, Repr

/-- `Taken` at reset. -/
def Taken.reset : Taken := {}

/-- R211: one bounce mapping of a VF. -/
structure BounceMap where
  /-- R211: HOST_BASE. -/
  hostBase : Nat := 0
  /-- R211: AREA_OFF. -/
  areaOff : Nat := 0
  /-- R211: IN_SLOTS. -/
  inSlots : Nat := 1
  /-- R211: OUT_SLOTS. -/
  outSlots : Nat := 1
  /-- R211: STRIDE. -/
  stride : Nat := 4096
  /-- R211: CONTEXT. -/
  context : Nat := 0
  /-- R211: IN_READY stake. -/
  inReady : Nat := 0
  /-- R211: IN_FREE stake. -/
  inFree : Nat := 0
  /-- R211: OUT_READY stake. -/
  outReady : Nat := 0
  /-- R211: OUT_FREE stake. -/
  outFree : Nat := 0
  deriving DecidableEq, Repr

/-- `BounceMap` at reset. -/
def BounceMap.reset : BounceMap := {}

/-- The bounce channels of one VF (R211 to R213). -/
structure Bounce where
  /-- R211, R217: mapping in force for the BOUNCE space (last made; stays after its session). -/
  map : Option BounceMap := none
  /-- R213, R217: the mapping belongs to the session now open, so the channels move. -/
  live : Bool := false
  /-- R211: later mapping waiting for a chain boundary. -/
  next : Option BounceMap := none
  /-- R213: IN_HEAD (SEQ of next IN record). -/
  inHead : Nat := 0
  /-- R213: IN_TAIL as last read from the index block. -/
  inTail : Nat := 0
  /-- R213: OUT_TAIL. -/
  outTail : Nat := 0
  /-- R213: OUT_HEAD as last read. -/
  outHead : Nat := 0
  /-- R213: IN_HEAD at the mapping. -/
  inBase : Nat := 0
  /-- R213: VALUE of IN_FREE at the mapping. -/
  freeBase : BitVec 32 := 0
  /-- R213: OUT_TAIL at the mapping. -/
  outBase : Nat := 0
  /-- R213: VALUE of OUT_READY at the mapping. -/
  readyBase : BitVec 32 := 0
  /-- R213: IN records discarded. -/
  inBad : Nat := 0
  /-- R213: OUT records refused. -/
  outBad : Nat := 0
  /-- R213: IN discards already reported. -/
  inBadSeen : Nat := 0
  /-- R213: OUT refusals already reported. -/
  outBadSeen : Nat := 0
  /-- R213: a record was moved in this rod (index block is written at its end). -/
  moved : Bool := false
  deriving DecidableEq, Repr

/-- `Bounce` at reset. -/
def Bounce.reset : Bounce := {}

/-- One PCIe function with its BAR0 registers and drawer (Tables 9.2 to 9.4). -/
structure Fn where
  /-- R195: function enabled (PF0 always, VFs through SR-IOV). -/
  present : Bool := false
  /-- R198: REQ_BASE. -/
  reqBase : BitVec 64 := 0
  /-- R198: RESP_BASE. -/
  respBase : BitVec 64 := 0
  /-- R198: low half of REQ_BASE written and waiting for the high half. -/
  reqLow : BitVec 32 := 0
  /-- R198: low half of RESP_BASE written and waiting. -/
  respLow : BitVec 32 := 0
  /-- R198: DRAWER_CTRL.ENABLE. -/
  enable : Bool := false
  /-- R198: DRAWER_CTRL.IRQ_EN. -/
  irqEn : Bool := false
  /-- R198: DRAWER_CTRL.RING_LOG2 (reset 6). -/
  ringLog2 : Nat := 6
  /-- R198, R201: DRAWER_STATUS.GEN, 16 bits (reset 1). -/
  gen : Nat := 1
  /-- R198: DRAWER_STATUS.ACTIVE. -/
  active : Bool := false
  /-- R198: DRAWER_STATUS.CFG_ERR. -/
  cfgErr : Bool := false
  /-- R198, R209: DRAWER_STATUS.SESSION. -/
  session : Bool := false
  /-- R198: REQ_TAIL. -/
  reqTail : BitVec 32 := 0
  /-- R198: REQ_HEAD. -/
  reqHead : BitVec 32 := 0
  /-- R198: RESP_HEAD. -/
  respHead : BitVec 32 := 0
  /-- R198: RESP_TAIL. -/
  respTail : BitVec 32 := 0
  /-- R199: LAST_FAULT. -/
  lastFault : BitVec 32 := 0
  /-- R199: LAST_FAULT_CHAIN. -/
  lastFaultChain : Nat := 0
  /-- R198: MSI-X table entry, message address. -/
  msixAddr : BitVec 64 := 0
  /-- R198: MSI-X table entry, message data. -/
  msixData : BitVec 32 := 0
  /-- R198: MSI-X vector mask (PCIe resets it set). -/
  msixMask : Bool := true
  /-- R198: MSI-X PBA bit. -/
  msixPend : Bool := false
  /-- R207: message sent since RESP_HEAD was last written. -/
  msixSent : Bool := false
  /-- R201: ENABLE write held until drawers are offered. -/
  openHeld : Bool := false
  /-- R203: commands taken and not yet answered. -/
  unanswered : Nat := 0
  /-- R203: request slots written by the host and not yet taken. -/
  unread : List Slot := []
  /-- R203: taken commands not yet executed, in order. -/
  taken : List Taken := []
  /-- R206: responses waiting for ring room. -/
  responses : List RespSlot := []
  /-- R206: queued events, at most 256. -/
  events : List Event := []
  /-- R205: events raised, modulo 2^16 in CMD_TAG. -/
  eventCount : Nat := 0
  /-- R211: bounce channels. -/
  bounce : Bounce := Bounce.reset
  /-- R196: H_n in bytes per rod and direction (default 55,000; PF0 has none). -/
  hostShare : Nat := 55000
  deriving DecidableEq, Repr

/-- `Fn` at reset. -/
def Fn.reset : Fn := {}

/-- The PCIe port as a whole (R195 to R197, R218). -/
structure HostPort where
  /-- R218: PCIe link up. -/
  linkUp : Bool := false
  /-- R197: trained rate in GT/s. -/
  rateGt : Nat := 64
  /-- R197: trained width. -/
  width : Nat := 16
  /-- R197: set shares return at the next chain boundary. -/
  scaledNext : Bool := false
  /-- R197: shares and allowances scaled to the trained link. -/
  scaled : Bool := false
  /-- R195: NumVFs. -/
  numVfs : Nat := 0
  /-- R196: host share table waiting for the chain boundary. -/
  pendShares : Option (List Nat) := none
  /-- R218: base of the mapped spill area. -/
  spillBase : Option Nat := none
  /-- R170: IDs of spilled connection records. -/
  spilled : List Nat := []
  /-- R170: SPILL_COUNT, module-wide, 64 bits. -/
  spillCount : Nat := 0
  /-- R171: low 32 bits of SPILL_COUNT kept per connection ID. -/
  spillKept : Tbl Nat := []
  deriving DecidableEq, Repr

/-- `HostPort` at reset. -/
def HostPort.reset : HostPort := {}

/-- What an intake holds of one client (R121, R122). -/
structure Client where
  /-- R121: FRAG_COUNT of the first accepted fragment. -/
  fragCount : Nat := 0
  /-- R121: FRAG_INDEX values held. -/
  held : List Nat := []
  /-- R122: held fragments: limb, first coordinate, payload. -/
  frags : List (Nat × Nat × Bytes) := []
  /-- R122: every fragment has passed. -/
  complete : Bool := false
  /-- R119: map revision under which forwarding began. -/
  mapRev : Nat := 0
  /-- R125: status reported for the client. -/
  status : Option Nat := none
  deriving DecidableEq, Repr

/-- `Client` at reset. -/
def Client.reset : Client := {}

/-- Table 6.2: the round descriptor. -/
structure RoundDesc where
  /-- R116: ROUND_ID. -/
  roundId : Nat := 0
  /-- R116: MODE. -/
  mode : Nat := 0
  /-- R116: ROLE. -/
  role : Nat := 0
  /-- R116: MAP_COUNT. -/
  mapCount : Nat := 0
  /-- R116: CLIENTS. -/
  clients : Nat := 0
  /-- R116: THRESHOLD. -/
  threshold : Nat := 0
  /-- R116: MEMBER_COUNT. -/
  memberCount : Nat := 0
  /-- R116: INTAKE_DEADLINE. -/
  intakeDeadline : Nat := 0
  /-- R116: CLOSE_DEADLINE. -/
  closeDeadline : Nat := 0
  /-- R116: MIN_SURVIVORS. -/
  minSurvivors : Nat := 0
  /-- R116: BACKLOG_CHAINS. -/
  backlogChains : Nat := 0
  /-- R116: reserved bytes, summed. -/
  reserved : Nat := 0
  /-- R116: ROUND_TAG. -/
  roundTag : BitVec 128 := 0
  /-- R118: slice map entries. -/
  maps : List SliceEntry := []
  /-- R116: member entries, 32 bits each. -/
  members : List Nat := []
  deriving DecidableEq, Repr

/-- `RoundDesc` at reset. -/
def RoundDesc.reset : RoundDesc := {}

/-- R133: a slice result as the keep took it. -/
structure SliceResult where
  /-- R133: root's module ID. -/
  module : Nat := 0
  /-- R133: LIMB_FIRST. -/
  limbFirst : Nat := 0
  /-- R133: LIMB_COUNT. -/
  limbCount : Nat := 0
  /-- R133: COORD_FIRST. -/
  coordFirst : Nat := 0
  /-- R133: COORD_COUNT. -/
  coordCount : Nat := 0
  /-- R133: FORMAT. -/
  format : Nat := 0
  /-- R133: Q_SCALE. -/
  qScale : Nat := 0
  /-- R133: CONTRIB. -/
  contrib : Nat := 0
  /-- R133: the slice's words. -/
  words : Bytes := []
  deriving DecidableEq, Repr

/-- `SliceResult` at reset. -/
def SliceResult.reset : SliceResult := {}

/-- The open (or ended) round of a context. -/
structure Round where
  /-- R116: round descriptor with the map in force. -/
  desc : RoundDesc := RoundDesc.reset
  /-- R119: accepted map revision waiting for the chain boundary. -/
  pendMaps : Option (List SliceEntry) := none
  /-- R117: outcome code once ended. -/
  outcome : Option Nat := none
  /-- R122: intake: per-client state. -/
  clients : Tbl Client := []
  /-- R125: intake: client statuses not yet in a receipt. -/
  newStatus : List (Nat × Nat) := []
  /-- R125: intake: clients that a receipt has listed. -/
  listed : List Nat := []
  /-- R122: intake: fold records of complete clients not yet sent: module, parcel, logical cluster, record. -/
  forwardQ : List (Nat × Nat × Nat × Bytes) := []
  /-- R122: intake: the INTAKE_DEADLINE boundary has passed. -/
  deadlinePassed : Bool := false
  /-- R125: intake: FINAL receipt sent. -/
  finalSent : Bool := false
  /-- R20: intake: fragments that no map covers. -/
  unmappedCount : Nat := 0
  /-- R125: keep: first status of each client. -/
  statuses : Tbl Nat := []
  /-- R126: keep: intake modules whose FINAL receipt has come. -/
  finals : List Nat := []
  /-- R126: keep: roster closed. -/
  rosterClosed : Bool := false
  /-- R134: keep: slice results that have arrived. -/
  results : List SliceResult := []
  /-- R128: fold: chain in which round.close was accepted. -/
  closeTaken : Option Nat := none
  /-- R128: fold: close stake signalled. -/
  closeSignalled : Bool := false
  deriving DecidableEq, Repr

/-- `Round` at reset. -/
def Round.reset : Round := {}

/-- The progress of one node on one logical cluster (R93). -/
structure NodeRun where
  /-- R93: 0 not started, 1 started, 2 work done, 3 complete. -/
  state : Nat := 0
  /-- R96: FOLD: records folded. -/
  folded : Nat := 0
  deriving DecidableEq, Repr

/-- `NodeRun` at reset. -/
def NodeRun.reset : NodeRun := {}

/-- One carry queue of one logical cluster (R58 to R61); kept with the context (R63). -/
structure Queue where
  /-- R358: the queue program of the image. -/
  descs : List Descr := []
  /-- R60: next descriptor of the program. -/
  pos : Nat := 0
  /-- R358: ROD_MARKs passed since the context started. -/
  mark : Nat := 0
  /-- R358: descriptors pushed by benches, before the next mark. -/
  pushed : List Descr := []
  /-- R60: started descriptors that have not completed. -/
  inflight : List Descr := []
  /-- R360: bytes of the head SEND handed to the station. -/
  sent : Nat := 0
  deriving DecidableEq, Repr

/-- `Queue` at reset. -/
def Queue.reset : Queue := {}

/-- What a context has on one of its logical clusters. -/
structure CtxCluster where
  /-- R93: node progress, in graph order. -/
  nodes : List NodeRun := []
  /-- R58: the four image queues. -/
  queues : List Queue := []
  /-- R359: declared preloads have run. -/
  preloaded : Bool := false
  /-- R81: SAT_COUNT. -/
  satCount : Nat := 0
  /-- R124: CONTRIB. -/
  contrib : Nat := 0
  /-- R270: noise generator instantiated for this context, with the chain it was last seeded. -/
  generator : Option Nat := none
  deriving DecidableEq, Repr

/-- `CtxCluster` at reset. -/
def CtxCluster.reset : CtxCluster := {}

/-- One of the eight contexts of a parcel (R251, Table 9.12). -/
structure Context where
  /-- R251: 0 empty, 1 loaded, 2 started, 3 finished, 4 stopped, 5 faulted. -/
  state : Nat := 0
  /-- R34: loaded lot image. -/
  image : Option LotImage := none
  /-- R237: IMAGE_DIGEST. -/
  imageDigest : Digest := 0
  /-- R87: SEED_SET. -/
  seedSet : Bool := false
  /-- R87: rounding seed (32 zero bytes until set). -/
  seed : Key := 0
  /-- R251: seed taking effect at the next chain boundary. -/
  pendSeed : Option Key := none
  /-- R41: LATE_LIMIT (default 64). -/
  lateLimit : Nat := 64
  /-- R121: intake: discards by the nine reasons of Table 6.5. -/
  intakeCounts : List Nat := [0,0,0,0,0,0,0,0,0]
  /-- R121: intake: counts already reported. -/
  intakeSeen : List Nat := [0,0,0,0,0,0,0,0,0]
  /-- R41: LATE_RUN, consecutive cause-0 overruns. -/
  lateRun : Nat := 0
  /-- R41: overruns in the current run of overrun chains. -/
  runLen : Nat := 0
  /-- R41: cause of the run's last overrun. -/
  runCause : Nat := 0
  /-- R41: an overrun has happened in this chain. -/
  lateNow : Bool := false
  /-- R41: OVERRUNS. -/
  overruns : Nat := 0
  /-- R85: REPEATS. -/
  repeats : Nat := 0
  /-- R295: FAULT word. -/
  fault : BitVec 32 := 0
  /-- R114: DISCARDS, eight counts. -/
  discards : List Nat := [0,0,0,0,0,0,0,0]
  /-- R114: DISCARDS already reported. -/
  discardsSeen : List Nat := [0,0,0,0,0,0,0,0]
  /-- R251: start waiting for the chain boundary. -/
  pendStart : Bool := false
  /-- R251: stop waiting for the chain boundary. -/
  pendStop : Bool := false
  /-- R251: unload waiting for the chain boundary. -/
  pendUnload : Bool := false
  /-- R251: finishes at the end of the chain. -/
  pendFinish : Bool := false
  /-- R304: faulted: release and invalidation wait for the chain boundary. -/
  pendRelease : Bool := false
  /-- R40: chain of the pattern. -/
  patternPos : Nat := 0
  /-- R40: rod whose work is due next. -/
  rodNext : Nat := 0
  /-- R40: stopped for the rest of this chain. -/
  rodStopped : Bool := false
  /-- R93: per logical cluster. -/
  clusters : List CtxCluster := []
  /-- R116: round of the context. -/
  round : Option Round := none
  /-- R300: orphan candidates of the last check: queue and stake. -/
  blockedOn : List (Nat × Nat) := []
  /-- R63, R302: engine state at the last span start. -/
  atStart : List CtxCluster := []
  /-- R63, R302: pattern position at the last span start. -/
  posStart : Nat := 0
  /-- R63, R302: rod due at the last span start. -/
  rodStart : Nat := 0
  /-- R302: logical stakes and their values at the last span start. -/
  stakesStart : List (Nat × BitVec 32) := []
  /-- R303: this span folded into held rows, consumed leaf records, or sent. -/
  lostWork : Bool := false
  /-- R252: bytes saved per logical cluster at swap-out. -/
  saved : List (Nat × Bytes) := []
  deriving DecidableEq, Repr

/-- `Context` at reset. -/
def Context.reset : Context := {}

/-- R262: a snapshot in progress. -/
structure Snapshot where
  /-- R262: context. -/
  context : Nat := 0
  /-- R262: chain of the stop or fault. -/
  chain : Nat := 0
  /-- R262: CAUSE of Table 11.7. -/
  cause : Nat := 0
  deriving DecidableEq, Repr

/-- `Snapshot` at reset. -/
def Snapshot.reset : Snapshot := {}

/-- R302: a hang replay in progress. -/
structure Replay where
  /-- R302: suspects in ascending local ID. -/
  suspects : List Nat := []
  /-- R302: suspects not yet replayed; the head is being replayed. -/
  pending : List Nat := []
  /-- R303: suspects whose replay hung. -/
  guilty : List Nat := []
  /-- R301: the blocked context. -/
  blocked : Nat := 0
  /-- R303: involved engines, one bit each. -/
  engines : Nat := 0
  /-- R302: chain in which the replay now running began. -/
  started : Nat := 0
  /-- R303: the blocked context's span cannot be redone. -/
  lost : Bool := false
  /-- R302: station signals held during the replay: logical stake and amount. -/
  signals : List (Nat × Nat) := []
  deriving DecidableEq, Repr

/-- `Replay` at reset. -/
def Replay.reset : Replay := {}

/-- One of the 16 parcels (R249 to R256, R214). -/
structure Parcel where
  /-- R214: 0 CLOSED, 1 OPEN, 2 ATTACHED, 3 DETACHED, 4 CLOSING. -/
  state : Nat := 0
  /-- R249: PAIRED. -/
  paired : Bool := false
  /-- R249: physical clusters in ascending ID at open; a spare keeps the logical index. -/
  clusters : List Nat := []
  /-- R249: subchannels in ascending ID. -/
  subchs : List Nat := []
  /-- R215: OWNER_DIGEST. -/
  ownerDigest : Digest := 0
  /-- R196: host share granted at open. -/
  hostShare : Nat := 0
  /-- R193: S_p granted at open, grains. -/
  fabricShare : Nat := 0
  /-- R251: contexts 0 to 7. -/
  contexts : List Context := List.replicate 8 Context.reset
  /-- R27: context that runs this chain. -/
  running : Option Nat := none
  /-- R27: context that ran last. -/
  lastRan : Nat := 7
  /-- R27: chains of the running span so far. -/
  spanDone : Nat := 0
  /-- R28: the span has ended and a swap waits for a working chain. -/
  swapDue : Bool := false
  /-- R28: context restored for the next chain. -/
  swapTo : Option Nat := none
  /-- R28, R29: when rod 3 began, a swap or a restore was due in it. -/
  swapReady : Bool := false
  /-- R29: rods 0 to 2 of this chain idle for the parcel. -/
  idleRods : Bool := false
  /-- R250, R256: external memory by parcel offset; unlisted = not written since open. -/
  mem : Memory := []
  /-- R215: first attach done. -/
  everAttached : Bool := false
  /-- R234: counter of authority 0. -/
  tenantCounter : Nat := 0
  /-- R261: GRANT word in force (reset 0). -/
  grant : BitVec 32 := 0
  /-- R261: GRANT waiting for the chain boundary. -/
  pendGrant : Option (BitVec 32) := none
  /-- R215: session ended: DETACHED at the next chain boundary, with the cause that EV_PARCEL_STATE will carry. -/
  pendDetach : Option Nat := none
  /-- R283: the early parcel. -/
  early : Bool := false
  /-- R299: refusal period after a parcel fault. -/
  refusing : Bool := false
  /-- R256: steps 1 and 2 of the close have run. -/
  closeStopped : Bool := false
  /-- R256: the 16 slots have been destroyed. -/
  keysGone : Bool := false
  /-- R256: fill key of the close. -/
  closeKey : Option Key := none
  /-- R256: working chains of fill still to run. -/
  fillLeft : Nat := 0
  /-- R256: the parcel.close to answer: function and request. -/
  fillReq : Option (Nat × Taken) := none
  /-- R262: snapshot in progress. -/
  snap : Option Snapshot := none
  /-- R302: hang replay in progress. -/
  replay : Option Replay := none
  /-- R303: chain and suspects of the last hang that was not reproduced. -/
  lastHang : Option (Nat × List Nat) := none
  /-- R244: model window, BASE and SIZE. -/
  window : Option (Nat × Nat) := none
  /-- R244: writes discarded in the dead window. -/
  windowDiscards : Nat := 0
  /-- R237: SEALED_PUB. -/
  sealedPub : BitVec 256 := 0
  /-- R240: measurement digest at the last chain boundary. -/
  measDigest : Digest := 0
  deriving DecidableEq, Repr

/-- `Parcel` at reset. -/
def Parcel.reset : Parcel := {}

/-- One shelf tile row (R52, Table 3.3). -/
structure Row where
  /-- R52: control word (reset 0). -/
  ctrl : BitVec 32 := 0
  /-- R52: 128 accumulators (stale row reads zero). -/
  acc : List (BitVec 64) := List.replicate 128 0
  /-- R86: MEANVAR: u32 count, kept with the even row. -/
  count : Nat := 0
  deriving DecidableEq, Repr

/-- `Row` at reset. -/
def Row.reset : Row := {}

/-- Table 3.7 (R64). -/
structure Stake where
  /-- R64: VALUE (reset 0). -/
  value : BitVec 32 := 0
  /-- R64: OWNER. -/
  owner : Nat := 0
  /-- R64: REMOTE_EN. -/
  remoteEn : Bool := false
  deriving DecidableEq, Repr

/-- `Stake` at reset. -/
def Stake.reset : Stake := {}

/-- A record in a leaf with its index entry (R68, R124). -/
structure LeafRec where
  /-- R124: 32-byte fold record header. -/
  header : Bytes := []
  /-- R68: record data. -/
  data : Bytes := []
  /-- R128: chain in which the index entry was published. -/
  chain : Nat := 0
  /-- R128: published after round.close was accepted. -/
  afterClose : Bool := false
  /-- R68: first data granule of the record. -/
  gran : Nat := 0
  /-- R69: consumed by a reader. -/
  used : Bool := false
  deriving DecidableEq, Repr

/-- `LeafRec` at reset. -/
def LeafRec.reset : LeafRec := {}

/-- One leaf: published entries in publication order (R68, R69). -/
structure Leaf where
  /-- R69: published records, in publication order. -/
  recs : List LeafRec := []
  /-- R68: data granules used (of 8,192). -/
  granules : Nat := 0
  /-- R68: index entries used (of 8,192). -/
  entries : Nat := 0
  deriving DecidableEq, Repr

/-- `Leaf` at reset. -/
def Leaf.reset : Leaf := {}

/-- An output row in flight to the shelf (R49, R55). -/
structure ShelfWrite where
  /-- R49: target tile row. -/
  row : Nat := 0
  /-- R80: addend per column before the row's mode is applied. -/
  values : List Int := []
  /-- R82: column sums of a floating step. -/
  fp : List (BitVec 32) := []
  /-- R84: step scale. -/
  scale : Nat := 0
  /-- R80: 0 trestle, 1 add path, 2 mask subtract, 3 mask add, 4 noise. -/
  kind : Nat := 0
  /-- R56: acting context. -/
  ctx : Nat := 0
  deriving DecidableEq, Repr

/-- `ShelfWrite` at reset. -/
def ShelfWrite.reset : ShelfWrite := {}

/-- One physical cluster (Table 3.1). -/
structure Cluster where
  /-- R280: wave has woken it. -/
  awake : Bool := false
  /-- R296: clock-gated and cut from its die network. -/
  fenced : Bool := false
  /-- R304: power-gated. -/
  gated : Bool := false
  /-- R261: halted through the field debug port. -/
  halted : Bool := false
  /-- R48: 2 MiB scratch; unlisted reads zero. -/
  scratch : Memory := []
  /-- R47: bench stores by bench number; unlisted reads zero. -/
  benches : Tbl Memory := []
  /-- R52: tile rows 0-255; unlisted reads as an empty row. -/
  rows : Tbl Row := []
  /-- R81: saturation map. -/
  satMap : BitVec 256 := 0
  /-- R81: OWNER of each marked row when it saturated, for the owning context's status. -/
  satOwner : Tbl Nat := []
  /-- R70: LEAF_HOLDS. -/
  leafHolds : Nat := 0
  /-- R70: boundaries held in the current run. -/
  holdRun : Nat := 0
  /-- R53: modulus table. -/
  moduli : List Nat := []
  /-- R64: allocated local stakes 0-127. -/
  stakes : Tbl Stake := []
  /-- R68: leaf 0 and leaf 1. -/
  leaves : List Leaf := [Leaf.reset, Leaf.reset]
  /-- R70: which leaf is filling. -/
  filling : Nat := 0
  /-- R302: records that the replay now running has read without consuming them. -/
  replayReads : Nat := 0
  /-- R71: records that stations hold for room: connection, header, data. -/
  heldRecs : List (Nat × Bytes × Bytes) := []
  /-- R50: scratch address of the active weight set. -/
  weights : Option Nat := none
  /-- R50: active weights. -/
  active : Bytes := []
  /-- R50: scratch address of the shadow weight set. -/
  shadow : Option Nat := none
  /-- R50: shadow weights. -/
  shadowW : Bytes := []
  /-- R49: output rows issued and not landed. -/
  inflight : List ShelfWrite := []
  /-- R312: pair waits for a vote. -/
  pairStall : Bool := false
  /-- R254: current epoch of the bench stores. -/
  benchEpoch : Nat := 1
  /-- R254: current epoch of the scratch. -/
  scratchEpoch : Nat := 1
  /-- R254: current epoch of the leaves. -/
  leafEpoch : Nat := 1
  /-- R298: faulted since its parcel opened. -/
  errored : Bool := false
  /-- R298: the fault was FC_BENCH: the bench that failed. -/
  badBench : Option Nat := none
  deriving DecidableEq, Repr

/-- `Cluster` at reset. -/
def Cluster.reset : Cluster := {}

/-- A grain that a station sends, with the message it belongs to (R146, R164). -/
structure TxGrain where
  /-- R146: the grain. -/
  grain : BitVec 256 := 0
  /-- R164: the message of which it is a grain; none for a link grain. -/
  msg : Option Msg := none
  deriving DecidableEq, Repr

/-- `TxGrain` at reset. -/
def TxGrain.reset : TxGrain := {}

/-- A sequenced flit that no ACK covers yet (R148). -/
structure LinkTx where
  /-- R145: sequence number. -/
  seq : Nat := 0
  /-- R143: its grains. -/
  grains : List TxGrain := []
  deriving DecidableEq, Repr

/-- `LinkTx` at reset. -/
def LinkTx.reset : LinkTx := {}

/-- A message in the send buffer of a station (R151). -/
structure SendItem where
  /-- R151: the message. -/
  msg : Msg := Msg.zero
  /-- R150: grains not yet sent. -/
  left : List (BitVec 256) := []
  deriving DecidableEq, Repr

/-- `SendItem` at reset. -/
def SendItem.reset : SendItem := {}

/-- One Traverse link with its station (R136 to R166). -/
structure Link where
  /-- R140: 0 TRAINING, 1 UP, 2 RELOCK, 3 DEGRADED, 4 MISWIRED, 5 DOWN. -/
  state : Nat := 5
  /-- R142: lanes in use: 4, 2, 1 or 0. -/
  width : Nat := 0
  /-- R142: failed lanes. -/
  lanesFailed : BitVec 4 := 0
  /-- R344: CABLE_PRESENT. -/
  cable : Bool := true
  /-- R344: cable supply on. -/
  supply : Bool := true
  /-- R138: failed trainings in a row. -/
  attempts : Nat := 0
  /-- R138: chain of the last training attempt. -/
  trainChain : Nat := 0
  /-- R138: training complete, UP or DEGRADED at the next chain boundary. -/
  trained : Bool := false
  /-- R139: identity checked. -/
  helloOk : Bool := false
  /-- R219: PEER_MODULE. -/
  peer : Nat := 0
  /-- R139: partner's link ID. -/
  peerLink : Nat := 0
  /-- R138: one-way delay in ps. -/
  delayPs : Nat := 0
  /-- R138: ECHO exchanges done in this training. -/
  echoes : Nat := 0
  /-- R138: least round trip less turnaround, in ps. -/
  minRtt : Nat := 0
  /-- R149: chain in which RELOCK was entered. -/
  relockChain : Nat := 0
  /-- R149: a chain of RELOCK has passed: not UP for routing. -/
  routeLost : Bool := false
  /-- R145: next flit sequence number expected. -/
  rxNext : Nat := 0
  /-- R145: next flit sequence number to send. -/
  txNext : Nat := 0
  /-- R148: sent flits not covered by an ACK. -/
  window : List LinkTx := []
  /-- R148: grains waiting for room in the window. -/
  txQueue : List TxGrain := []
  /-- R151: messages in the send buffer, oldest first. -/
  sendBuf : List SendItem := []
  /-- R144: receive descrambler state. -/
  scrambler : BitVec 58 := 0
  /-- R148: discards since the last accepted flit: NAK outstanding. -/
  nakPend : Bool := false
  /-- R165: NAKs sent in the current burst. -/
  naks : Nat := 0
  /-- R165: flits discarded in the current burst. -/
  discarded : Nat := 0
  /-- R165: replays in the current burst. -/
  replays : Nat := 0
  /-- R165: the burst's errors were common to all lanes. -/
  allLanes : Bool := true
  /-- R146: unknown link grains counted. -/
  unknownGrains : Nat := 0
  /-- R146: grains accepted and not yet consumed. -/
  rxGrains : List (BitVec 256) := []
  /-- R153: grains granted by the peer per slice, for the granted rod. -/
  grants : List Nat := List.replicate 16 0
  /-- R153: chain of the grant. -/
  grantChain : Nat := 0
  /-- R153: rod of the grant. -/
  grantRod : Nat := 0
  /-- R155: last MARKER received. -/
  markerSeen : Option MarkerGrain := none
  /-- R155: chain in which it was received. -/
  markerChain : Nat := 0
  /-- R165: chain of the last report per event kind. -/
  lastReport : Tbl Nat := []
  /-- R165: suppressed occurrences per event kind. -/
  suppressed : Tbl Nat := []
  /-- R289: HELLO to be sent in the next rod 3. -/
  helloDue : Bool := false
  deriving DecidableEq, Repr

/-- `Link` at reset. -/
def Link.reset : Link := {}

/-- A sequenced message sent and not finished (R184, R185). -/
structure Outst where
  /-- R185: the message as sent. -/
  msg : Msg := Msg.zero
  /-- R185: chain in which it was sent. -/
  sentChain : Nat := 0
  /-- R172: consecutive AR_FETCH refusals. -/
  fetchRefusals : Nat := 0
  /-- R172: chain of the last AR_FETCH refusal, resend due. -/
  fetchChain : Option Nat := none
  /-- R174: READ_REQ: context, stake and amount signalled when the data lands. -/
  stake : Option (Nat × Nat × Nat) := none
  /-- R174: READ_REQ: RESP_SPACE. -/
  respSpace : Nat := 0
  /-- R174: READ_REQ: RESP_ADDR. -/
  respAddr : Nat := 0
  /-- R174: READ_REQ: LENGTH. -/
  respLen : Nat := 0
  /-- R174: READ_REQ: logical cluster for a SCRATCH response. -/
  respCluster : Nat := 0
  /-- R185: a COMPLETE has covered it. -/
  covered : Bool := false
  deriving DecidableEq, Repr

/-- `Outst` at reset. -/
def Outst.reset : Outst := {}

/-- An admitted message that is not visible yet (R183), or a consumed number. -/
structure HeldMsg where
  /-- R183: sequence number. -/
  seq : Nat := 0
  /-- R183: the message in clear; none for a consumed (refused) number. -/
  msg : Option Msg := none
  /-- R192: easement that admitted it. -/
  ease : Nat := 0
  /-- R192: generation under which it was admitted. -/
  easeGen : Nat := 0
  /-- R188, R192: base of the window when it was admitted. -/
  base : Nat := 0
  /-- R187, R192: context of the easement when it was admitted. -/
  context : Nat := 0
  deriving DecidableEq, Repr

/-- `HeldMsg` at reset. -/
def HeldMsg.reset : HeldMsg := {}

/-- Connection state (Table 8.1) with what the hub keeps beside it. -/
structure Conn where
  /-- R168: GEN. -/
  gen : Nat := 0
  /-- R177: 1 OPENING to 6 CLOSED. -/
  state : Nat := 6
  /-- R168: FLAGS bit 0. -/
  encrypt : Bool := false
  /-- R168: FLAGS bit 1. -/
  attested : Bool := false
  /-- R168: FLAGS bit 3. -/
  verified : Bool := false
  /-- R168: PEER_MODULE. -/
  peerModule : Nat := 0
  /-- R168: PEER_PARCEL. -/
  peerParcel : Nat := 0
  /-- R168: PEER_CONN. -/
  peerConn : Nat := 0
  /-- R168: PEER_GEN. -/
  peerGen : Nat := 0
  /-- R168: WINDOW. -/
  window : Nat := 1
  /-- R168: TX_NEXT, 32 bits. -/
  txNext : Nat := 0
  /-- R168: TX_DONE. -/
  txDone : Nat := 0
  /-- R168: RX_NEXT. -/
  rxNext : Nat := 0
  /-- R168: LEAF_EASE. -/
  leafEase : Nat := 0
  /-- R178: generation recorded when the leaf easement was bound. -/
  leafGen : Option Nat := none
  /-- R168: COMPLETE_STAKE. -/
  completeStake : Nat := 0
  /-- R168: TIMEOUT_CHAINS. -/
  timeoutChains : Nat := 256
  /-- R168: LAST_CHAIN. -/
  lastChain : Nat := 0
  /-- R168: REFUSED. -/
  refused : Nat := 0
  /-- R168: DROPPED. -/
  dropped : Nat := 0
  /-- R168: TX_KEY. -/
  txKey : Key := 0
  /-- R168: RX_KEY. -/
  rxKey : Key := 0
  /-- R178: PAIR_TAG. -/
  pairTag : Nat := 0
  /-- R178: PSK. -/
  psk : Key := 0
  /-- R178: EXPECT. -/
  expect : Digest := 0
  /-- R180: public half of the ephemeral key of its OPEN. -/
  ephPub : BitVec 256 := 0
  /-- R180, R223: ephemeral private key, in the chest's work area; zero once used. -/
  ephPriv : Key := 0
  /-- R239: peer's OPEN public key. -/
  peerEph : BitVec 256 := 0
  /-- R179: chain in which OPENING began. -/
  openedChain : Nat := 0
  /-- R179: chain of the last OPEN sent. -/
  openSent : Nat := 0
  /-- R180: signature of its OPEN, repeated in each OPEN_ACK. -/
  openSig : Bytes := []
  /-- R180: the peer's open grains have been taken, keys derived and OPEN_ACK sent. -/
  ackSent : Bool := false
  /-- R181: own ATTEST covered by a COMPLETE. -/
  attestCovered : Bool := false
  /-- R182: chain in which CLOSING began. -/
  closingChain : Nat := 0
  /-- R182: CLOSE sent. -/
  closeSent : Bool := false
  /-- R182: CLOSE received. -/
  closeSeen : Bool := false
  /-- R184: sequenced messages sent and not finished. -/
  outst : List Outst := []
  /-- R183: admitted messages and consumed numbers at or above RX_NEXT. -/
  held : List HeldMsg := []
  /-- R185: RX_NEXT has risen since the last COMPLETE. -/
  completeDue : Bool := false
  /-- R185: consuming refusals below RX_NEXT since the last COMPLETE. -/
  refusedN : Nat := 0
  /-- R190: consecutive tag failures. -/
  tagFails : Nat := 0
  /-- R170: order of use, for the spill choice. -/
  lastUse : Nat := 0
  /-- R191: REFUSE messages taken in this chain, by AR_ code. -/
  refuseCounts : List Nat := List.replicate 16 0
  deriving DecidableEq, Repr

/-- `Conn` at reset. -/
def Conn.reset : Conn := {}

/-- Easement table entry (Table 8.7) with its pending change. -/
structure Ease where
  /-- R188: VALID in force. -/
  valid : Bool := false
  /-- R188: READ. -/
  read : Bool := false
  /-- R188: WRITE. -/
  write : Bool := false
  /-- R188: LEAF. -/
  leaf : Bool := false
  /-- R188: SIGNAL. -/
  signal : Bool := false
  /-- R188: ENC_ONLY. -/
  encOnly : Bool := false
  /-- R188: GEN. -/
  gen : Nat := 0
  /-- R188: CONTEXT. -/
  context : Nat := 0
  /-- R188: SRC_PARCEL. -/
  srcParcel : Nat := 0
  /-- R188: SRC_MODULE. -/
  srcModule : Nat := 0
  /-- R188: SRC_COUNT. -/
  srcCount : Nat := 0
  /-- R188: BASE. -/
  base : Nat := 0
  /-- R188: SIZE. -/
  size : Nat := 0
  /-- R188: index allocated (granted and not revoked). -/
  used : Bool := false
  /-- R188: grant takes effect at the next rod boundary. -/
  grantDue : Bool := false
  /-- R192: revocation takes effect at the next rod boundary. -/
  revokeDue : Bool := false
  deriving DecidableEq, Repr

/-- `Ease` at reset. -/
def Ease.reset : Ease := {}

/-- A revocation whose drain is running (R192, Table 8.11). -/
structure Drain where
  /-- R192: easement ID. -/
  ease : Nat := 0
  /-- R192: OLD_GEN. -/
  oldGen : Nat := 0
  /-- R192: admitted messages not finished. -/
  left : Nat := 0
  /-- R192: DRAINED. -/
  drained : Nat := 0
  /-- R192: DISCARDED. -/
  discarded : Nat := 0
  /-- R192: chain of the boundary. -/
  startChain : Nat := 0
  /-- R192: rod of the boundary. -/
  startRod : Nat := 0
  /-- R204: function to answer. -/
  fn : Nat := 0
  /-- R204: request to answer. -/
  req : Taken := Taken.reset
  deriving DecidableEq, Repr

/-- `Drain` at reset. -/
def Drain.reset : Drain := {}

/-- Connections, easements and what the stations count. -/
structure Fabric where
  /-- R167: connections by 20-bit ID (allocated at least once). -/
  conns : Tbl Conn := []
  /-- R188: easements by 12-bit ID (granted at least once). -/
  eases : Tbl Ease := []
  /-- R192: drains in progress. -/
  drains : List Drain := []
  /-- R193: slice table S_0 to S_15 (default 781). -/
  slices : List Nat := List.replicate 16 781
  /-- R193: slice table waiting for the chain boundary. -/
  pendSlices : Option (List Nat) := none
  /-- R191: source module and connection ID refused in this chain. -/
  refuseSent : List (Nat × Nat) := []
  /-- R191: refusals counted and not sent. -/
  refuseHeld : Nat := 0
  /-- R185: answers dropped and counted. -/
  straysDropped : Nat := 0
  /-- R189: station fenced. -/
  stationFenced : Bool := false
  /-- R170: order counter of connection use. -/
  useCount : Nat := 0
  /-- R162: last intermediate position used by a local detour. -/
  detour : Nat := 0
  /-- R162, R163: messages for which there is no route. -/
  waiting : List Msg := []
  /-- R163: last intermediate group used. -/
  groupDetour : Nat := 0
  deriving DecidableEq, Repr

/-- `Fabric` at reset. -/
def Fabric.reset : Fabric := {}

/-- A filled chest slot (R224, R226): attribute word and the two shares. -/
structure SlotCell where
  /-- R224: attribute word (reset 0). -/
  attr : BitVec 32 := 0
  /-- R226: first share. -/
  share0 : BitVec 1024 := 0
  /-- R226: second share; the value is their XOR. -/
  share1 : BitVec 1024 := 0
  deriving DecidableEq, Repr

/-- `SlotCell` at reset. -/
def SlotCell.reset : SlotCell := {}

/-- The key store (R223 to R248). -/
structure Chest where
  /-- R223: filled slots of 0-383. -/
  slots : Tbl SlotCell := []
  /-- R228: slot 0 locked until the next reset. -/
  lock0 : Bool := false
  /-- R234: stored counters of authorities 0-3 (0 unused: tenants have their own). -/
  counters : List Nat := [0,0,0,0]
  /-- R245: challenge in force and chain of issue. -/
  challenge : Option (BitVec 256 × Nat) := none
  /-- R227: persistent slots kept as blobs. -/
  blobs : List Nat := []
  /-- R227: persistent slots whose blob in flash fails its tag. -/
  badBlobs : List Nat := []
  /-- R227: blob write count. -/
  writeCount : Nat := 0
  /-- R324: management TLS certificate chain. -/
  tlsChain : Bytes := []
  /-- R229: DeviceID certificate. -/
  devidCert : Bytes := []
  /-- R229: identity digest. -/
  identity : Digest := 0
  deriving DecidableEq, Repr

/-- `Chest` at reset. -/
def Chest.reset : Chest := {}

/-- A noise source (R264, R267, Table 12.2). -/
structure Source where
  /-- R267: STATE: 0 not started, 1 start-up test, 2 in use, 3 standby, 4 failed. -/
  state : Nat := 0
  /-- R267: ONES. -/
  ones : Nat := 0
  /-- R267: EQUAL_PAIRS. -/
  equalPairs : Nat := 0
  /-- R267: RCT_FAILS. -/
  rctFails : Nat := 0
  /-- R267: APT_FAILS. -/
  aptFails : Nat := 0
  /-- R267: MAX_RUN. -/
  maxRun : Nat := 0
  /-- R267: CHAIN. -/
  chain : Nat := 0
  deriving DecidableEq, Repr

/-- `Source` at reset. -/
def Source.reset : Source := {}

/-- Noise sources and the hub DRBG (R264 to R270). -/
structure Entropy where
  /-- R264: primary source. -/
  primary : Source := Source.reset
  /-- R264: fallback source. -/
  fallback : Source := Source.reset
  /-- R266: primary selected again at the next chain boundary. -/
  selectNext : Bool := false
  /-- R269: DRBG instantiated. -/
  instantiated : Bool := false
  /-- R269: a reseed failed: nothing is produced until one succeeds. -/
  stalled : Bool := false
  /-- R269: chain of the last reseed. -/
  lastReseed : Nat := 0
  /-- R269: generate requests since the reseed. -/
  requests : Nat := 0
  /-- R269: reseed requested over management. -/
  reseedDue : Bool := false
  /-- R268: test pattern in effect. -/
  pattern : Option Key := none
  /-- R273: test pattern waiting for the chain boundary. -/
  pendPattern : Option Key := none
  /-- R266: chain of the last retest of the primary. -/
  retestChain : Nat := 0
  deriving DecidableEq, Repr

/-- `Entropy` at reset. -/
def Entropy.reset : Entropy := {}

/-- Plat cluster entry (Table 13.6). -/
structure PlatCluster where
  /-- R284: unit state code. -/
  state : Nat := 0
  /-- R284: BENCH_MASK. -/
  benchMask : BitVec 64 := BitVec.allOnes 64
  deriving DecidableEq, Repr

/-- `PlatCluster` at reset. -/
def PlatCluster.reset : PlatCluster := {}

/-- The plat (R284, Table 13.5). -/
structure Plat where
  /-- R284: cluster table. -/
  clusters : List PlatCluster := List.replicate 64 PlatCluster.reset
  /-- R284: subchannel states. -/
  subchs : List Nat := List.replicate 64 0
  /-- R284: link states. -/
  links : List Nat := List.replicate 48 0
  /-- R284: LANES_RETIRED. -/
  lanesRetired : List (BitVec 4) := List.replicate 48 0
  /-- R284: FLAGS bit 0 COLD. -/
  cold : Bool := false
  /-- R284: REVISION. -/
  revision : Nat := 0
  /-- R284: COLD_BOOTS. -/
  coldBoots : Nat := 0
  /-- R285: changes waiting for the chain boundary: unit kind, unit, new state. -/
  pending : List (Nat × Nat × Nat) := []
  /-- R285: clusters fused off at manufacture. -/
  fusedClusters : List Nat := []
  /-- R285: subchannels fused off at manufacture. -/
  fusedSubchs : List Nat := []
  /-- R285: stored plat failed its tag. -/
  tagBad : Bool := false
  deriving DecidableEq, Repr

/-- `Plat` at reset. -/
def Plat.reset : Plat := {}

/-- The survey (R287, Tables 13.7 and 13.8). -/
structure Survey where
  /-- R287: GROUPS. -/
  groups : Nat := 1
  /-- R287: COUNTER. -/
  counter : Nat := 0
  /-- R287: MODULE_ID, FLAGS, LINK_MASK, FABRIC_PUB. -/
  entries : List (Nat × Nat × Nat × Bytes) := []
  /-- R287: the survey as received, signature included. -/
  bytes : Bytes := []
  deriving DecidableEq, Repr

/-- `Survey` at reset. -/
def Survey.reset : Survey := {}

/-- Boot settings record (Table 13.1). -/
structure Settings where
  /-- R275: PROFILE. -/
  profile : Nat := 0
  /-- R275: EARLY. -/
  early : Bool := false
  /-- R275: SURVEY_WAIT (default 62,500). -/
  surveyWait : Nat := 62500
  /-- R275: COUNTER. -/
  counter : Nat := 0
  deriving DecidableEq, Repr

/-- `Settings` at reset. -/
def Settings.reset : Settings := {}

/-- A firmware copy in boot flash (R339). -/
structure FwCopy where
  /-- R339: marked valid. -/
  valid : Bool := false
  /-- R339: image bytes by offset. -/
  image : Memory := []
  /-- R339: BYTES of fw.begin. -/
  bytes : Nat := 0
  /-- R339: anti-rollback counter. -/
  counter : Nat := 0
  /-- R339: SHA-384 of the image. -/
  digest : Digest := 0
  /-- R219: FW_VERSION. -/
  version : Nat := 0
  deriving DecidableEq, Repr

/-- `FwCopy` at reset. -/
def FwCopy.reset : FwCopy := {}

/-- Fuses and boot flash: what survives a reset (R231, R274, R275, R305). -/
structure Flash where
  /-- R274: variant fuses. -/
  variant : Variant := .a
  /-- R231: 0 BLANK to 5 END. -/
  lifecycle : Nat := 0
  /-- R275: profile fused at manufacture. -/
  fusedProfile : Nat := 0
  /-- R232: RETURNED to PROVISIONED transitions used. -/
  returns : Nat := 0
  /-- R275: stored boot settings record. -/
  settings : Settings := Settings.reset
  /-- R275: counter of the stored settings record. -/
  settingsCounter : Nat := 0
  /-- R275: stored settings fail their tag. -/
  settingsBad : Bool := false
  /-- R287: stored survey. -/
  survey : Option Survey := none
  /-- R287: survey counter in the counter bank. -/
  surveyCounter : Nat := 0
  /-- R288: stored survey fails its signature. -/
  surveyBad : Bool := false
  /-- R305: BOOT_GEN. -/
  bootGen : Nat := 0
  /-- R277: warm resets in a row since the last ready. -/
  warmRow : Nat := 0
  /-- R339: copy A. -/
  fwA : FwCopy := FwCopy.reset
  /-- R339: copy B. -/
  fwB : FwCopy := FwCopy.reset
  /-- R340: counter floor. -/
  fwFloor : Nat := 0
  /-- R338: meter counter as last saved. -/
  meterSaved : Nat := 0
  /-- R231: test pattern path removed by the fuse of PROVISIONED. -/
  provisioned : Bool := false
  deriving DecidableEq, Repr

/-- `Flash` at reset. -/
def Flash.reset : Flash := {}

/-- The module's bring-up (R277 to R291). -/
structure Boot where
  /-- R198: BOOT_STATUS.STAGE (reset 0x00). -/
  stage : Nat := 0
  /-- R198: BOOT_STATUS.WAVES (reset 0). -/
  waves : Nat := 0
  /-- R198, R276: PROFILE_RUN. -/
  profile : Profile := .integrated
  /-- R277: this boot takes the cold path. -/
  cold : Bool := true
  /-- R291: ready has been reached in this boot. -/
  ready : Bool := false
  /-- R282: EARLY of the settings in force. -/
  early : Bool := false
  /-- R290: SURVEY_WAIT in force. -/
  surveyWait : Nat := 62500
  /-- R275: COUNTER of the settings record in force. -/
  settingsCounter : Nat := 0
  /-- R288: survey in force. -/
  survey : Option Survey := none
  /-- R289: survey waiting for the chain boundary. -/
  pendSurvey : Option Survey := none
  /-- R288: module ID (16,383 without an entry). -/
  moduleId : Nat := 16383
  /-- R311: copy B runs. -/
  fwRunB : Bool := false
  /-- R228: FW_DIGEST of the running copy. -/
  fwDigest : Digest := 0
  /-- R237: FW_COUNTER of the running copy. -/
  fwCounter : Nat := 0
  /-- R219: FW_VERSION of the running copy. -/
  fwVersion : Nat := 0
  /-- R349: compute dies powered, in order. -/
  diesUp : Nat := 0
  /-- R280: waves woken. -/
  wavesAwake : Nat := 0
  /-- R278: memory devices trained and filled. -/
  devicesReady : List Nat := []
  /-- R156: chain in which the first link training of this boot ended. -/
  firstTrained : Option Nat := none
  /-- R290: chain in which stage 0x40 began or judging restarted. -/
  stage40 : Nat := 0
  /-- R276: the cold tests have finished and the spares are not reserved yet. -/
  sparesDue : Bool := false
  /-- R290: agreement has been judged once. -/
  judged : Bool := false
  /-- R291: chain of the last EV_SURVEY_MISMATCH. -/
  mismatchChain : Option Nat := none
  /-- R283: the early parcel of this boot has been opened. -/
  earlyUsed : Bool := false
  /-- R200: boot ROM log entries: time, code, argument. -/
  recovery : List (Nat × Nat × Nat) := []
  /-- R200: fault word that stopped the boot. -/
  stopWord : BitVec 32 := 0
  /-- R349: bring-up stopped by a rail. -/
  railFailed : Bool := false
  /-- R278: per-boot fill key. -/
  fillKey : Key := 0
  /-- R257: interleave hash key K. -/
  hashKey : Key := 0
  deriving DecidableEq, Repr

/-- `Boot` at reset. -/
def Boot.reset : Boot := {}

/-- The chain timer, rods, idling and throttling (R23 to R45). -/
structure Clock where
  /-- R277: the chain timer runs. -/
  running : Bool := false
  /-- R23: chain number, 64 bits. -/
  chain : Nat := 0
  /-- R23: rod 0-3. -/
  rod : Nat := 0
  /-- R24: the boundary reserve has begun. -/
  reserve : Bool := false
  /-- R43: this chain is idle. -/
  idle : Bool := false
  /-- R336: this chain is forced idle (power failure or thermal). -/
  forced : Bool := false
  /-- R43: i of R43. -/
  idleRatio : Nat := 0
  /-- R45: acknowledged ratio waiting for the chain boundary. -/
  pendRatio : Option Nat := none
  /-- R42: emergency throttling in force. -/
  throttle : Bool := false
  /-- R42: throttling begins at the next rod boundary. -/
  throttleDue : Bool := false
  /-- R335: a throttle condition has held in this chain. -/
  hotNow : Bool := false
  /-- R331: throttling was in force in this chain. -/
  throttledNow : Bool := false
  deriving DecidableEq, Repr

/-- `Clock` at reset. -/
def Clock.reset : Clock := {}

/-- Marker following and mastership (R154 to R158). -/
structure Marker where
  /-- R155: link followed (none: own timer). -/
  source : Option Nat := none
  /-- R155: MASTER named by the marker followed. -/
  master : Nat := 16383
  /-- R155: own STRATUM. -/
  stratum : Nat := 0
  /-- R156: the module is system master. -/
  isMaster : Bool := false
  /-- R157: chain of the last marker followed. -/
  lastFollowed : Nat := 0
  /-- R154: 0 following, 1 holdover, 2 free-running. -/
  state : Nat := 2
  /-- R158: offset of the own boundary to the source's, ps. -/
  offsetPs : Int := 0
  /-- R158: chain number to adopt when the source's boundary comes. -/
  stepTo : Option Nat := none
  /-- R156: master to follow from the next chain boundary. -/
  masterNext : Option Nat := none
  /-- R165: EV_MARKER_HOLDOVER raised for this loss. -/
  holdRaised : Bool := false
  deriving DecidableEq, Repr

/-- `Marker` at reset. -/
def Marker.reset : Marker := {}

/-- Meter record (Table 15.7). -/
structure MeterRec where
  /-- R338: FLAGS. -/
  flags : Nat := 0
  /-- R338: RECORD_INDEX. -/
  index : Nat := 0
  /-- R338: MODULE_ID at close. -/
  moduleId : Nat := 0
  /-- R338: BOOT_GEN at close. -/
  bootGen : Nat := 0
  /-- R338: START_CHAIN. -/
  startChain : Nat := 0
  /-- R338: END_CHAIN. -/
  endChain : Nat := 0
  /-- R338: TARIFF_MJ. -/
  tariffMj : List Nat := List.replicate 8 0
  /-- R338: PEAK_W. -/
  peakW : Nat := 0
  /-- R338: CAP_MIN_W. -/
  capMinW : Nat := 0
  /-- R338: IDLE_CHAINS. -/
  idleChains : Nat := 0
  /-- R338: FAIL_CHAINS. -/
  failChains : Nat := 0
  /-- R338: THROTTLE_CHAINS. -/
  throttleChains : Nat := 0
  /-- R338: LOST_MJ. -/
  lostMj : Nat := 0
  /-- R338: SIGNATURE, formed at close. -/
  signature : Bytes := []
  deriving DecidableEq, Repr

/-- `MeterRec` at reset. -/
def MeterRec.reset : MeterRec := {}

/-- Schedule entry (Table 15.5). -/
structure SchedEntry where
  /-- R334: START_CHAIN. -/
  startChain : Nat := 0
  /-- R334: CAP_W. -/
  capW : Nat := 0
  /-- R334: TARIFF. -/
  tariff : Nat := 0
  /-- R334: FLAGS bit 0. -/
  windowEnd : Bool := false
  deriving DecidableEq, Repr

/-- `SchedEntry` at reset. -/
def SchedEntry.reset : SchedEntry := {}

/-- What the module's own sensors read (R331, R352). -/
structure Sensors where
  /-- R347: J1 voltage, mV. -/
  j1Mv : Nat := 0
  /-- R331: J1 current, mA. -/
  j1Ma : Nat := 0
  /-- R331: coolant inlet, 0.1 C. -/
  inletDc : Nat := 250
  /-- R331: coolant outlet, 0.1 C. -/
  outletDc : Nat := 250
  /-- R331: hottest junction of dies 0-3 and the hub, 0.1 C. -/
  junctionDc : List Nat := List.replicate 5 250
  /-- R352: LPDDR5X devices, 0.1 C. -/
  dramDc : List Nat := List.replicate 16 250
  /-- R331: regulator output power. -/
  vrW : List Nat := List.replicate 8 0
  /-- R335: a core-rail regulator warns. -/
  overcurrent : Bool := false
  /-- R331: average input power over the last 1,024 chains. -/
  powerMw : Nat := 0
  deriving DecidableEq, Repr

/-- `Sensors` at reset. -/
def Sensors.reset : Sensors := {}

/-- Power, caps, schedule, metering and thermal state (Chapters 15 and 16). -/
structure Power where
  /-- R350: PRESENT_J1 mated. -/
  present : Bool := false
  /-- R347: input switch closed. -/
  switch : Bool := false
  /-- R347: the switch opened for overvoltage. -/
  ovOpen : Bool := false
  /-- R341: PWR_CYCLE# held low. -/
  cycleLow : Bool := false
  /-- R336: PWR_WARN# asserted. -/
  warn : Bool := false
  /-- R336: J1 below 40 V. -/
  uv : Bool := false
  /-- R336: power-fail handling in force. -/
  fail : Bool := false
  /-- R336: forced idling begins at the next chain boundary. -/
  failDue : Bool := false
  /-- R336: whole clear chains in a row. -/
  clearRun : Nat := 0
  /-- R336: this chain is not clear. -/
  dirtyNow : Bool := false
  /-- R352: thermal idle in force (or due at the next boundary). -/
  thermal : Bool := false
  /-- R352: whole chains with every device below 90 C. -/
  coolRun : Nat := 0
  /-- R336: powered down. -/
  off : Bool := true
  /-- R331: readings. -/
  sensors : Sensors := Sensors.reset
  /-- R332: T of R332, whole C (0 before the first reading). -/
  tHeld : Nat := 0
  /-- R332: CAP_UNMET. -/
  capUnmet : Bool := false
  /-- R333: standing cap, 0 none. -/
  standingCap : Nat := 0
  /-- R334: cap of the schedule entry in force, 0 none. -/
  schedCap : Nat := 0
  /-- R334: tariff in force. -/
  tariff : Nat := 0
  /-- R334: entries not yet acknowledged. -/
  schedule : List SchedEntry := []
  /-- R334: entry acknowledged for the next boundary. -/
  acked : Option SchedEntry := none
  /-- R338: meter counter, mJ. -/
  meter : Nat := 0
  /-- R338: record of the open demand window. -/
  openRec : MeterRec := MeterRec.reset
  /-- R338: ring of 1,024 meter records, oldest first. -/
  records : List MeterRec := []
  /-- R338: next RECORD_INDEX. -/
  nextRecord : Nat := 0
  /-- R338: a demand window is open. -/
  recOpen : Bool := false
  /-- R338: the open record as it was at the last save. -/
  savedRec : MeterRec := MeterRec.reset
  /-- R331: THROTTLE_CHAINS since boot. -/
  throttleChains : Nat := 0
  /-- R331: IDLE_CHAINS since boot. -/
  idleChains : Nat := 0
  /-- R331: telemetry record as last refreshed. -/
  telemetry : Bytes := []
  /-- R351: chain of the last EV_COOLANT for the inlet. -/
  coolantChain : Option Nat := none
  /-- R351: chains with outlet minus inlet above 15 C. -/
  hotOutlet : Nat := 0
  deriving DecidableEq, Repr

/-- `Power` at reset. -/
def Power.reset : Power := {}

/-- The SMBus port and MCTP endpoint (R325 to R330). -/
structure SmBus where
  /-- R325: endpoint ID (0 until set). -/
  eid : Nat := 0
  /-- R327: address the module sends its packets to. -/
  partner : Nat := 0x20
  /-- R327: value of ADDR0-1. -/
  strap : Nat := 0
  /-- R329: port fenced. -/
  fenced : Bool := false
  /-- R330: no-partner state. -/
  noPartner : Bool := false
  /-- R330: outbound messages, at most 64, oldest first. -/
  queue : List Bytes := []
  /-- R329: packets discarded and counted. -/
  discards : Nat := 0
  /-- R327: packets discarded for a bad PEC. -/
  pecErrors : Nat := 0
  /-- R330: retries of the packet now being sent. -/
  retries : Nat := 0
  /-- R329, R330: chain of the last probe, or of the last sample of fenced lines. -/
  probeChain : Nat := 0
  /-- R328: line recovery in progress. -/
  recovering : Bool := false
  /-- R328: message sent last as controller, which may still be retried. -/
  transfer : Option Bytes := none
  deriving DecidableEq, Repr

/-- `SmBus` at reset. -/
def SmBus.reset : SmBus := {}

/-- Management sessions, staging and report limits. -/
structure Mgmt where
  /-- R321: open TLS sessions (at most 4). -/
  tls : List Nat := []
  /-- R320: address from DHCP. -/
  ipv4 : Option (BitVec 32) := none
  /-- R320: link-local and autoconfigured addresses. -/
  ipv6 : List (BitVec 128) := []
  /-- R339: staging open: false copy A, true copy B. -/
  staging : Option Bool := none
  /-- R309: limited reports in the current 1,024 chains. -/
  reports : Nat := 0
  /-- R309: reports suppressed: peer lost, link state, link burst. -/
  storm : List Nat := [0,0,0]
  /-- R326: algorithms negotiated. -/
  spdmNegotiated : Bool := false
  deriving DecidableEq, Repr

/-- `Mgmt` at reset. -/
def Mgmt.reset : Mgmt := {}

/-- Faults, peers, hub pairs (Chapter 14). -/
structure FaultSt where
  /-- R305: module reset ordered: chain of the order, and cold. -/
  order : Option (Nat × Bool) := none
  /-- R306: stopped lockstep pair; the other runs. -/
  pairStopped : Option Nat := none
  /-- R306: standby takes over at the next chain boundary. -/
  takeover : Bool := false
  /-- R306: active pair. -/
  activePair : Nat := 0
  /-- R308: chain of the last EV_PEER_LOST per peer. -/
  peerReports : Tbl Nat := []
  /-- R308: connections folded into the next report per peer. -/
  peerFolded : Tbl Nat := []
  /-- R259: corrections per subchannel in the current 1,024 chains. -/
  eccCounts : List Nat := List.replicate 64 0
  /-- R315: migrations: degraded, spare, lines copied. -/
  migrate : List (Nat × Nat × Nat) := []
  /-- R316: next line of the patrol scrub per subchannel. -/
  patrol : List Nat := List.replicate 64 0
  /-- R314: spares joining: kind (0 cluster, 1 subchannel), retired, spare. -/
  joins : List (Nat × Nat × Nat) := []
  /-- R299: failed subchannels. -/
  subchFailed : List Nat := []
  /-- R305: last word that management keeps. -/
  mgmtWord : BitVec 32 := 0
  /-- R304: tray power cycles without ready. -/
  trayCycles : Nat := 0
  deriving DecidableEq, Repr

/-- `FaultSt` at reset. -/
def FaultSt.reset : FaultSt := {}

/-- A long drawer command that is still executing (R204). -/
structure LongCmd where
  /-- R204: function. -/
  fn : Nat := 0
  /-- R204: request to answer. -/
  req : Taken := Taken.reset
  /-- R141: link.retrain: the link. -/
  link : Nat := 0
  /-- R141, R324: the management request to answer instead. -/
  mgmt : Option MgmtMsg := none
  deriving DecidableEq, Repr

/-- `LongCmd` at reset. -/
def LongCmd.reset : LongCmd := {}

/-- The machine: everything the spec gives the module, and the queue of waiting commands. -/
structure State where
  /-- model: queue of waiting commands, first in first out (the host's form). -/
  pending : List Instr := []
  /-- model: counter of free values drawn (the MODEL's own field, DESIGN CHOICE). -/
  draws : Nat := 0
  /-- model: what the module has sent outside, oldest first (the MODEL's own field, DESIGN CHOICE). -/
  outbox : List Output := []
  /-- R23: chain timer, idling, throttling. -/
  clock : Clock := Clock.reset
  /-- R277: bring-up. -/
  boot : Boot := Boot.reset
  /-- R305: fuses, boot flash, counter bank. -/
  flash : Flash := Flash.reset
  /-- R284: plat. -/
  plat : Plat := Plat.reset
  /-- R195: PF0 (0) and VF1-VF16. -/
  fns : List Fn := List.replicate 17 Fn.reset
  /-- R195: PCIe port. -/
  host : HostPort := HostPort.reset
  /-- R249: parcels. -/
  parcels : List Parcel := List.replicate 16 Parcel.reset
  /-- R8: clusters. -/
  clusters : List Cluster := List.replicate 64 Cluster.reset
  /-- R8: links. -/
  links : List Link := List.replicate 48 Link.reset
  /-- R167: connections and easements. -/
  fabric : Fabric := Fabric.reset
  /-- R155: chain markers. -/
  marker : Marker := Marker.reset
  /-- R223: key store. -/
  chest : Chest := Chest.reset
  /-- R264: entropy and DRBG. -/
  entropy : Entropy := Entropy.reset
  /-- R336: power, metering, thermal. -/
  power : Power := Power.reset
  /-- R327: SMBus and MCTP. -/
  smbus : SmBus := SmBus.reset
  /-- R322: management. -/
  mgmt : Mgmt := Mgmt.reset
  /-- R294: faults and recovery. -/
  faults : FaultSt := FaultSt.reset
  /-- R204: long commands of links still executing. -/
  longs : List LongCmd := []
  deriving DecidableEq, Repr

/-- The machine right after reset: every field at the value the spec states for reset, or the value that notes/assumptions/1.md names. -/
def State.reset : State := {}

end Sys2Proof.Machine
end

