-- ==== Sys2Proof/Machine/Flags.lean ====
section
/-! DEFINITION. Status, event and fault codes (chapter 17) and the packed words of the module: tile row control words, fault words,
drawer status, slot attributes, stake state. -/

namespace Sys2Proof.Machine

/-! Status codes, Table 17.2. -/
def stOk : Nat := 0x00
def stBusy : Nat := 0x10
def stPowerFail : Nat := 0x11
def stOpcode : Nat := 0x20
def stReserved : Nat := 0x21
def stPayload : Nat := 0x22
def stArg : Nat := 0x23
def stLedgerFormat : Nat := 0x24
def stCarryFormat : Nat := 0x25
def stModulusForm : Nat := 0x26
def stModulusPrime : Nat := 0x27
def stOpParam : Nat := 0x28
def stRoundFormat : Nat := 0x29
def stMapFormat : Nat := 0x2A
def stCapRange : Nat := 0x2B
def stSchedule : Nat := 0x2C
def stGen : Nat := 0x30
def stNoSession : Nat := 0x31
def stDetached : Nat := 0x32
def stParcelState : Nat := 0x33
def stContextState : Nat := 0x34
def stShelfHeld : Nat := 0x35
def stRoundState : Nat := 0x36
def stVfAbsent : Nat := 0x37
def stEaseState : Nat := 0x38
def stSpillBusy : Nat := 0x39
def stSlotState : Nat := 0x3A
def stPlatUnit : Nat := 0x3B
def stFwState : Nat := 0x3C
def stNotPermitted : Nat := 0x40
def stGroupAttest : Nat := 0x41
def stPlaintext : Nat := 0x42
def stSeal : Nat := 0x43
def stAttachDenied : Nat := 0x44
def stSignature : Nat := 0x45
def stCounter : Nat := 0x46
def stKeyUse : Nat := 0x47
def stLifecycle : Nat := 0x48
def stUnitsBusy : Nat := 0x50
def stLedgerOver : Nat := 0x52
def stStakesFull : Nat := 0x53
def stShareFull : Nat := 0x54
def stConnFull : Nat := 0x55
def stPinFull : Nat := 0x56
def stEaseFull : Nat := 0x57
def stRespSpace : Nat := 0x58
def stFault : Nat := 0x60
def stEntropy : Nat := 0x61
def stNotReady : Nat := 0x70

/-- Context fault cause `FC_SHELF_MODE`. -/
def fcShelfMode : Nat := 0x0302
/-- Context fault cause `FC_CARRY_RANGE`. -/
def fcCarryRange : Nat := 0x0301

/-! Tile row control words, Table 3.3. -/

/-- `MODE` [3:0]. -/
def rowMode (w : BitVec 32) : Nat := bits 3 0 w.toNat
/-- `MOD_SLOT` [9:4]. -/
def rowSlot (w : BitVec 32) : Nat := bits 9 4 w.toNat
/-- `HELD` [11]. -/
def rowHeld (w : BitVec 32) : Bool := w.toNat.testBit 11
/-- `SCALE` [19:12]. -/
def rowScale (w : BitVec 32) : Nat := bits 19 12 w.toNat
/-- `OWNER` [22:20]. -/
def rowOwner (w : BitVec 32) : Nat := bits 22 20 w.toNat

/-- A control word from its fields (Table 3.3). -/
def rowCtrl (mode slot : Nat) (paired held : Bool) (scale owner : Nat) : BitVec 32 :=
  BitVec.ofNat 32 (mode % 16 + slot % 64 * 2 ^ 4 + b2n paired * 2 ^ 10 + b2n held * 2 ^ 11 + scale % 256 * 2 ^ 12
    + owner % 8 * 2 ^ 20)

/-- The control word with another `SCALE`. -/
def withScale (w : BitVec 32) (sc : Nat) : BitVec 32 :=
  rowCtrl (rowMode w) (rowSlot w) (w.toNat.testBit 10) (rowHeld w) sc (rowOwner w)

/-- The control word with `HELD` set. -/
def withHeld (w : BitVec 32) : BitVec 32 := BitVec.ofNat 32 (w.toNat ||| 2 ^ 11)

/-- A two-row mode (Table 3.4). -/
def twoRow (mode : Nat) : Bool := mode == 6 || mode == 7

/-! Fault words, Table 14.1. -/

/-- A fault word from level, unit and cause. -/
def faultWord (level unitId cause : Nat) : BitVec 32 :=
  BitVec.ofNat 32 (cause % 2 ^ 20 + unitId % 256 * 2 ^ 20 + level % 16 * 2 ^ 28)
/-- `CAUSE` [19:0]. -/
def fwCause (w : BitVec 32) : Nat := bits 19 0 w.toNat
/-- `UNIT` [27:20]. -/
def fwUnit (w : BitVec 32) : Nat := bits 27 20 w.toNat
/-- `LEVEL` [31:28]. -/
def fwLevel (w : BitVec 32) : Nat := bits 31 28 w.toNat

/-! Slot attribute words, Table 10.2. -/

/-- An attribute word: kind, world, parcel, generated, persistent, masters [22:16] and life-cycle bits [29:24]. -/
def slotAttr (kind world parcel : Nat) (generated persistent : Bool) (masters lc : Nat) : BitVec 32 :=
  BitVec.ofNat 32 (kind % 16 + world % 4 * 2 ^ 4 + parcel % 16 * 2 ^ 6 + b2n generated * 2 ^ 10 + b2n persistent * 2 ^ 11
    + masters % 128 * 2 ^ 16 + lc % 64 * 2 ^ 24)

/-- Bench-store, drawer and stake words of the host's registers: `DRAWER_STATUS` (Table 9.4). -/
def drawerStatus (f : Fn) (parcelState : Nat) : BitVec 32 :=
  BitVec.ofNat 32 (f.gen % 2 ^ 16 + b2n f.active * 2 ^ 16 + b2n f.cfgErr * 2 ^ 17 + b2n f.session * 2 ^ 18
    + parcelState % 8 * 2 ^ 19)

/-- `DRAWER_CTRL` (Table 9.3). -/
def drawerCtrl (f : Fn) : BitVec 32 := BitVec.ofNat 32 (b2n f.enable + b2n f.irqEn * 2 + f.ringLog2 % 16 * 2 ^ 8)

/-- The 8 bytes of a stake's state (Table 3.7), with the number of queues blocked on it. -/
def stakeWord (st : Option Stake) (waiters : Nat) : Nat :=
  match st with
  | none => 0
  | some k => k.value.toNat + k.owner % 8 * 2 ^ 32 + 2 ^ 35 + b2n k.remoteEn * 2 ^ 36 + waiters % 256 * 2 ^ 48

end Sys2Proof.Machine
end

