-- ==== Sys2Proof/Machine/Ops.lean ====
section
/-! DEFINITION. The named operations over the state that the meanings share: access to each indexed part, outputs and free values,
events and fault words, stakes, sessions and chest slots, and the end of a context. -/

namespace Sys2Proof.Machine

/-! Access to the indexed parts. -/

/-- Function `n` (0 is PF0). -/
def State.fn (n : Nat) (s : State) : Fn := s.fns.getD n Fn.reset
/-- Change function `n`. -/
def State.modFn (n : Nat) (g : Fn → Fn) (s : State) : State := { s with fns := s.fns.modify n g }
/-- Parcel `p`. -/
def State.parcel (p : Nat) (s : State) : Parcel := s.parcels.getD p Parcel.reset
/-- Change parcel `p`. -/
def State.modParcel (p : Nat) (g : Parcel → Parcel) (s : State) : State := { s with parcels := s.parcels.modify p g }
/-- Context `c` of a parcel. -/
def Parcel.ctx (c : Nat) (q : Parcel) : Context := q.contexts.getD c Context.reset
/-- Change context `c` of a parcel. -/
def Parcel.modCtx (c : Nat) (g : Context → Context) (q : Parcel) : Parcel := { q with contexts := q.contexts.modify c g }
/-- Context `c` of parcel `p`. -/
def State.ctx (p c : Nat) (s : State) : Context := (s.parcel p).ctx c
/-- Change context `c` of parcel `p`. -/
def State.modCtx (p c : Nat) (g : Context → Context) (s : State) : State := s.modParcel p (Parcel.modCtx c g)
/-- Physical cluster `c`. -/
def State.cluster (c : Nat) (s : State) : Cluster := s.clusters.getD c Cluster.reset
/-- Change physical cluster `c`. -/
def State.modCluster (c : Nat) (g : Cluster → Cluster) (s : State) : State := { s with clusters := s.clusters.modify c g }
/-- Change each listed physical cluster. -/
def State.modClusters (l : List Nat) (g : Cluster → Cluster) (s : State) : State := l.foldl (fun t c => t.modCluster c g) s
/-- Link `l`. -/
def State.link (l : Nat) (s : State) : Link := s.links.getD l Link.reset
/-- Change link `l`. -/
def State.modLink (l : Nat) (g : Link → Link) (s : State) : State := { s with links := s.links.modify l g }
/-- Connection `id`, if its ID has been allocated. -/
def State.conn? (id : Nat) (s : State) : Option Conn := tget id s.fabric.conns
/-- Connection `id`. -/
def State.conn (id : Nat) (s : State) : Conn := (tget id s.fabric.conns).getD Conn.reset
/-- Put connection `id`. -/
def State.putConn (id : Nat) (k : Conn) (s : State) : State :=
  { s with fabric := { s.fabric with conns := tset id k s.fabric.conns } }
/-- Change connection `id`, if it has been allocated. -/
def State.modConn (id : Nat) (g : Conn → Conn) (s : State) : State :=
  match tget id s.fabric.conns with
  | some k => s.putConn id (g k)
  | none => s
/-- Easement `id` of the table. -/
def State.ease (id : Nat) (s : State) : Ease := (tget id s.fabric.eases).getD Ease.reset
/-- Put easement `id`. -/
def State.putEase (id : Nat) (e : Ease) (s : State) : State :=
  { s with fabric := { s.fabric with eases := tset id e s.fabric.eases } }

/-- The parcel that function `n` serves: VFn serves parcel n-1 (R195). -/
def parcelOf (n : Nat) : Nat := n - 1
/-- The chain in progress. -/
def State.now (s : State) : Nat := s.clock.chain

/-! Cryptographic results with the sizes that their standards give them. -/

/-- AES-256-GCM encryption: the ciphertext is as long as the plaintext (R210). -/
def gcmSeal (k : Key) (nonce aad m : Bytes) : Bytes := padTo m.length (Config.gcmEncrypt k nonce aad m)
/-- AES-256-GCM decryption: the plaintext is as long as the ciphertext (R210). -/
def gcmOpen (k : Key) (nonce aad m : Bytes) : Bytes := padTo m.length (Config.gcmDecrypt k nonce aad m)
/-- AES-256-XTS encryption of one block of 16 bytes (R253). -/
def xtsSeal (k : BitVec 512) (unitNo j : Nat) (m : Bytes) : Bytes := padTo 16 (Config.xtsEncrypt k unitNo j m)
/-- AES-256-XTS decryption of one block of 16 bytes (R253). -/
def xtsOpen (k : BitVec 512) (unitNo j : Nat) (m : Bytes) : Bytes := padTo 16 (Config.xtsDecrypt k unitNo j m)
/-- An ECDSA P-384 signature: r and s, 96 bytes (R180, R237). -/
def signature (k : BitVec 384) (m : Bytes) (draw : Nat) : Bytes := padTo 96 (Config.ecdsaSign k m draw)

/-! Outputs and free values. -/

/-- Record something sent outside. -/
def State.emit (o : Output) (s : State) : State := { s with outbox := s.outbox ++ [o] }
/-- The next free value (R269). -/
def State.fresh (s : State) : BitVec 1024 := Config.freeValue s.draws
/-- The state after a free value has been drawn: one more generate request of the hub DRBG (R269). -/
def State.drawn (s : State) : State :=
  { s with draws := s.draws + 1, entropy := { s.entropy with requests := s.entropy.requests + 1 } }

/-- Free values that do not come from the hub DRBG have been drawn. -/
def State.drawMany (n : Nat) (s : State) : State := { s with draws := s.draws + n }
/-- Several generate requests of the hub DRBG (R269). -/
def State.drawnMany (n : Nat) (s : State) : State :=
  { s with draws := s.draws + n, entropy := { s.entropy with requests := s.entropy.requests + n } }

/-! Events (R205, R206, R261, R309). -/

/-- Queue an event for a function: it is counted always, and kept while fewer than 256 wait (R206). -/
def Fn.raise (code chain : Nat) (data : List Nat) (f : Fn) : Fn :=
  let n := (f.eventCount + 1) % 2 ^ 16
  if f.events.length < 256 then
    { f with eventCount := n, events := f.events ++ [{ code, chain, tag := n, data }] }
  else { f with eventCount := n }

/-- An event to function `n`; a VF that is not enabled has no drawer. -/
def State.evFn (n code : Nat) (data : List Nat) (s : State) : State :=
  if n = 0 || (s.fn n).present then s.modFn n (Fn.raise code s.now data) else s

/-- An event to PF0. -/
def State.evPf (code : Nat) (data : List Nat) (s : State) : State := s.evFn 0 code data

/-- An event to the VF of parcel `p` only; PF0 gets a copy under the `EVENT_COPY` grant (Table 11.6). -/
def State.evVf (p code : Nat) (data : List Nat) (s : State) : State :=
  let s := s.evFn (p + 1) code data
  if (s.parcel p).grant.toNat.testBit 0 then s.evPf code data else s

/-- An event to the VF of parcel `p` and to PF0. -/
def State.evBoth (p code : Nat) (data : List Nat) (s : State) : State := (s.evFn (p + 1) code data).evPf code data

/-- The place of an event kind under the storm limit of R309. -/
def stormKind (code : Nat) : Option Nat :=
  if code = 0x1404 then some 0 else if code = 0x0701 then some 1 else if code = 0x0702 then some 2 else none

/-- A management message that waits for the partner (R330): at most 64 are held, and the oldest goes first. -/
def SmBus.hold (b : Bytes) (k : SmBus) : SmBus :=
  let l := k.queue ++ [b]
  { k with queue := l.drop (l.length - 64) }

/-- The event record of R205. -/
def eventRecord (code chain : Nat) (data : List Nat) : Bytes :=
  padTo 40 (le 2 code ++ zeros 2 ++ le 8 chain ++ padTo 28 (Config.eventBytes code data))

/-- The header of a management message (Table 15.1): 1 marks a response, 2 an event. -/
def mgmtHeader (op tag status flags bodyBytes : Nat) : Bytes :=
  cat [le 2 op, le 2 tag, le 1 status, le 1 flags, zeros 2, le 4 bodyBytes, zeros 4]

/-- Send an event to management (R323); without a partner on the SMBus a copy waits for one. -/
def State.sendEvent (code : Nat) (data : List Nat) (s : State) : State :=
  let t := s.emit (.mgmtEvent code s.now data)
  if s.smbus.noPartner && !s.smbus.fenced then
    let b := eventRecord code s.now data
    { t with smbus := t.smbus.hold (mgmtHeader 0xFFFF 0 0 2 b.length ++ b) }
  else t

/-- An event to management, under the limit of R309 for the three limited kinds. -/
def State.evMgmt (code : Nat) (data : List Nat) (s : State) : State :=
  match stormKind code with
  | none => s.sendEvent code data
  | some k =>
    if s.mgmt.reports < 32 then
      { s with mgmt := { s.mgmt with reports := s.mgmt.reports + 1 } }.sendEvent code data
    else { s with mgmt := { s.mgmt with storm := addAt k 1 s.mgmt.storm } }

/-- An event to every open drawer. -/
def State.evOpen (code : Nat) (data : List Nat) (s : State) : State :=
  (List.range 17).foldl (fun t n => if (t.fn n).active then t.evFn n code data else t) s

/-! Variant and profile (Tables 0.1, 0.2). -/

/-- Cycles per rod at the provisioned clock (Table 0.1). -/
def rodCyclesOf : Variant → Nat | .a => 8192 | .b => 7168 | .c => 6144
/-- Cluster clock in kHz (Table 0.1). -/
def clockKhzOf : Variant → Nat | .a => 1024000 | .b => 896000 | .c => 768000
/-- Module input power limit in W (Table 0.1). -/
def limitWOf : Variant → Nat | .a => 1200 | .b => 950 | .c => 720
/-- Code of a variant (Table 9.5). -/
def variantCode : Variant → Nat | .a => 0 | .b => 1 | .c => 2
/-- Code of a profile (Table 9.5). -/
def profileCode : Profile → Nat | .integrated => 0 | .enduring => 1
/-- The running profile is enduring. -/
def State.enduring (s : State) : Bool := s.boot.profile == .enduring

/-! Plat units (R284): state 0 is in use, 1 spare. -/

/-- Plat entry of cluster `c`. -/
def State.platCluster (c : Nat) (s : State) : PlatCluster := s.plat.clusters.getD c PlatCluster.reset
/-- Cluster `c` is in use under the profile. -/
def State.clusterInUse (c : Nat) (s : State) : Bool := (s.platCluster c).state == 0
/-- Subchannel `x` is in use under the profile. -/
def State.subchInUse (x : Nat) (s : State) : Bool := s.plat.subchs.getD x 2 == 0
/-- Clusters in use. -/
def State.clustersInUse (s : State) : Nat := (s.plat.clusters.filter (·.state == 0)).length
/-- Subchannels in use. -/
def State.subchsInUse (s : State) : Nat := (s.plat.subchs.filter (· == 0)).length
/-- Working benches of cluster `c` (R286). -/
def State.benches (c : Nat) (s : State) : Nat := popcount64 (s.platCluster c).benchMask.toNat
where
  /-- Set bits of a 64-bit mask. -/
  popcount64 (v : Nat) : Nat := (bitsOf 64 v).length

/-- The most parcels that may be open at once (R12). -/
def State.parcelsMax (s : State) : Nat :=
  min (if s.enduring then 15 else 16) (min (s.clustersInUse / 4) (s.subchsInUse / 4))

/-- A plat change waits for the next chain boundary: unit kind (0 cluster, 1 subchannel, 2 bench mask, 3 lanes, 4 link), unit,
new value (R285). -/
def State.platPend (kind unitId v : Nat) (s : State) : State :=
  { s with plat := { s.plat with pending := s.plat.pending ++ [(kind, unitId, v)] } }

/-! Parcels and their clusters. -/

/-- A parcel holds its units: it is in any state but CLOSED (Table 9.10). -/
def Parcel.isOpen (q : Parcel) : Bool := q.state != 0
/-- Logical clusters of a parcel (R249). -/
def Parcel.logical (q : Parcel) : Nat := if q.paired then q.clusters.length / 2 else q.clusters.length
/-- Physical clusters behind logical cluster `k` (R249). -/
def Parcel.members (k : Nat) (q : Parcel) : List Nat :=
  if q.paired then (q.clusters.drop (2 * k)).take 2 else (q.clusters.drop k).take 1
/-- Physical clusters behind logical cluster `k` that are not fenced. -/
def State.live (p k : Nat) (s : State) : List Nat := ((s.parcel p).members k).filter fun c => !(s.cluster c).fenced
/-- The first of them: what is read of a logical cluster. -/
def State.lead (p k : Nat) (s : State) : Cluster :=
  match s.live p k with
  | c :: _ => s.cluster c
  | [] => Cluster.reset
/-- Change every live member of logical cluster `k`. -/
def State.modLogical (p k : Nat) (g : Cluster → Cluster) (s : State) : State := s.modClusters (s.live p k) g
/-- The parcel that holds physical cluster `c`. -/
def State.ownerOf (c : Nat) (s : State) : Option Nat :=
  (List.range 16).find? fun p => (s.parcel p).isOpen && (s.parcel p).clusters.contains c
/-- The parcel that holds subchannel `x`. -/
def State.subchOwner (x : Nat) (s : State) : Option Nat :=
  (List.range 16).find? fun p => (s.parcel p).isOpen && (s.parcel p).subchs.contains x
/-- The logical index of physical cluster `c` in its parcel. -/
def Parcel.logicalOf (c : Nat) (q : Parcel) : Nat := let i := q.clusters.idxOf c; if q.paired then i / 2 else i
/-- Number of parcels that are open (R12). -/
def State.openParcels (s : State) : Nat := (s.parcels.filter Parcel.isOpen).length
/-- The parcel's size: working memory and snapshot area (R250, Table 11.2). -/
def Parcel.size (q : Parcel) : Nat := q.subchs.length / 4 * 2 ^ 34 - 2 * 2 ^ 20 * q.logical
/-- First offset of the snapshot area (Table 11.2). -/
def Parcel.snapBase (q : Parcel) : Nat := q.size - 2621440 * q.logical

/-! Contexts. -/

/-- A context is started. -/
def Context.started (x : Context) : Bool := x.state == 2
/-- The context that runs in the parcel now, if it is started and the chain is not lost to it. -/
def State.runner (p : Nat) (s : State) : Option (Nat × Context) :=
  match (s.parcel p).running with
  | some c => if (s.ctx p c).started then some (c, s.ctx p c) else none
  | none => none
/-- What a context has on logical cluster `k`. -/
def Context.on (k : Nat) (x : Context) : CtxCluster := x.clusters.getD k CtxCluster.reset
/-- Change what a context has on logical cluster `k`. -/
def Context.modOn (k : Nat) (g : CtxCluster → CtxCluster) (x : Context) : Context :=
  { x with clusters := x.clusters.modify k g }
/-- `CLUSTERS` of a context's image. -/
def Context.width (x : Context) : Nat := match x.image with | some i => i.ledger.clusters | none => 0
/-- `ROLE` of a context's image. -/
def Context.role (x : Context) : Nat := match x.image with | some i => i.ledger.role | none => 0
/-- `HOLDS_SUM` of a context's image (Table 2.4). -/
def Context.holdsSum (x : Context) : Bool := match x.image with | some i => i.ledger.flags.testBit 0 | none => false
/-- The context has an open round. -/
def Context.roundOpen (x : Context) : Bool := match x.round with | some r => r.outcome.isNone | none => false
/-- Tile rows of a context's image: first row and count. -/
def Context.rows (x : Context) : Nat × Nat :=
  match x.image with | some i => (i.ledger.shelfRowFirst, i.ledger.shelfRowCount) | none => (0, 0)

/-- A logical stake belongs to a context: its loaded image declares it (R64). -/
def Context.declares (x : Context) (stake : Nat) : Bool :=
  match x.image with | some i => i.stakes.any (·.stake == stake) | none => false

/-! The shelf. -/

/-- Tile row `r`; a stale row reads as empty (R52). -/
def Cluster.row (r : Nat) (k : Cluster) : Row := (tget r k.rows).getD Row.reset
/-- Put tile row `r`. -/
def Cluster.putRow (r : Nat) (w : Row) (k : Cluster) : Cluster := { k with rows := tset r w k.rows }
/-- Invalidate tile row `r`: it reads empty, and its saturation bit clears (R81, R254). -/
def Cluster.dropRow (r : Nat) (k : Cluster) : Cluster :=
  { k with rows := tdel r k.rows, satMap := k.satMap &&& ~~~(BitVec.twoPow 256 r), satOwner := tdel r k.satOwner }
/-- Invalidate every row that satisfies a test. -/
def Cluster.dropRows (t : Nat → Row → Bool) (k : Cluster) : Cluster :=
  (List.range 256).foldl (fun k r => match tget r k.rows with | some w => if t r w then k.dropRow r else k | none => k) k
/-- The saturation map as the status of context `c` shows it: the rows that saturated under its ownership (R81). -/
def Cluster.satMapOf (c : Nat) (k : Cluster) : Nat :=
  maskOf ((bitsOf 256 k.satMap.toNat).filter fun r => tget r k.satOwner == some c)
/-- Accumulator of a column. -/
def Row.at (j : Nat) (w : Row) : BitVec 64 := w.acc.getD j 0
/-- Write of a 64-byte line store stamps the epoch; the model keeps the stores by value, so a bump empties them (R254, R255). -/
def bumpEpoch (e : Nat) : Nat := if e = 65535 then 1 else e + 1

/-- Invalidate the bench stores and the scratch of a cluster (Table 11.4). -/
def Cluster.dropStores (k : Cluster) : Cluster :=
  { k with benches := [], scratch := [], benchEpoch := bumpEpoch k.benchEpoch, scratchEpoch := bumpEpoch k.scratchEpoch }

/-! Stakes (R64 to R67). -/

/-- The test of a wait (R65). -/
def waitMet (v want : BitVec 32) : Bool := decide ((v - want).toNat < 2 ^ 31)
/-- Local stake `x` of logical cluster `k`. -/
def State.stake (p k x : Nat) (s : State) : Option Stake := tget x (s.lead p k).stakes
/-- Value of logical stake `i` (R46). -/
def State.stakeVal (p i : Nat) (s : State) : BitVec 32 :=
  match s.stake p (i / 128) (i % 128) with | some k => k.value | none => 0
/-- A signal to logical stake `i` (R65); a stake that is not allocated takes none. -/
def State.signal (p i add : Nat) (s : State) : State :=
  s.modLogical p (i / 128) fun k =>
    match tget (i % 128) k.stakes with
    | some st => { k with stakes := tset (i % 128) { st with value := st.value + BitVec.ofNat 32 add } k.stakes }
    | none => k
/-- A signal of a queue or node of context `c`: only to a stake of that context (R46, R66). -/
def State.signalCtx (p c i add : Nat) (s : State) : State :=
  match s.stake p (i / 128) (i % 128) with
  | some st => if st.owner = c then s.signal p i add else s
  | none => s
/-- A station may signal this logical stake of context `c` (R67). -/
def State.remoteOk (p c i : Nat) (s : State) : Bool :=
  match s.stake p (i / 128) (i % 128) with | some st => st.remoteEn && st.owner == c | none => false
/-- Allocate a context's declared stakes and set them to zero (R64). -/
def State.allocStakes (p c : Nat) (l : List StakeDecl) (s : State) : State :=
  l.foldl (fun t d => t.modLogical p (d.stake / 128) fun k =>
    { k with stakes := tset (d.stake % 128) { value := 0, owner := c, remoteEn := d.remoteEn } k.stakes }) s
/-- Release a context's stakes (R64). -/
def State.freeStakes (p c : Nat) (s : State) : State :=
  s.modClusters (s.parcel p).clusters fun k => { k with stakes := k.stakes.filter fun x => x.2.owner != c }

/-! Fault words (R294, R295, R199). -/

/-- The VFs that R199 allows to see a fault word: those whose parcel holds the unit, or all for module and tray. -/
def State.seesFault (w : BitVec 32) (p : Nat) (s : State) : Bool :=
  match fwLevel w with
  | 1 => fwUnit w / 8 == p
  | 2 => s.ownerOf (fwUnit w) == some p
  | 3 => fwUnit w == p
  | _ => true

/-- Raise a fault word: `LAST_FAULT`, `EV_FAULT` to PF0, to management and to each VF that R199 allows (R295). -/
def State.raiseFault (w : BitVec 32) (s : State) : State :=
  let ev := fun (n : Nat) (t : State) =>
    (t.modFn n fun f => { f with lastFault := w, lastFaultChain := s.now }).evFn n 0x1401 [w.toNat, s.now]
  let t := ev 0 s
  let t := (List.range 16).foldl (fun t p => if s.seesFault w p then ev (p + 1) t else t) t
  t.evMgmt 0x1401 [w.toNat, s.now]

/-- A context faults at once with a word already raised: its engines halt, and release and invalidation wait for the chain boundary
(Tables 11.3, 14.5). -/
def State.faultCtxWith (p c : Nat) (w : BitVec 32) (s : State) : State :=
  s.modCtx p c fun x => if x.state = 0 || x.state = 5 then x else
    { x with state := 5, fault := w, pendRelease := x.started || x.pendStart || x.pendRelease, pendStart := false, pendStop := false, pendFinish := false }

/-- A fault that names a context (R296): the word is raised, and the context faults. -/
def State.faultCtx (p c cause : Nat) (s : State) : State :=
  if (s.ctx p c).started then
    let w := faultWord 1 (p * 8 + c) cause
    (s.raiseFault w).faultCtxWith p c w
  else s

/-! Chest slots and sessions (R223, R226, R246, R209). -/

/-- Causes that `EV_KEY_DESTROYED` carries, numbered in the order of Table 10.11. -/
inductive KeyCause where
  | command | sessionEnd | parcelClose | measurement | lifeCycle | blob
  deriving DecidableEq, Repr

/-- Number of a cause. -/
def KeyCause.code : KeyCause → Nat
  | .command => 0 | .sessionEnd => 1 | .parcelClose => 2 | .measurement => 3 | .lifeCycle => 4 | .blob => 5

/-- Absolute slot number of parcel slot `i` (R223). -/
def parcelSlot (p i : Nat) : Nat := 128 + 16 * p + i

/-- Slot `i` is filled. -/
def State.slotFilled (i : Nat) (s : State) : Bool := (tget i s.chest.slots).isSome
/-- The value of slot `i`, its two shares combined (R226); an empty slot has the value zero. -/
def State.slotVal (i : Nat) (s : State) : BitVec 1024 :=
  match tget i s.chest.slots with | some k => k.share0 ^^^ k.share1 | none => 0
/-- The attribute word of slot `i`; zero when empty (R224). -/
def State.slotAttrs (i : Nat) (s : State) : BitVec 32 :=
  match tget i s.chest.slots with | some k => k.attr | none => 0
/-- The value of slot `i` as a 256-bit key. -/
def State.slotKey (i : Nat) (s : State) : Key := (s.slotVal i).setWidth 256

/-- Fill a slot: the second share is drawn from the DRBG (R226). -/
def State.fillSlot (i : Nat) (attr : BitVec 32) (v : BitVec 1024) (s : State) : State :=
  let d := s.fresh
  { s.drawn with
    chest := { s.chest with slots := tset i { attr, share0 := v ^^^ d, share1 := d } s.chest.slots } }

/-- Empty a slot without a report (R226). -/
def State.emptySlot (i : Nat) (s : State) : State :=
  { s with chest := { s.chest with slots := tdel i s.chest.slots, blobs := s.chest.blobs.filter (· != i) } }

/-- Destroy a filled slot and report it (R226, R246): a parcel-world slot to its VF, and to PF0 without the cause; any other to PF0
and management. -/
def State.destroySlot (i : Nat) (why : KeyCause) (s : State) : State :=
  if s.slotFilled i then
    let t := s.emptySlot i
    if 128 ≤ i then (t.evFn ((i - 128) / 16 + 1) 0x1001 [i, 2, why.code]).evPf 0x1001 [i, 2]
    else
      let world := bits 5 4 (s.slotAttrs i).toNat
      (t.evPf 0x1001 [i, world, why.code]).evMgmt 0x1001 [i, world, why.code]
  else s

/-- The chest serves a use of a slot: filled, the master's bit, the life-cycle bit (R225); slot 0 is locked once the boot ROM has read it (R228). -/
def State.slotUse (i master : Nat) (s : State) : Bool :=
  s.slotFilled i && !(i == 0 && s.chest.lock0) && (s.slotAttrs i).toNat.testBit (16 + master) && (s.slotAttrs i).toNat.testBit (24 + s.flash.lifecycle)

/-- End function `n`'s session (R209): the four keys are destroyed, the channels stop, and an ATTACHED parcel becomes DETACHED at
the next chain boundary (R215), with the cause `why` of `EV_PARCEL_STATE`. -/
def State.endSession (n why : Nat) (s : State) : State :=
  if (s.fn n).session then
    let t := s.modFn n fun f => { f with session := false, bounce := { f.bounce with live := false, next := none } }
    let t := [1, 2, 3, 4].foldl (fun t i => t.destroySlot (parcelSlot (parcelOf n) i) .sessionEnd) t
    t.modParcel (parcelOf n) fun q => if q.state = 2 && q.pendDetach.isNone then { q with pendDetach := some why } else q
  else s

/-- Set a parcel's state and report the change with its cause (R214): 0 command, 1 session end, 2 drawer close. -/
def State.setParcelState (p v why : Nat) (s : State) : State :=
  (s.modParcel p fun q => { q with state := v }).evBoth p 0x0901 [p, (s.parcel p).state, v, why]

/-! Responses (R205). -/

/-- Queue the response to a taken request. -/
def State.respond (n : Nat) (t : Taken) (status : Nat) (body : Bytes) (s : State) : State :=
  s.modFn n fun f => { f with
    unanswered := f.unanswered - 1
    responses := f.responses ++
      [{ opcode := t.opcode, tag := t.tag, gen := t.gen, status := status, sealed := t.sealed, indirect := 40 < body.length, reqIdx := t.idx, body := body }] }

/-- Send a message over the SMBus (R329, R330): not while the port is fenced; it waits while there is no partner. -/
def State.sendSmbus (o : Output) (b : Bytes) (s : State) : State :=
  let k := s.smbus
  if k.fenced then { s with smbus := { k with discards := k.discards + 1 } }
  else if k.noPartner then { s with smbus := k.hold b }
  else { s with smbus := { k with transfer := some b, retries := 0 } }.emit o

/-- Answer a management request on the path that it came by (R323). -/
def State.answerMgmt (m : MgmtMsg) (op status : Nat) (body : Bytes) (s : State) : State :=
  let o := Output.mgmtResponse m.path op m.tag status body
  match m.path with
  | .tls _ => s.emit o
  | .mctp => s.sendSmbus o (mgmtHeader op m.tag status 1 body.length ++ body)

/-! The end of a context. -/

/-- Invalidate the rows that context `c` holds (R56). -/
def State.dropHeld (p c : Nat) (s : State) : State :=
  s.modClusters (s.parcel p).clusters (Cluster.dropRows fun _ w => rowHeld w.ctrl && rowOwner w.ctrl == c)

/-- The end of a running context: stores invalidated, modulus table and control block cleared, engines empty (Table 11.4, R254). -/
def State.endEngines (p c : Nat) (s : State) : State :=
  let t := s.modCtx p c fun x => { x with clusters := x.clusters.map fun k =>
    { k with nodes := [], queues := [], generator := none } }
  if (s.parcel p).running = some c then
    t.modClusters (s.parcel p).clusters fun k => { k.dropStores with
      moduli := [], inflight := [], weights := none, active := [], shadow := none, shadowW := [], pairStall := false }
  else t

/-- Cluster clocks per rod now: half while throttled (R42) or before ready (R280). -/
def State.rodCycles (s : State) : Nat :=
  if s.boot.ready && !s.clock.throttle then rodCyclesOf s.flash.variant else rodCyclesOf s.flash.variant / 2

end Sys2Proof.Machine
end

