-- ==== Sys2Proof/Machine/Port.lean ====
section
/-! DEFINITION. The PCIe port: BAR0 registers, opening and closing drawers, taking request slots, writing responses and events, reset
events, link training and VF enabling (R195 to R210, R216 to R218). -/

namespace Sys2Proof.Machine

/-! Drawers. -/

/-- Drawers are offered: from early service if the module is configured for it, and otherwise from ready (R201). -/
def State.offered (s : State) : Bool := s.boot.ready || (s.boot.early && (s.boot.stage == 0x30 || s.boot.stage == 0x40))

/-- A function can be written: PF0, or an enabled VF. -/
def State.reachable (n : Nat) (s : State) : Bool := n == 0 || (s.fn n).present

/-- The drawer opens (R201). -/
def Fn.opened (f : Fn) : Fn :=
  { f with active := true, openHeld := false, reqHead := 0, reqTail := 0, respHead := 0, respTail := 0, msixSent := false }

/-- GEN of the next generation: one more, skipping 0 (R201). -/
def nextGen (g : Nat) : Nat := if (g + 1) % 2 ^ 16 = 0 then 1 else (g + 1) % 2 ^ 16

/-- The drawer of function `n` closes (R201): GEN rises, the session ends, slots not taken are forgotten. `why` is the cause
that a later detachment reports. -/
def State.closeDrawer (n why : Nat) (s : State) : State :=
  if (s.fn n).enable then
    (s.modFn n fun f => { f with
      enable := false, active := false, openHeld := false, gen := nextGen f.gen, unread := [] }).endSession n why
  else s

/-- `ENABLE` = 1: the drawer opens, or the write is held until drawers are offered (R201). -/
def State.openDrawer (n : Nat) (s : State) : State :=
  if (s.fn n).enable then s
  else s.modFn n fun f => if s.offered then { f with enable := true }.opened else { f with enable := true, openHeld := true }

/-- Open every drawer whose `ENABLE` write is held, once drawers are offered (R201). -/
def State.openHeldDrawers (s : State) : State :=
  if s.offered then { s with fns := s.fns.map fun f => if f.openHeld then f.opened else f } else s

/-- A write of `DRAWER_CTRL` (Table 9.3, R198). -/
def State.writeCtrl (n : Nat) (enable irqEn : Bool) (ring : Nat) (s : State) : State :=
  let t := s.modFn n fun f =>
    let f := { f with irqEn := irqEn }
    if ring = f.ringLog2 then f
    else if f.enable then { f with cfgErr := true }
    else if 6 ≤ ring && ring ≤ 12 then { f with ringLog2 := ring }
    else { f with ringLog2 := 6, cfgErr := true }
  if enable then t.openDrawer n else t.closeDrawer n 2

/-- R201, Table 9.3. The host writes `ENABLE` = 1. -/
def execDrawerOpen (fn : Nat) (irqEn : Bool) (ringLog2 : Nat) (s : State) : Host.Outcome State Fault Refusal :=
  .next (if s.reachable fn then s.writeCtrl fn true irqEn ringLog2 else s)

/-- R201, Table 9.3. The host writes `ENABLE` = 0. -/
def execDrawerClose (fn : Nat) (irqEn : Bool) (ringLog2 : Nat) (s : State) : Host.Outcome State Fault Refusal :=
  .next (if s.reachable fn then s.writeCtrl fn false irqEn ringLog2 else s)

/-! Taking requests (R202, R203, R208, R210). -/

/-- Slots in each ring. -/
def Fn.ring (f : Fn) : Nat := 2 ^ f.ringLog2

/-- Bytes 0 to 7 of a request slot, the additional data of its seals (R210). -/
def slotHeader (x : Slot) : Bytes := le 2 x.opcode ++ le 2 x.tag ++ le 2 x.gen ++ le 1 x.flags ++ le 1 x.reserved

/-- A drawer nonce (R210): kind, generation and index. -/
def drawerNonce (kind gen idx : Nat) : Bytes := le 4 kind ++ le 4 gen ++ le 4 idx

/-- The bytes of a lot image's trailer (Table 10.6). -/
def trailerBytes (t : Trailer) : Bytes :=
  le 4 t.magic ++ le 1 t.version ++ le 1 t.mode ++ le 2 t.verifySlot ++ le 48 t.digest.toNat ++ le 8 t.reserved
    ++ padTo 96 t.signature

/-- The bytes that a payload has outside the module: as written, or a lot image's leading bytes, image and trailer. -/
def payloadRaw : Payload → Bytes
  | .bytes b => b
  | .lot h i => h ++ Config.imageBytes i ++ trailerBytes i.trailer

/-- The opcodes of Table 9.11. -/
def drawerOpcodes : List Nat :=
  [0x01, 0x02, 0x03, 0x04, 0x05, 0x06, 0x07, 0x10, 0x11, 0x12, 0x20, 0x21, 0x22, 0x23, 0x24, 0x30, 0x31, 0x32, 0x33, 0x34, 0x35,
   0x40, 0x41, 0x42, 0x50, 0x51, 0x52, 0x60, 0x61, 0x70, 0x71]

/-- The sealing check of R210 for function `n`: a refusing status, or none. The tag of a lot payload is taken over its
ciphertext, which the model forms from the image. -/
def State.sealCheck (n idx : Nat) (x : Slot) (s : State) : Option Nat :=
  let isSealed := x.flags.testBit 0
  let f := s.fn n
  if n = 0 then (if isSealed then some stNotPermitted else none)
  else if isSealed then
    if x.opcode = 0x20 then some stNotPermitted
    else if !f.session then some stNoSession
    else
      let k := s.slotKey (parcelSlot (parcelOf n) 1)
      let bodyOk := Config.gcmTag k (drawerNonce 0 f.gen idx) (slotHeader x) x.body = x.sealTag
      let ct := match x.payload with
        | .bytes b => b
        | .lot _ _ => gcmSeal k (drawerNonce 2 f.gen idx) (slotHeader x) (payloadRaw x.payload)
      let payOk := !x.flags.testBit 1 || Config.gcmTag k (drawerNonce 2 f.gen idx) (slotHeader x) ct = x.payloadTag
      if bodyOk && payOk then none else some stSeal
  else if x.opcode = 0x20 || x.opcode = 0x21 then none
  else if f.session then some stNoSession
  else if x.opcode = 0x01 || x.opcode = 0x02 then none
  else some stNoSession

/-- The body in clear. -/
def State.clearBody (n idx : Nat) (x : Slot) (s : State) : Bytes :=
  if x.flags.testBit 0 then
    gcmOpen (s.slotKey (parcelSlot (parcelOf n) 1)) (drawerNonce 0 (s.fn n).gen idx) (slotHeader x) x.body
  else x.body

/-- The payload in clear: inline in the body, or the indirect payload decrypted. -/
def State.clearPayload (n idx : Nat) (x : Slot) (s : State) : Payload :=
  if x.flags.testBit 1 then
    match x.payload with
    | .bytes b =>
      if x.flags.testBit 0 then
        .bytes (gcmOpen (s.slotKey (parcelSlot (parcelOf n) 1)) (drawerNonce 2 (s.fn n).gen idx) (slotHeader x) b)
      else .bytes b
    | .lot h i => .lot h i
  else .bytes (s.clearBody n idx x)

/-- The checks of R203, steps 1 to 3, and of the payload descriptor (R202) and the opcode (R220): a refusing status, or none. -/
def State.takeCheck (n idx : Nat) (x : Slot) (s : State) : Option Nat :=
  let f := s.fn n
  let body := s.clearBody n idx x
  let indirect := x.flags.testBit 1
  let bytes := fld 8 4 body
  let most := if x.opcode = 0x30 then 67108864 else 1048576
  if x.gen ≠ f.gen then some stGen
  else match s.sealCheck n idx x with
  | some st => some st
  | none =>
    if x.flags / 4 ≠ 0 || x.reserved ≠ 0 || (!x.flags.testBit 0 && x.sealTag ≠ 0) then some stReserved
    else if indirect && !allZero (body.drop 24) then some stReserved
    else if indirect && (bytes = 0 || most < bytes || 1048576 < fld 20 4 body || !x.readable) then some stPayload
    else if indirect && (match x.payload with | .bytes b => b.length ≠ bytes | .lot _ _ => x.opcode ≠ 0x30) then some stPayload
    else if !drawerOpcodes.contains x.opcode then some stOpcode
    else none

/-- Take one slot: `REQ_HEAD` advances, and the request joins the commands to execute or is answered with the status of the
check that it fails (R203). -/
def State.takeOne (n : Nat) (x : Slot) (s : State) : State :=
  let f := s.fn n
  let idx := f.reqHead.toNat
  let body := s.clearBody n idx x
  let t : Taken := {
    opcode := x.opcode
    tag := x.tag
    gen := f.gen
    idx := idx
    sealed := x.flags.testBit 0 && n != 0
    indirect := x.flags.testBit 1
    respMax := if x.flags.testBit 1 then fld 20 4 body else 0
    payload := s.clearPayload n idx x }
  let verdict := s.takeCheck n idx x
  let s := s.modFn n fun f => { f with reqHead := f.reqHead + 1, unanswered := f.unanswered + 1 }
  let s := match verdict with
    | some st => s.respond n t st []
    | none => s.modFn n fun f => { f with taken := f.taken ++ [t] }
  if (s.fn n).reqHead = 0 then s.endSession n 1 else s

/-- Take slots in index order while fewer than 64 commands are taken and not answered (R203). -/
def State.takeSlots (n : Nat) : Nat → State → State
  | 0, s => s
  | k + 1, s =>
    match (s.fn n).unread with
    | [] => s
    | x :: r =>
      if (s.fn n).active && (s.fn n).unanswered < 64 then
        State.takeSlots n k ((s.modFn n fun f => { f with unread := r }).takeOne n x)
      else s

/-- Take what can be taken: at most a ring of slots. -/
def State.takeAll (n : Nat) (s : State) : State := s.takeSlots n 4096

/-- R203. The host has written slots and writes `REQ_TAIL`; a value beyond the ring is ignored and sets `CFG_ERR`, and so is a
doorbell of a drawer that is not open. -/
def State.doorbell (n : Nat) (value : BitVec 32) (slots : List Slot) (s : State) : State :=
  let f := s.fn n
  if !f.active || f.ring < (value - f.reqHead).toNat then s.modFn n fun f => { f with cfgErr := true }
  else
    let want := (value - f.reqHead).toNat - f.unread.length
    (s.modFn n fun f => { f with reqTail := value, unread := f.unread ++ slots.take want }).takeAll n

/-- R203. `REQ_TAIL` doorbell. -/
def execReqTailDoorbell (fn : Nat) (value : BitVec 32) (slots : List Slot) (s : State) : Host.Outcome State Fault Refusal :=
  .next (if s.reachable fn then s.doorbell fn value slots else s)

/-- A `RESP_HEAD` write; beyond `RESP_TAIL` it is ignored and sets `CFG_ERR` (R203). -/
def State.respHeadWrite (n : Nat) (value : BitVec 32) (s : State) : State :=
  s.modFn n fun f =>
    if f.active && (value - f.respHead).toNat ≤ (f.respTail - f.respHead).toNat then
      { f with respHead := value, msixSent := false }
    else { f with cfgErr := true }

/-- R203, R207. `RESP_HEAD` doorbell. -/
def execRespHeadDoorbell (fn : Nat) (value : BitVec 32) (s : State) : Host.Outcome State Fault Refusal :=
  .next (if s.reachable fn then s.respHeadWrite fn value else s)

/-! Registers (R198). -/

/-- The two halves of a base register: a write of the high half takes effect with the low half written before (R198). -/
def writeBase (old : BitVec 64) (low : BitVec 32) (offset size : Nat) (v : BitVec 64) : BitVec 64 × BitVec 32 :=
  if size = 8 then (v, low)
  else if offset % 8 = 0 then (old, v.setWidth 32)
  else (BitVec.ofNat 64 (low.toNat + (v.toNat % 2 ^ 32) * 2 ^ 32), low)

/-- Send the MSI-X message that waits in the PBA once the vector is unmasked. -/
def State.msixFlush (n : Nat) (s : State) : State :=
  let f := s.fn n
  if f.msixPend && !f.msixMask then (s.modFn n fun f => { f with msixPend := false, msixSent := true }).emit (.msix n) else s

/-- A write of the MSI-X table entry (Table 9.2). -/
def Fn.writeMsix (offset size : Nat) (v : BitVec 64) (f : Fn) : Fn :=
  let cur := f.msixAddr.toNat + f.msixData.toNat * 2 ^ 64 + b2n f.msixMask * 2 ^ 96
  let sh := 8 * (offset - 0x2000)
  let new := cur - cur / 2 ^ sh % 2 ^ (8 * size) * 2 ^ sh + v.toNat % 2 ^ (8 * size) * 2 ^ sh
  { f with msixAddr := BitVec.ofNat 64 new, msixData := BitVec.ofNat 32 (new / 2 ^ 64), msixMask := new.testBit 96 }

/-- An access that is ignored, which `CFG_ERR` records (Table 9.4). -/
def Fn.ignored (f : Fn) : Fn := { f with cfgErr := true }

/-- A write of one 32-bit register (Table 9.2); one that no field takes is ignored. -/
def State.writeReg32 (n offset : Nat) (w : BitVec 32) (s : State) : State :=
  if offset = 0x10 then s.writeCtrl n (w.toNat.testBit 0) (w.toNat.testBit 1) (bits 11 8 w.toNat)
  else if offset = 0x14 then s.modFn n fun f => if w.toNat.testBit 17 then { f with cfgErr := false } else f
  else if offset = 0x18 then s.doorbell n w []
  else if offset = 0x1C then s.respHeadWrite n w
  else s.modFn n Fn.ignored

/-- A write to BAR0 (R198, Table 9.2): aligned, of 32 or 64 bits. A 64-bit access to two 32-bit registers writes both, the lower first
(DEDUCED: the registers take 64-bit accesses). Any other access is ignored. -/
def State.writeReg (n offset size : Nat) (v : BitVec 64) (s : State) : State :=
  if (size != 4 && size != 8) || offset % size != 0 then s.modFn n Fn.ignored
  else if offset < 0x10 then
    if (s.fn n).enable then s.modFn n Fn.ignored
    else if offset < 8 then
      s.modFn n fun f => let r := writeBase f.reqBase f.reqLow offset size v; { f with reqBase := r.1, reqLow := r.2 }
    else
      s.modFn n fun f => let r := writeBase f.respBase f.respLow offset size v; { f with respBase := r.1, respLow := r.2 }
  else if 0x2000 ≤ offset && offset < 0x2010 then (s.modFn n (Fn.writeMsix offset size v)).msixFlush n
  else if size = 4 then s.writeReg32 n offset (v.setWidth 32)
  else (s.writeReg32 n offset (v.setWidth 32)).writeReg32 n (offset + 4) ((v >>> 32).setWidth 32)

/-- R198. A write to a BAR0 register. -/
def execRegisterWrite (fn offset size : Nat) (value : BitVec 64) (s : State) : Host.Outcome State Fault Refusal :=
  .next (if s.reachable fn then s.writeReg fn offset size value else s)

/-- `BOOT_STATUS` (Table 9.5). -/
def State.bootStatus (s : State) : Nat :=
  s.boot.stage % 256 + s.boot.waves % 16 * 2 ^ 8 + profileCode s.boot.profile * 2 ^ 12 + s.flash.settings.profile % 2 * 2 ^ 13
    + variantCode s.flash.variant * 2 ^ 14

/-- The `RECOVERY` area (R200): readable only while `STAGE` is 0x02. -/
def State.recovery (s : State) : Bytes :=
  if s.boot.stage = 0x02 then
    le 4 0x0A5EB007 ++ le 4 s.boot.stopWord.toNat ++ le 4 (16 * s.boot.recovery.length)
      ++ s.boot.recovery.flatMap fun e => le 8 e.1 ++ le 4 e.2.1 ++ le 4 e.2.2
  else []

/-- What a 32-bit read of BAR0 returns (R198, Table 9.2). -/
def State.readReg (n offset : Nat) (s : State) : Nat :=
  let f := s.fn n
  let half := fun (v base : Nat) => v / 2 ^ (8 * (offset - base)) % 2 ^ 32
  if offset % 4 ≠ 0 then 0
  else if offset < 8 then half f.reqBase.toNat 0
  else if offset < 0x10 then half f.respBase.toNat 8
  else if offset = 0x10 then (drawerCtrl f).toNat
  else if offset = 0x14 then (drawerStatus f (if n = 0 then 0 else (s.parcel (parcelOf n)).state)).toNat
  else if offset = 0x18 then f.reqTail.toNat
  else if offset = 0x1C then f.respHead.toNat
  else if offset = 0x20 then f.reqHead.toNat
  else if offset = 0x24 then f.respTail.toNat
  else if offset = 0x100 then s.bootStatus
  else if offset = 0x104 then s.flash.bootGen % 2 ^ 32
  else if 0x108 ≤ offset && offset < 0x110 then half s.now 0x108
  else if offset = 0x110 then f.lastFault.toNat
  else if 0x118 ≤ offset && offset < 0x120 then half f.lastFaultChain 0x118
  else if 0x2000 ≤ offset && offset < 0x2010 then
    half (f.msixAddr.toNat + f.msixData.toNat * 2 ^ 64 + b2n f.msixMask * 2 ^ 96) 0x2000
  else if offset = 0x3000 then b2n f.msixPend
  else if n = 0 && 0x8000 ≤ offset then fld (offset - 0x8000) 4 s.recovery
  else 0

/-! Writing responses (R205 to R208, R210). -/

/-- The next thing to write: responses of the current generation before events (R206, R208). -/
def Fn.nextOut (f : Fn) : Option (Sum RespSlot Event) :=
  match f.responses.filter (·.gen == f.gen) with
  | r :: _ => some (.inl r)
  | [] => match f.events with | e :: _ => some (.inr e) | [] => none

/-- The function after that has been written: stale responses are dropped with it (R208). -/
def Fn.popOut (f : Fn) : Fn :=
  match f.responses.filter (·.gen == f.gen) with
  | _ :: l => { f with responses := l }
  | [] => { f with responses := [], events := f.events.drop 1 }

/-- The slot as bytes and flags before sealing: opcode, tag, generation, status, flags without `PHASE` and `SEALED`, body, and the
payload that goes to `RESP_ADDR`. -/
def slotParts (gen : Nat) : Sum RespSlot Event → Nat × Nat × Nat × Nat × Nat × Bytes × Bytes
  | .inl r =>
    if r.indirect then (r.opcode, r.tag, r.gen, r.status, 4, padTo 40 (le 4 r.body.length), r.body)
    else (r.opcode, r.tag, r.gen, r.status, 0, padTo 40 r.body, [])
  | .inr e =>
    (0xFFFF, e.tag, gen, 0, 2, eventRecord e.code e.chain e.data, [])

/-- Write one response or event slot, its payload and the MSI-X message (R205, R207, R210). -/
def State.writeSlot (n : Nat) (o : Sum RespSlot Event) (s : State) : State :=
  let f := s.fn n
  let j := f.respTail.toNat
  let sealIt := n != 0 && f.session && (match o with | .inl r => r.sealed | .inr _ => true)
  let hide := n != 0 && !f.session && (match o with | .inl r => r.sealed | .inr _ => false)
  let (op, tag, gen, st, fl, body0, pay0) := slotParts f.gen o
  let body := if hide then zeros 40 else body0
  let pay := if hide then zeros pay0.length else pay0
  let flags := fl + b2n sealIt + (if j / f.ring % 2 = 0 then 128 else 0)
  let aad := le 2 op ++ le 2 tag ++ le 2 gen ++ le 1 st ++ le 1 flags
  let k := s.slotKey (parcelSlot (parcelOf n) 2)
  let idx := match o with | .inl r => r.reqIdx | .inr _ => 0
  let ct := if sealIt then gcmSeal k (drawerNonce 1 f.gen j) aad body else body
  let ctp := if sealIt then gcmSeal k (drawerNonce 3 f.gen idx) aad pay else pay
  let sealTag : BitVec 128 := if sealIt then Config.gcmTag k (drawerNonce 1 f.gen j) aad ct else 0
  let payTag : BitVec 128 := if sealIt then Config.gcmTag k (drawerNonce 3 f.gen idx) aad ctp else 0
  let s := if pay.isEmpty then s else s.emit (.respPayload n ctp payTag)
  let s := s.emit (.ringSlot n (j % f.ring) op tag gen st flags ct sealTag)
  let s := s.modFn n fun f => { f.popOut with respTail := f.respTail + 1 }
  let s :=
    if f.irqEn && !f.msixSent then
      if f.msixMask then s.modFn n fun f => { f with msixPend := true }
      else (s.modFn n fun f => { f with msixSent := true }).emit (.msix n)
    else s
  if (s.fn n).respTail = 0 then s.endSession n 1 else s

/-- Events wait while the function's parcel is DETACHED: they are delivered after re-attachment (R217). -/
def State.holdsEvents (n : Nat) (s : State) : Bool := n != 0 && (s.parcel (parcelOf n)).state == 3

/-- R206. One response or event slot is written while the ring has room. -/
def execResponseWrite (fn : Nat) (s : State) : Host.Outcome State Fault Refusal :=
  let f := s.fn fn
  if f.active && (f.respTail - f.respHead).toNat < f.ring then
    match f.nextOut with
    | some (.inl r) => .next (s.writeSlot fn (.inl r))
    | some (.inr e) => .next (if s.holdsEvents fn then s else s.writeSlot fn (.inr e))
    | none => .next (s.modFn fn fun f => { f with responses := [] })
  else .next s

/-! Resets, training and virtual functions (R195, R197, R216). -/

/-- The functions that a reset event includes (Table 9.14). -/
def resetScope (s : State) : ResetEvent → List Nat
  | .perst => List.range 17
  | .hotReset => List.range 17
  | .flr n => if n = 0 then List.range 17 else [n]
  | .d3hot n => if n = 0 then List.range 17 else [n]
  | .vfEnableClear => (List.range 17).drop 1
  | .numVfs k => if k < s.host.numVfs then (List.range 17).drop (k + 1) else []

/-- The VFs enabled after a reset event; Table 9.14 lets only its second row disable one. -/
def resetVfs (s : State) : ResetEvent → Nat
  | .vfEnableClear => 0
  | .numVfs k => min k 16
  | .perst => s.host.numVfs
  | .hotReset => s.host.numVfs
  | .flr _ => s.host.numVfs
  | .d3hot _ => s.host.numVfs

/-- Set the number of enabled VFs (R195). -/
def State.setVfs (k : Nat) (s : State) : State :=
  { s with
    host := { s.host with numVfs := k }
    fns := s.fns.mapIdx fun i f => if i = 0 then f else { f with present := i ≤ k } }

/-- R216, Table 9.14. A reset event closes the drawers in its scope; nothing else of the module changes. -/
def execFunctionReset (ev : ResetEvent) (s : State) : Host.Outcome State Fault Refusal :=
  .next (((resetScope s ev).foldl (fun t n => t.closeDrawer n 2) s).setVfs (resetVfs s ev))

/-- Lane rate in GT/s times width over the full link's. -/
def scaleShare (rate width h : Nat) : Nat := h * (rate * width) / (64 * 16) / 64 * 64

/-- R197. The PCIe link has trained: below full bandwidth, shares scale and `EV_HOST_LINK` is raised; at full rate the set shares return
at the next chain boundary. -/
def execPcieLinkTrained (rateGt width : Nat) (s : State) : Host.Outcome State Fault Refusal :=
  let t := { s with host := { s.host with linkUp := true, rateGt := rateGt, width := width } }
  if rateGt * width < 64 * 16 then
    .next (({ t with host := { t.host with scaled := true, scaledNext := false } }.evPf 0x0903 [rateGt, width]).evMgmt 0x0903 [rateGt, width])
  else .next { t with host := { t.host with scaledNext := t.host.scaled } }

/-- The bounce share of VF `n` in bytes per rod and direction, scaled to the trained link (R196, R197). -/
def State.portShare (n : Nat) (s : State) : Nat :=
  if s.host.scaled then scaleShare s.host.rateGt s.host.width (s.fn n).hostShare else (s.fn n).hostShare

/-- R195. The host sets VF Enable with NumVFs `n`. -/
def execVfEnable (n : Nat) (s : State) : Host.Outcome State Fault Refusal :=
  .next (if n ≤ 16 then
    (((List.range 17).drop (n + 1)).foldl (fun t i => t.closeDrawer i 2) s).setVfs n else s)

end Sys2Proof.Machine
end

