-- ==== Sys2Proof/Machine/Reports.lean ====
section
/-! DEFINITION. The records that the module forms and signs: the plat record (R284), the measurement digest (R238), attestation
reports (R237) and key certificates (R242). -/

namespace Sys2Proof.Machine

/-- The wave of cluster `c` (R280). -/
def waveOf (c : Nat) : Nat := c % 16 / 2 + 1
/-- The die of cluster or subchannel `c`: 16 of each on a die (R8, R9). -/
def dieOf (c : Nat) : Nat := c / 16

/-- The plat record in force, 1,536 bytes (Tables 13.5 and 13.6). -/
def State.platBytes (s : State) : Bytes :=
  let p := s.plat
  let working := p.clusters.filter fun c => c.state == 0 || c.state == 1
  let floor := working.foldl (fun m c => min m (State.benches.popcount64 c.benchMask.toNat)) 64
  let header := cat [le 4 0x0A5E91A7, le 2 1, le 2 1536, le 1 (variantCode s.flash.variant), le 1 (profileCode s.boot.profile),
       le 1 working.length, le 1 s.clustersInUse, le 1 (p.subchs.filter fun x => x == 0 || x == 1).length,
       le 1 s.subchsInUse, le 1 floor, le 1 (b2n p.cold), le 4 p.revision, le 4 p.coldBoots, zeros 40]
  let cs := (List.range 64).flatMap fun c =>
    let e := s.platCluster c
    le 1 e.state ++ le 1 (waveOf c) ++ le 1 (s.benches c) ++ zeros 5 ++ le 8 e.benchMask.toNat
  let xs := (List.range 64).flatMap fun x => le 1 (p.subchs.getD x 2) ++ le 1 (x / 4) ++ zeros 2
  let ls := (List.range 48).flatMap fun l => le 1 (p.links.getD l 0) ++ le 1 (p.lanesRetired.getD l 0).toNat ++ zeros 2
  header ++ cs ++ xs ++ ls

/-- Image digest, role and mode of a context for the measurement; zero when empty (R238). -/
def Context.measured (x : Context) : Bytes :=
  match x.image with
  | some i => if x.state = 0 then zeros 50 else le 48 x.imageDigest.toNat ++ le 1 i.ledger.role ++ le 1 i.trailer.mode
  | none => zeros 50

/-- The measurement digest of parcel `p` (R238); zero for a CLOSED parcel (R237). -/
def State.measurement (p : Nat) (s : State) : Digest :=
  let q := s.parcel p
  if q.state = 0 then 0 else
  Config.sha384 (ascii "axulo meas v1" ++ le 48 s.boot.fwDigest.toNat ++ le 1 s.flash.lifecycle ++ le 4 q.grant.toNat
    ++ (List.range 8).flatMap fun k => (q.ctx k).measured)

/-- The certificate chain with the AliasID certificate (R229, Table 10.7), at most 4,096 bytes. -/
def State.aliasChain (s : State) : Bytes :=
  (Config.certChain 0 s.chest.identity s.boot.fwDigest s.boot.fwCounter s.flash.lifecycle s.boot.moduleId).take 4096

/-- The field debug port is open (R232). -/
def State.debugOpen (s : State) : Bool := s.flash.lifecycle == 1 || s.flash.lifecycle == 2 || s.flash.lifecycle == 4

/-- An AliasID signature (slot 3) over a message. -/
def State.aliasSign (m : Bytes) (s : State) : Bytes := signature ((s.slotVal 3).setWidth 384) m s.draws

/-- Bytes 0 to 719 of an attestation report of parcel `p` (Table 10.7). -/
def State.reportBody (p : Nat) (data : Digest) (s : State) : Bytes :=
  let q := s.parcel p
  let closed := q.state == 0
  let chain := s.aliasChain
  cat [le 4 0x0A5EA77E, le 2 1, le 2 (816 + chain.length), le 2 (s.boot.moduleId % 2 ^ 14), le 1 p,
       le 1 s.flash.lifecycle, le 1 (variantCode s.flash.variant), le 1 (profileCode s.boot.profile),
       le 2 (b2n q.early + b2n s.debugOpen * 2 + b2n (s.slotFilled (parcelSlot p 6)) * 4), le 4 s.flash.bootGen,
       le 4 s.boot.fwVersion, le 4 s.boot.fwCounter, le 4 (if closed then 0 else q.grant.toNat),
       le 8 s.now, le 48 s.boot.fwDigest.toNat, le 48 (Config.sha384 s.platBytes).toNat, le 48 (s.measurement p).toNat,
       le 48 data.toNat, le 32 (if closed then 0 else q.sealedPub.toNat), (List.range 8).flatMap (fun k =>
      let x := q.ctx k
      match x.image with
      | some i => if x.state = 0 || closed then zeros 56 else
      le 48 x.imageDigest.toNat ++ le 1 x.state ++ le 1 i.ledger.role ++ le 1 i.trailer.mode ++ zeros 5
      | none => zeros 56), le 2 chain.length, zeros 6]

/-- An attestation report of parcel `p` with its report data (R237). -/
def State.report (p : Nat) (data : Digest) (s : State) : Bytes :=
  let b := s.reportBody p data
  b ++ s.aliasSign b ++ s.aliasChain

/-- The AliasID key may be used (R225). -/
def State.canSign (s : State) : Bool := s.slotUse 3 1

/-- A chest draw can be served (R266, R269): the DRBG is instantiated and not stalled, and a source is not failed, or the test
pattern feeds it (R268). -/
def State.canDraw (s : State) : Bool :=
  let e := s.entropy
  e.instantiated && !e.stalled && (e.pattern.isSome || e.primary.state != 4 || e.fallback.state != 4)

/-- The public half of X25519 slot `i`. -/
def State.slotPub (i : Nat) (s : State) : BitVec 256 := Config.x25519Pub (s.slotKey i)

/-- A key certificate (Table 10.8): purpose 1 is the parcel's sealed key, 2 the module's unwrap key (R242). -/
def State.certificate (p purpose : Nat) (nonce : Bytes) (s : State) : Bytes :=
  let slot := if purpose = 1 then parcelSlot p 0 else 5
  let chain := s.aliasChain
  let b := cat [le 4 0x0A5ECE47, le 1 1, le 1 purpose, le 1 3, le 1 s.flash.lifecycle, le 4 (s.slotAttrs slot).toNat,
    le 2 (s.boot.moduleId % 2 ^ 14), le 1 (if purpose = 1 then p else 0xFF), zeros 1, le 4 s.flash.bootGen,
    le 2 chain.length, zeros 2, le 8 s.now, le 32 (s.slotPub slot).toNat,
    le 48 (if purpose = 1 then (s.measurement p).toNat else 0), padTo 32 nonce]
  b ++ s.aliasSign b ++ chain

/-- The life-cycle states in which the keys that the chest fills by itself may be used: MANUFACTURED to RETURNED. -/
def lcWork : Nat := 30

end Sys2Proof.Machine
end

