-- ==== Sys2Proof/Machine/Drawer.lean ====
section
/-! DEFINITION. How a drawer command executes (R203 to R205, R214, R220), and the module commands: `module.info`, `module.plat`,
`spill.map`, `host.shares`, `fabric.shares`. -/

namespace Sys2Proof.Machine

/-- What the checks and the effect of a drawer command come to. -/
inductive Verdict where
  /-- It waits: a long command runs on an object that it names (R204). -/
  | wait
  /-- It is refused with a status and, where a rule gives one, a record. -/
  | refuse (status : Nat) (body : Bytes)
  /-- It executes to its end with a response. -/
  | done (body : Bytes) (s : State)
  /-- It executes, and is answered when it ends (R204). -/
  | long (s : State)

/-- Refuse with a status only. -/
def Verdict.no (status : Nat) : Verdict := .refuse status []

/-- The first failed check's status, in order. -/
def firstFail (l : List (Bool × Nat)) : Option Nat := (l.find? (·.1)).map (·.2)

/-- Run the checks in order, then the effect. -/
def guarded (l : List (Bool × Nat)) (k : Verdict) : Verdict :=
  match firstFail l with
  | some st => .no st
  | none => k

/-- The front taken request of function `n`, if it is this command. -/
def State.front (n op : Nat) (s : State) : Option Taken :=
  match (s.fn n).taken with
  | t :: _ => if t.opcode = op then some t else none
  | [] => none

/-- The state with the front taken request of function `n` removed. -/
def State.popTaken (n : Nat) (s : State) : State := s.modFn n fun f => { f with taken := f.taken.drop 1 }

/-- A response of this size fits: 40 bytes lie in the slot, more need `RESP_MAX` (R205). -/
def Taken.fits (t : Taken) (body : Bytes) : Bool := body.length ≤ 40 || body.length ≤ t.respMax

/-- Execute the front command of function `n` if it is `op`; commands execute in the order in which they were taken (R204). -/
def State.runDrawer (n op : Nat) (f : Taken → State → Verdict) (s : State) : State :=
  match s.front n op with
  | none => s
  | some t =>
    let u := s.popTaken n
    match f t u with
    | .wait => s
    | .refuse st body => ((u.respond n t st body)).takeAll n
    | .done body v => if t.fits body then (v.respond n t stOk body).takeAll n else (u.respond n t stRespSpace (le 4 body.length)).takeAll n
    | .long v => v.takeAll n

/-- A payload of exactly `n` bytes (R202): inline payloads are zero-padded. -/
def Taken.plain (n : Nat) (t : Taken) : Except Nat Bytes :=
  match t.payload with
  | .lot _ _ => .error stPayload
  | .bytes b =>
    if t.indirect then (if b.length = n then .ok b else .error stPayload)
    else if 40 < n then .error stPayload
    else if allZero (b.drop n) then .ok (padTo n b) else .error stReserved

/-- Go on with a payload of exactly `n` bytes. -/
def Taken.withPayload (n : Nat) (t : Taken) (k : Bytes → Verdict) : Verdict :=
  match t.plain n with
  | .error st => .no st
  | .ok b => k b

/-- The VF commands that a parcel state accepts (Table 9.10). -/
def stateAccepts (state op : Nat) : Bool :=
  match state with
  | 0 => [0x01, 0x02, 0x20, 0x21].contains op
  | 1 => [0x01, 0x02, 0x20, 0x21, 0x22, 0x12].contains op
  | 2 => true
  | 3 => [0x01, 0x02, 0x20, 0x21, 0x22, 0x12].contains op
  | _ => [0x01, 0x02, 0x12].contains op

/-- The commands that early service refuses (R220). -/
def notEarly (op : Nat) : Bool := [0x03, 0x05, 0x06, 0x40, 0x41, 0x42, 0x50, 0x51, 0x52, 0x60, 0x61].contains op

/-- Permission and state (R203 step 4): the functions Table 9.11 lists, early service, the parcel's state. -/
def State.gate (n op : Nat) (pf vf : Bool) (s : State) : Option Nat :=
  if (n = 0 && !pf) || (n ≠ 0 && !vf) then some stNotPermitted
  else if !s.boot.ready && notEarly op then some stNotReady
  else if n = 0 then none
  else
    let st := (s.parcel (parcelOf n)).state
    if stateAccepts st op then none else if st = 3 then some stDetached else some stParcelState

/-- Go on if permission and state allow. -/
def State.gated (n op : Nat) (pf vf : Bool) (s : State) (k : Verdict) : Verdict :=
  match s.gate n op pf vf with
  | some st => .no st
  | none => k

/-- A long command runs on parcel `p` (R204). -/
def State.parcelBusy (p : Nat) (s : State) : Bool := (s.parcel p).fillReq.isSome

/-! Module commands. -/

/-- `module.info` response (Table 9.11). -/
def State.infoBytes (s : State) : Bytes :=
  le 2 s.boot.moduleId ++ le 1 (variantCode s.flash.variant) ++ le 1 (profileCode s.boot.profile) ++ le 1 s.flash.settings.profile
    ++ le 1 s.parcelsMax ++ le 1 s.clustersInUse ++ le 1 s.subchsInUse ++ le 4 s.flash.bootGen ++ le 4 (clockKhzOf s.flash.variant)
    ++ le 2 (limitWOf s.flash.variant) ++ zeros 2 ++ le 4 s.boot.fwVersion ++ zeros 16

/-- R219. `module.info`. -/
def execModuleInfo (fn : Nat) (s : State) : Host.Outcome State Fault Refusal :=
  .next (s.runDrawer fn 0x01 fun t s => t.withPayload 0 fun _ => s.gated fn 0x01 true true (.done s.infoBytes s))

/-- R284. `module.plat`. -/
def execModulePlat (fn : Nat) (s : State) : Host.Outcome State Fault Refusal :=
  .next (s.runDrawer fn 0x02 fun t s => t.withPayload 0 fun _ => s.gated fn 0x02 true true (.done s.platBytes s))

/-- R218. `spill.map`: the area's base is 4,096-aligned and its size fixed; refused while any record is spilled. -/
def execSpillMap (fn : Nat) (s : State) : Host.Outcome State Fault Refusal :=
  .next (s.runDrawer fn 0x03 fun t s => t.withPayload 16 fun b => s.gated fn 0x03 true false <|
    guarded [(fld 0 8 b % 4096 ≠ 0 || fld 8 8 b ≠ 201326592, stArg), (!s.host.spilled.isEmpty, stSpillBusy)] <|
      .done [] { s with host := { s.host with spillBase := some (fld 0 8 b) } })

/-- The shares in force or waiting, VF1 first. -/
def State.sharesNext (s : State) : List Nat :=
  s.host.pendShares.getD ((s.fns.drop 1).map (·.hostShare))

/-- R196. `host.shares`: the sum is at most 880,000 and no share of an open parcel changes. -/
def execHostShares (fn : Nat) (s : State) : Host.Outcome State Fault Refusal :=
  .next (s.runDrawer fn 0x04 fun t s => t.withPayload 64 fun b => s.gated fn 0x04 true false <|
    let h := (List.range 16).map fun i => fld (4 * i) 4 b
    let cur := s.sharesNext
    guarded [(880000 < h.sum || (List.range 16).any fun p => (s.parcel p).isOpen && h.getD p 0 != cur.getD p 0, stShareFull)] <|
      .done [] { s with host := { s.host with pendShares := some h } })

/-- R193. `fabric.shares`: the sum is at most 12,500 and no entry of an open parcel changes. -/
def execFabricShares (fn : Nat) (s : State) : Host.Outcome State Fault Refusal :=
  .next (s.runDrawer fn 0x05 fun t s => t.withPayload 32 fun b => s.gated fn 0x05 true false <|
    let h := (List.range 16).map fun i => fld (2 * i) 2 b
    let cur := s.fabric.pendSlices.getD s.fabric.slices
    guarded [(12500 < h.sum || (List.range 16).any fun p => (s.parcel p).isOpen && h.getD p 0 != cur.getD p 0, stShareFull)] <|
      .done [] { s with fabric := { s.fabric with pendSlices := some h } })

end Sys2Proof.Machine
end

