-- ==== Sys2Proof/Machine/Mgmt.lean ====
section
/-! DEFINITION. How a management operation is taken, checked and answered (R322 to R324). -/

namespace Sys2Proof.Machine

/-- The path of a management message is open (R321, R329): its TLS session exists, or the SMBus port is not fenced. -/
def State.pathOpen (m : MgmtMsg) (s : State) : Bool :=
  !s.power.off && match m.path with
  | .tls k => s.mgmt.tls.contains k
  | .mctp => !s.smbus.fenced

/-- The most body bytes of a path (Table 15.1). -/
def mgmtMost : MgmtPath → Nat
  | .tls _ => 65536
  | .mctp => 4096

/-- Execute a management operation: header checks, then its own, then the answer (R324). `f` gives the status, the response body and the state. -/
def State.runMgmt (m : MgmtMsg) (op : Nat) (f : Bytes → State → Nat × Bytes × State) (s : State) : State :=
  if !s.pathOpen m then s
  else if m.flags ≠ 0 || m.reserved ≠ 0 then s.answerMgmt m op stReserved []
  else if mgmtMost m.path < m.body.length then s.answerMgmt m op stPayload []
  else
    let r := f m.body s
    r.2.2.answerMgmt m op r.1 r.2.1

/-- Refuse an operation. -/
def State.deny (status : Nat) (s : State) : Nat × Bytes × State := (status, [], s)

/-- Go on with a body of exactly `n` bytes. -/
def State.sized (n : Nat) (b : Bytes) (k : Nat × Bytes × State) (s : State) : Nat × Bytes × State :=
  if b.length = n then k else s.deny stPayload

end Sys2Proof.Machine
end

