-- ==== Sys2Proof/Machine/Float.lean ====
section
/-! DEFINITION. The number formats of Table 4.1 and their arithmetic (R74, R75), reduction by shifts (R77, R79), rounding (R84,
R88) and the modular arithmetic that the operations share. -/

namespace Sys2Proof.Machine

/-- A binary floating format: exponent bits and fraction bits (Table 4.1). -/
structure Fmt where
  eb : Nat
  fb : Nat
  deriving DecidableEq, Repr

/-- IEEE 754 binary32. -/
def fp32 : Fmt := ⟨8, 23⟩
/-- bf16 (Table 4.1). -/
def bf16 : Fmt := ⟨8, 7⟩
/-- IEEE 754 binary64. -/
def fp64 : Fmt := ⟨11, 52⟩

/-- Exponent bias. -/
def Fmt.bias (f : Fmt) : Nat := 2 ^ (f.eb - 1) - 1

/-- What a pattern stands for: NaN, an infinity, or plus or minus m × 2^e. -/
inductive Flt where
  | nan
  | inf (neg : Bool)
  | fin (neg : Bool) (m : Nat) (e : Int)
  deriving DecidableEq, Repr

/-- The value of a pattern; subnormal inputs are zero with their sign (R75). -/
def fdec (f : Fmt) (v : Nat) : Flt :=
  let neg := v.testBit (f.eb + f.fb)
  let ex := v / 2 ^ f.fb % 2 ^ f.eb
  let fr := v % 2 ^ f.fb
  if ex = 2 ^ f.eb - 1 then (if fr = 0 then .inf neg else .nan)
  else if ex = 0 then .fin neg 0 0
  else .fin neg (2 ^ f.fb + fr) ((ex : Int) - f.bias - f.fb)

/-- The canonical NaN (R75). -/
def fnan (f : Fmt) : Nat := (2 ^ f.eb - 1) * 2 ^ f.fb + 2 ^ (f.fb - 1)

/-- The pattern of a sign with an exponent and fraction field. -/
def fsign (f : Fmt) (neg : Bool) (v : Nat) : Nat := b2n neg * 2 ^ (f.eb + f.fb) + v

/-- m / 2^k rounded to nearest, ties to even. -/
def rneNat (m k : Nat) : Nat :=
  let q := m / 2 ^ k
  let r := m % 2 ^ k
  if k = 0 then m
  else if 2 * r > 2 ^ k || (2 * r = 2 ^ k && q % 2 = 1) then q + 1 else q

/-- The pattern of plus or minus m × 2^e, rounded to nearest even; a result that would be subnormal is zero with its sign
(R75). `more` says that the exact magnitude lies above m × 2^e by less than 2^e. -/
def fround (f : Fmt) (neg : Bool) (m : Nat) (e : Int) (more : Bool) : Nat :=
  if m = 0 then fsign f neg 0 else
  let m' := 2 * m + b2n more
  let e' := e - 1
  let q := max (e' + Nat.log2 m' - f.fb) (1 - (f.bias : Int) - f.fb)
  let r := if e' ≤ q then rneNat m' (q - e').toNat else m' * 2 ^ (e' - q).toNat
  if r < 2 ^ f.fb then fsign f neg 0 else
  let up := r ≥ 2 ^ (f.fb + 1)
  let ex := q + f.fb + f.bias + (b2n up : Nat)
  if ex ≥ 2 ^ f.eb - 1 then fsign f neg ((2 ^ f.eb - 1) * 2 ^ f.fb)
  else fsign f neg (ex.toNat * 2 ^ f.fb + (if up then 0 else r - 2 ^ f.fb))

/-- The pattern of a value. -/
def fenc (f : Fmt) : Flt → Nat
  | .nan => fnan f
  | .inf n => fsign f n ((2 ^ f.eb - 1) * 2 ^ f.fb)
  | .fin n m e => fround f n m e false

/-- The pattern of an integer times 2^e; zero is +0. -/
def fofInt (f : Fmt) (x : Int) (e : Int) : Nat := fround f (decide (x < 0)) x.natAbs e false

/-- The exact integer of a finite value at a common exponent. -/
def fscaled (neg : Bool) (m : Nat) (e lo : Int) : Int :=
  let v : Int := m * 2 ^ (e - lo).toNat
  if neg then -v else v

/-- Sum (R75). -/
def fadd (f : Fmt) (a b : Nat) : Nat :=
  match fdec f a, fdec f b with
  | .nan, _ => fnan f
  | _, .nan => fnan f
  | .inf n, .inf k => if n = k then fenc f (.inf n) else fnan f
  | .inf n, _ => fenc f (.inf n)
  | _, .inf n => fenc f (.inf n)
  | .fin n m e, .fin k l g =>
      let lo := min e g
      let x := fscaled n m e lo + fscaled k l g lo
      if x = 0 then fsign f (n && k && (m == 0) && (l == 0)) 0 else fofInt f x lo

/-- The pattern with its sign turned over. -/
def fneg (f : Fmt) (a : Nat) : Nat := a ^^^ 2 ^ (f.eb + f.fb)

/-- Difference (R75). -/
def fsub (f : Fmt) (a b : Nat) : Nat := if fdec f b = .nan then fnan f else fadd f a (fneg f b)

/-- Product (R75). -/
def fmul (f : Fmt) (a b : Nat) : Nat :=
  match fdec f a, fdec f b with
  | .nan, _ => fnan f
  | _, .nan => fnan f
  | .inf n, .inf k => fenc f (.inf (n != k))
  | .inf n, .fin k l _ => if l = 0 then fnan f else fenc f (.inf (n != k))
  | .fin n m _, .inf k => if m = 0 then fnan f else fenc f (.inf (n != k))
  | .fin n m e, .fin k l g => fround f (n != k) (m * l) (e + g) false

/-- Quotient (R75). -/
def fdiv (f : Fmt) (a b : Nat) : Nat :=
  match fdec f a, fdec f b with
  | .nan, _ => fnan f
  | _, .nan => fnan f
  | .inf _, .inf _ => fnan f
  | .inf n, .fin k _ _ => fenc f (.inf (n != k))
  | .fin n _ _, .inf k => fsign f (n != k) 0
  | .fin n m e, .fin k l g =>
      if l = 0 then (if m = 0 then fnan f else fenc f (.inf (n != k)))
      else
        let num := m * 2 ^ (2 * f.fb + 8)
        fround f (n != k) (num / l) (e - g - (2 * f.fb + 8 : Nat)) (num % l != 0)

/-- A pattern of one format as the nearest of another (R75). -/
def fconv (f g : Fmt) (a : Nat) : Nat := fenc g (fdec f a)

/-- Sum of a non-empty list in order, each addition rounded (R82). -/
def fsum (f : Fmt) : List Nat → Nat
  | [] => 0
  | a :: l => l.foldl (fadd f) a

/-! Integers. -/

/-- `rne_shift` of R84: x / 2^k rounded to nearest, ties to even. -/
def rneShift (x : Int) (k : Nat) : Int :=
  if k = 0 then x else
  let d : Int := 2 ^ k
  let q := x / d
  let r := x % d
  if 2 * r > d ∨ (2 * r = d ∧ q % 2 = 1) then q + 1 else q

/-- `align` of R84. -/
def alignTo (p : Int) (f s : Nat) : Int := if f ≤ s then p * 2 ^ (s - f) else rneShift p (f - s)

/-- `sr` of R88: x with f low bits discarded, rounded by the word r. -/
def srInt (x : Int) (f r : Nat) : Int :=
  let d : Int := 2 ^ f
  let hi := x / d
  let lo := (x % d).toNat
  let frac := if f ≤ 32 then lo * 2 ^ (32 - f) else lo / 2 ^ (f - 32)
  hi + (if r + frac ≥ 2 ^ 32 then 1 else 0)

/-- R88: fp32 to bf16, rounded by the word r. -/
def srBf16 (v r : Nat) : Nat :=
  match fdec fp32 v with
  | .nan => fnan bf16
  | .fin n 0 _ => b2n n * 2 ^ 15
  | _ => b2n (v.testBit 31) * 2 ^ 15 + (srInt ((v % 2 ^ 31 : Nat) : Int) 16 r).toNat % 2 ^ 15

/-! Moduli. -/

/-- Trailing zero bits, up to `fuel`. -/
def ctz : Nat → Nat → Nat
  | 0, _ => 0
  | n + 1, v => if v % 2 = 1 then 0 else 1 + ctz n (v / 2)

/-- s of R76. -/
def modS (p : Nat) : Nat := ctz 32 (p - 1)

/-- c of R76. -/
def modC (p : Nat) : Nat := (p - 1) / 2 ^ modS p

/-- Set bits of a number below 2^64. -/
def popcount (v : Nat) : Nat := (bitsOf 64 v).length

/-- b^e mod m, by the bits of e; `fuel` bits. -/
def powMod (m : Nat) : Nat → Nat → Nat → Nat
  | 0, _, _ => 1 % m
  | n + 1, b, e => let h := powMod m n (b * b % m) (e / 2); if e % 2 = 1 then h * b % m else h

/-- One Miller–Rabin round to a base: d odd with p - 1 = d × 2^s. -/
def mrRound (p d s b : Nat) : Bool :=
  let x := powMod p 32 b d
  x == 1 || (List.range s).any fun r => powMod p 64 x (2 ^ r) == p - 1

/-- The prime test of R76, bases 2, 3, 5 and 7. -/
def isPrime31 (p : Nat) : Bool := [2, 3, 5, 7].all (mrRound p (modC p) (modS p))

/-- The form conditions of R76: range, s and c. -/
def modulusForm (p : Nat) : Bool := 2 ^ 17 < p && p < 2 ^ 31 && 17 ≤ modS p && popcount (modC p) ≤ 4

/-- Q_p of R76. -/
def modQ (p : Nat) : Nat := p * (2 ^ 63 / p)

/-- `rho` of R77. -/
def rho (p x : Nat) : Nat :=
  let s := modS p
  let l := x % 2 ^ s
  let h := x / 2 ^ s
  let m := (2 ^ s - l) % 2 ^ s
  h + b2n (l != 0) + ((bitsOf 32 (modC p)).map fun b => m * 2 ^ b).sum

/-- `canon` of R79: restoring shift and subtract from k = 47. -/
def canon (p x : Nat) : Nat :=
  (List.range 48).foldl (fun r i => let k := 47 - i; if r ≥ p * 2 ^ k then r - p * 2 ^ k else r) x % 2 ^ 32

/-- The centred value of a canonical residue (R89). -/
def centred (q u : Nat) : Int := if u > (q - 1) / 2 then (u : Int) - q else u

/-- Inverse modulo a prime, by Fermat; `bits` bits of exponent. -/
def invMod (nbits p x : Nat) : Nat := powMod p nbits x (p - 2)

/-- The least integer whose square is at least `x` (R104). -/
def ceilSqrt (x : Nat) : Nat := let r := Nat.sqrt x; if r * r = x then r else r + 1

end Sys2Proof.Machine
end

