-- ==== Sys2Proof/Machine/Operands.lean ====
section
/-! DEFINITION. The address spaces of carries and operands (Table 3.6, R92), and the parcel's external memory with its encryption and
model window (R244, R250, R253, R256). -/

namespace Sys2Proof.Machine

/-! External memory. -/

/-- The XTS key of a parcel's memory (R253). -/
def State.memKey (p : Nat) (s : State) : BitVec 512 :=
  BitVec.ofNat 512 (leNat (Config.hkdf384 (le 32 (s.slotKey (parcelSlot p 5)).toNat)
    (cat [le 2 s.boot.moduleId, le 1 p, le 4 s.flash.bootGen]) (ascii "axulo mem v1") 64))

/-- The model key of a parcel's window (R243). -/
def State.modelKey (p : Nat) (s : State) : BitVec 512 := (s.slotVal (parcelSlot p 6)).setWidth 512

/-- The byte that lies at a parcel offset: as written, or, since parcel open not written, the decrypted fill (R256). -/
def State.extRaw (p a : Nat) (s : State) : Byte :=
  (tget a (s.parcel p).mem).getD (Config.unwrittenByte (s.memKey p) p a)

/-- An offset lies in the parcel's model window (R244). -/
def State.inWindow (p a : Nat) (s : State) : Bool :=
  match (s.parcel p).window with | some (b, n) => b ≤ a && a < b + n | none => false

/-- The window's key is gone: slot 6 has been destroyed (R244). -/
def State.windowDead (p : Nat) (s : State) : Bool := !s.slotFilled (parcelSlot p 6)

/-- First offset, data unit and block of the 16-byte block of the window that holds an offset: units are 4,096 bytes counted from
`BASE` (R244). -/
def State.windowBlock (p a : Nat) (s : State) : Nat × Nat × Nat :=
  match (s.parcel p).window with
  | some (b, _) => (b + (a - b) / 16 * 16, (a - b) / 4096, (a - b) % 4096 / 16)
  | none => (a / 16 * 16, 0, 0)

/-- A 16-byte block of the window in clear. -/
def State.windowClear (p a : Nat) (s : State) : Bytes :=
  let (first, u, j) := s.windowBlock p a
  xtsOpen (s.modelKey p) u j ((List.range 16).map fun i => s.extRaw p (first + i))

/-- Read one byte of a parcel's external memory (R244, R256). -/
def State.extByte (p a : Nat) (s : State) : Byte :=
  if s.inWindow p a then
    if s.windowDead p then 0 else (s.windowClear p a).getD (a - (s.windowBlock p a).1) 0
  else s.extRaw p a

/-- Read `n` bytes of a parcel's external memory. -/
def State.extRead (p a n : Nat) (s : State) : Bytes := (List.range n).map fun i => s.extByte p (a + i)

/-- Put a byte as it lies in memory. -/
def State.extPut (p a : Nat) (b : Byte) (s : State) : State := s.modParcel p fun q => { q with mem := tset a b q.mem }

/-- Put bytes as they lie in memory. -/
def State.extPuts (p : Nat) : Nat → Bytes → State → State
  | _, [], s => s
  | a, b :: r, s => State.extPuts p (a + 1) r (s.extPut p a b)

/-- Write one byte: outside the window as it is; in a dead window it is discarded and counted; raw from the bounce area as
it is; otherwise the block is decrypted, changed and encrypted under the model key (R244). -/
def State.extWriteByte (raw : Bool) (p a : Nat) (b : Byte) (s : State) : State :=
  if s.inWindow p a then
    if s.windowDead p then s.modParcel p fun q => { q with windowDiscards := q.windowDiscards + 1 }
    else if raw then s.extPut p a b
    else
      let (first, u, j) := s.windowBlock p a
      s.extPuts p first (xtsSeal (s.modelKey p) u j ((s.windowClear p a).set (a - first) b))
  else s.extPut p a b

/-- Write bytes from an offset; `raw` when they come from the bounce area (R244). -/
def State.extWrite (raw : Bool) (p : Nat) : Nat → Bytes → State → State
  | _, [], s => s
  | a, b :: r, s => State.extWrite raw p (a + 1) r (s.extWriteByte raw p a b)

/-! Address spaces. -/

/-- Offset of the bounce area of the mapping in force (R211). -/
def State.areaOff (p : Nat) (s : State) : Option BounceMap := (s.fn (p + 1)).bounce.map

/-- The parcel runs a replay, whose writes to shared places are discarded (R302). -/
def State.replaying (p : Nat) (s : State) : Bool := (s.parcel p).replay.isSome

/-- The byte at an offset of a leaf: of the record whose granules hold it. -/
def Leaf.byte (a : Nat) (l : Leaf) : Byte :=
  match l.recs.find? fun r => r.gran * 64 ≤ a && a < r.gran * 64 + r.data.length with
  | some r => r.data.getD (a - r.gran * 64) 0
  | none => 0

/-- The reading leaf of a cluster (R69). -/
def Cluster.reading (k : Cluster) : Leaf := k.leaves.getD (1 - k.filling) Leaf.reset

/-- One cluster's store by bench number, or its scratch. -/
def Cluster.store (bench : Option Nat) (k : Cluster) : Memory :=
  match bench with | some b => (tget b k.benches).getD [] | none => k.scratch

/-- Write bytes into a bench store or the scratch of a cluster. -/
def Cluster.writeStore (bench : Option Nat) (a : Nat) (b : Bytes) (k : Cluster) : Cluster :=
  match bench with
  | some n => { k with benches := tset n (Memory.write0 a b ((tget n k.benches).getD [])) k.benches }
  | none => { k with scratch := Memory.write0 a b k.scratch }

/-- Read `n` bytes of an address space, seen from logical cluster `k` of parcel `p` (Table 3.6). -/
def State.readSpace (p k sp a n : Nat) (s : State) : Bytes :=
  match sp with
  | 0 => Memory.read0 (a % 65536) n ((s.lead p k).store (some (a / 65536)))
  | 1 => Memory.read0 a n (s.lead p k).scratch
  | 2 => Memory.read0 (a % 2097152) n (s.lead p (a / 2097152)).scratch
  | 3 => s.extRead p a n
  | 4 => match s.areaOff p with | some m => s.extRead p (m.areaOff + a) n | none => zeros n
  | 5 => (List.range n).map fun i => (s.lead p k).reading.byte (a + i)
  | _ => zeros n

/-- Write bytes to an address space. A replay's writes to `PEER_SCRATCH`, `EXTERNAL` and `BOUNCE` are discarded (R302). -/
def State.writeSpace (raw : Bool) (p k sp a : Nat) (b : Bytes) (s : State) : State :=
  if s.replaying p && (sp == 2 || sp == 3 || sp == 4) then s else
  match sp with
  | 0 => s.modLogical p k (Cluster.writeStore (some (a / 65536)) (a % 65536) b)
  | 1 => s.modLogical p k (Cluster.writeStore none a b)
  | 2 => s.modLogical p (a / 2097152) (Cluster.writeStore none (a % 2097152) b)
  | 3 => s.extWrite raw p a b
  | 4 => match s.areaOff p with | some m => s.extWrite raw p (m.areaOff + a) b | none => s
  | _ => s

/-- Bytes of a space for an image of `clusters` logical clusters in parcel `q`; `BOUNCE` is bounded at load by the parcel's
size only (R59). A bench address must not cross its store. -/
def spaceFits (q : Parcel) (clusters sp a n : Nat) : Bool :=
  match sp with
  | 0 => a < 64 * 65536 && a % 65536 + n ≤ 65536
  | 1 => a + n ≤ 2097152
  | 2 => a / 2097152 < clusters && a % 2097152 + n ≤ 2097152
  | 3 => a + n ≤ q.size
  | 4 => a + n ≤ q.size
  | 5 => a + n ≤ 524288
  | _ => true

/-- Bytes of an operand (R92). -/
def State.readOp (p k : Nat) (o : Operand) (n : Nat) (s : State) : Bytes := s.readSpace p k o.space o.addr n
/-- Write to an operand. -/
def State.writeOp (p k : Nat) (o : Operand) (b : Bytes) (s : State) : State := s.writeSpace false p k o.space o.addr b
/-- An operand reference is good for `need` bytes (R92): its space is allowed, its reserved bytes are zero, its bytes lie in its space
and it is not shorter than the operation requires. -/
def operandOk (q : Parcel) (clusters : Nat) (o : Operand) (need : Nat) : Bool :=
  o.space ≤ 3 && o.reserved == 0 && need ≤ o.length && spaceFits q clusters o.space o.addr o.length

/-- The `n` 32-bit words of an operand. -/
def State.words (p k : Nat) (o : Operand) (n : Nat) (s : State) : List Nat := wordsOf 4 n (s.readOp p k o (4 * n))

end Sys2Proof.Machine
end

