-- ==== Sys2Proof/Machine/Shelf.lean ====
section
/-! DEFINITION. The shelf: accumulation by row mode, overflow repeat, saturation, preload and drain (R52 to R56, R80 to R86). -/

namespace Sys2Proof.Machine

/-- A column's accumulator as a signed number. -/
def Row.int (j : Nat) (w : Row) : Int := (w.at j).toInt
/-- A column's accumulator as an unsigned number. -/
def Row.nat (j : Nat) (w : Row) : Nat := (w.at j).toNat

/-- The row with a value in every column. -/
def Row.fill (w : Row) (g : Nat → BitVec 64) : Row := { w with acc := (List.range 128).map g }

/-- A 64-bit pattern of an integer. -/
def word64 (x : Int) : BitVec 64 := BitVec.ofInt 64 x

/-- What a write comes to: the row, its partner in a two-row mode, the rows that saturate (even, odd) and repeats. -/
structure RowOut where
  row : Row
  mate : Row
  sat : Bool
  satMate : Bool
  repeats : Nat
  deriving DecidableEq, Repr

/-- The bounds of an `INT64` row (Table 4.4). -/
def int64Lo : Int := -(2 ^ 63)
/-- The upper bound. -/
def int64Hi : Int := 2 ^ 63 - 1

/-- Saturating add of a value per column into a signed row (R81). -/
def addInt64 (w : Row) (v : Nat → Int) : Row × Bool :=
  (w.fill fun j => word64 (clampInt int64Lo int64Hi (w.int j + v j)),
    (List.range 128).any fun j => w.int j + v j < int64Lo || int64Hi < w.int j + v j)

/-- Saturating add of a square per column into an unsigned row (R86). -/
def addU64 (w : Row) (v : Nat → Nat) : Row × Bool :=
  (w.fill fun j => BitVec.ofNat 64 (min (2 ^ 64 - 1) (w.nat j + v j)),
    (List.range 128).any fun j => 2 ^ 64 - 1 < w.nat j + v j)

/-- One column of a `RESIDUE` row after an addend (Table 4.4). -/
def addResidue (p acc addend : Nat) : Nat := if acc + addend ≥ 2 ^ 63 then acc + addend - modQ p else acc + addend

/-- `fits` of R84. -/
def scaledFits (x : Int) : Bool := -(2 ^ 47 : Int) ≤ x && x < 2 ^ 47
/-- The clamp of R84. -/
def scaledClamp (x : Int) : Int := clampInt (-(2 ^ 47)) (2 ^ 47 - 1) x

/-- The shift of an overflow repeat: the least multiple of 4 below `SCALE` that makes every column fit, else all of `SCALE`. -/
def repeatShift (a p : List Int) (f sc : Nat) : Nat :=
  (((List.range 64).map fun i => 4 * (i + 1)).find? fun h =>
    h < sc && (List.range 128).all fun j => scaledFits (rneShift (a.getD j 0) h + alignTo (p.getD j 0) f (sc - h))).getD sc

/-- `write` of R84: new accumulators, new `SCALE`, repeats, and whether the row saturates. -/
def scaledWrite (a p : List Int) (f sc : Nat) : List Int × Nat × Nat × Bool :=
  let sum := fun (a : List Int) (sc : Nat) => (List.range 128).map fun j => a.getD j 0 + alignTo (p.getD j 0) f sc
  let a1 := sum a sc
  if a1.all scaledFits then (a1, sc, 0, false)
  else if sc = 0 then (a1.map scaledClamp, 0, 0, true)
  else
    let g := repeatShift a p f sc
    let a2 := sum ((List.range 128).map fun j => rneShift (a.getD j 0) g) (sc - g)
    (a2.map scaledClamp, sc - g, 1, a2.any fun x => !scaledFits x)

/-- One column of a `MEANVAR` pair (R86): new mean and M2 from mean, M2, the new count and x. -/
def meanvarStep (mean m2 n x : Nat) : Nat × Nat :=
  let d := fsub fp64 x mean
  let mean' := fadd fp64 mean (fdiv fp64 d (fofInt fp64 n 0))
  (mean', fadd fp64 m2 (fmul fp64 d (fsub fp64 x mean')))

/-- A write lands in a row (R80, R84, R86). `mods` is the modulus table; `kind` says where the addend comes from: 0 trestle, 1 add
path, 2 mask subtracted, 3 mask added, 4 noise. `vals` are integer addends, `fp` floating patterns, `f` the step scale. -/
def landRow (mods : List Nat) (w m : Row) (kind f : Nat) (vals : List Int) (fp : List Nat) : RowOut :=
  let v := fun j => vals.getD j 0
  let x := fun j => fp.getD j 0
  match rowMode w.ctrl with
  | 1 =>
    let g := fun (j : Nat) => if kind = 2 then (w.nat j : Int) - v j else (w.nat j : Int) + v j
    ⟨w.fill fun j => BitVec.ofNat 64 (trunc 32 (g j)), m, false, false, 0⟩
  | 2 =>
    let p := mods.getD (rowSlot w.ctrl) 0
    let addend := fun j => if kind = 2 then trunc 64 (((p : Int) - (v j % p)) % p) else if kind = 0 || kind = 1 then (v j).toNat else (v j % p).toNat
    ⟨w.fill fun j => BitVec.ofNat 64 (addResidue p (w.nat j) (addend j)), m, false, false, 0⟩
  | 3 => let r := addInt64 w v; ⟨r.1, m, r.2, false, 0⟩
  | 4 => ⟨w.fill fun j => BitVec.ofNat 64 (fadd fp32 (w.nat j % 2 ^ 32) (x j)), m, false, false, 0⟩
  | 5 =>
    let r := scaledWrite ((List.range 128).map w.int) vals f (rowScale w.ctrl)
    ⟨{ (w.fill fun j => word64 (r.1.getD j 0)) with ctrl := withScale w.ctrl r.2.1 }, m, r.2.2.2, false, r.2.2.1⟩
  | 6 =>
    let r := addInt64 w v
    let q := addU64 m fun j => (v j * v j).toNat
    ⟨r.1, q.1, r.2, q.2, 0⟩
  | 7 =>
    if w.count = 2 ^ 32 - 1 then ⟨w, m, true, false, 0⟩ else
    let n := w.count + 1
    let step := fun j => meanvarStep (w.nat j) (m.nat j) n (fconv fp32 fp64 (x j))
    ⟨{ (w.fill fun j => BitVec.ofNat 64 (step j).1) with count := n }, m.fill fun j => BitVec.ofNat 64 (step j).2, n == 2 ^ 32 - 1, false, 0⟩
  | _ => ⟨w, m, false, false, 0⟩

/-- The even row of the pair that a row of a two-row mode belongs to. -/
def pairBase (w : Row) (r : Nat) : Nat := if twoRow (rowMode w.ctrl) then r / 2 * 2 else r

/-! Saturation reports (R81). -/

/-- Rows of a parcel's logical cluster saturate: each is counted, marked, and reported the first time since its preload. -/
def State.saturate (p c k : Nat) (rows : List Nat) (s : State) : State :=
  rows.foldl (fun s r =>
    let first := !(s.lead p k).satMap.getLsbD r
    let t := s.modLogical p k fun x => { x with
      satMap := x.satMap ||| BitVec.twoPow 256 r
      satOwner := tset r (rowOwner (x.row r).ctrl) x.satOwner }
    let t := t.modCtx p c (Context.modOn k fun x => { x with satCount := x.satCount + 1 })
    if first then t.evVf p 0x0401 [p * 8 + c, k, r, s.now] else t) s

/-- A row refuses an operation of context `c`: it is empty, or held by another context (R55, R56). -/
def rowRefuses (c : Nat) (w : Row) : Bool := rowMode w.ctrl == 0 || (rowHeld w.ctrl && rowOwner w.ctrl != c)

/-- A write of context `c` reaches a row of logical cluster `k` (R55, R56, R80): an empty or foreign held row takes nothing and faults the
context. A replay leaves held rows alone (R302). -/
def State.landWrite (p c k r kind f : Nat) (vals : List Int) (fp : List Nat) (s : State) : State :=
  let w0 := (s.lead p k).row r
  if rowRefuses c w0 then s.faultCtx p c fcShelfMode
  else if s.replaying p && rowHeld w0.ctrl then s
  else
    let b := pairBase w0 r
    let w := (s.lead p k).row b
    let m := (s.lead p k).row (b + 1)
    let o := landRow (s.lead p k).moduli w m kind f vals fp
    let t := s.modLogical p k fun x =>
      let x := x.putRow b o.row
      if twoRow (rowMode w.ctrl) then x.putRow (b + 1) o.mate else x
    let t := t.modCtx p c fun x => { x with repeats := x.repeats + o.repeats }
    t.saturate p c k ((if o.sat then [b] else []) ++ (if o.satMate then [b + 1] else []))

/-! Preload (R54, R83). -/

/-- A preload's values are all zero. -/
def Preload.zero (x : Preload) : Bool := x.values.all (· == 0)

/-- A preload is one that Table 4.5 and R52, R53 allow, for an image's rows (R83). -/
def preloadOk (mods : List Nat) (rows : Nat × Nat) (x : Preload) : Bool :=
  1 ≤ x.mode && x.mode ≤ 7 && (x.width == 32 || x.width == 64) && x.modSlot < 64 && x.scale < 256
    && (x.values.length == 1 || x.values.length == 128
      || (x.mode == 6 && x.width == 64 && (x.values.length == 2 || x.values.length == 256)))
    && rows.1 ≤ x.row && x.row + (if twoRow x.mode then 2 else 1) ≤ rows.1 + rows.2
    && (!twoRow x.mode || x.row % 2 == 0)
    && (x.mode != 2 || mods.getD x.modSlot 0 != 0)
    && !(x.mode == 4 && x.width == 64)
    && (x.mode != 7 || x.values.all (· == 0))

/-- The value that a preload gives a column of its row. -/
def preloadValue (x : Preload) (j : Nat) : BitVec 64 := if x.values.length ≤ 2 then x.values.getD 0 0 else x.values.getD j 0

/-- The value that a 64-bit preload of a `SUMSQ` pair gives a column of the odd row (Table 4.5): its own where the preload carries one. -/
def preloadOdd (x : Preload) (j : Nat) : BitVec 64 :=
  if x.values.length = 2 then x.values.getD 1 0 else if x.values.length = 256 then x.values.getD (128 + j) 0 else preloadValue x j

/-- The rows that a preload writes, and the repeats and saturation of a `SCALED` preload that does not fit (Table 4.5). -/
def preloadRows (mods : List Nat) (owner : Nat) (x : Preload) : RowOut :=
  let ctrl := rowCtrl x.mode (if x.mode = 2 then x.modSlot else 0) (twoRow x.mode) false (if x.mode = 5 then x.scale else 0) owner
  let base : Row := { Row.reset with ctrl }
  let word := fun j => (preloadValue x j).toNat % 2 ^ 32
  let sx := fun j => if x.width = 32 then word64 (sgn 32 (word j)) else preloadValue x j
  match x.mode with
  | 1 => ⟨base.fill fun j => BitVec.ofNat 64 (word j), base, false, false, 0⟩
  | 2 =>
    let q := modQ (mods.getD x.modSlot 0)
    ⟨base.fill fun j => if x.width = 32 then BitVec.ofNat 64 (word j) else
        if (preloadValue x j).toNat ≥ 2 ^ 63 then BitVec.ofNat 64 ((preloadValue x j).toNat - q) else preloadValue x j, base, false, false, 0⟩
  | 3 => ⟨base.fill sx, base, false, false, 0⟩
  | 4 => ⟨base.fill fun j => BitVec.ofNat 64 (word j), base, false, false, 0⟩
  | 5 =>
    let r := scaledWrite (List.replicate 128 0) ((List.range 128).map fun j => (sx j).toInt) x.scale x.scale
    ⟨{ (base.fill fun j => word64 (r.1.getD j 0)) with ctrl := withScale ctrl r.2.1 }, base, r.2.2.2, false, r.2.2.1⟩
  | 6 => ⟨base.fill sx, base.fill fun j => if x.width = 32 then 0 else preloadOdd x j, false, false, 0⟩
  | _ => ⟨base, base, false, false, 0⟩

/-- Run a checked preload of context `c` on logical cluster `k` (R54 to R56): the rows' saturation bits clear, and `HELD` stays (R56). -/
def State.preload (p c k : Nat) (x : Preload) (s : State) : State :=
  let old := (s.lead p k).row x.row
  let mate := (s.lead p k).row (x.row + 1)
  if (rowHeld old.ctrl && rowOwner old.ctrl != c) || (twoRow x.mode && rowHeld mate.ctrl && rowOwner mate.ctrl != c) then
    s.faultCtx p c fcShelfMode
  else if s.replaying p && rowHeld old.ctrl then s
  else
    let o := preloadRows (s.lead p k).moduli c x
    let keep := fun (old new : Row) => if rowHeld old.ctrl then { new with ctrl := withHeld new.ctrl } else new
    let t := s.modLogical p k fun y =>
      let y := (y.dropRow x.row).putRow x.row (keep old o.row)
      if twoRow x.mode then (y.dropRow (x.row + 1)).putRow (x.row + 1) (keep mate o.mate) else y
    let t := t.modCtx p c fun y => { y with repeats := y.repeats + o.repeats }
    t.saturate p c k (if o.sat then [x.row] else [])

/-! Drain (R54, R80). -/

/-- The canonical 32-bit value of a column, and whether it was clamped (Table 4.4). `n` is the pair's count, `odd` says that the
row is the odd row of a pair. -/
def canonCol (mods : List Nat) (w : Row) (n : Nat) (odd : Bool) (j : Nat) : Nat × Bool :=
  match rowMode w.ctrl with
  | 1 => (w.nat j % 2 ^ 32, false)
  | 2 => (canon (mods.getD (rowSlot w.ctrl) 0) (w.nat j), false)
  | 3 => (trunc 32 (clampInt (-(2 ^ 31)) (2 ^ 31 - 1) (w.int j)), w.int j < -(2 ^ 31) || 2 ^ 31 - 1 < w.int j)
  | 4 => (w.nat j % 2 ^ 32, false)
  | 5 => (fofInt fp32 (w.int j) (-(rowScale w.ctrl : Int)), false)
  | 6 => (fofInt fp32 (if odd then (w.nat j : Int) else w.int j) 0, false)
  | 7 =>
    if n = 0 then (0, false)
    else if odd then (fconv fp64 fp32 (fdiv fp64 (w.nat j) (fofInt fp64 n 0)), false)
    else (fconv fp64 fp32 (w.nat j), false)
  | _ => (0, false)

/-- The bytes of a drained row: 512 canonical, or 1,024 raw, with a `MEANVAR` pair's count after its odd row. -/
def drainBytes (mods : List Nat) (w : Row) (n : Nat) (odd raw : Bool) : Bytes :=
  if raw then
    bytesOf 8 ((List.range 128).map w.nat) ++ (if odd && rowMode w.ctrl == 7 then le 4 n else [])
  else bytesOf 4 ((List.range 128).map fun j => (canonCol mods w n odd j).1)

/-- A canonical drain clamps some column. -/
def drainClamps (mods : List Nat) (w : Row) : Bool := (List.range 128).any fun j => (canonCol mods w 0 false j).2

/-- The bytes that draining row `r` of a cluster gives. -/
def Cluster.drained (r : Nat) (raw : Bool) (k : Cluster) : Bytes :=
  let w := k.row r
  drainBytes k.moduli w (k.row (pairBase w r)).count (pairBase w r != r) raw

/-- Reset a drained row to `EMPTY`; its saturation bit stays until the next preload (R55, R90). -/
def Cluster.resetRow (r : Nat) (k : Cluster) : Cluster := { k with rows := tdel r k.rows }

/-- Drain row `r` of logical cluster `k` by context `c` (R54 to R56): an empty or foreign held row faults the context. -/
def State.drain (p c k r : Nat) (raw reset : Bool) (put : Bytes → State → State) (s : State) : State :=
  let w := (s.lead p k).row r
  if rowRefuses c w then s.faultCtx p c fcShelfMode
  else
    let t := put ((s.lead p k).drained r raw) s
    let t := if !raw && drainClamps (s.lead p k).moduli w then t.saturate p c k [r] else t
    if reset && !(s.replaying p && rowHeld w.ctrl) then t.modLogical p k (Cluster.resetRow r) else t

end Sys2Proof.Machine
end

