-- ==== Sys2Proof/Machine/RoundOps.lean ====
section
/-! DEFINITION. What a round's end does, wherever it comes from: the keep's report, the held rows, the intake's held fragments, the loss of a sealed
group's member (R56, R116, R117, R125, R132). -/

namespace Sys2Proof.Machine

/-! Members (Table 6.2). -/

/-- Module ID of a member entry. -/
def memberModule (m : Nat) : Nat := m % 2 ^ 14
/-- Parcel ID of a member entry. -/
def memberParcel (m : Nat) : Nat := bits 17 14 m
/-- Role of a member entry. -/
def memberRole (m : Nat) : Nat := bits 19 18 m

/-- The members of a role, in list order. -/
def RoundDesc.ofRole (role : Nat) (d : RoundDesc) : List Nat := d.members.filter fun m => memberRole m == role

/-! The roster (R125). -/

/-- Clients with a status at the keep. -/
def Round.withStatus (st : Nat) (r : Round) : Nat := (r.statuses.filter fun x => x.2 == st).length
/-- Survivors: clients with status 0. -/
def Round.survivors (r : Round) : Nat := r.withStatus 0
/-- Rejected clients: status 2. -/
def Round.rejected (r : Round) : Nat := r.withStatus 2
/-- Dropped clients: every other one. -/
def Round.dropped (r : Round) : Nat := r.desc.clients - r.survivors - r.rejected

/-! Ends. -/

/-- `EV_ROUND_CLOSED` of a keep context, to the VF only (R117). -/
def State.evRoundClosed (p : Nat) (r : Round) (outcome : Nat) (s : State) : State :=
  s.evVf p 0x0602 [r.desc.roundId, s.now, r.survivors, r.dropped, r.rejected, outcome]

/-- The round with an outcome: what the intake still holds of it is gone. -/
def Round.ended (outcome : Nat) (r : Round) : Round :=
  { r with
    outcome := some outcome
    clients := r.clients.map fun x => (x.1, { x.2 with frags := [] })
    forwardQ := if outcome = 0 then r.forwardQ else [] }

/-- End the open round of a context (R117) but for its held rows: the keep reports. -/
def State.endRoundOnly (p c outcome : Nat) (s : State) : State :=
  match (s.ctx p c).round with
  | some r =>
    if r.outcome.isSome then s else
    let t := s.modCtx p c fun x => { x with round := some (r.ended outcome) }
    if r.desc.role = 3 then t.evRoundClosed p r outcome else t
  | none => s

/-- End the open round of a context (R117): held rows are invalidated unless it is published. -/
def State.endRound (p c outcome : Nat) (s : State) : State :=
  if (s.ctx p c).roundOpen then
    let t := s.endRoundOnly p c outcome
    if outcome = 0 then t else t.dropHeld p c
  else s

/-- A sealed round of context `c` loses the member at a module and parcel (R132). -/
def State.loseMember (p c module parcel : Nat) (s : State) : State :=
  match (s.ctx p c).round with
  | some r =>
    match if r.outcome.isNone && r.desc.mode == 3 then r.desc.members.find? fun m => memberModule m == module && memberParcel m == parcel else none with
    | some m => (s.evVf p 0x0603 [m, r.desc.roundId, s.now]).endRound p c 4
    | none => s
  | none => s

/-- Parcel `p` loses its connection or attestation toward a peer (R132). -/
def State.groupLoss (p module parcel : Nat) (s : State) : State := (List.range 8).foldl (fun t c => t.loseMember p c module parcel) s

end Sys2Proof.Machine
end

