-- ==== Sys2Proof/Machine/Station.lean ====
section
/-! DEFINITION. Stations: the topology of links (R19, R159), routes and detours (R160 to R164), the sending side of a link with its window and
slices (R146, R148, R150 to R153), link states and their reports (R140, R165). -/

namespace Sys2Proof.Machine

/-! Identifiers. -/

/-- The parcel that owns a connection ID (R167). -/
def connParcel (id : Nat) : Nat := id / 2 ^ 16 % 16
/-- The group of a module: 32 modules to a group (R19). -/
def groupOf (m : Nat) : Nat := m / 32
/-- The position of a module in its group (R19). -/
def positionOf (m : Nat) : Nat := m % 32

/-! Topology (R19, R159). -/

/-- Groups of the system, as the survey in force states (R159). -/
def State.groups (s : State) : Nat := match s.boot.survey with | some v => v.groups | none => 1
/-- The local link from position `a` to position `b` (R19). -/
def localLink (a b : Nat) : Nat := if b < a then b else b - 1
/-- The position that local link `n` of position `p` reaches (R19). -/
def farPosition (p n : Nat) : Nat := if n < p then n else n + 1
/-- Copies of the port between two groups (R159). -/
def copiesOf (g : Nat) : Nat := 544 / (g - 1)
/-- The peer group and peer port of port `k` of group `g` in a system of `n` groups (R159). -/
def portPeer (n g k : Nat) : Option (Nat × Nat) :=
  if n < 2 || copiesOf n * (n - 1) ≤ k then none
  else
    let c := k / (n - 1)
    let d := k % (n - 1) + 1
    some ((g + d) % n, c * (n - 1) + (n - d) - 1)
/-- The module and link at the far end of link `l` of module `m` in a system of `n` groups. -/
def farEnd (n m l : Nat) : Option (Nat × Nat) :=
  let p := positionOf m
  if l < 31 then
    let q := farPosition p l
    some (32 * groupOf m + q, localLink q p)
  else
    match portPeer n (groupOf m) (p * 17 + (l - 31)) with
    | some (h, k) => some (32 * h + k / 17, 31 + k % 17)
    | none => none

/-! Routes (R160 to R163). -/

/-- A link counts as up for routing: `UP`, or in the first chain of `RELOCK` (R140, R149). -/
def Link.routable (k : Link) : Bool := k.state == 1 || (k.state == 2 && !k.routeLost)

/-- The first of a list after a value, cyclically. -/
def nextCyclic (v : Nat) (l : List Nat) : Option Nat :=
  match l.find? fun x => v < x with | some x => some x | none => l.head?

/-- A route: the link, and the intermediate position and group used, if any. -/
structure Route where
  link : Nat
  position : Option Nat
  group : Option Nat
  deriving DecidableEq, Repr

/-- The hop to a position of the own group: its local link, or a detour over the next candidate (R160, R162). The state of a link between two
other modules is not known here: it is taken as up. -/
def State.localHop (b : Nat) (s : State) : Option Route :=
  let a := positionOf s.boot.moduleId
  if (s.link (localLink a b)).routable then some ⟨localLink a b, none, none⟩
  else
    match nextCyclic s.fabric.detour ((List.range 32).filter fun c => c != a && c != b && (s.link (localLink a c)).routable) with
    | some c => some ⟨localLink a c, some c, none⟩
    | none => none

/-- The hop toward a group over one copy of the port (R160). -/
def State.copyHop (h copy : Nat) (s : State) : Option Route :=
  let n := s.groups
  let g := groupOf s.boot.moduleId
  let k := copy * (n - 1) + ((h + n - g) % n - 1)
  if k / 17 = positionOf s.boot.moduleId then
    if (s.link (31 + k % 17)).routable then some ⟨31 + k % 17, none, none⟩ else none
  else s.localHop (k / 17)

/-- The hop toward a group over the first usable copy, from the given one on. -/
def State.groupHop (h first : Nat) (s : State) : Option Route :=
  let c := copiesOf s.groups
  ((List.range c).map fun i => (first + i) % c).findSome? fun i => s.copyHop h i

/-- The route of a message to a module (R160, R162, R163); none where it must wait. -/
def State.route (dst : Nat) (s : State) : Option Route :=
  let own := s.boot.moduleId
  let n := s.groups
  let g := groupOf own
  let h := groupOf dst
  if dst = own then none
  else if h = g then s.localHop (positionOf dst)
  else if n ≤ h || n < 2 then none
  else match s.groupHop h (dst % copiesOf n) with
    | some r => some r
    | none =>
      let cand := ((List.range 8).map fun j => (h + j + 1) % n).filter fun m => m != g && m != h && (s.groupHop m 0).isSome
      match nextCyclic s.fabric.groupDetour cand with
      | some m => (s.groupHop m 0).map fun r => { r with group := some m }
      | none => none

/-! The sending side of a link (R146, R148, R150). -/

/-- Bytes 0 to 19 of a header grain (Table 8.3). -/
def headerBytes (m : Msg) : Bytes :=
  cat [le 1 m.kind, le 1 (b2n m.enc + b2n m.signal * 2 + m.arg * 4), le 2 m.bodyGrains, le 2 m.dstModule, le 2 m.srcModule,
    le 4 (m.conn + m.slice * 2 ^ 20), le 2 m.connGen, le 2 m.refusedN, le 4 m.seq]

/-- The grains of a message: its header grain and its body (R173). -/
def msgGrains (m : Msg) : List (BitVec 256) :=
  BitVec.ofNat 256 (leNat (headerBytes m ++ le 12 m.tag.toNat)) :: (chunks 32 257 m.body).map fun b => BitVec.ofNat 256 (leNat b)

/-- Form sequenced flits of twenty grains from the queue while the window has room (R143, R148): the link and the numbers sent. -/
def Link.flush : Nat → Link → Link × List Nat
  | 0, k => (k, [])
  | n + 1, k =>
    if k.txQueue.isEmpty || 255 ≤ k.window.length then (k, [])
    else
      let r := Link.flush n { k with
        txNext := (k.txNext + 1) % 2 ^ 31
        window := k.window ++ [{ seq := k.txNext, grains := k.txQueue.take 20 }]
        txQueue := k.txQueue.drop 20 }
      (r.1, k.txNext :: r.2)

/-- Send what the window allows on a link. -/
def State.flushLink (l : Nat) (s : State) : State :=
  let r := (s.link l).flush 255
  r.2.foldl (fun t n => t.emit (.flitSent l n)) (s.modLink l fun _ => r.1)

/-- A link carries link grains: it is in `TRAINING`, `UP`, `DEGRADED` or `MISWIRED` (Table 7.2). -/
def Link.live (k : Link) : Bool := k.state == 0 || k.state == 1 || k.state == 3 || k.state == 4

/-- Send a link grain (Table 7.4); a `NAK` takes the next position (R148). -/
def State.sendGrain (l kind : Nat) (bytes : Bytes) (s : State) : State :=
  if (s.link l).live then
    let b := padTo 31 bytes
    let g : TxGrain := { grain := BitVec.ofNat 256 (leNat (le 1 kind ++ b)) }
    ((s.modLink l fun k => { k with txQueue := if kind = 0xF1 then g :: k.txQueue else k.txQueue ++ [g] }).flushLink l).emit (.grain l kind b)
  else s

/-- Hand a message to the station of its route's link, or let it wait for a route (R160, R162). -/
def State.toStation (m : Msg) (s : State) : State :=
  match s.route m.dstModule with
  | some r =>
    let t := { s with fabric := { s.fabric with
      detour := r.position.getD s.fabric.detour
      groupDetour := r.group.getD s.fabric.groupDetour } }
    (t.modLink r.link fun k => { k with sendBuf := k.sendBuf ++ [{ msg := m, left := msgGrains m }] }).emit (.message r.link m)
  | none => { s with fabric := { s.fabric with waiting := s.fabric.waiting ++ [m] } }

/-- Messages that waited for a route try again. -/
def State.retryWaiting (s : State) : State :=
  s.fabric.waiting.foldl (fun t m => t.toStation m) { s with fabric := { s.fabric with waiting := [] } }

/-! Slices (R152, R153). -/

/-- Slice sizes in grains per even rod. -/
def State.slice (p : Nat) (s : State) : Nat := s.fabric.slices.getD p 0

/-- The grains that one message sends with `budget` body grains of its slice: the grains, and what is left of it. Header grains are not charged. -/
def SendItem.send (budget : Nat) (x : SendItem) : List TxGrain × SendItem :=
  let head := b2n (x.left.length == x.msg.bodyGrains + 1)
  let body := x.left.length - head
  let n := if head = 1 && budget = 0 && body ≠ 0 then 0 else head + min budget body
  ((x.left.take n).map fun g => { grain := g, msg := some x.msg }, { x with left := x.left.drop n })

/-- Send from the buffer, oldest first, within the budgets of the 16 slices: the grains and the messages that still have some left. -/
def sendItems : List SendItem → List Nat → List TxGrain × List SendItem
  | [], _ => ([], [])
  | x :: l, b =>
    let r := x.send (b.getD x.msg.slice 0)
    let used := r.1.length - b2n (x.left.length == x.msg.bodyGrains + 1 && !r.1.isEmpty)
    let rest := sendItems l (b.set x.msg.slice (b.getD x.msg.slice 0 - used))
    (r.1 ++ rest.1, if r.2.left.isEmpty then rest.2 else r.2 :: rest.2)

/-- In an even rod, a link that is `UP` sends each slice's grains within its grant for that rod and its slice (R150, R153). -/
def State.sendSlices (l : Nat) (s : State) : State :=
  let k := s.link l
  if k.state = 1 && k.grantChain = s.now && k.grantRod = s.clock.rod then
    let b := (List.range 16).map fun p => min (k.grants.getD p 0) (s.slice p)
    let r := sendItems k.sendBuf b
    (s.modLink l fun k => { k with txQueue := k.txQueue ++ r.1, sendBuf := r.2 }).flushLink l
  else s

/-- Grains of the receive buffer that a slice holds on link `l` (R153): messages held by connections whose source is reached over it, and the
partial message that arrives. -/
def State.occupied (l p : Nat) (s : State) : Nat :=
  let held := (s.fabric.conns.map fun x =>
    (x.2.held.filterMap fun h => h.msg).foldl (fun n m =>
      if m.slice = p && (farEnd s.groups s.boot.moduleId l).map (·.1) == some m.srcModule then n + m.bodyGrains + 1 else n) 0).sum
  let part := match (s.link l).rxGrains with
    | g :: r => if bits 23 20 (bits 95 64 g.toNat) = p then r.length + 1 else 0
    | [] => 0
  held + part

/-- The grants of a link for the next even rod (R153): at most the slice, and at most the slice's free share of the 256 KiB buffer. -/
def State.grantsOf (l : Nat) (s : State) : List Nat :=
  let total := s.fabric.slices.sum
  (List.range 16).map fun p =>
    let space := if total = 0 then 0 else 8192 * s.slice p / total
    min (s.slice p) (space - s.occupied l p)

/-- Send the two `CREDIT` grains of a link for rod `rod` of chain `chain` (R153, Table 7.4). -/
def State.sendCredits (chain rod l : Nat) (s : State) : State :=
  if (s.link l).state = 1 then
    let g := s.grantsOf l
    [0, 8].foldl (fun t f => t.sendGrain l 0xF2 (cat [le 1 f, zeros 2, le 8 chain, le 1 rod, zeros 3, bytesOf 2 ((g.drop f).take 8)])) s
  else s

/-! Link states and reports (R140, R164, R165). -/

/-- Causes of `EV_LINK_STATE`, in the order of Table 7.8. -/
inductive LinkCause where
  | training | delay | lane | relock | identity | operator
  deriving DecidableEq, Repr

/-- Number of a cause. -/
def LinkCause.code : LinkCause → Nat
  | .training => 0 | .delay => 1 | .lane => 2 | .relock => 3 | .identity => 4 | .operator => 5

/-- Raise a link event to PF0 and management, at most once per 1,024 chains for each kind and link; the next of its kind carries the count of
those suppressed (R165). -/
def State.evLink (l code : Nat) (data : List Nat) (s : State) : State :=
  let k := s.link l
  let quiet : Bool := match tget code k.lastReport with | some c => decide (s.now < c + 1024) | none => false
  if quiet then s.modLink l fun k => { k with suppressed := tset code ((tget code k.suppressed).getD 0 + 1) k.suppressed }
  else
    let d := data ++ [(tget code k.suppressed).getD 0]
    let t := s.modLink l fun k => { k with lastReport := tset code s.now k.lastReport, suppressed := tdel code k.suppressed }
    (t.evPf code d).evMgmt code d

/-- The link's width and delay as `link.status` and `link.retrain` give them (Table 9.11). -/
def linkBytes (state width peer delayPs : Nat) : Bytes := cat [le 1 state, le 1 width, le 2 peer, le 4 (delayPs / 1000)]

/-- Answer a pending `link.retrain` of a link with the state that its training has come to (R141). -/
def State.answerRetrain (l state : Nat) (s : State) : State :=
  let k := s.link l
  s.longs.foldl (fun t x =>
    if x.link = l then
      match x.mgmt with
      | some m => t.answerMgmt m 0x43 stOk (linkBytes state k.width 0 k.delayPs)
      | none => (t.respond x.fn x.req stOk (linkBytes state k.width 0 k.delayPs)).takeAll x.fn
    else t)
    { s with longs := s.longs.filter fun x => x.link != l }

/-- Messages with a grain that no `ACK` covers, and those still in the send buffer (R164). -/
def Link.unsure (k : Link) : List Msg :=
  let q := (k.window.flatMap (·.grains) ++ k.txQueue).filterMap (·.msg)
  (q ++ k.sendBuf.map (·.msg)).dedup

/-- A link leaves `UP` for routing (R164): partial messages are discarded, and its messages are sent again by the new route. -/
def State.leaveUp (l : Nat) (s : State) : State :=
  let ms := (s.link l).unsure
  ms.foldl (fun t m => t.toStation m) (s.modLink l fun k => { k with rxGrains := [], sendBuf := [] })

/-- Set a link's state and report the change. -/
def State.setLinkState (l v : Nat) (why : LinkCause) (s : State) : State :=
  let k := s.link l
  if k.state = v then s else
  let t := (s.modLink l fun k => { k with state := v }).evLink l 0x0701 [l, k.state, v, k.width, why.code, s.now]
  let t := if k.routable && !(t.link l).routable then t.leaveUp l else t
  if k.state = 0 then t.answerRetrain l v else t

/-- A link enters `TRAINING` (R138, R145): both directions count from 0 afterwards. -/
def State.enterTraining (l : Nat) (why : LinkCause) (s : State) : State :=
  (s.setLinkState l 0 why).modLink l fun k => { k with
    trainChain := s.now
    trained := false
    helloOk := false
    echoes := 0
    minRtt := 0
    routeLost := false
    rxNext := 0
    txNext := 0
    window := []
    txQueue := []
    rxGrains := []
    scrambler := 0
    nakPend := false }

end Sys2Proof.Machine
end

