-- ==== Sys2Proof/Machine/Wire.lean ====
section
/-! DEFINITION. Transport messages as bytes: the header grain, the access grain, sealing under a connection's keys, and the sending of a
message on a connection (R168 to R177, R184, R360). -/

namespace Sys2Proof.Machine

/-! Message kinds (Table 8.5). -/
def kWrite : Nat := 0x01
def kReadReq : Nat := 0x02
def kLeaf : Nat := 0x03
def kReadResp : Nat := 0x04
def kComplete : Nat := 0x05
def kRefuse : Nat := 0x06
def kOpen : Nat := 0x10
def kOpenAck : Nat := 0x11
def kClose : Nat := 0x12
def kAttest : Nat := 0x13

/-- A sequenced kind (Table 8.5). -/
def sequenced (k : Nat) : Bool := k == 1 || k == 2 || k == 3 || k == 0x13

/-! Admission refusals (Table 8.10). -/
def arNoConn : Nat := 1
def arConnGen : Nat := 2
def arFetch : Nat := 3
def arNoEase : Nat := 4
def arGen : Nat := 5
def arSource : Nat := 6
def arRights : Nat := 7
def arRange : Nat := 8
def arFormat : Nat := 9
def arWindow : Nat := 0xA
def arStake : Nat := 0xB
def arTag : Nat := 0xC
def arRevoked : Nat := 0xD
def arClosed : Nat := 0xE
def arPlain : Nat := 0xF

/-- A refusal that consumes the message's number (R183). -/
def consuming (code : Nat) : Bool := [4, 5, 6, 7, 8, 0xB, 0xC, 0xD, 0xE].contains code

/-- Nonce class of a kind (Table 8.14). -/
def nonceClass (k : Nat) : Nat :=
  if k = kReadResp then 1 else if k = kComplete then 2 else if k = kRefuse then 3 else if k = kClose then 4
  else if k = kOpenAck then 5 else 0

/-- The nonce of a message (R175). -/
def msgNonce (m : Msg) : Bytes :=
  le 4 ((if m.srcModule < m.dstModule then 0 else 1) + 256 * nonceClass m.kind) ++ le 8 (if m.kind = kOpenAck then 0 else m.seq)

/-- The low 96 bits of a GCM tag, as it is cut (R175): its first 12 bytes. -/
def tag96 (t : BitVec 128) : BitVec 96 := t.setWidth 96

/-- A message sealed under a key (R175): body encrypted, tag over header and ciphertext. -/
def sealMsg (k : Key) (m : Msg) : Msg :=
  let m := { m with enc := true }
  let ct := if m.body.isEmpty then [] else gcmSeal k (msgNonce m) (headerBytes m) m.body
  { m with body := ct, tag := tag96 (Config.gcmTag k (msgNonce m) (headerBytes m) ct) }

/-- A received message's tag is right under a key (R175, R190). -/
def tagOk (k : Key) (m : Msg) : Bool := tag96 (Config.gcmTag k (msgNonce m) (headerBytes m) m.body) == m.tag

/-- A received message's body in clear. -/
def clearBodyOf (k : Key) (m : Msg) : Bytes :=
  if m.enc && !m.body.isEmpty then gcmOpen k (msgNonce m) (headerBytes m) m.body else m.body

/-- The access grain (Table 8.6). -/
def accessGrain (addr length easeGen stake add respSpace respAddr : Nat) : Bytes :=
  cat [le 8 addr, le 4 length, le 2 easeGen, le 2 stake, le 2 add, le 1 respSpace, zeros 5, le 8 respAddr]

/-- Bytes padded to whole grains. -/
def grains (b : Bytes) : Bytes := padTo (32 * ceilDiv b.length 32) b

/-- The 128 bytes of a connection record (Table 8.1); bit 2 of `FLAGS` is `pinned`. -/
def connRecord (id : Nat) (k : Conn) (pinned : Bool) : Bytes :=
  cat [le 4 id, le 2 k.gen, le 1 k.state, le 1 (b2n k.encrypt + b2n k.attested * 2 + b2n pinned * 4 + b2n k.verified * 8),
    le 2 k.peerModule, le 1 k.peerParcel, zeros 1, le 4 k.peerConn, le 2 k.peerGen, le 2 k.window, le 4 k.txNext, le 4 k.txDone,
    le 4 k.rxNext, le 2 k.leafEase, le 2 k.completeStake, le 2 k.timeoutChains, zeros 2, le 8 k.lastChain, le 4 k.refused,
    le 4 k.dropped, zeros 8, le 32 k.txKey.toNat, le 32 k.rxKey.toNat]

/-- The connections that a loaded image names: those of its `SEND` descriptors, and those that its stake table names (R169). -/
def imageConns (i : LotImage) : List Nat :=
  i.conns ++ i.plan.flatMap fun q => (q.descs.filter (·.opcode == 4)).map (·.connection)

/-- The connections that the loaded contexts of parcel `p` name. -/
def State.namedConns (p : Nat) (s : State) : List Nat :=
  (s.parcel p).contexts.flatMap fun x => match x.image with | some i => if x.state = 0 then [] else imageConns i | none => []

/-- A connection is pinned (R169): attested, opening or closing, or named by a loaded context. -/
def State.isPinned (id : Nat) (s : State) : Bool :=
  match s.conn? id with
  | some k => (k.state != 6 && (k.attested || k.state == 1 || k.state == 4)) || (s.namedConns (connParcel id)).contains id
  | none => false

/-- The connection IDs of parcel `p` that have been allocated. -/
def State.connsOf (p : Nat) (s : State) : List Nat := (s.fabric.conns.map (·.1)).filter fun id => connParcel id == p

/-- The pinned connections of parcel `p`. -/
def State.pinnedOf (p : Nat) (s : State) : List Nat := (s.connsOf p).filter s.isPinned

/-- A connection's record is on chip (R169). -/
def State.resident (id : Nat) (s : State) : Bool := !s.host.spilled.contains id

/-- Mark a connection as used last (R170). -/
def State.touchConn (id : Nat) (s : State) : State :=
  { s with fabric := { s.fabric with useCount := s.fabric.useCount + 1 } }.modConn id fun k => { k with lastUse := s.fabric.useCount + 1 }

/-- The header of a message of connection `id` (Table 8.3). -/
def State.msgTo (id kind : Nat) (signal : Bool) (arg seq : Nat) (body : Bytes) (s : State) : Msg :=
  let k := s.conn id
  { Msg.zero with
    kind := kind
    signal := signal
    arg := arg
    bodyGrains := ceilDiv body.length 32
    dstModule := k.peerModule
    srcModule := s.boot.moduleId
    conn := k.peerConn
    slice := connParcel id
    connGen := k.peerGen
    seq := seq
    body := grains body }

/-- A message as it leaves: sealed where the connection encrypts (R176). -/
def Conn.wrap (k : Conn) (m : Msg) : Msg := if k.encrypt then sealMsg k.txKey m else m

/-- Hand a message of connection `id` to the station. -/
def State.handOver (id : Nat) (m : Msg) (s : State) : State := s.toStation ((s.conn id).wrap m)

/-- The window has room for one more sequenced message, and the number does not wrap (R184). -/
def Conn.canSend (k : Conn) : Bool := (k.txNext + 2 ^ 32 - k.txDone) % 2 ^ 32 < k.window && k.txNext < 2 ^ 32 - 1

/-- Send a sequenced message on connection `id`: it takes `TX_NEXT` and stays outstanding until it is finished (R184, R185). -/
def State.sendSeq (id kind : Nat) (signal : Bool) (arg : Nat) (dst : Option Nat) (body : Bytes) (s : State) : State :=
  let k := s.conn id
  let m0 := s.msgTo id kind signal arg k.txNext body
  let m := k.wrap (match dst with | some d => { m0 with dstModule := d } | none => m0)
  let t := s.modConn id fun k => { k with
    txNext := k.txNext + 1
    outst := k.outst ++ [{ Outst.reset with msg := m, sentChain := s.now }] }
  (t.touchConn id).toStation m

end Sys2Proof.Machine
end

