-- ==== Sys2Proof/Machine/ConnState.lean ====
section
/-! DEFINITION. Changes of a connection's state and their reports (R132, R177, R308). -/

namespace Sys2Proof.Machine

/-- Connection-failure causes carried by `EV_CONN_STATE`, in the order in which R177 to R240 name them. -/
inductive ConnCause where
  | command | peer | openTimeout | key | attestation | measurement | timeout | spill | fetch | exhausted | integrity | parcelClose
  deriving DecidableEq, Repr

/-- Number of a cause. -/
def ConnCause.code : ConnCause → Nat
  | .command => 0 | .peer => 1 | .openTimeout => 2 | .key => 3 | .attestation => 4 | .measurement => 5 | .timeout => 6
  | .spill => 7 | .fetch => 8 | .exhausted => 9 | .integrity => 10 | .parcelClose => 11

/-- A peer has been reported within the last 1,024 chains (R308). -/
def State.peerReported (m : Nat) (s : State) : Bool :=
  match tget m s.faults.peerReports with | some c => s.now < c + 1024 | none => false

/-- Set a connection's state and report the change (R177): PF0 gets only ID, peer and cause, and timeouts toward a peer
that has been reported are folded into its count (R308). A sealed round that loses a member with it ends (R132). -/
def State.setConnState (id v : Nat) (why : ConnCause) (s : State) : State :=
  let k := s.conn id
  if k.state = v then s else
  let t := (s.modConn id fun k => { k with state := v }).evFn (connParcel id + 1) 0x0801 [id, k.peerModule, k.state, v, why.code]
  let t := if why = .timeout && s.peerReported k.peerModule then t else t.evPf 0x0801 [id, k.peerModule, why.code]
  if 4 ≤ v && (k.state == 2 || k.state == 3) then t.groupLoss (connParcel id) k.peerModule k.peerParcel else t

end Sys2Proof.Machine
end

