-- ==== Sys2Proof/Machine/Run.lean ====
section
/-! DEFINITION. Which work may run now: the running context of a parcel, its place in the pattern, and the carry queues with their
heads, waits and marks (R24, R40, R44, R58 to R61, R93, R358). -/

namespace Sys2Proof.Machine

/-- The chain is a working chain: the timer runs, and the chain is neither idle nor forced idle (R43, R44). -/
def State.working (s : State) : Bool := s.clock.running && !s.clock.idle && !s.clock.forced

/-- The context that holds parcel `p`'s engines in this rod: it runs this chain, is started, is not stopped for the chain, and this is the
rod that its pattern is due in (R27, R40); what it has in flight still lands in the reserve in which it is stopped (R24); nothing runs while a snapshot is written (R262) or in rods 0 to 2 of a chain that
only restores (R29). -/
def State.holder (p : Nat) (s : State) : Option (Nat × Context) :=
  if s.working && (s.parcel p).snap.isNone && !((s.parcel p).idleRods && s.clock.rod < 3) then
    match s.runner p with
    | some (c, x) => if (!x.rodStopped || s.clock.reserve) && x.rodNext == s.clock.rod then some (c, x) else none
    | none => none
  else none

/-- Logical cluster `k` of the context can work: the context has it, a member is live, and none is halted (R261) or stalled for a
vote (R312). -/
def State.clusterUp (p k : Nat) (x : Context) (s : State) : Bool :=
  k < x.width && !(s.live p k).isEmpty && (s.live p k).all fun c => !(s.cluster c).halted && !(s.cluster c).pairStall

/-- The context whose work in flight may finish on logical cluster `k` (R24). -/
def State.landing (p k : Nat) (s : State) : Option (Nat × Context) :=
  match s.holder p with
  | some (c, x) => if s.clusterUp p k x then some (c, x) else none
  | none => none

/-- The context that may start new work on logical cluster `k`: as above, and the boundary reserve has not begun (R24). -/
def State.acting (p k : Nat) (s : State) : Option (Nat × Context) :=
  if s.clock.reserve then none else s.landing p k

/-- The rod of the pattern that is due, counted from the context's start (R358). -/
def Context.due (x : Context) : Nat := 4 * x.patternPos + x.rodNext

/-! Descriptor flags (Table 3.5). -/
def dWait (d : Descr) : Bool := d.flags.testBit 0
def dAcross (d : Descr) : Bool := d.flags.testBit 1
def dSignal (d : Descr) : Bool := d.flags.testBit 2
def dFence (d : Descr) : Bool := d.flags.testBit 3
def dRemote (d : Descr) : Bool := d.flags.testBit 4
def dLeaf (d : Descr) : Bool := d.flags.testBit 5

/-- Queue `q` of logical cluster `k` of a context. -/
def Context.queue (k q : Nat) (x : Context) : Queue := (x.on k).queues.getD q Queue.reset
/-- Change queue `q` of logical cluster `k` of a context. -/
def Context.modQueue (k q : Nat) (g : Queue → Queue) (x : Context) : Context :=
  x.modOn k fun y => { y with queues := y.queues.modify q g }

/-- The head of a queue: pushed descriptors stand immediately before the next `ROD_MARK` (R358). -/
def Queue.head (q : Queue) : Option Descr :=
  match q.descs[q.pos]? with
  | some d => if d.opcode = 0 then (match q.pushed with | e :: _ => some e | [] => some d) else some d
  | none => q.pushed.head?

/-- The head is a pushed descriptor, which is checked when it gets there (R59). -/
def Queue.headPushed (q : Queue) : Bool :=
  match q.descs[q.pos]? with
  | some d => d.opcode == 0 && !q.pushed.isEmpty
  | none => !q.pushed.isEmpty

/-- The queue with its head passed; after the last mark it starts again (R358). -/
def Queue.pop (q : Queue) : Queue :=
  if q.headPushed then { q with pushed := q.pushed.drop 1, sent := 0 }
  else { q with pos := if q.pos + 1 = q.descs.length then 0 else q.pos + 1, sent := 0 }

/-- The queue with its head passed and in flight. -/
def Queue.start (d : Descr) (q : Queue) : Queue := { q.pop with inflight := q.inflight ++ [d] }

/-- The wait of a descriptor is met (R60, R65). -/
def State.descrReady (p : Nat) (d : Descr) (s : State) : Bool := !dWait d || waitMet (s.stakeVal p d.waitStake) (BitVec.ofNat 32 d.waitValue)

/-- A space may be used in this rod (Tables 2.2 and 3.6). -/
def spaceInRod (sp rod : Nat) : Bool :=
  if sp = 4 then rod == 0 || rod == 3 else if sp = 6 then rod == 0 || rod == 2 else true

/-- A descriptor's spaces may be used in this rod. -/
def descrInRod (d : Descr) (rod : Nat) : Bool := spaceInRod d.srcSpace rod && spaceInRod d.dstSpace rod

/-- What the wait-for detector and the overrun rule call a blocked queue: its head's wait is not met. -/
def State.queueBlocked (p : Nat) (q : Queue) (s : State) : Option Nat :=
  match q.head with
  | some d => if s.descrReady p d then none else some d.waitStake
  | none => none

/-- A queue has work of the due rod left that is not excused (R61): it has not passed its mark, and it is neither blocked at a
wait with `WAIT_ACROSS` nor waiting for a rod that its head's spaces allow. -/
def State.queueLate (p : Nat) (x : Context) (q : Queue) (s : State) : Bool :=
  !q.descs.isEmpty && q.mark ≤ x.due &&
    match q.head with
    | some d => !(dAcross d && !s.descrReady p d) && descrInRod d x.rodNext
    | none => false

/-- Some queue of the context has work of the due rod left. -/
def State.queuesLate (p : Nat) (x : Context) (s : State) : Bool :=
  (List.range x.width).any fun k => (x.on k).queues.any fun q => s.queueLate p x q

/-- The head of queue `q`, if its descriptor has this opcode and may start now: the context may act, the queue has not run ahead of
the due rod, the head's wait is met, its fence is clear and its spaces are allowed in this rod (R24, R60, R61). -/
def State.ready (p k q op : Nat) (s : State) : Option (Nat × Context × Descr) :=
  match s.acting p k with
  | some (c, x) =>
    let u := x.queue k q
    match u.head with
    | some d =>
      if d.opcode = op && u.mark ≤ x.due && s.descrReady p d && (!dFence d || u.inflight.isEmpty) && descrInRod d s.clock.rod
      then some (c, x, d) else none
    | none => none
  | none => none

end Sys2Proof.Machine
end

