-- ==== Sys2Proof/Machine/Carries.lean ====
section
/-! DEFINITION. Carries: the checks of a descriptor (R59, R64, R360) and the commands `DESCRIPTOR_PUSH`, `COPY`, `COPY_2D`, `FILL`, `SEND`,
`ROD_MARK`, `CARRY_COMPLETE`, `STAKE_WAIT_MET` (R58 to R66, R358, R360). -/

namespace Sys2Proof.Machine

/-! Checks. -/

/-- Address of row `i` at one end of a descriptor. -/
def rowAddr (a stride i : Nat) : Nat := a + i * stride

/-- Every row of one end lies in its space. -/
def rowsFit (q : Parcel) (clusters sp a stride n rows : Nat) : Bool :=
  (List.range rows).all fun i => spaceFits q clusters sp (rowAddr a stride i) n

/-- The fields of a descriptor are in range and its reserved fields zero (Table 3.5). -/
def descrFields (d : Descr) : Bool :=
  if d.opcode = 0 then
    d.flags == 0 && d.srcSpace == 0 && d.dstSpace == 0 && d.length == 0 && d.srcAddr == 0 && d.dstAddr == 0 && d.rows == 0
      && d.waitStake == 0 && d.waitValue == 0 && d.srcStride == 0 && d.dstStride == 0 && d.signalStake == 0 && d.signalAdd == 0
      && d.connection == 0 && d.fillValue == 0 && d.easeGen == 0 && d.remoteStake == 0 && d.remoteAdd == 0 && d.reserved == 0
  else
    let isSend := d.opcode == 4
    d.opcode ≤ 4 && d.flags < (if isSend then 64 else 16) && d.length % 4 == 0 && 4 ≤ d.length && d.length ≤ 16777216
      && d.srcAddr < 2 ^ 64 && d.dstAddr < 2 ^ 64
      && (if d.opcode = 2 then 1 ≤ d.rows && d.rows ≤ 65535 else d.rows == 1)
      && d.waitStake < 8192 && d.waitValue < 2 ^ 32
      && (if d.opcode = 2 then d.srcStride < 2 ^ 32 && d.dstStride < 2 ^ 32 else d.srcStride == 0 && d.dstStride == 0)
      && d.signalStake < 8192 && (if dSignal d then 1 ≤ d.signalAdd && d.signalAdd ≤ 65535 else d.signalAdd == 0)
      && (if isSend then d.connection < 2 ^ 20 else d.connection == 0)
      && (d.opcode == 3 || d.fillValue == 0)
      && (if isSend && !dLeaf d then d.easeGen < 65536 else d.easeGen == 0)
      && (if dRemote d then d.remoteStake < 8192 && 1 ≤ d.remoteAdd && d.remoteAdd ≤ 65535 else d.remoteStake == 0 && d.remoteAdd == 0)
      && d.reserved == 0

/-- Spaces and directions match Table 3.6. -/
def descrSpaces (d : Descr) : Bool :=
  if d.opcode = 0 then true
  else if d.opcode = 4 then d.srcSpace ≤ 5 && d.dstSpace == 6
  else (if d.opcode = 3 then d.srcSpace == 0 else d.srcSpace ≤ 5) && d.dstSpace ≤ 4

/-- A `LEAF` send is one fold record, with a destination that names only a module and a cluster (R360). -/
def descrLeafOk (d : Descr) : Bool :=
  !(d.opcode == 4 && dLeaf d) ||
    (544 ≤ d.length && d.length ≤ 8224 && (d.length - 32) % 512 == 0 && d.dstAddr % 2 ^ 50 < 64)

/-- Every byte of every row lies in its space (R59). -/
def descrRows (q : Parcel) (clusters : Nat) (d : Descr) : Bool :=
  d.opcode == 0 ||
    ((d.opcode == 3 || rowsFit q clusters d.srcSpace d.srcAddr d.srcStride d.length d.rows)
      && (d.opcode == 4 || rowsFit q clusters d.dstSpace d.dstAddr d.dstStride d.length d.rows))

/-- The parcel has opened the connection (R59): it owns the ID, and the connection has been opened and not closed. -/
def State.connOpened (p id : Nat) (s : State) : Bool :=
  connParcel id == p && (match s.conn? id with | some k => k.state != 6 | none => false)

/-- The stakes that a descriptor waits on and signals are declared by the image (R64). -/
def descrStakes (declared : Nat → Bool) (d : Descr) : Bool :=
  (!dWait d || declared d.waitStake) && (!dSignal d || declared d.signalStake)

/-- A descriptor passes the checks of R59 for an image of parcel `p`. -/
def State.descrOk (p clusters : Nat) (declared : Nat → Bool) (d : Descr) (s : State) : Bool :=
  descrFields d && descrSpaces d && descrLeafOk d && descrRows (s.parcel p) clusters d && descrStakes declared d
    && (d.opcode != 4 || s.connOpened p d.connection)

/-- Bytes of the bounce area of the mapping in force (R211). -/
def State.areaBytes (p : Nat) (s : State) : Nat :=
  match s.areaOff p with | some m => (m.inSlots + m.outSlots) * m.stride | none => 0

/-- Every `BOUNCE` row lies in the area in force when the descriptor starts (R59). -/
def State.bounceOk (p : Nat) (d : Descr) (s : State) : Bool :=
  let fits := fun (a stride : Nat) => (s.areaOff p).isSome && (List.range d.rows).all fun i => rowAddr a stride i + d.length ≤ s.areaBytes p
  (d.srcSpace != 4 || fits d.srcAddr d.srcStride) && (d.dstSpace != 4 || fits d.dstAddr d.dstStride)

/-- The head of a queue passes the checks that it meets there: a pushed descriptor those of R59, any descriptor that of `BOUNCE`. -/
def State.headOk (p : Nat) (x : Context) (u : Queue) (d : Descr) (s : State) : Bool :=
  (!u.headPushed || s.descrOk p x.width x.declares d) && s.bounceOk p d

/-! Effects. -/

/-- Copy row by row from one space to another (R58). -/
def State.copyRows (p k : Nat) (d : Descr) : Nat → Nat → State → State
  | 0, _, s => s
  | n + 1, i, s =>
    let b := s.readSpace p k d.srcSpace (rowAddr d.srcAddr d.srcStride i) d.length
    State.copyRows p k d n (i + 1) (s.writeSpace (d.srcSpace == 4) p k d.dstSpace (rowAddr d.dstAddr d.dstStride i) b)

/-- The bytes of a fill row: byte k takes byte k mod 8 of the pattern (Table 3.5). -/
def fillBytes (v : BitVec 64) (n : Nat) : Bytes := (List.range n).map fun i => (le 8 v.toNat).getD (i % 8) 0

/-- Start the ready head with this opcode: fault on a failed check, otherwise its effect, and the descriptor is in flight. -/
def State.carry (p k q op : Nat) (effect : Descr → State → State) (s : State) : State :=
  match s.ready p k q op with
  | none => s
  | some (c, x, d) =>
    if s.headOk p x (x.queue k q) d then (effect d s).modCtx p c (Context.modQueue k q (Queue.start d))
    else s.faultCtx p c fcCarryRange

/-- R358, R59. A bench pushes a descriptor at run time: it joins the queue before the next mark not yet passed. -/
def execDescriptorPush (p k q : Nat) (d : Descr) (s : State) : Host.Outcome State Fault Refusal :=
  .next (match s.acting p k with
    | some (c, _) => s.modCtx p c (Context.modQueue k q fun u => { u with pushed := u.pushed ++ [d] })
    | none => s)

/-- R58. A `COPY` descriptor copies one row. -/
def execCopy (p k q : Nat) (s : State) : Host.Outcome State Fault Refusal :=
  .next (s.carry p k q 1 fun d s => s.copyRows p k d 1 0)

/-- R58. A `COPY_2D` descriptor copies its rows. -/
def execCopy2d (p k q : Nat) (s : State) : Host.Outcome State Fault Refusal :=
  .next (s.carry p k q 2 fun d s => s.copyRows p k d d.rows 0)

/-- R58. A `FILL` descriptor writes its pattern. -/
def execFill (p k q : Nat) (s : State) : Host.Outcome State Fault Refusal :=
  .next (s.carry p k q 3 fun d s => s.writeSpace false p k d.dstSpace d.dstAddr (fillBytes d.fillValue d.length))

/-- A `SEND` in a context counts toward work that a hang replay cannot redo (R303). -/
def State.markLost (p c : Nat) (s : State) : State := s.modCtx p c fun x => { x with lostWork := true }

/-- Send one piece of a `SEND` from offset `off` (R360): at most 8,192 bytes as a `WRITE`, or the whole as one `LEAF` message. -/
def State.sendPiece (p k : Nat) (d : Descr) (off : Nat) (s : State) : State :=
  if dLeaf d then
    s.sendSeq d.connection kLeaf false (d.dstAddr % 64) (some (d.dstAddr / 2 ^ 50)) (s.readSpace p k d.srcSpace d.srcAddr d.length)
  else
    let n := min 8192 (d.length - off)
    let last := d.length ≤ off + n
    let sig := dRemote d && last
    let grain := accessGrain (d.dstAddr + off) n d.easeGen (if sig then d.remoteStake else 0) (if sig then d.remoteAdd else 0) 0 0
    s.sendSeq d.connection kWrite sig 0 none (grain ++ s.readSpace p k d.srcSpace (d.srcAddr + off) n)

/-- Send pieces while the window allows (R184): the state and the offset reached. -/
def State.sendPieces (p k : Nat) (d : Descr) : Nat → Nat → State → State × Nat
  | 0, off, s => (s, off)
  | n + 1, off, s =>
    if off < d.length && (s.conn d.connection).canSend then
      State.sendPieces p k d n (if dLeaf d then d.length else off + 8192) (s.sendPiece p k d off)
    else (s, off)

/-- Retire a completed descriptor: its signal applies (R60). -/
def State.carryDone (p c : Nat) (d : Descr) (s : State) : State :=
  if dSignal d then s.signalCtx p c d.signalStake d.signalAdd else s

/-- R360, R184. A `SEND`: on a connection that is not OPEN nothing is sent, and it completes at once and counts in `DROPPED`; on one that is
not resident it waits; a number that would wrap fails the connection. -/
def State.send (p k q : Nat) (s : State) : State :=
  match s.ready p k q 4 with
  | none => s
  | some (c, x, d) =>
    let pass := fun (t : State) => t.modCtx p c (Context.modQueue k q Queue.pop)
    if !s.headOk p x (x.queue k q) d then s.faultCtx p c fcCarryRange
    else if s.replaying p then (pass s).carryDone p c d
    else if (s.conn d.connection).state ≠ 3 then
      (pass (s.modConn d.connection fun k => { k with dropped := k.dropped + 1 })).carryDone p c d
    else if !s.resident d.connection then s
    else if (s.conn d.connection).txNext = 2 ^ 32 - 1 then
      s.setConnState d.connection 5 .exhausted
    else
      let r := s.sendPieces p k d 2048 (x.queue k q).sent
      let t := if r.2 = (x.queue k q).sent then r.1 else r.1.markLost p c
      if d.length ≤ r.2 then t.modCtx p c (Context.modQueue k q (Queue.start d))
      else t.modCtx p c (Context.modQueue k q fun u => { u with sent := r.2 })

/-- R360. A `SEND` hands its pieces to the station while the window allows. -/
def execSend (p k q : Nat) (s : State) : Host.Outcome State Fault Refusal :=
  .next (s.send p k q)

/-- R358. A `ROD_MARK` ends the queue's due work of the rod, once everything before it has completed. -/
def execRodMark (p k q : Nat) (s : State) : Host.Outcome State Fault Refusal :=
  .next (match s.ready p k q 0 with
    | some (c, x, _) =>
      if (x.queue k q).inflight.isEmpty then
        s.modCtx p c (Context.modQueue k q fun u => { u.pop with mark := u.mark + 1 })
      else s
    | none => s)

/-- R60. The `i`-th descriptor in flight completes: its writes are visible, and its signal applies. -/
def execCarryComplete (p k q i : Nat) (s : State) : Host.Outcome State Fault Refusal :=
  .next (match s.landing p k with
    | some (c, x) =>
      match (x.queue k q).inflight[i]? with
      | some d => (s.modCtx p c (Context.modQueue k q fun u => { u with inflight := u.inflight.eraseIdx i })).carryDone p c d
      | none => s
    | none => s)

/-- R65, R66. A queue's wait is met: its head may start, and nothing else changes. The wait is a condition on the stake's value, so the
queue holds no bit of its own that changes. -/
def execStakeWaitMet (p k q : Nat) (s : State) : Host.Outcome State Fault Refusal :=
  .next (match s.acting p k with
    | some (c, x) =>
      match s.queueBlocked p (x.queue k q) with
      | none => s.modCtx p c fun y => { y with blockedOn := y.blockedOn.filter fun b => b.1 != 4 * k + q }
      | some _ => s
    | none => s)

end Sys2Proof.Machine
end

