-- ==== Sys2Proof/Machine/Easements.lean ====
section
/-! DEFINITION. Easements: grant, revocation, and the drain of a revoked generation (R188, R192, R194). -/

namespace Sys2Proof.Machine

/-- The rules of Table 8.7 and R188 for a grant: `VALID` set, `GEN` zero, and a `LEAF` easement or a window in the parcel's memory. -/
def grantOk (q : Parcel) (b : Bytes) : Bool :=
  let f := fld 0 2 b
  let n := fld 8 2 b
  let base := fld 16 8 b
  let size := fld 24 8 b
  bit 0 f && fld 2 2 b == 0 && 1 ≤ n && n ≤ 16384
    && (if bit 3 f then !bit 1 f && !bit 2 f && base == 0 && size == 0
      else base % 64 == 0 && size % 64 == 0 && 64 ≤ size && size ≤ 2 ^ 38 && base + size ≤ q.size)

/-- Reserved bits of a grant (Table 8.7). -/
def grantReserved (b : Bytes) : Bool :=
  64 ≤ fld 0 2 b || 8 ≤ fld 4 1 b || 16 ≤ fld 5 1 b || 2 ^ 14 ≤ fld 6 2 b || !allZero (cut 10 6 b)

/-- The entry that a grant makes; it is valid from the next rod boundary (R188). -/
def grantEntry (gen : Nat) (b : Bytes) : Ease :=
  let f := fld 0 2 b
  { Ease.reset with
    read := bit 1 f
    write := bit 2 f
    leaf := bit 3 f
    signal := bit 4 f
    encOnly := bit 5 f
    gen := gen
    context := fld 4 1 b
    srcParcel := fld 5 1 b
    srcModule := fld 6 2 b
    srcCount := fld 8 2 b
    base := fld 16 8 b
    size := fld 24 8 b
    used := true
    grantDue := true }

/-- The lowest free easement of parcel `p` (R188). -/
def State.freeEase (p : Nat) (s : State) : Option Nat :=
  ((List.range 256).map (256 * p + ·)).find? fun e => !(s.ease e).used

/-- R188. `easement.grant`. -/
def execEasementGrant (fn : Nat) (s : State) : Host.Outcome State Fault Refusal :=
  .next (s.runDrawer fn 0x60 fun t s => t.withPayload 32 fun b =>
    if grantReserved b then .no stReserved
    else s.gated fn 0x60 false true <|
      let p := parcelOf fn
      guarded [(!grantOk (s.parcel p) b, stArg), ((s.freeEase p).isNone, stEaseFull)] <|
        match s.freeEase p with
        | none => .no stEaseFull
        | some e =>
          let g := nextGen (s.ease e).gen
          .done (le 2 e ++ le 2 g) (s.putEase e (grantEntry g b)))

/-- A revocation of easement `e` is still executing (R204). -/
def State.draining (e : Nat) (s : State) : Bool := s.fabric.drains.any (·.ease == e)

/-- R192. `easement.revoke` (long): accepted now, in effect at the next rod boundary, answered when its drain completes. -/
def execEasementRevoke (fn : Nat) (s : State) : Host.Outcome State Fault Refusal :=
  .next (s.runDrawer fn 0x61 fun t s => t.withPayload 8 fun b =>
    let e := fld 0 2 b
    if 4096 ≤ e || !allZero (b.drop 2) then .no stReserved
    else s.gated fn 0x61 false true <|
      if s.draining e then .wait else
      guarded [(e / 256 != parcelOf fn || !(s.ease e).valid, stEaseState)] <|
        let u := s.putEase e { s.ease e with revokeDue := true }
        .long { u with fabric := { u.fabric with drains := u.fabric.drains ++
          [{ Drain.reset with
            ease := e
            oldGen := (s.ease e).gen
            fn := fn
            req := t }] } })

/-- A held message belongs to a drain: it was admitted by the easement under the revoked generation. -/
def HeldMsg.under (d : Drain) (h : HeldMsg) : Bool := h.msg.isSome && h.ease == d.ease && h.easeGen == d.oldGen

/-- Admitted messages of a drain that are not finished. -/
def State.unfinished (d : Drain) (s : State) : Nat :=
  ((s.fabric.conns.map fun x => if connParcel x.1 = d.ease / 256 then (x.2.held.filter (HeldMsg.under d)).length else 0)).sum

/-- The drain record (Table 8.11). -/
def State.drainBytes (d : Drain) (ns : Nat) (s : State) : Bytes :=
  cat [le 2 d.ease, le 2 d.oldGen, le 4 d.drained, le 4 d.discarded, le 4 ns, le 8 s.now]

/-- The drain is complete: the revoke is answered. -/
def State.drainPost (d : Drain) (ns : Nat) (s : State) : State :=
  let t := { s with fabric := { s.fabric with drains := s.fabric.drains.filter fun x => x.ease != d.ease } }
  (t.respond d.fn d.req stOk (t.drainBytes d ns)).takeAll d.fn

/-- The drain of easement `e`, once its revocation is in effect. -/
def State.drainOf (e : Nat) (s : State) : Option Drain :=
  match s.fabric.drains.find? fun d => d.ease == e with
  | some d => if (s.ease e).revokeDue then none else some d
  | none => none

/-- An admitted message has finished: it counts for its drain. -/
def State.countDrained (h : HeldMsg) (s : State) : State :=
  { s with fabric := { s.fabric with drains := s.fabric.drains.map fun d =>
    if (h.under d && !(s.ease d.ease).revokeDue) then { d with drained := d.drained + 1, left := d.left - 1 } else d } }

/-- Revocations take effect (R192): `VALID` clears, `GEN` rises, and with nothing admitted under the old generation the drain is complete. -/
def State.easeRevokes (s : State) : State :=
  s.fabric.drains.foldl (fun t d =>
    if (t.ease d.ease).revokeDue then
      let e := t.ease d.ease
      let t := t.putEase d.ease { e with valid := false, used := false, revokeDue := false, gen := nextGen e.gen }
      let d := { d with left := t.unfinished d, startChain := t.now, startRod := t.clock.rod }
      let t := { t with fabric := { t.fabric with drains := t.fabric.drains.map fun x => if x.ease = d.ease then d else x } }
      if d.left = 0 then t.drainPost d 0 else t
    else t) s

/-- Grants take effect (R188). -/
def State.easeGrants (s : State) : State :=
  { s with fabric := { s.fabric with eases := s.fabric.eases.map fun x =>
    if x.2.grantDue then (x.1, { x.2 with grantDue := false, valid := true }) else x } }

/-- Changes of the easement table that a rod boundary brings. -/
def State.easeBoundary (s : State) : State := s.easeRevokes.easeGrants

/-- R192. The last message admitted under the old generation has finished. -/
def execRevokeDrainDone (ease ns : Nat) (s : State) : Host.Outcome State Fault Refusal :=
  .next (match s.drainOf ease with
    | some d => if s.unfinished d = 0 then s.drainPost d ns else s
    | none => s)

end Sys2Proof.Machine
end

