-- ==== Sys2Proof/Machine/Conns.lean ====
section
/-! DEFINITION. Connections as their own end runs them: opening, spill and residency, closing, attestation messages and timers; and the drawer
commands `conn.open`, `conn.close`, `conn.status` (R167 to R172, R177 to R182, R184, R185, R194, R239, R308). -/

namespace Sys2Proof.Machine

/-! Records, spill and allocation (R168 to R171). -/

/-- A connection record exists: the ID is allocated and not CLOSED. -/
def State.connLive (id : Nat) (s : State) : Bool := match s.conn? id with | some k => k.state != 6 | none => false

/-- The live connections of parcel `p`. -/
def State.liveConns (p : Nat) (s : State) : List Nat := (s.connsOf p).filter s.connLive

/-- The live connections of parcel `p` whose records are on chip. -/
def State.residents (p : Nat) (s : State) : List Nat := (s.liveConns p).filter s.resident

/-- A record may be spilled (R170, R194): unpinned, no sequenced message outstanding, no message of it in the receive buffer. -/
def State.spillable (id : Nat) (s : State) : Bool := !s.isPinned id && (s.conn id).outst.isEmpty && (s.conn id).held.isEmpty

/-- The least recently used record of a list. -/
def State.leastUsed (s : State) : List Nat → Option Nat
  | [] => none
  | a :: l => match State.leastUsed s l with
    | some b => if (s.conn a).lastUse ≤ (s.conn b).lastUse then some a else some b
    | none => some a

/-- The record of parcel `p` that a spill would take (R170). -/
def State.spillChoice (p : Nat) (s : State) : Option Nat := s.leastUsed ((s.residents p).filter s.spillable)

/-- Bytes 0 to 15 of a spill record (Table 8.2), its additional data. -/
def spillHead (id bootGen count : Nat) : Bytes := le 4 id ++ le 4 bootGen ++ le 8 count

/-- The nonce of a spill record (R170). -/
def spillNonce (id count : Nat) : Bytes := le 4 id ++ le 8 count

/-- Spill one record to host memory (R170). -/
def State.spill (id : Nat) (s : State) : State :=
  let n := s.host.spillCount + 1
  let head := spillHead id s.flash.bootGen n
  let ct := gcmSeal (s.slotKey 6) (spillNonce id n) head (connRecord id (s.conn id) (s.isPinned id))
  { s with host := { s.host with
      spilled := s.host.spilled ++ [id]
      spillCount := n
      spillKept := tset id (n % 2 ^ 32) s.host.spillKept } }.emit
    (.spillRecord id s.flash.bootGen n ct (Config.gcmTag (s.slotKey 6) (spillNonce id n) head ct))

/-- The resident share of parcel `p` is full (R169). -/
def State.shareFull (p : Nat) (s : State) : Bool := 512 ≤ (s.residents p).length

/-- A record of parcel `p` can be made resident: its share has room, or the mapped spill area takes another record. -/
def State.canReside (p : Nat) (s : State) : Bool := !s.shareFull p || (s.host.spillBase.isSome && (s.spillChoice p).isSome)

/-- Make room in the share of parcel `p` (R170). -/
def State.makeRoom (p : Nat) (s : State) : State :=
  if s.shareFull p then (match s.spillChoice p with | some id => s.spill id | none => s) else s

/-- The lowest free connection ID of parcel `p`; low halves 0xFFFF are never allocated (R167). -/
def State.freeConn (p : Nat) (s : State) : Option Nat :=
  let used := s.liveConns p
  ((List.range (used.length + 1)).map (p * 2 ^ 16 + ·)).find? fun id => !used.contains id && id % 2 ^ 16 != 0xFFFF

/-! Opening (R178 to R180). -/

/-- `CONN` of an `OPEN` (Table 8.3). -/
def openConn : Nat := 0xFFFFF

/-- The header of an `OPEN` from one module to another (Table 8.3); its first 20 bytes are signed (R180). -/
def openHeader (src dst slice : Nat) : Msg :=
  { Msg.zero with
    kind := kOpen
    bodyGrains := 5
    dstModule := dst
    srcModule := src
    conn := openConn
    slice := slice }

/-- Bytes 0 to 63 of the open grains (Table 8.15). -/
def openFields (id gen tag : Nat) (pub : BitVec 256) : Bytes :=
  cat [le 4 id, le 2 gen, zeros 2, le 4 tag, zeros 20, le 32 pub.toNat]

/-- The open grains of connection `id`. -/
def State.openBody (id : Nat) (s : State) : Bytes :=
  let k := s.conn id
  openFields id k.gen k.pairTag k.ephPub ++ padTo 96 k.openSig

/-- Send `OPEN` (R179). -/
def State.sendOpen (id : Nat) (s : State) : State :=
  let k := s.conn id
  (s.modConn id fun k => { k with openSent := s.now }).toStation
    { openHeader s.boot.moduleId k.peerModule (connParcel id) with body := s.openBody id }

/-- Draw the ephemeral key of an `OPEN` and sign its grains with the FabricID key (R180). -/
def State.drawOpen (id : Nat) (s : State) : State :=
  let priv : Key := s.fresh.setWidth 256
  let pub := Config.x25519Pub priv
  let k := s.conn id
  let m := headerBytes (openHeader s.boot.moduleId k.peerModule (connParcel id)) ++ openFields id k.gen k.pairTag pub
  let sig := signature ((s.slotVal 4).setWidth 384) m (s.draws + 1)
  s.drawn.drawn.modConn id fun k => { k with ephPriv := priv, ephPub := pub, openSig := sig }

/-- The fields of a `conn.open` payload (Table 9.11). -/
structure OpenArgs where
  peerModule : Nat
  peerParcel : Nat
  flags : Nat
  window : Nat
  timeout : Nat
  completeStake : Nat
  leafEase : Nat
  pairTag : Nat
  psk : Key
  expect : Digest
  deriving DecidableEq, Repr

/-- Read a `conn.open` payload. -/
def parseOpen (b : Bytes) : OpenArgs :=
  { peerModule := fld 0 2 b
    peerParcel := fld 2 1 b
    flags := fld 3 1 b
    window := fld 4 2 b
    timeout := fld 6 2 b
    completeStake := fld 8 2 b
    leafEase := fld 10 2 b
    pairTag := fld 12 4 b
    psk := BitVec.ofNat 256 (fld 16 32 b)
    expect := BitVec.ofNat 384 (fld 48 48 b) }

/-- The generation that a connection binds of its leaf easement (R178): that of its latest grant, if it has `LEAF` and has not been
revoked since. -/
def State.leafBinding (e : Nat) (s : State) : Option Nat :=
  let x := s.ease e
  if x.used && x.leaf && !x.revokeDue then some x.gen else none

/-- The record of a new connection (R168, R178). -/
def State.newConn (id : Nat) (a : OpenArgs) (s : State) : Conn :=
  { Conn.reset with
    gen := nextGen (match s.conn? id with | some k => k.gen | none => 0)
    encrypt := bit 0 a.flags
    attested := bit 1 a.flags
    peerModule := a.peerModule
    peerParcel := a.peerParcel
    window := a.window
    leafEase := a.leafEase
    leafGen := s.leafBinding a.leafEase
    completeStake := a.completeStake
    timeoutChains := if a.timeout = 0 then 256 else a.timeout
    lastChain := s.now
    pairTag := a.pairTag
    psk := a.psk
    expect := a.expect
    openedChain := s.now }

/-- The rules for a `conn.open` payload that give `ST_ARG` (R167, R168, R178). -/
def State.openArgsBad (p : Nat) (a : OpenArgs) (s : State) : Bool :=
  a.peerModule == s.boot.moduleId || 2 ^ 14 ≤ a.peerModule || 16 ≤ a.peerParcel || a.window == 0 || 256 < a.window
    || (a.timeout != 0 && a.timeout < 16) || a.leafEase / 256 != p || (bit 1 a.flags && !bit 0 a.flags)
    || (!bit 1 a.flags && a.expect != 0)

/-- R178. `conn.open`. -/
def execConnOpen (fn : Nat) (s : State) : Host.Outcome State Fault Refusal :=
  .next (s.runDrawer fn 0x50 fun t s => t.withPayload 96 fun b =>
    let a := parseOpen b
    if 4 ≤ a.flags || 8192 ≤ a.completeStake || 4096 ≤ a.leafEase then .no stReserved
    else s.gated fn 0x50 false true <|
      let p := parcelOf fn
      if s.draining a.leafEase then .wait else
      guarded [ (s.openArgsBad p a, stArg),
        (!bit 0 a.flags && groupOf a.peerModule != groupOf s.boot.moduleId, stPlaintext),
        ((s.freeConn p).isNone || !s.canReside p, stConnFull),
        (256 ≤ ((s.liveConns p).filter s.isPinned).length, stPinFull),
        (!s.canDraw, stEntropy),
        (!s.slotUse 4 1, stKeyUse) ] <|
        match s.freeConn p with
        | none => .no stConnFull
        | some id =>
          let u := s.makeRoom p
          let k := u.newConn id a
          let u := ((((u.putConn id k).setConnState id 1 .command).drawOpen id).touchConn id).sendOpen id
          .done (le 4 id ++ le 2 k.gen ++ zeros 2) u)

/-! Closing (R182). -/

/-- The peer's end is known: its open grains have been taken. -/
def Conn.peerKnown (k : Conn) : Bool := k.ackSent

/-- Send `CLOSE`, once per connection (Table 8.14). -/
def State.sendClose (id : Nat) (s : State) : State :=
  let k := s.conn id
  if k.closeSent || !k.peerKnown then s
  else (s.handOver id (s.msgTo id kClose false 0 k.txNext [])).modConn id fun k => { k with closeSent := true }

/-- A closing connection whose sent messages are all finished sends `CLOSE`, and is CLOSED once `CLOSE` has come too (Table 8.4). -/
def State.tryClose (id : Nat) (s : State) : State :=
  let k := s.conn id
  if k.state = 4 && k.outst.isEmpty then
    let t := s.sendClose id
    if (t.conn id).closeSent && k.closeSeen then t.setConnState id 6 .peer else t
  else s

/-- Enter CLOSING (R177). -/
def State.beginClose (id : Nat) (why : ConnCause) (s : State) : State :=
  ((s.setConnState id 4 why).modConn id fun k => { k with closingChain := s.now }).tryClose id

/-- R182. `conn.close`: new sends stop at once; a FAILED connection is CLOSED. -/
def execConnClose (fn : Nat) (s : State) : Host.Outcome State Fault Refusal :=
  .next (s.runDrawer fn 0x51 fun t s => t.withPayload 8 fun b =>
    let id := fld 0 4 b
    if !allZero (b.drop 4) then .no stReserved
    else s.gated fn 0x51 false true <|
      guarded [(2 ^ 20 ≤ id || connParcel id != parcelOf fn || !s.connLive id, stArg)] <|
        .done [] (if (s.conn id).state = 5 then s.setConnState id 6 .command
          else if (s.conn id).state = 4 then s else s.beginClose id .command))

/-- R219. `conn.status`: bytes 0 to 63 of Table 8.1. -/
def execConnStatus (fn : Nat) (s : State) : Host.Outcome State Fault Refusal :=
  .next (s.runDrawer fn 0x52 fun t s => t.withPayload 8 fun b =>
    let id := fld 0 4 b
    if !allZero (b.drop 4) then .no stReserved
    else s.gated fn 0x52 false true <|
      guarded [(2 ^ 20 ≤ id || connParcel id != parcelOf fn || !s.connLive id, stArg)] <|
        .done ((connRecord id (s.conn id) (s.isPinned id)).take 64) s)

/-- R177, R182. A connection that has been CLOSING for 64 chains sends `CLOSE` if it has not, and is CLOSED. -/
def execClosingTimeout (conn : Nat) (s : State) : Host.Outcome State Fault Refusal :=
  .next (if s.connLive conn && (s.conn conn).state == 4 && (s.conn conn).closingChain + 64 ≤ s.now then
    (s.sendClose conn).setConnState conn 6 .command else s)

/-! Attestation as sent (R181, R239). -/

/-- The report data that binds an `ATTEST` to its connection (R239). -/
def bindingData (own peer : Nat) (ownPub peerPub : BitVec 256) : Digest :=
  let lo := if own < peer then ownPub else peerPub
  let hi := if own < peer then peerPub else ownPub
  Config.sha384 (ascii "axulo attest v1" ++ le 32 lo.toNat ++ le 32 hi.toNat)

/-- The keys of connection `id` are confirmed (R177): it is OPEN, or VERIFYING with its own `ATTEST` sent. -/
def State.keysConfirmed (id : Nat) (s : State) : State :=
  let k := s.conn id
  if k.attested then
    let t := (s.setConnState id 2 .peer).modConn id fun k => { k with lastChain := s.now }
    let data := bindingData s.boot.moduleId k.peerModule k.ephPub k.peerEph
    (t.sendSeq id kAttest false 0 none (t.report (connParcel id) data)).drawn
  else (s.setConnState id 3 .peer).modConn id fun k => { k with lastChain := s.now }

/-- A VERIFYING end whose verification and whose own report's are both known is OPEN (R181). -/
def State.bothVerified (id : Nat) (s : State) : State :=
  let k := s.conn id
  if k.state = 2 && k.verified && k.attestCovered then s.setConnState id 3 .peer else s

/-! Timers (R172, R179, R185, R308). -/

/-- R179. `OPEN` is sent again every 64 chains while the connection is OPENING. -/
def execOpenResend (conn : Nat) (s : State) : Host.Outcome State Fault Refusal :=
  .next (if s.connLive conn && (s.conn conn).state == 1 && (s.conn conn).openSent + 64 ≤ s.now then s.sendOpen conn else s)

/-- R179. An end that has been OPENING for 1,024 chains is FAILED. -/
def execOpenTimeout (conn : Nat) (s : State) : Host.Outcome State Fault Refusal :=
  .next (if s.connLive conn && (s.conn conn).state == 1 && (s.conn conn).openedChain + 1024 ≤ s.now then
    s.setConnState conn 5 .openTimeout else s)

/-- R172. A message refused with `AR_FETCH` is sent again, unchanged, 2 chains after the refusal. -/
def execFetchResend (conn seq : Nat) (s : State) : Host.Outcome State Fault Refusal :=
  .next (let k := s.conn conn
    match k.outst.find? fun o => o.msg.seq == seq with
    | some o =>
      match o.fetchChain with
      | some c =>
        if c + 2 ≤ s.now && (k.state == 2 || k.state == 3) then
          (s.modConn conn fun k => { k with outst := k.outst.map fun o => if o.msg.seq = seq then { o with fetchChain := none } else o }).toStation o.msg
        else s
      | none => s
    | none => s)

/-- Report a lost peer (R308): once per 1,024 chains, with the connections that failed since the last report. -/
def State.reportPeer (m : Nat) (s : State) : State :=
  let n := (tget m s.faults.peerFolded).getD 0
  if s.peerReported m then { s with faults := { s.faults with peerFolded := tset m (n + 1) s.faults.peerFolded } }
  else
    let t := { s with faults := { s.faults with
      peerReports := tset m s.now s.faults.peerReports
      peerFolded := tdel m s.faults.peerFolded } }
    (t.evPf 0x1404 [m, s.now, n + 1, n]).evMgmt 0x1404 [m, s.now, n + 1, n]

/-- A message has been outstanding for `TIMEOUT_CHAINS` with no progress (R185). -/
def State.timedOut (k : Conn) (s : State) : Bool :=
  (k.state == 2 || k.state == 3) && k.lastChain + k.timeoutChains ≤ s.now
    && k.outst.any fun o => o.sentChain + k.timeoutChains ≤ s.now

/-- R185, R308. The connection fails by timeout. -/
def execConnTimeout (conn : Nat) (s : State) : Host.Outcome State Fault Refusal :=
  .next (if s.connLive conn && s.timedOut (s.conn conn) then
    (s.setConnState conn 5 .timeout).reportPeer (s.conn conn).peerModule else s)

/-! Fetching a spilled record (R171). -/

/-- A connection record read back from its 128 bytes (Table 8.1). -/
def parseConn (b : Bytes) (k : Conn) : Conn :=
  { k with
    gen := fld 4 2 b
    state := fld 6 1 b
    encrypt := bit 0 (fld 7 1 b)
    attested := bit 1 (fld 7 1 b)
    verified := bit 3 (fld 7 1 b)
    peerModule := fld 8 2 b
    peerParcel := fld 10 1 b
    peerConn := fld 12 4 b
    peerGen := fld 16 2 b
    window := fld 18 2 b
    txNext := fld 20 4 b
    txDone := fld 24 4 b
    rxNext := fld 28 4 b
    leafEase := fld 32 2 b
    completeStake := fld 34 2 b
    timeoutChains := fld 36 2 b
    lastChain := fld 40 8 b
    refused := fld 48 4 b
    dropped := fld 52 4 b
    txKey := BitVec.ofNat 256 (fld 64 32 b)
    rxKey := BitVec.ofNat 256 (fld 96 32 b) }

/-- A fetched spill record is good (R171). -/
def State.spillOk (id recConn recBootGen recCount : Nat) (sealedRec : Bytes) (recTag : BitVec 128) (s : State) : Bool :=
  Config.gcmTag (s.slotKey 6) (spillNonce recConn recCount) (spillHead recConn recBootGen recCount) sealedRec == recTag
    && recConn == id && recBootGen == s.flash.bootGen && tget id s.host.spillKept == some (recCount % 2 ^ 32)

/-- The record of connection `id` is on chip again. -/
def State.unspill (id : Nat) (s : State) : State :=
  { s with host := { s.host with spilled := s.host.spilled.filter (· != id) } }

/-- R171, R218. A fetched spill record is checked and made resident, or its connection fails. Fetches wait while the PCIe link is down. -/
def execSpillFetchDone (conn recConn recBootGen recCount : Nat) (recSealed : Bytes) (recTag : BitVec 128) (s : State) :
    Host.Outcome State Fault Refusal :=
  .next (if s.resident conn || !s.host.linkUp then s
    else if !s.spillOk conn recConn recBootGen recCount recSealed recTag then
      (((s.unspill conn).setConnState conn 5 .spill).evFn (connParcel conn + 1) 0x0803 [conn]).evPf 0x0803 [conn]
    else if s.canReside (connParcel conn) then
      let t := s.makeRoom (connParcel conn)
      let b := gcmOpen (s.slotKey 6) (spillNonce recConn recCount) (spillHead recConn recBootGen recCount) recSealed
      ((t.unspill conn).modConn conn (parseConn b)).touchConn conn
    else s)

/-! Answers that go out at a rod or chain boundary (R185, R191). -/

/-- Send the `COMPLETE` that a connection owes (R185). -/
def State.completeOne (id : Nat) (s : State) : State :=
  let k := s.conn id
  if k.completeDue && (k.state == 2 || k.state == 3 || k.state == 4) then
    let m := { s.msgTo id kComplete false 0 k.rxNext [] with refusedN := k.refusedN }
    (s.handOver id m).modConn id fun k => { k with completeDue := false, refusedN := 0 }
  else s

/-- In each even rod, every connection whose `RX_NEXT` has risen sends one `COMPLETE`. -/
def State.completes (s : State) : State := (s.fabric.conns.map (·.1)).foldl (fun t id => t.completeOne id) s

/-- `EV_CONN_REFUSED`, at most once per chain per connection, to the VF only (R191). -/
def State.refusedReport (s : State) : State :=
  (s.fabric.conns.map (·.1)).foldl (fun t id =>
    let k := t.conn id
    if k.refuseCounts.all (· == 0) then t
    else (t.evFn (connParcel id + 1) 0x0802 (id :: k.refuseCounts)).modConn id fun k => { k with refuseCounts := List.replicate 16 0 }) s

end Sys2Proof.Machine
end

