-- ==== Sys2Proof/Machine/Contain.lean ====
section
/-! DEFINITION. Containment of faults: what a cluster, parcel and module fault fence, the retirement of a unit and the choice of its spare
(R296, R298, R299, R305, R311 to R314). -/

namespace Sys2Proof.Machine

/-! Causes (Table 17.5). -/
def fcBench : Nat := 0x1403
def fcTrestle : Nat := 0x1404
def fcScratch : Nat := 0x1405
def fcPairSplit : Nat := 0x1406
def fcPairOutvoted : Nat := 0x1407
def fcFenceTimeout : Nat := 0x1408

/-- A spare cluster of a die that is free to take a place: in state 1 and not already joining (R314). -/
def State.spareCluster (die : Nat) (s : State) : Option Nat :=
  (List.range 64).find? fun c => dieOf c == die && (s.platCluster c).state == 1 && !(s.cluster c).fenced
    && !s.faults.joins.any (fun j => j.1 == 0 && j.2.2 == c)

/-- A spare subchannel of a die that is free to take a place. -/
def State.spareSubch (die : Nat) (s : State) : Option Nat :=
  (List.range 64).find? fun x => dieOf x == die && s.plat.subchs.getD x 2 == 1
    && !s.faults.joins.any (fun j => j.1 == 1 && j.2.2 == x) && !s.faults.migrate.any (fun m => m.2.1 == x)

/-- A spare is to join at a chain boundary in the place of a unit (R314): kind 0 cluster, 1 subchannel. -/
def State.addJoin (kind old new : Nat) (s : State) : State :=
  { s with faults := { s.faults with joins := s.faults.joins ++ [(kind, old, new)] } }

/-- The working benches that a cluster must keep to stay in use after a bench is retired: the vector group's 48 slots (R286). -/
def benchNeed : Nat := 48

/-- Retire cluster `c` in the plat at the next chain boundary (R298, Table 14.8): after `FC_BENCH` the bench leaves `BENCH_MASK`, and the
cluster takes state `keep` if it has the benches that R286 requires (in the integrated profile always); any other goes to state 3. -/
def State.retirePlat (c keep : Nat) (bench : Option Nat) (s : State) : State :=
  match bench with
  | some b =>
    let m := (s.platCluster c).benchMask.toNat &&& (2 ^ 64 - 1 - 2 ^ b)
    (s.platPend 2 c m).platPend 0 c (if !s.enduring || benchNeed ≤ (bitsOf 64 m).length then keep else 3)
  | none => s.platPend 0 c 3

/-- A faulted cluster leaves service (R298, R313, R314): one that no parcel holds at once; in the enduring profile the die's spare joins in its place; and
otherwise it stays fenced within its parcel until the parcel closes. -/
def State.retireCluster (c : Nat) (bench : Option Nat) (s : State) : State :=
  match s.ownerOf c with
  | none => s.retirePlat c (s.platCluster c).state bench
  | some _ =>
    match if s.enduring then s.spareCluster (dieOf c) else none with
    | some n => (s.retirePlat c 1 bench).addJoin 0 c n
    | none => s

/-- A cluster fault (R296): the cluster is fenced, and unless its partner goes on alone (R16) every started context that maps onto
it faults with the cluster's word. -/
def State.clusterFault (c cause : Nat) (bench : Option Nat) (s : State) : State :=
  if (s.cluster c).fenced then s else
  let w := faultWord 2 c cause
  let t := (s.raiseFault w).modCluster c fun k =>
    { k with fenced := true, errored := true, badBench := bench, inflight := [], pairStall := false }
  let t := t.retireCluster c bench
  match s.ownerOf c with
  | none => t
  | some p =>
    let k := (s.parcel p).logicalOf c
    let t := t.modClusters ((s.parcel p).members k) fun u => { u with pairStall := false }
    if (t.live p k).isEmpty then
      (List.range 8).foldl (fun u x => if (u.ctx p x).started && k < (u.ctx p x).width then u.faultCtxWith p x w else u) t
    else t

/-- A parcel fault (R296, R299): all its clusters are fenced, every context faults, and the refusal period begins. -/
def State.parcelFault (p cause : Nat) (s : State) : State :=
  let w := faultWord 3 p cause
  let t := (s.raiseFault w).modClusters (s.parcel p).clusters fun k => { k with fenced := true, inflight := [], pairStall := false }
  let t := (List.range 8).foldl (fun u x => u.faultCtxWith p x w) t
  t.modParcel p fun q => { q with refusing := true }

/-- A module cause (R296, R305): the word is pushed, and the reset is ordered for the next chain boundary. -/
def State.moduleFault (unitId cause : Nat) (s : State) : State :=
  let w := faultWord 4 unitId cause
  let t := s.raiseFault w
  { t with faults := { t.faults with
    order := some (s.faults.order.getD (s.now, false))
    mgmtWord := w } }

end Sys2Proof.Machine
end

