-- ==== Sys2Proof/Machine/Engine.lean ====
section
/-! DEFINITION. The trestle and the shelf: `TILE_STEP`, `WEIGHT_LOAD`, `SHELF_WRITE`, `PAIR_VOTE`, `PRELOAD`, `DRAIN` (R49 to R56, R77 to R86,
R312). -/

namespace Sys2Proof.Machine

/-! Products (Table 3.2). -/

/-- Row modes that a format's output may land in (Table 3.2, R86). -/
def formatModes : TileFormat → List Nat
  | .residue => [1, 2]
  | .int16 => [3, 5, 6]
  | .fp32 => [4, 7]
  | .bf16 => [4, 7]
  | .int8 => [3, 5, 6]
  | .addPath => [1, 2, 3, 4, 5, 6, 7]

/-- Rows of a weight set: the K of Table 3.2. -/
def formatK : TileFormat → Nat
  | .bf16 => 256
  | .int8 => 512
  | _ => 128

/-- Element `i` of packed little-endian elements of `w` bytes. -/
def elemAt (w : Nat) (b : Bytes) (i : Nat) : Nat := fld (w * i) w b

/-- The weight of row `k` and column `j` in a weight set (Table 3.2): an int16 weight lies in a 32-bit cell slot. -/
def weightAt (f : TileFormat) (b : Bytes) (k j : Nat) : Nat :=
  match f with
  | .int16 => elemAt 4 b (128 * k + j) % 2 ^ 16
  | .bf16 => elemAt 2 b (128 * k + j)
  | .int8 => elemAt 1 b (128 * k + j)
  | _ => elemAt 4 b (128 * k + j)

/-- Element `k` of an input row (Tables 3.2 and 4.1): an int16 element lies in the low half of its word. -/
def inputAt (f : TileFormat) (b : Bytes) (k : Nat) : Nat :=
  match f with
  | .int16 => elemAt 4 b k % 2 ^ 16
  | .bf16 => elemAt 2 b k
  | .int8 => elemAt 1 b k
  | _ => elemAt 4 b k

/-- A bf16 pattern as the fp32 pattern of the same value. -/
def bf16Wide (v : Nat) : Nat := v * 2 ^ 16

/-- An exact integer column sum of `n` products. -/
def intSum (n : Nat) (g : Nat → Int) : Int := ((List.range n).map g).sum

/-- The column of one output row (R78, R80, R82): an exact integer for the integer formats, an fp32 pattern for the floating ones. `mode` is
the target row's mode and `p` its prime. -/
def product (f : TileFormat) (mode p : Nat) (a w : Nat → Nat) : Int ⊕ Nat :=
  let n := formatK f
  match f with
  | .residue =>
    if mode = 2 then .inl (intSum n fun k => (rho p (a k * w k) : Int)) else .inl (intSum n fun k => (a k * w k % 2 ^ 32 : Nat))
  | .int16 => .inl (intSum n fun k => sgn 16 (a k) * sgn 16 (w k))
  | .int8 => .inl (intSum n fun k => sgn 8 (a k) * sgn 8 (w k))
  | .fp32 => .inr (fsum fp32 ((List.range n).map fun k => fmul fp32 (a k) (w k)))
  | .bf16 => .inr (fsum fp32 ((List.range n).map fun k => fmul fp32 (bf16Wide (a k)) (bf16Wide (w k))))
  | .addPath => .inl 0

/-- The addends that add-path words give a row of a mode (Table 4.4): integers, or fp32 patterns. -/
def pathAddends (mode : Nat) (words : List Nat) : List Int × List Nat :=
  if mode = 4 || mode = 7 then ([], words)
  else if mode = 3 || mode = 5 || mode = 6 then (words.map (sgn 32), [])
  else (words.map fun (x : Nat) => (x : Int), [])

/-- The addends of one input row against a weight set, for a row of a mode. -/
def stepAddends (f : TileFormat) (mode p : Nat) (row weights : Bytes) : List Int × List Nat :=
  if f = .addPath then pathAddends mode (wordsOf 4 128 (padTo 512 row))
  else
    let l := (List.range 128).map fun j => product f mode p (inputAt f row) (fun k => weightAt f weights k j)
    (l.filterMap fun x => match x with | .inl v => some v | .inr _ => none,
     l.filterMap fun x => match x with | .inl _ => none | .inr v => some v)

/-! Tile steps. -/

/-- Target rows of a tile step, in issue order (R49). -/
def tileRows (t : TileStep) : List Nat := (List.range t.count).map fun n => t.firstRow + t.inc * n

/-- The step names what a step may name (R46, R49): 1 to 64 rows, increment 0 or 1, rows of the shelf, bytes of the cluster's own stores. -/
def tileNames (t : TileStep) : Bool :=
  1 ≤ t.count && t.count ≤ 64 && t.inc ≤ 1 && (tileRows t).all (· < 256) && t.scale < 256
    && match t.source with
      | .scratch a => a + 512 * t.count ≤ 2097152
      | .bench b a => b < 64 && a + 512 * t.count ≤ 65536
      | .leaf a => a + 512 * t.count ≤ 524288

/-- Input row `n` of a step, on one cluster (R51). -/
def Cluster.inputRow (t : TileStep) (n : Nat) (k : Cluster) : Bytes :=
  match t.source with
  | .scratch a => Memory.read0 (a + 512 * n) 512 k.scratch
  | .bench b a => Memory.read0 (a + 512 * n) 512 (k.store (some b))
  | .leaf a => (List.range 512).map fun i => k.reading.byte (a + 512 * n + i)

/-- The target rows accept the step (R51, R55, R56, R79): each has a mode that the format may land in, none is held by another context, and
the `RESIDUE` rows of a residue step share one modulus. -/
def Cluster.accepts (t : TileStep) (c : Nat) (k : Cluster) : Bool :=
  let rows := tileRows t
  rows.all (fun r => (formatModes t.format).contains (rowMode (k.row r).ctrl) && !rowRefuses c (k.row r))
    && (t.format != .residue || (rows.map fun r => (rowMode (k.row r).ctrl, rowSlot (k.row r).ctrl)).dedup.length ≤ 1)

/-- The output rows that a step puts in flight on one cluster (R49). -/
def Cluster.issue (t : TileStep) (c : Nat) (k : Cluster) : List ShelfWrite :=
  (List.range t.count).map fun n =>
    let r := t.firstRow + t.inc * n
    let w := (k.row r).ctrl
    let a := stepAddends t.format (rowMode w) (k.moduli.getD (rowSlot w) 0) (k.inputRow t n) k.active
    { ShelfWrite.reset with
      row := r
      values := a.1
      fp := a.2.map (BitVec.ofNat 32)
      scale := t.scale
      kind := if t.format = .addPath then 1 else 0
      ctx := c }

/-- The cluster with the step's weight set active: the shadow set is switched in at the first step that names it (R50). -/
def Cluster.withWeights (t : TileStep) (k : Cluster) : Cluster :=
  if t.format = .addPath || k.weights = some t.weights then k
  else { k with weights := k.shadow, active := k.shadowW, shadow := none, shadowW := [] }

/-- The step's weight set is loaded (R50); the add path needs none. -/
def Cluster.hasWeights (t : TileStep) (k : Cluster) : Bool :=
  t.format == .addPath || k.weights == some t.weights || k.shadow == some t.weights

/-- R49. A tile step issues its input rows; one whose weight set is not loaded waits. -/
def State.tileStep (p k : Nat) (t : TileStep) (s : State) : State :=
  match s.acting p k with
  | none => s
  | some (c, _) =>
    if !tileNames t || !(s.lead p k).hasWeights t then s
    else if !(s.lead p k).accepts t c then s.faultCtx p c fcShelfMode
    else s.modLogical p k fun u => let u := u.withWeights t; { u with inflight := u.inflight ++ u.issue t c }

/-- R49, R51, R79. `TILE_STEP`. -/
def execTileStep (p k : Nat) (t : TileStep) (s : State) : Host.Outcome State Fault Refusal :=
  .next (s.tileStep p k t)

/-- R50. A weight set of 64 KiB loads into the shadow weights. -/
def execWeightLoad (p k addr : Nat) (s : State) : Host.Outcome State Fault Refusal :=
  .next (match s.acting p k with
    | some _ =>
      if addr + 65536 ≤ 2097152 then
        s.modLogical p k fun u => { u with
          shadow := some addr
          shadowW := Memory.read0 addr 65536 u.scratch }
      else s
    | none => s)

/-! Landing. -/

/-- Drop the oldest output row in flight on every member. -/
def State.popLanding (p k : Nat) (s : State) : State := s.modLogical p k fun u => { u with inflight := u.inflight.drop 1 }

/-- An output row lands in the shelf. -/
def State.landOne (p k : Nat) (w : ShelfWrite) (s : State) : State :=
  s.landWrite p w.ctx k w.row w.kind w.scale w.values (w.fp.map (·.toNat))

/-- The oldest output row lands, if every member's row agrees; members that differ stall for a vote (R312). -/
def State.shelfWrite (p k : Nat) (s : State) : State :=
  match s.landing p k with
  | none => s
  | some (c, _) =>
    match (s.live p k).map fun m => (s.cluster m).inflight.head? with
    | some w :: rest =>
      if w.ctx ≠ c then s
      else if rest.all (· == some w) then (s.popLanding p k).landOne p k w
      else s.modLogical p k fun u => { u with pairStall := true }
    | none :: rest => if rest.any (·.isSome) then s.modLogical p k fun u => { u with pairStall := true } else s
    | [] => s

/-- R80, R84, R86. `SHELF_WRITE`. -/
def execShelfWrite (p k : Nat) (s : State) : Host.Outcome State Fault Refusal :=
  .next (s.shelfWrite p k)

/-! Votes (R312). -/

/-- A pair is stalled for a vote: two live members, both stalled. -/
def State.votePending (p k : Nat) (s : State) : Bool :=
  (s.live p k).length == 2 && (s.live p k).all fun m => (s.cluster m).pairStall

/-- A lower pair of the same die waits for its vote: votes on one die run one at a time (R312). -/
def State.voteAhead (m : Nat) (s : State) : Bool :=
  (List.range m).any fun c => dieOf c == dieOf m && (s.cluster c).pairStall && !(s.cluster c).fenced
    && !(match s.ownerOf c, s.ownerOf m with
      | some p, some q => p == q && (s.parcel p).logicalOf c == (s.parcel q).logicalOf m
      | _, _ => false)

/-- The vote's report (R312): the pair by its lower cluster, the chain, the outcome. -/
def State.evVote (p m outcome : Nat) (s : State) : State :=
  (s.evBoth p 0x1406 [m, s.now, outcome]).evMgmt 0x1406 [m, s.now, outcome]

/-- The spare's stores are invalidated after a vote (R312). -/
def State.clearSpare (m : Nat) (s : State) : State :=
  match s.spareCluster (dieOf m) with
  | some n => s.modCluster n fun u => { u.dropStores with rows := [] }
  | none => s

/-- R312. The spare has rerun the step on both members' inputs: its results agree or not, and each member's output equals its value or not. -/
def State.pairVote (p k : Nat) (agree eq0 eq1 : Bool) (s : State) : State :=
  match s.live p k with
  | [m0, m1] =>
    if !s.votePending p k || s.voteAhead (min m0 m1) then s else
    let calm := s.modLogical p k fun u => { u with pairStall := false }
    let head := fun (m : Nat) => (s.cluster m).inflight.head?
    let land := fun (m : Nat) (u : State) =>
      match head m with | some w => (u.popLanding p k).landOne p k w | none => u.popLanding p k
    if !agree || (s.spareCluster (dieOf m0)).isNone || (!eq0 && !eq1) then
      let t := match s.runner p with
        | some (c, _) => calm.faultCtx p c fcPairSplit
        | none => calm
      (t.clearSpare m0).evVote p (min m0 m1) 3
    else if eq0 && eq1 then ((land m0 calm).clearSpare m0).evVote p (min m0 m1) 0
    else if eq0 then (((land m0 calm).clearSpare m0).clusterFault m1 fcPairOutvoted none).evVote p (min m0 m1) 2
    else (((land m1 calm).clearSpare m0).clusterFault m0 fcPairOutvoted none).evVote p (min m0 m1) 1
  | _ => s

/-- R312. `PAIR_VOTE`. -/
def execPairVote (p k : Nat) (agree eq0 eq1 : Bool) (s : State) : Host.Outcome State Fault Refusal :=
  .next (s.pairVote p k agree eq0 eq1)

/-! Access port. -/

/-- A row is busy: an output row in flight targets it or its partner (R55). -/
def State.rowBusy (p k r : Nat) (s : State) : Bool :=
  let u := s.lead p k
  u.inflight.any fun w => w.row == r || pairBase (u.row w.row) w.row == pairBase (u.row r) r

/-- R54, R83. A run-time preload: one that Table 4.5 refuses, or outside the image's rows, faults the context; one of a busy row waits. -/
def execPreload (p k : Nat) (pl : Preload) (s : State) : Host.Outcome State Fault Refusal :=
  .next (match s.acting p k with
    | some (c, x) =>
      if !preloadOk (s.lead p k).moduli x.rows pl then s.faultCtx p c fcCarryRange
      else if s.rowBusy p k pl.row || (twoRow pl.mode && s.rowBusy p k (pl.row + 1)) then s
      else s.preload p c k pl
    | none => s)

/-- R54, R55. A drain into scratch; of a busy row it waits. -/
def execDrain (p k row : Nat) (raw reset : Bool) (dst : Nat) (s : State) : Host.Outcome State Fault Refusal :=
  .next (match s.acting p k with
    | some (c, _) =>
      if s.rowBusy p k row || 2097152 < dst + ((s.lead p k).drained row raw).length then s
      else s.drain p c k row raw reset (fun b t => t.writeSpace false p k 1 dst b)
    | none => s)

end Sys2Proof.Machine
end

