-- ==== Sys2Proof/Machine/Nodes.lean ====
section
/-! DEFINITION. The checks that `lot.load` makes on the operation graph: parameter blocks, operands, row ranges and row modes, and the noise
that a drain of held rows needs (R91, R92, R95 to R112, R272). -/

namespace Sys2Proof.Machine

/-! What a node is. -/

/-- Opcode of a parameter block (Table 5.2). -/
def paramsOpcode : NodeParams → Nat
  | .fold .. => 0x0001
  | .maskExpand .. => 0x0002
  | .nttFwd .. => 0x0010
  | .nttInv .. => 0x0011
  | .keyswitch .. => 0x0012
  | .refreshLut .. => 0x0013
  | .clipL2 .. => 0x0020
  | .sumsq .. => 0x0021
  | .meanvar .. => 0x0022
  | .noiseGauss .. => 0x0023
  | .decodeCenter .. => 0x0024
  | .applyStep .. => 0x0025
  | .matmul .. => 0x0030
  | .seedRecover .. => 0x0040
  | .pairSeed .. => 0x0041

/-- Bytes of a parameter block before padding (Table 5.4). -/
def paramsSize : NodeParams → Nat
  | .fold _ n _ _ _ => 8 + 2 * n
  | .maskExpand .. => 40
  | .nttFwd _ n _ _ _ _ _ => 40 + n
  | .nttInv _ n _ _ _ _ _ => 40 + n
  | .keyswitch _ l k _ _ _ _ _ _ _ _ _ _ _ => 112 + l + k
  | .refreshLut _ n _ _ _ _ _ _ _ _ _ _ _ _ _ => 117 + n
  | .clipL2 .. => 64
  | .sumsq .. => 48
  | .meanvar .. => 48
  | .noiseGauss .. => 40
  | .decodeCenter .. => 24
  | .applyStep .. => 76
  | .matmul .. => 48
  | .seedRecover .. => 48
  | .pairSeed .. => 72

/-- A number rounded up to a multiple of 16. -/
def up16 (n : Nat) : Nat := 16 * ceilDiv n 16

/-- Numbers from `a`, `n` of them. -/
def span (a n : Nat) : List Nat := (List.range n).map (a + ·)

/-- The logical clusters that a node runs on (Table 5.1). -/
def nodeClusters (clusters : Nat) (nd : Node) : List Nat := bitsOf clusters nd.clusterMask

/-- The slice map entry that a `FOLD` node names. -/
def foldEntry (map : List SliceEntry) (e : Nat) : Option SliceEntry := map[e]?

/-- The rows of a `FOLD` node for one modulus index and for all (R96). -/
def foldRows (map : List SliceEntry) : NodeParams → List (List Nat)
  | .fold _ _ _ e base => match foldEntry map e with | some x => base.map fun b => span b (x.partCoords / 128) | none => []
  | _ => []

/-- Trestle columns of a matrix product in groups of 128 (R110). -/
def colGroups (ncols : Nat) : Nat := ceilDiv ncols 128

/-- The tile rows that a node names on each of its clusters (R92, R96). -/
def nodeRows (map : List SliceEntry) : NodeParams → List Nat
  | .fold a b c d e => (foldRows map (.fold a b c d e)).flatten
  | .maskExpand _ _ b n _ _ _ _ => span b n
  | .nttFwd _ _ w _ _ _ _ => span w 64
  | .nttInv _ _ w _ _ _ _ => span w 64
  | .keyswitch _ _ _ _ _ w _ _ _ _ _ _ _ _ => span w 64
  | .refreshLut _ _ _ _ _ w _ _ _ _ _ _ _ _ _ => span w 64
  | .clipL2 _ _ b _ _ _ _ _ _ => span b 2
  | .sumsq _ b g _ _ _ _ => span b (2 * g)
  | .meanvar _ b g _ _ _ _ => span b (2 * g)
  | .noiseGauss b n _ t _ _ _ _ _ => if t = 0 then span b n else []
  | .decodeCenter b n _ _ _ _ _ => span b n
  | .applyStep .. => []
  | .matmul _ b m _ n _ _ _ => span b (m * colGroups n)
  | .seedRecover .. => []
  | .pairSeed .. => []

/-- The row modes, one of which a node needs in every row that it names; none when it sets no mode itself (Table 3.2, R86, R92). -/
def nodeModes : NodeParams → Option (List Nat)
  | .fold .. => some [1, 2, 3, 4, 5, 6, 7]
  | .maskExpand .. => some [1, 2]
  | .clipL2 .. => some [6]
  | .sumsq .. => some [6]
  | .meanvar .. => some [7]
  | .noiseGauss _ _ _ _ _ _ d _ _ => some (if d = 1 then [1, 2, 3, 4, 5, 6, 7] else [1, 2])
  | .decodeCenter .. => some [1, 2]
  | .matmul f _ _ _ _ _ _ _ => some (if f = 0 then [1, 2] else if f = 1 || f = 4 then [3, 5, 6] else [4, 7])
  | _ => none

/-- The declared preload that last gives a row its mode on a logical cluster. -/
def lastPreload (i : LotImage) (k r : Nat) : Option Preload :=
  i.preloads.reverse.find? fun x => bit k x.clusterMask && (x.row == r || (twoRow x.mode && x.row + 1 == r))

/-- The mode that the image's preloads give a row on a logical cluster. -/
def modeAtLoad (i : LotImage) (k r : Nat) : Nat := match lastPreload i k r with | some x => x.mode | none => 0

/-! Parameter ranges and operands. -/

/-- Modulus slots name filled entries of the image's modulus table. -/
def slotsOk (mods : List Nat) (n : Nat) (l : List Nat) : Bool := l.length == n && l.all fun m => m < 64 && mods.getD m 0 != 0

/-- Ring degree of a node. -/
def ringOk (logN : Nat) : Bool := 12 ≤ logN && logN ≤ 16

/-- A scratch area of a node. -/
def areaOk (a n : Nat) : Bool := a + n ≤ 2097152

/-- Limbs of one digit (R101). -/
def alphaOf (l dnum : Nat) : Nat := ceilDiv l dnum

/-- `WORK` bytes of a `KEYSWITCH` (R102). -/
def ksWork (n l dnum : Nat) : Nat := 4 * (n * (alphaOf l dnum + 2) + 32768)

/-- Bytes of an element of a `MATMUL` operand (Tables 3.2 and 4.1): an int16 element takes a whole word. -/
def elemBytes (format : Nat) : Nat := if format = 3 then 2 else if format = 4 then 1 else 4

/-- The fields of a parameter block lie in their ranges, its reserved bytes are zero, and its operands are good (R92, R95). -/
def paramsOk (q : Parcel) (i : LotImage) (x : NodeParams) : Bool :=
  let c := i.ledger.clusters
  let op := operandOk q c
  match x with
  | .fold rid n sc e base =>
    rid < 2 ^ 32 && 1 ≤ n && n ≤ 48 && sc < 256 && base.length == n
      && (match foldEntry i.sliceMap e with | some y => n == y.limbCount | none => false)
      && decide (foldRows i.sliceMap x).flatten.Nodup
  | .maskExpand rid l b n g seeds cnt res =>
    rid < 2 ^ 32 && l ≤ 47 && b < 256 && 1 ≤ n && n ≤ 256 && g < 2 ^ 64 && 1 ≤ cnt && cnt ≤ 65536 && res == 0 && op seeds (40 * cnt)
  | .nttFwd ln l w work src dst m =>
    ringOk ln && 1 ≤ l && l ≤ 48 && w % 2 == 0 && areaOk work (4 * 2 ^ ln) && op src (4 * 2 ^ ln * l) && op dst (4 * 2 ^ ln * l)
      && slotsOk i.moduli l m
  | .nttInv ln l w work src dst m =>
    ringOk ln && 1 ≤ l && l ≤ 48 && w % 2 == 0 && areaOk work (4 * 2 ^ ln) && op src (4 * 2 ^ ln * l) && op dst (4 * 2 ^ ln * l)
      && slotsOk i.moduli l m
  | .keyswitch ln l k dnum kid w work src dst key acc _ m res =>
    let n := 2 ^ ln
    let accBytes := 8 * (l + k) * n
    ringOk ln && 1 ≤ l && l ≤ 47 && 1 ≤ k && k ≤ 8 && l + k ≤ 48 && 1 ≤ dnum && dnum ≤ l && kid < 2 ^ 32 && w % 2 == 0 && res == 0
      && areaOk work (ksWork n l dnum) && op src (8 * l * n) && op dst (8 * l * n)
      && key.space == 3 && op key (4 * n * dnum * (l + k)) && op acc accBytes
      && (acc.space == 3 || (acc.space == 1 && ksWork n l dnum + accBytes ≤ 2097152
        && (acc.addr + accBytes ≤ work || work + ksWork n l dnum ≤ acc.addr)))
      && slotsOk i.moduli (l + k) m
  | .refreshLut ln lo dr tl nl w kid work delta src dst table key _ m =>
    let n := 2 ^ ln
    ringOk ln && 1 ≤ lo && lo ≤ 48 && 1 ≤ dr && dr ≤ 4 && 1 ≤ tl && tl ≤ ln && 256 ≤ nl && nl ≤ 1024 && nl % 64 == 0
      && w % 2 == 0 && kid < 2 ^ 32 && delta < 2 ^ 32 && areaOk work (4 * n * (2 * dr + 6))
      && op src (8 * n) && op dst (8 * n * lo) && op table (4 * 2 ^ tl) && key.space == 3 && op key (8 * n * nl * dr)
      && slotsOk i.moduli (1 + lo) m
  | .clipL2 cnt mode b bound rej g src dst res =>
    1 ≤ cnt && cnt ≤ 16777216 && mode ≤ 1 && b % 2 == 0 && 1 ≤ bound && bound ≤ 2 ^ 50 && (rej == 0 || (bound ≤ rej && rej ≤ 2 ^ 50))
      && g < 2 ^ 64 && res == 0 && op src (4 * cnt) && op dst (4 * cnt)
  | .sumsq n b g d src dst res =>
    1 ≤ n && n < 2 ^ 32 && b % 2 == 0 && 1 ≤ g && g ≤ 128 && d ≤ 2 && res == 0 && op src (512 * n * g)
      && op dst (if d = 0 then 0 else 1024 * g * d)
  | .meanvar n b g merge src dst res =>
    1 ≤ n && n < 2 ^ 32 && b % 2 == 0 && 1 ≤ g && g ≤ 128 && merge ≤ 1 && res == 0 && op src (512 * n * g) && op dst (24 * 128 * g)
  | .noiseGauss b n sc t m sigma d dst res =>
    b < 256 && 1 ≤ n && n ≤ 256 && sc < 256 && t ≤ 1 && 2 ^ 32 ≤ sigma && sigma ≤ 2 ^ 61 && d < 2 ^ 32 && res == 0
      && (if t = 0 then m == 0 && op dst 0
        else b == 0 && sc == 0 && (m == 0xFF || (m < 64 && i.moduli.getD m 0 != 0)) && dst.space == 1 && op dst (512 * n))
  | .decodeCenter b n f qs rs dst res =>
    b < 256 && 1 ≤ n && n ≤ 256 && f ≤ 2 && qs ≤ 31 && (f != 2 || qs == 0) && rs ≤ 1 && res == 0 && op dst (512 * n)
  | .applyStep cnt f _ _ g w u dst res =>
    1 ≤ cnt && cnt ≤ 2 ^ 31 && f ≤ 2 && g < 2 ^ 64 && res == 0 && op w (4 * cnt) && op u (4 * cnt)
      && op dst ((if f = 0 then 4 else 2) * cnt)
  | .matmul f b m k n a bb res =>
    f ≤ 4 && b < 256 && 1 ≤ m && m ≤ 256 && 1 ≤ k && k ≤ 65536 && 1 ≤ n && n ≤ 32768 && res == 0
      && op a (elemBytes f * m * k) && op bb (elemBytes f * k * n)
  | .seedRecover cnt t kind sign fl shares dst res =>
    1 ≤ cnt && cnt ≤ 65536 && 2 ≤ t && t ≤ 1024 && kind ≤ 2 && sign ≤ 1 && fl ≤ 1 && res == 0
      && op shares (cnt * (64 * t + 16 * fl)) && op dst (40 * cnt)
  | .pairSeed self cnt _ sk peers dst =>
    self < 2 ^ 32 && 1 ≤ cnt && cnt ≤ 4096 && op sk 32 && op peers (40 * cnt) && op dst (40 * cnt)

/-- The node rounds stochastically (R104, R109). -/
def stochastic : NodeParams → Bool
  | .clipL2 _ m _ _ _ _ _ _ _ => m == 1
  | .applyStep _ f _ _ _ _ _ _ _ => f == 2
  | _ => false

/-- A node header is good (Table 5.1, R64). -/
def nodeHeaderOk (i : LotImage) (nd : Node) : Bool :=
  let declared := fun (x : Nat) => i.stakes.any (·.stake == x)
  nd.opcode == paramsOpcode nd.params && 1 ≤ nd.rodMask && nd.rodMask ≤ 15 && nd.flags < 4
    && nd.waitStake < 8192 && nd.signalStake < 8192 && nd.waitValue < 2 ^ 32
    && (!bit 0 nd.flags || declared nd.waitStake) && (!bit 1 nd.flags || declared nd.signalStake)
    && (if bit 1 nd.flags then 1 ≤ nd.signalAdd && nd.signalAdd ≤ 65535 else nd.signalAdd == 0)
    && nd.paramBytes == up16 (paramsSize nd.params) && nd.clusterMask < 2 ^ i.ledger.clusters
    && nd.stream < 2 ^ 32 && (stochastic nd.params || nd.stream == 0) && nd.draw < 2 ^ 32

/-- A node's rows lie in the image's rows and have a mode that it accepts on every cluster of its mask (R92). -/
def nodeRowsOk (i : LotImage) (nd : Node) : Bool :=
  let rows := nodeRows i.sliceMap nd.params
  rows.all (fun r => i.ledger.shelfRowFirst ≤ r && r < i.ledger.shelfRowFirst + i.ledger.shelfRowCount)
    && (match nodeModes nd.params with
      | some l => (nodeClusters i.ledger.clusters nd).all fun k => rows.all fun r => l.contains (modeAtLoad i k r)
      | none => true)

/-- The rows of two lists meet. -/
def meet (a b : List Nat) : Bool := a.any b.contains

/-- A node is a `FOLD`. -/
def isFold (nd : Node) : Bool := nd.opcode == 1

/-- No two `FOLD` nodes share a row of a cluster (R96). -/
def foldsApart (i : LotImage) : List Node → Bool
  | [] => true
  | a :: l =>
    (!isFold a || l.all fun b =>
      !isFold b || (a.clusterMask &&& b.clusterMask) == 0 || !meet (nodeRows i.sliceMap a.params) (nodeRows i.sliceMap b.params))
    && foldsApart i l

/-- Rows that a node drains (R105, R107, R108). -/
def drainedRows (nd : Node) : List Nat :=
  match nd.params with
  | .decodeCenter b n _ _ _ _ _ => span b n
  | .sumsq _ b g d _ _ _ => if d = 0 then [] else span b (2 * g)
  | .meanvar _ b g _ _ _ _ => span b (2 * g)
  | _ => []

/-- A `NOISE_GAUSS` node with this target on a logical cluster. -/
def noiseOn (target k : Nat) (nd : Node) : Bool :=
  bit k nd.clusterMask && match nd.params with | .noiseGauss _ _ _ t _ _ _ _ _ => t == target | _ => false

/-- Noise reaches a row of a cluster within a list of earlier nodes: noise added to the row, or scratch noise and then a product into the
row (R107). -/
def noised (map : List SliceEntry) (k r : Nat) : List Node → Bool
  | [] => false
  | a :: l =>
    (noiseOn 0 k a && (nodeRows map a.params).contains r)
      || (noiseOn 1 k a && l.any fun b => bit k b.clusterMask && b.opcode == 0x30 && (nodeRows map b.params).contains r)
      || noised map k r l

/-- Rows that a `HOLDS_SUM` image folds into on a logical cluster. -/
def heldRows (i : LotImage) (k : Nat) : List Nat :=
  if bit 0 i.ledger.flags then
    (i.nodes.filter fun nd => isFold nd && bit k nd.clusterMask).flatMap fun nd => nodeRows i.sliceMap nd.params
  else []

/-- No held row is drained without noise before it (R107, R21). -/
def noiseRule (i : LotImage) : Bool :=
  (List.range i.nodes.length).all fun n =>
    match i.nodes[n]? with
    | some nd =>
      let before := i.nodes.take n
      (nodeClusters i.ledger.clusters nd).all fun k =>
        ((drainedRows nd).all fun r => !(heldRows i k).contains r || noised i.sliceMap k r before)
          && (!(nd.opcode == 0x12 && i.trailer.mode == 2 && !(heldRows i k).isEmpty)
            || before.any fun b => noiseOn 0 k b || noiseOn 1 k b)
    | none => true

/-- The distinct `SIGMA` values that a graph names (R272). -/
def sigmas (l : List Node) : List Nat :=
  (l.filterMap fun nd => match nd.params with | .noiseGauss _ _ _ _ _ sg _ _ _ => some sg | _ => none).dedup

/-- Every node of the graph is good: `lot.load` answers `ST_OP_PARAM` otherwise (R92, R96, R107, R272). -/
def graphOk (q : Parcel) (i : LotImage) : Bool :=
  i.nodes.all (fun nd => nodeHeaderOk i nd && paramsOk q i nd.params && nodeRowsOk i nd)
    && foldsApart i i.nodes && noiseRule i && (sigmas i.nodes).length ≤ 2

end Sys2Proof.Machine
end

