-- ==== Sys2Proof/Machine/Catalog.lean ====
section
/-! DEFINITION. The run of a node and the arithmetic that the catalog operations share: starting and completing nodes (R93), mask words (R98), rounding
words (R87), transforms (R100), base conversion (R101), and what an operation leaves in its work areas. -/

namespace Sys2Proof.Machine

/-! Nodes (R93). -/

/-- Node `n` of a context's graph. -/
def Context.node (n : Nat) (x : Context) : Option Node := match x.image with | some i => i.nodes[n]? | none => none

/-- State of node `n` on logical cluster `k`: 0 not started, 1 started, 2 worked, 3 complete. -/
def Context.nodeState (k n : Nat) (x : Context) : Nat := ((x.on k).nodes.getD n NodeRun.reset).state

/-- Set the state of node `n` on logical cluster `k`. -/
def Context.setNode (k n st : Nat) (x : Context) : Context :=
  x.modOn k fun y => { y with nodes := y.nodes.modify n fun r => { r with state := st } }

/-- The node before `n` on logical cluster `k` has started, or there is none. -/
def Context.turnOf (k n : Nat) (x : Context) : Bool :=
  (List.range n).all fun m => match x.node m with | some nd => !bit k nd.clusterMask || 1 ≤ x.nodeState k m | none => true

/-- A node's own wait is met (R65, R93). -/
def State.nodeWait (p : Nat) (nd : Node) (s : State) : Bool :=
  !bit 0 nd.flags || waitMet (s.stakeVal p nd.waitStake) (BitVec.ofNat 32 nd.waitValue)

/-- Rows of a node, as lists that may overlap. -/
def Context.nodeRows (nd : Node) (x : Context) : List Nat :=
  match x.image with | some i => Machine.nodeRows i.sliceMap nd.params | none => []

/-- A `DECODE_CENTER` node with `RESET` = 1 that starts completes the `FOLD` nodes whose rows it drains on its cluster (R96). -/
def Context.endFolds (k : Nat) (nd : Node) (x : Context) : Context :=
  match nd.params, x.image with
  | .decodeCenter b n _ _ 1 _ _, some i =>
    (List.range i.nodes.length).foldl (fun y m =>
      match i.nodes[m]? with
      | some f => if isFold f && bit k f.clusterMask && meet (Machine.nodeRows i.sliceMap f.params) (span b n) then y.setNode k m 3 else y
      | none => y) x
  | _, _ => x

/-- R93. A node starts on a cluster: the declared preloads have run, the node before it has started, and its wait is met. -/
def execNodeStart (p k node : Nat) (s : State) : Host.Outcome State Fault Refusal :=
  .next (match s.acting p k with
    | some (c, x) =>
      match x.node node with
      | some nd =>
        if bit k nd.clusterMask && x.nodeState k node = 0 && (x.on k).preloaded && x.turnOf k node && s.nodeWait p nd then
          s.modCtx p c fun y => (y.setNode k node 1).endFolds k nd
        else s
      | none => s
    | none => s)

/-- R93, R65. A node's part on a cluster completes, and its signal is applied once; a `FOLD` node signals per record instead. -/
def execNodeComplete (p k node : Nat) (s : State) : Host.Outcome State Fault Refusal :=
  .next (match s.landing p k with
    | some (c, x) =>
      match x.node node with
      | some nd =>
        if bit k nd.clusterMask && x.nodeState k node = 2 && !isFold nd then
          let t := s.modCtx p c (Context.setNode k node 3)
          if bit 1 nd.flags then t.signalCtx p c nd.signalStake nd.signalAdd else t
        else s
      | none => s
    | none => s)

/-- A started node of this opcode may work now on the cluster: its context acts, and this rod is in its `ROD_MASK` (R93). -/
def State.working? (p k n op : Nat) (s : State) : Option (Nat × Context × Node) :=
  match s.acting p k with
  | some (c, x) =>
    match x.node n with
    | some nd =>
      if bit k nd.clusterMask && nd.opcode == op && paramsOpcode nd.params == op && x.nodeState k n == 1 && bit s.clock.rod nd.rodMask
      then some (c, x, nd) else none
    | none => none
  | none => none

/-- The context still runs: an operation stops at the write that faults it. -/
def State.ifUp (p c : Nat) (g : State → State) (s : State) : State := if (s.ctx p c).started then g s else s

/-- Run an operation's effect and mark its work done, unless it faulted its context. -/
def State.operate (p k n op : Nat) (effect : Nat → Context → Node → State → State) (s : State) : State :=
  match s.working? p k n op with
  | some (c, x, nd) => (effect c x nd s).ifUp p c fun t => t.modCtx p c (Context.setNode k n 2)
  | none => s

/-! Discards (R114): by the reasons of R96 in order (0 round, 1 limb, 2 format, 3 unmapped, 4 no fold), 5 clip, 6 mask entries, 7 seed entries. -/

/-- Count discards of a context. -/
def State.discard (p c reason n : Nat) (s : State) : State :=
  s.modCtx p c fun x => { x with discards := x.discards.set reason ((x.discards.getD reason 0 + n) % 2 ^ 32) }

/-! Words from keys. -/

/-- A 32-bit word of an AES block, counted from the low end. -/
def blockWord (v : BitVec 128) (i : Nat) : Nat := v.toNat / 2 ^ (32 * i) % 2 ^ 32

/-- R98. The mask derivation E; `digit` stands in bits [15:8] of the domain word (R101); `q` is 2^32 or a prime. -/
def maskWord (seed : Key) (kind limb digit round g q : Nat) : Nat :=
  let dom := kind * 2 ^ 24 + limb * 2 ^ 16 + digit * 2 ^ 8
  let blk := fun (h : Nat) => Config.aes256 seed (BitVec.ofNat 128 (dom + round * 2 ^ 32 + h * 2 ^ 64))
  if q = 2 ^ 32 then blockWord (blk (g / 4)) (g % 4) else (blk (g / 2)).toNat / 2 ^ (64 * (g % 2)) % 2 ^ 64 % q

/-- R87. The random word of element `g` of a rounding stream and draw. -/
def roundWord (key : Key) (stream draw g : Nat) : Nat :=
  blockWord (Config.aes256 key (BitVec.ofNat 128 (stream + draw * 2 ^ 32 + g / 4 * 2 ^ 64))) (g % 4)

/-! Transforms (R100). -/

/-- g is a primitive root modulo the prime p: no proper divisor of p - 1 is its order. -/
def isPrimRoot (p g : Nat) : Bool :=
  powMod p 32 g ((p - 1) / 2) != 1 && (List.range (modC p + 1)).all fun d => d < 2 || modC p % d != 0 || powMod p 32 g ((p - 1) / d) != 1

/-- The smallest primitive root from `g` on, within `fuel` tries. -/
def primRootFrom (p : Nat) : Nat → Nat → Nat
  | 0, g => g
  | n + 1, g => if isPrimRoot p g then g else primRootFrom p n (g + 1)

/-- ψ of a ring of degree `n` (R100). -/
def psi (p n : Nat) : Nat := powMod p 32 (primRootFrom p p 2) ((p - 1) / (2 * n))

/-- A polynomial's value modulo p. -/
def evalPoly (p : Nat) (l : List Nat) (z : Nat) : Nat := l.foldr (fun c acc => (c % p + acc * z) % p) 0

/-- The forward transform of one limb. -/
def nttFwd (p n : Nat) (a : List Nat) : List Nat :=
  let w := psi p n
  (List.range n).map fun j => evalPoly p a (powMod p 64 w (2 * j + 1))

/-- The inverse transform of one limb. -/
def nttInv (p n : Nat) (a : List Nat) : List Nat :=
  let w := psi p n
  let wi := invMod 32 p w
  let ni := invMod 32 p (n % p)
  (List.range n).map fun i => ni * powMod p 64 wi i % p * evalPoly p a (powMod p 64 wi (2 * i)) % p

/-- The limbs of `n` words each that bytes hold. -/
def limbsOf (n count : Nat) (b : Bytes) : List (List Nat) := (List.range count).map fun i => wordsOf 4 n (cut (4 * n * i) (4 * n) b)

/-! Base conversion (R101). -/

/-- `conv` of one coefficient from moduli `ms` to modulus `t`. -/
def conv (ms : List Nat) (t : Nat) (x : List Nat) : Nat :=
  let big := ms.foldl (· * ·) 1
  ((List.range ms.length).map fun i =>
    let m := ms.getD i 1
    let y := x.getD i 0 % m * invMod 32 m (big / m % m) % m
    y * (big / m % t)).sum % t

/-- `conv` of whole limbs. -/
def convLimbs (n : Nat) (ms : List Nat) (t : Nat) (l : List (List Nat)) : List Nat :=
  (List.range n).map fun i => conv ms t (l.map fun x => x.getD i 0)

/-- Word by word modulo p. -/
def zipMod (p : Nat) (g : Nat → Nat → Nat) (a b : List Nat) : List Nat := List.zipWith (fun x y => g x y % p) a b

/-! Work areas. What an operation leaves in its work rows and work areas is not stated: free values. -/

/-- Byte `i` of the free values from draw `d` on. -/
def freeByte (d i : Nat) : Byte := BitVec.ofNat 8 ((Config.freeValue (d + i / 128)).toNat / 2 ^ (8 * (i % 128)))

/-- Bytes of the logical cluster's scratch from `a` on become free values. -/
def State.scribble (p k a n : Nat) (s : State) : State :=
  (s.writeSpace false p k 1 a ((List.range n).map (freeByte s.draws))).drawMany (ceilDiv n 128)

/-- The accumulators of row `r` become free values; its control word stays. -/
def State.scribbleRow (p k : Nat) (s : State) (r : Nat) : State :=
  let acc := (List.range 128).map fun j => BitVec.ofNat 64 (leNat ((List.range 8).map fun i => freeByte s.draws (8 * j + i)))
  (s.modLogical p k fun u => match tget r u.rows with | some w => u.putRow r { w with acc := acc } | none => u).drawMany 8

/-- An operation's 64 work rows and its `WORK` area end with free values. -/
def State.scribbleWork (p k row a n : Nat) (s : State) : State := ((span row 64).foldl (State.scribbleRow p k) s).scribble p k a n

end Sys2Proof.Machine
end

