-- ==== Sys2Proof/Machine/Leaves.lean ====
section
/-! DEFINITION. Leaves and folding: delivery into the filling leaf, the standing `FOLD` node, and the reading of one record (R68 to R72, R96,
R124, R128, R302). -/

namespace Sys2Proof.Machine

/-! Delivery (R68, R71). -/

/-- Granules of a record's data. -/
def granulesOf (data : Bytes) : Nat := ceilDiv data.length 64

/-- The filling leaf of a cluster. -/
def Cluster.fill (k : Cluster) : Leaf := k.leaves.getD k.filling Leaf.reset

/-- The filling leaf can take a whole record (R68). -/
def Cluster.leafRoom (data : Bytes) (k : Cluster) : Bool := k.fill.granules + granulesOf data ≤ 8192 && k.fill.entries + 1 ≤ 8192

/-- The leaf with a record written and published. -/
def Leaf.publish (header data : Bytes) (chain : Nat) (late : Bool) (l : Leaf) : Leaf :=
  { l with
    recs := l.recs ++ [{ LeafRec.reset with
      header := header
      data := data
      chain := chain
      afterClose := late
      gran := l.granules }]
    granules := l.granules + granulesOf data
    entries := l.entries + 1 }

/-- A fold context of the parcel has accepted `round.close` for this round tag (R128). -/
def Parcel.closeTaken (tag : Nat) (q : Parcel) : Bool :=
  q.contexts.any fun x => match x.round with | some r => r.desc.role == 2 && r.desc.roundId == tag && r.closeTaken.isSome | none => false

/-- Write a record into the filling leaf of logical cluster `k` and publish its index entry (R68, R69). -/
def State.publish (p k : Nat) (header data : Bytes) (s : State) : State :=
  let late := (s.parcel p).closeTaken (fld 0 4 header)
  s.modLogical p k fun u => { u with leaves := u.leaves.modify u.filling (Leaf.publish header data s.now late) }

/-- The station can deliver a record to logical cluster `k` now (R68). -/
def State.leafRoom (p k : Nat) (data : Bytes) (s : State) : Bool := !(s.live p k).isEmpty && (s.lead p k).leafRoom data

/-- R68, R71. An admitted `LEAF` record reaches its cluster: it is delivered, or held by its station behind those already held. -/
def execLeafDeliver (p k conn : Nat) (header data : Bytes) (s : State) : Host.Outcome State Fault Refusal :=
  .next (if header.length ≠ 32 || data.length % 512 ≠ 0 || data.isEmpty || 8192 < data.length || !(s.parcel p).isOpen then s
    else if (s.lead p k).heldRecs.isEmpty && s.leafRoom p k data then s.publish p k header data
    else s.modLogical p k fun u => { u with heldRecs := u.heldRecs ++ [(conn, header, data)] })

/-- R71. The oldest held record is delivered once the leaf can take it. -/
def execLeafDeliveryResume (p k : Nat) (s : State) : Host.Outcome State Fault Refusal :=
  .next (match (s.lead p k).heldRecs with
    | (_, h, d) :: _ =>
      if s.leafRoom p k d then (s.modLogical p k fun u => { u with heldRecs := u.heldRecs.drop 1 }).publish p k h d else s
    | [] => s)

/-! Reading (R69). -/

/-- Priority class of a record (Table 6.6). -/
def recClass (r : LeafRec) : Nat := fld 5 1 r.header % 4

/-- Positions of the unconsumed records, in ascending class and within a class in publication order. -/
def Leaf.order (l : Leaf) : List Nat :=
  (List.range 4).flatMap fun c => (List.range l.recs.length).filter fun i =>
    match l.recs[i]? with | some r => !r.used && recClass r == c | none => false

/-- The next record of a cluster's reading leaf: position and record. A replay goes on past those that it has read (R302). -/
def Cluster.nextRec (replay : Bool) (k : Cluster) : Option (Nat × LeafRec) :=
  match (k.reading.order.drop (if replay then k.replayReads else 0)).head? with
  | some i => match k.reading.recs[i]? with | some r => some (i, r) | none => none
  | none => none

/-- The cluster with a record consumed; a replay reads it without consuming it. -/
def Cluster.consume (replay : Bool) (i : Nat) (k : Cluster) : Cluster :=
  if replay then { k with replayReads := k.replayReads + 1 }
  else { k with leaves := k.leaves.modify (1 - k.filling) fun l => { l with recs := l.recs.modify i fun r => { r with used := true } } }

/-! Folding (R96). -/

/-- R96. A started `FOLD` node stands: from now on it reads its cluster's leaf. -/
def execFold (p k node : Nat) (s : State) : Host.Outcome State Fault Refusal :=
  .next (s.operate p k node 0x01 fun _ _ _ s => s)

/-- What a record meets at a `FOLD` node of the cluster. -/
structure FoldNode where
  index : Nat
  state : Nat
  node : Node
  roundId : Nat
  limbs : Nat
  scale : Nat
  first : Nat
  part : Nat
  base : List Nat
  deriving DecidableEq, Repr

/-- The `FOLD` nodes of a context on a logical cluster, with the part that each folds there. -/
def Context.foldNodes (k : Nat) (x : Context) : List FoldNode :=
  match x.image with
  | none => []
  | some i => (List.range i.nodes.length).filterMap fun n =>
    match i.nodes[n]? with
    | some nd =>
      match nd.params with
      | .fold rid lc sc e base =>
        match foldEntry i.sliceMap e with
        | some m =>
          if bit k nd.clusterMask then
            some ⟨n, x.nodeState k n, nd, rid, lc, sc, m.coordFirst + k * m.partCoords, m.partCoords, base⟩
          else none
        | none => none
      | _ => none
    | none => none

/-- What is to become of a record: left alone until its node stands, discarded by a reason, or folded by a node. -/
inductive FoldPlan where
  | wait
  | discard (reason : Nat)
  | fold (f : FoldNode)
  deriving DecidableEq, Repr

/-- A record of a round that the context ended without publication is discarded (R117). -/
def Context.roundOver (r : LeafRec) (x : Context) : Bool :=
  match x.round with
  | some o => o.desc.roundId == fld 0 4 r.header && o.outcome.isSome && o.outcome != some 0
  | none => false

/-- R96, R128. The reason of a discard, or the node that takes the record. -/
def foldPlan (l : List FoldNode) (r : LeafRec) : FoldPlan :=
  let c := fld 8 8 r.header
  let n := r.data.length
  let ours := l.filter fun f => f.roundId == fld 0 4 r.header
  if ours.isEmpty then .discard 0
  else if r.afterClose || ours.all (·.state == 3) then .discard 4
  else match ours.find? fun f => f.first ≤ c && c < f.first + f.part with
    | none => .discard 3
    | some f =>
      if f.state < 2 then .wait
      else if f.state = 3 then .discard 4
      else if f.limbs ≤ fld 6 1 r.header then .discard 1
      else if c % 128 ≠ 0 || n % 512 ≠ 0 then .discard 2
      else if f.first + f.part < c + n / 4 then .discard 3
      else .fold f

/-- First tile row that a record's words go to. -/
def FoldNode.firstRow (f : FoldNode) (r : LeafRec) : Nat := f.base.getD (fld 6 1 r.header) 0 + (fld 8 8 r.header - f.first) / 128

/-- Tile rows that a record's words go to. -/
def FoldNode.recRows (f : FoldNode) (r : LeafRec) : List Nat := span (f.firstRow r) (r.data.length / 512)

/-- Set `HELD` on the node's rows at its first write, for an image with `HOLDS_SUM`; a replay leaves held rows alone (R96, R302). -/
def State.holdRows (p k : Nat) (rows : List Nat) (s : State) : State :=
  if s.replaying p then s else
  s.modLogical p k fun u => rows.foldl (fun u r =>
    match tget r u.rows with | some w => u.putRow r { w with ctrl := withHeld w.ctrl } | none => u) u

/-- Add a record's words to its rows, row by row (R96). -/
def State.foldWords (p c k : Nat) (f : FoldNode) (r : LeafRec) (s : State) : State :=
  (List.range (r.data.length / 512)).foldl (fun s i =>
    let row := f.firstRow r + i
    let a := pathAddends (rowMode ((s.lead p k).row row).ctrl) (wordsOf 4 128 (cut (512 * i) 512 r.data))
    s.ifUp p c fun s => s.landWrite p c k row 1 f.scale a.1 a.2) s

/-- Count a folded record (R96, R124): the node's count, `CONTRIB` of the cluster, and work that a replay cannot redo (R303). -/
def Context.folded (k : Nat) (f : FoldNode) (r : LeafRec) (x : Context) : Context :=
  { (x.modOn k fun y => { y with
      contrib := y.contrib + fld 20 4 r.header
      nodes := y.nodes.modify f.index fun n => { n with folded := n.folded + 1 } }) with lostWork := true }

/-- Fold a record on a cluster, after a check that every row takes it (R51, R55, R96). -/
def State.foldOne (p c k : Nat) (x : Context) (f : FoldNode) (r : LeafRec) (s : State) : State :=
  if (f.recRows r).any fun row => rowRefuses c ((s.lead p k).row row) then s.faultCtx p c fcShelfMode
  else
    let rows := x.nodeRows f.node
    let s := if x.holdsSum then s.holdRows p k rows else s
    (s.foldWords p c k f r).ifUp p c fun s =>
      let s := s.modCtx p c (Context.folded k f r)
      if bit 1 f.node.flags then s.signalCtx p c f.node.signalStake f.node.signalAdd else s

/-- R96. The next record of the reading leaf is folded or discarded. A standing or completed `FOLD` node reads it, in a rod of its mask. -/
def execFoldRecord (p k : Nat) (s : State) : Host.Outcome State Fault Refusal :=
  .next (match s.acting p k with
    | some (c, x) =>
      let l := x.foldNodes k
      let replay := s.replaying p
      if !(l.any fun f => 2 ≤ f.state && bit s.clock.rod f.node.rodMask) then s else
      match (s.lead p k).nextRec replay with
      | none => s
      | some (i, r) =>
        let taken := s.modLogical p k (Cluster.consume replay i)
        match if x.roundOver r then .discard 4 else foldPlan l r with
        | .wait => s
        | .discard why => (taken.discard p c why 1).modCtx p c fun x => { x with lostWork := true }
        | .fold f => taken.foldOne p c k x f r
    | none => s)

end Sys2Proof.Machine
end

