-- ==== Sys2Proof/Machine/Transport.lean ====
section
/-! DEFINITION. Arriving transport messages: admission in the order of Table 8.8, tags, visibility in order, answers, refusals, and the messages that
open, attest and close a connection (R172 to R176, R179 to R194). -/

namespace Sys2Proof.Machine

/-! Station signals (R67, R187, R302). -/

/-- A station signals logical stake `i`, which must belong to context `c` if one is named and be open to stations; otherwise the signal is dropped
and counted on the connection (R67). The signals to the stakes of a context under replay are held (R302). -/
def State.stationSignal (id : Nat) (c : Option Nat) (i add : Nat) (s : State) : State :=
  let p := connParcel id
  match s.stake p (i / 128) (i % 128) with
  | some st =>
    if st.remoteEn && (match c with | some x => st.owner == x | none => true) then
      match (s.parcel p).replay with
      | some r =>
        if r.pending.head? = some st.owner then
          s.modParcel p fun q => { q with replay := some { r with signals := r.signals ++ [(i, add)] } }
        else s.signal p i add
      | none => s.signal p i add
    else s.modConn id fun k => { k with dropped := k.dropped + 1 }
  | none => s.modConn id fun k => { k with dropped := k.dropped + 1 }

/-! Refusals (R175, R183, R191). -/

/-- Form the `REFUSE` of a message (R191): it carries the message's connection, generation, number and slice. -/
def State.refuseMsg (m : Msg) (code : Nat) (s : State) : Msg :=
  { Msg.zero with
    kind := kRefuse
    arg := code
    dstModule := m.srcModule
    srcModule := s.boot.moduleId
    conn := m.conn
    slice := m.slice
    connGen := m.connGen
    seq := m.seq }

/-- Send a `REFUSE`: with a consuming code it is sealed where the connection encrypts, otherwise it goes in clear (R175); codes that need no
record are limited to one per source and connection ID per chain (R191). -/
def State.refuse (m : Msg) (code : Nat) (s : State) : State :=
  let r := s.refuseMsg m code
  if code = arNoConn || code = arConnGen then
    if s.fabric.refuseSent.contains (m.srcModule, m.conn) then
      { s with fabric := { s.fabric with refuseHeld := s.fabric.refuseHeld + 1 } }
    else
      { s with fabric := { s.fabric with refuseSent := s.fabric.refuseSent ++ [(m.srcModule, m.conn)] } }.toStation r
  else if consuming code && (s.conn? m.conn).isSome then s.toStation ((s.conn m.conn).wrap r)
  else s.toStation r

/-- The front held number, if it is the next to become visible. -/
def Conn.atTurn (k : Conn) : Option HeldMsg := k.held.find? fun h => h.seq == k.rxNext

/-- `RX_NEXT` passes the number at its turn. -/
def Conn.pass (refusedOne : Bool) (k : Conn) : Conn :=
  { k with
    rxNext := k.rxNext + 1
    held := k.held.filter fun h => h.seq != k.rxNext
    completeDue := true
    refusedN := k.refusedN + b2n refusedOne }

/-- `RX_NEXT` passes the consumed numbers at their turn (R183): at most a window of them. -/
def Conn.skip : Nat → Conn → Conn
  | 0, k => k
  | n + 1, k => match k.atTurn with
    | some h => if h.msg.isNone then Conn.skip n (k.pass true) else k
    | none => k

/-- The connection with number `seq` consumed (R183). -/
def Conn.consumeSeq (seq : Nat) (k : Conn) : Conn :=
  ({ k with held := (k.held.filter fun (h : HeldMsg) => h.seq != seq) ++ [{ HeldMsg.reset with seq := seq }] }).skip 256

/-- The number is open: it has not been passed, consumed or admitted, and lies in the window. -/
def Conn.openSeq (seq : Nat) (k : Conn) : Bool := k.rxNext ≤ seq && seq < k.rxNext + k.window && !(k.held.any fun (h : HeldMsg) => h.seq == seq)

/-- Refuse a message that has arrived; a consuming code uses up the number where the message is this connection's (R183). -/
def State.refuseArrived (m : Msg) (code : Nat) (s : State) : State :=
  let t := s.refuse m code
  if consuming code && sequenced m.kind then
    t.modConn m.conn fun k =>
      if k.peerModule = m.srcModule && k.gen = m.connGen && k.openSeq m.seq then k.consumeSeq m.seq else k
  else t

/-! Admission (Table 8.8). -/

/-- The access grain's fields (Table 8.6). -/
structure Access where
  addr : Nat
  length : Nat
  easeGen : Nat
  stake : Nat
  add : Nat
  respSpace : Nat
  respAddr : Nat
  reserved : Bool
  deriving DecidableEq, Repr

/-- Read an access grain. -/
def parseAccess (b : Bytes) : Access :=
  { addr := fld 0 8 b
    length := fld 8 4 b
    easeGen := fld 12 2 b
    stake := fld 14 2 b
    add := fld 16 2 b
    respSpace := fld 18 1 b
    respAddr := fld 24 8 b
    reserved := !allZero (cut 19 5 b) }

/-- The easement that an address names: [49:38]. -/
def Access.ease (a : Access) : Nat := bits 49 38 a.addr
/-- The offset in the window: [37:0]. -/
def Access.off (a : Access) : Nat := a.addr % 2 ^ 38

/-- The body in clear, as far as a key is known. -/
def State.clearMsg (m : Msg) (s : State) : Bytes :=
  match s.conn? m.conn with
  | some k => clearBodyOf k.rxKey m
  | none => m.body

/-- Header fields are well formed (Table 8.3). -/
def headerOk' (m : Msg) : Bool :=
  m.body.length == 32 * m.bodyGrains && m.bodyGrains ≤ 257 && m.refusedN == 0 && (m.kind == kLeaf || m.arg == 0)
    && (m.kind == kWrite || m.kind == kReadReq || !m.signal) && (m.enc || m.tag == 0)

/-- The access grain is well formed (Table 8.6). -/
def accessOk (m : Msg) (a : Access) : Bool :=
  a.addr / 2 ^ 50 == m.dstModule && a.length % 4 == 0 && 4 ≤ a.length && a.length ≤ 8192 && a.stake < 8192
    && (m.signal == (a.add != 0)) && !a.reserved
    && (if m.kind = kWrite then a.respSpace == 0 && a.respAddr == 0 && m.bodyGrains == 1 + ceilDiv a.length 32
      else (a.respSpace == 1 || a.respSpace == 3) && m.bodyGrains == 1)

/-- Check 1: header and access grain well formed. -/
def State.formatOk (m : Msg) (s : State) : Bool :=
  headerOk' m && (if m.kind = kWrite || m.kind = kReadReq then 1 ≤ m.bodyGrains && accessOk m (parseAccess (s.clearMsg m))
    else if m.kind = kLeaf || m.kind = kAttest then 1 ≤ m.bodyGrains
    else if m.kind = kOpenAck then m.bodyGrains == 5 && m.seq == 0 && m.enc else m.bodyGrains == 0)

/-- The parcel that a connection ID names is CLOSING. -/
def State.closingParcel (id : Nat) (s : State) : Bool := (s.parcel (connParcel id)).state == 4

/-- Check 2: `ENC` where R176 requires it. -/
def State.plainBad (m : Msg) (s : State) : Bool :=
  !m.enc && ((m.viaGlobal && sequenced m.kind) || (match s.conn? m.conn with | some k => k.encrypt && k.state != 6 | none => false))

/-- The connection's state carries a message of this kind (Table 8.4, R181). -/
def Conn.carries (kind : Nat) (k : Conn) : Bool :=
  if kind = kOpenAck then k.state == 1
  else if kind = kAttest then k.state == 2 || k.state == 3
  else if sequenced kind then k.state == 3 || (k.state == 2 && k.verified)
  else if kind = kClose then k.state == 2 || k.state == 3 || k.state == 4
  else if kind = kReadResp then k.state == 3 || k.state == 4
  else k.state == 2 || k.state == 3 || k.state == 4

/-- Checks 0 to 5 of Table 8.8: the first that fails. -/
def State.headFails (m : Msg) (s : State) : Option Nat :=
  match s.conn? m.conn with
  | some k =>
    firstFail [
      (s.fabric.stationFenced || s.closingParcel m.conn, arClosed),
      (!s.formatOk m, arFormat),
      (s.plainBad m, arPlain),
      (k.peerModule != m.srcModule || !k.carries m.kind, arNoConn),
      (k.gen != m.connGen, arConnGen),
      (!s.resident m.conn, arFetch)]
  | none =>
    firstFail [
      (s.fabric.stationFenced || s.closingParcel m.conn, arClosed),
      (!s.formatOk m, arFormat),
      (s.plainBad m, arPlain),
      (true, arNoConn)]

/-- Source check 9: module range, peer parcel, plaintext. -/
def sourceOk (e : Ease) (k : Conn) (m : Msg) : Bool :=
  e.srcModule ≤ m.srcModule && m.srcModule < e.srcModule + e.srcCount && k.peerParcel == e.srcParcel && !(e.encOnly && !m.enc)

/-- The stake bound of check 12: the context's logical stakes (R187). -/
def State.stakeBound (p c : Nat) (s : State) : Nat := 128 * (s.ctx p c).width

/-- Checks 7 to 12 for `WRITE` and `READ_REQ`. -/
def State.accessFails (m : Msg) (a : Access) (s : State) : Option Nat :=
  let k := s.conn m.conn
  let e := s.ease a.ease
  let p := connParcel m.conn
  firstFail [
    (a.ease / 256 != p || !e.valid, arNoEase),
    (a.easeGen != e.gen, arGen),
    (!sourceOk e k m, arSource),
    ((if m.kind = kWrite then !e.write || (m.signal && !e.signal) else !e.read), arRights),
    (a.off % 4 != 0 || e.size < a.off + a.length, arRange),
    (m.kind == kWrite && m.signal && s.stakeBound p e.context ≤ a.stake, arStake)]

/-- Checks 7 to 11 for `LEAF`. -/
def State.leafFails (m : Msg) (s : State) : Option Nat :=
  let k := s.conn m.conn
  let e := s.ease k.leafEase
  let n := 32 * m.bodyGrains - 32
  firstFail [
    (k.leafGen.isNone || !e.valid, arNoEase),
    (k.leafGen != some e.gen, arGen),
    (!sourceOk e k m, arSource),
    (!e.leaf, arRights),
    ((s.parcel (connParcel m.conn)).logical ≤ m.arg || n < 512 || 8192 < n || n % 512 != 0, arRange)]

/-- Checks 7 to 12 of a sequenced message. -/
def State.easeFails (m : Msg) (s : State) : Option Nat :=
  if m.kind = kAttest then none else if m.kind = kLeaf then s.leafFails m else s.accessFails m (parseAccess (s.clearMsg m))

/-- The easement under which a message is admitted, and its generation. -/
def State.admittedBy (m : Msg) (s : State) : Nat × Nat :=
  let k := s.conn m.conn
  if m.kind = kLeaf then (k.leafEase, (s.ease k.leafEase).gen)
  else if m.kind = kAttest then (4096, 0)
  else let e := (parseAccess (s.clearMsg m)).ease; (e, (s.ease e).gen)

/-! Visibility (R183, R187). -/

/-- Answer a `READ_REQ` at its turn (R174, R185). -/
def State.answerRead (id base : Nat) (m : Msg) (s : State) : State :=
  let a := parseAccess m.body
  let data := s.extRead (connParcel id) (base + a.off) a.length
  s.handOver id { s.msgTo id kReadResp false 0 m.seq data with slice := m.slice }

/-- Write an admitted `WRITE` and apply its signal (R187, R188). -/
def State.writeMsg (id base context : Nat) (m : Msg) (s : State) : State :=
  let a := parseAccess m.body
  let t := s.extWrite false (connParcel id) (base + a.off) ((m.body.drop 32).take a.length)
  if m.signal then t.stationSignal id (some context) a.stake a.add else t

/-- Make one held message visible at its turn, if it can be: a `LEAF` needs room in its leaf (R68, R71). -/
def State.makeVisible (id : Nat) (h : HeldMsg) (m : Msg) (s : State) : State :=
  let p := connParcel id
  let go := fun (t : State) => ((t.modConn id fun k => (k.pass false).skip 256).touchConn id).countDrained h
  if m.kind = kWrite then go (s.writeMsg id h.base h.context m)
  else if m.kind = kReadReq then go (s.answerRead id h.base m)
  else if m.kind = kLeaf then
    if (s.lead p m.arg).heldRecs.isEmpty && s.leafRoom p m.arg (m.body.drop 32) then
      go (s.publish p m.arg (m.body.take 32) (m.body.drop 32))
    else s
  else go s

/-- Make the message at its turn visible. -/
def State.visibleNext (id : Nat) (s : State) : State :=
  let k := s.conn id
  if k.state == 2 || k.state == 3 || k.state == 4 then
    match k.atTurn with
    | some h => match h.msg with
      | some m => s.makeVisible id h m
      | none => s
    | none => s
  else s

/-- R183. A held message becomes visible at its turn. -/
def execMessageVisible (conn : Nat) (s : State) : Host.Outcome State Fault Refusal :=
  .next (if s.connLive conn then s.visibleNext conn else s)

/-! Tags and admission of a sequenced message (R190). -/

/-- A tag failure of connection `id` (R190): the fourth in a row fails the connection. -/
def State.tagFailed (id : Nat) (s : State) : State :=
  let t := s.modConn id fun k => { k with tagFails := k.tagFails + 1 }
  if 4 ≤ (t.conn id).tagFails then t.setConnState id 5 .integrity else t

/-- Hold an admitted message, and make it visible if it is its turn. -/
def State.hold (m : Msg) (by_ : Nat × Nat) (s : State) : State :=
  let clear := { m with body := s.clearMsg m, enc := false }
  let t := s.modConn m.conn fun k => { k with
    tagFails := 0
    held := k.held ++ [{
      seq := m.seq
      msg := some clear
      ease := by_.1
      easeGen := by_.2
      base := (s.ease by_.1).base
      context := (s.ease by_.1).context }] }
  t.visibleNext m.conn

/-- A report received on an attested connection verifies (R181, R239). -/
def State.reportOk (id : Nat) (b : Bytes) (s : State) : Bool :=
  let k := s.conn id
  let chain := (b.drop 816).take (fld 712 2 b)
  fld 0 4 b == 0x0A5EA77E && fld 4 2 b == 1 && fld 6 2 b == 816 + fld 712 2 b
    && Config.chainVerifies chain (BitVec.ofNat 384 (fld 40 48 b))
    && Config.ecdsaVerify (Config.chainAliasPub chain) (b.take 720) (cut 720 96 b)
    && fld 8 2 b == k.peerModule && fld 10 1 b == k.peerParcel
    && BitVec.ofNat 384 (fld 136 48 b) == k.expect
    && BitVec.ofNat 384 (fld 184 48 b) == bindingData s.boot.moduleId k.peerModule k.ephPub k.peerEph

/-- An `ATTEST` whose tag has been checked (R181): it sets `VERIFIED` and becomes visible, or fails the connection. -/
def State.attestIn (m : Msg) (s : State) : State :=
  let id := m.conn
  if (s.conn id).verified then s.hold m (4096, 0)
  else if s.reportOk id (s.clearMsg m) then
    ((s.modConn id fun k => { k with verified := true }).hold m (4096, 0)).bothVerified id
  else s.setConnState id 5 .attestation

/-- A sequenced message arrives (R183, R189, R190). -/
def State.arrive (m : Msg) (s : State) : State :=
  match s.headFails m with
  | some code => s.refuseArrived m code
  | none =>
    let id := m.conn
    let s := (s.modConn id fun k => { k with lastChain := s.now }).touchConn id
    let k := s.conn id
    if k.rxNext + k.window ≤ m.seq then s.refuseArrived m arWindow
    else if !k.openSeq m.seq then s
    else
      let s := if k.state = 2 && k.verified && m.kind != kAttest then s.setConnState id 3 .peer else s
      match s.easeFails m with
      | some code => s.refuseArrived m code
      | none =>
        if m.enc && !tagOk k.rxKey m then (s.refuseArrived m arTag).tagFailed id
        else if m.kind = kAttest then s.attestIn m
        else s.hold m (s.admittedBy m)

/-- Run a message row on a message of its kind that names this module; any other is not this row's. -/
def State.onKind (kind : Nat) (m : Msg) (f : State → State) (s : State) : State :=
  if m.kind = kind && m.dstModule = s.boot.moduleId then f s else s

/-- R187, R189. `WRITE`. -/
def execWrite (m : Msg) (s : State) : Host.Outcome State Fault Refusal := .next (s.onKind kWrite m (State.arrive m))

/-- R183, R185. `READ_REQ`. -/
def execReadReq (m : Msg) (s : State) : Host.Outcome State Fault Refusal := .next (s.onKind kReadReq m (State.arrive m))

/-- R124, R178. `LEAF`. -/
def execLeaf (m : Msg) (s : State) : Host.Outcome State Fault Refusal := .next (s.onKind kLeaf m (State.arrive m))

/-- R181, R239. `ATTEST`. -/
def execAttest (m : Msg) (s : State) : Host.Outcome State Fault Refusal := .next (s.onKind kAttest m (State.arrive m))

/-! Answers (R176, R185, R191). -/

/-- Drop an answer and count it (R185). -/
def State.stray (s : State) : State := { s with fabric := { s.fabric with straysDropped := s.fabric.straysDropped + 1 } }

/-- Go on with an answer on connection `id` if it is the connection's, sealed where the connection encrypts, and its tag is right; a wrong
tag counts toward integrity (R190). -/
def State.answered (id : Nat) (m : Msg) (sealIt : Bool) (f : State → State) (s : State) : State :=
  let k := s.conn id
  if !k.carries m.kind then s.stray
  else if (k.encrypt || m.viaGlobal) && sealIt && !m.enc then s.stray
  else if !sealIt && m.enc then s.stray
  else if m.enc && !tagOk k.rxKey m then (s.stray).tagFailed id
  else f ((s.modConn id fun k => { k with lastChain := s.now, tagFails := if m.enc then 0 else k.tagFails }).touchConn id)

/-- The connection that a `COMPLETE` or `READ_RESP` names. -/
def State.answerConn (m : Msg) (s : State) : Option Nat :=
  match s.conn? m.conn with
  | some k => if k.gen = m.connGen && k.peerModule = m.srcModule && s.resident m.conn then some m.conn else none
  | none => none

/-- The requester's memory takes a response, and its stake the signal (R174, R185). -/
def State.landResp (id : Nat) (o : Outst) (data : Bytes) (s : State) : State :=
  let t := s.writeSpace false (connParcel id) o.respCluster o.respSpace o.respAddr (data.take o.respLen)
  match o.stake with
  | some (c, i, add) => t.stationSignal id (some c) i add
  | none => t

/-- R174, R185. `READ_RESP`. -/
def execReadResp (m : Msg) (s : State) : Host.Outcome State Fault Refusal :=
  .next (s.onKind kReadResp m fun s =>
    match s.answerConn m with
    | none => s.stray
    | some id =>
      match (s.conn id).outst.find? fun o => o.msg.kind == kReadReq && o.msg.seq == m.seq with
      | none => s.stray
      | some o =>
        if m.bodyGrains ≠ ceilDiv o.respLen 32 || m.body.length ≠ 32 * m.bodyGrains then s.stray
        else s.answered id m true fun t =>
          let data := t.clearMsg m
          ((t.modConn id fun k => { k with outst := k.outst.filter fun x => !(x.msg.kind == kReadReq && x.msg.seq == m.seq) }).landResp id o data).tryClose id)

/-- The connection with `TX_DONE` moved to a `COMPLETE`'s number: covered messages are finished, a read still waits for its data (R185). -/
def Conn.covered (seq : Nat) (k : Conn) : Conn :=
  { k with
    txDone := seq
    attestCovered := k.attestCovered || k.outst.any fun o => o.msg.kind == kAttest && o.msg.seq < seq
    outst := k.outst.filterMap fun o =>
      if o.msg.seq < seq then (if o.msg.kind = kReadReq then some { o with covered := true } else none) else some o }

/-- R181, R185. `COMPLETE`. -/
def execComplete (m : Msg) (s : State) : Host.Outcome State Fault Refusal :=
  .next (s.onKind kComplete m fun s =>
    match s.answerConn m with
    | none => s.stray
    | some id =>
      let k := s.conn id
      if m.seq ≤ k.txDone || k.txNext < m.seq || m.bodyGrains ≠ 0 then s.stray
      else s.answered id m true fun t =>
        let n := m.seq - k.txDone - m.refusedN
        let t := t.modConn id (Conn.covered m.seq)
        let t := if n = 0 then t else t.stationSignal id none k.completeStake n
        (t.bothVerified id).tryClose id)

/-- The connection that a `REFUSE` matches (R191). -/
def State.refusedConn (m : Msg) (s : State) : Option Nat :=
  (s.fabric.conns.find? fun x => x.2.peerModule == m.srcModule && x.2.peerConn == m.conn && x.2.peerGen == m.connGen
    && x.2.ackSent && x.2.state != 6 && s.resident x.1).map (·.1)

/-- One outstanding message after a refusal (R172). -/
def Outst.refused (code seq chain : Nat) (o : Outst) : Outst :=
  if o.msg.seq = seq then
    if code = arFetch then { o with fetchRefusals := o.fetchRefusals + 1, fetchChain := some chain } else { o with fetchRefusals := 0 }
  else o

/-- R172, R185, R191. `REFUSE`: matched, counted, and after 8 `AR_FETCH` in a row of one message the connection fails. A read that is
refused with a consuming code waits for no data. -/
def execRefuse (m : Msg) (s : State) : Host.Outcome State Fault Refusal :=
  .next (s.onKind kRefuse m fun s =>
    match s.refusedConn m with
    | none => s.stray
    | some id =>
      if m.bodyGrains ≠ 0 || 16 ≤ m.arg || m.arg = 0 || !(s.conn id).outst.any (fun o => o.msg.seq == m.seq && !o.covered) then s.stray
      else s.answered id m (consuming m.arg && (s.conn id).encrypt) fun t =>
        let t := t.modConn id fun k => { k with
          refused := k.refused + 1
          refuseCounts := addAt m.arg 1 k.refuseCounts
          outst := (k.outst.filter fun o => !(consuming m.arg && o.msg.kind == kReadReq && o.msg.seq == m.seq)).map
            (Outst.refused m.arg m.seq s.now) }
        if (t.conn id).outst.any fun o => o.msg.seq == m.seq && 8 ≤ o.fetchRefusals then t.setConnState id 5 .fetch else t)

/-! Opening (R179, R180). -/

/-- FabricID public key that the survey gives for a module (R230). -/
def State.surveyKey (m : Nat) (s : State) : Option Bytes :=
  match s.boot.survey with
  | some v => (v.entries.find? fun e => e.1 == m).map fun e => e.2.2.2
  | none => none

/-- Open grains are well formed (Table 8.15). -/
def openOk (b : Bytes) : Bool :=
  b.length == 160 && fld 0 4 b < 2 ^ 20 && allZero (cut 6 2 b) && allZero (cut 12 20 b)

/-- The signature of open grains verifies under the survey's key for their source (R180, R230). -/
def State.openSigned (m : Msg) (s : State) : Bool :=
  match s.surveyKey m.srcModule with
  | some key => Config.ecdsaVerify key (headerBytes (openHeader m.srcModule s.boot.moduleId m.slice) ++ m.body.take 64) (cut 64 96 m.body)
  | none => false

/-- An OPENING connection matches open grains (R179). -/
def openMatches (m : Msg) (k : Conn) : Bool :=
  k.state == 1 && k.peerModule == m.srcModule && k.peerParcel == connParcel (fld 0 4 m.body) && k.pairTag == fld 8 4 m.body
    && (!k.ackSent || (k.peerConn == fld 0 4 m.body && k.peerGen == fld 4 2 m.body))

/-- The 64 bytes of connection keys (R180). -/
def connKeys (secret : Bytes) (pairTag own ownConn ownGen peer peerConn peerGen : Nat) : Bytes :=
  let a := le 2 own ++ le 4 ownConn ++ le 2 ownGen
  let b := le 2 peer ++ le 4 peerConn ++ le 2 peerGen
  Config.hkdf384 secret (le 4 pairTag) (ascii "axulo conn v1" ++ (if own < peer then a ++ b else b ++ a)) 64

/-- Take the peer's open grains: its identifiers, and the keys; the ephemeral private key is destroyed (R180, R223). -/
def State.learnPeer (id : Nat) (body : Bytes) (s : State) : State :=
  let k := s.conn id
  let own := s.boot.moduleId
  let epub := BitVec.ofNat 256 (fld 32 32 body)
  let secret := le 32 (Config.x25519 k.ephPriv epub).toNat ++ le 32 k.psk.toNat
  let keys := connKeys secret k.pairTag own id k.gen k.peerModule (fld 0 4 body) (fld 4 2 body)
  let up := BitVec.ofNat 256 (fld 0 32 keys)
  let down := BitVec.ofNat 256 (fld 32 32 keys)
  s.modConn id fun k => { k with
    peerConn := fld 0 4 body
    peerGen := fld 4 2 body
    peerEph := epub
    ephPriv := 0
    txKey := if own < k.peerModule then up else down
    rxKey := if own < k.peerModule then down else up }

/-- The tag of an `OPEN_ACK` (R180): `SEQ` 0, empty plaintext, the header and the 160 body bytes as additional data. -/
def ackTag (key : Key) (m : Msg) : BitVec 96 := tag96 (Config.gcmTag key (msgNonce m) (headerBytes m ++ m.body) [])

/-- Send `OPEN_ACK`; a repeat carries the same header and tag (R175, R180). -/
def State.sendAck (id : Nat) (s : State) : State :=
  let m := { s.msgTo id kOpenAck false 0 0 (s.openBody id) with enc := true }
  (s.modConn id fun k => { k with ackSent := true }).toStation { m with tag := ackTag (s.conn id).txKey m }

/-- Open grains of an OPENING connection's peer: the first are learnt, and each is answered with `OPEN_ACK`. -/
def State.takeOpen (id : Nat) (body : Bytes) (s : State) : State :=
  if (s.conn id).ackSent then s.sendAck id else (s.learnPeer id body).sendAck id

/-- Header of an arriving `OPEN` is well formed (Table 8.3, R180). -/
def openHeadOk (m : Msg) : Bool :=
  m.bodyGrains == 5 && openOk m.body && m.conn == openConn && !m.enc && !m.signal && m.arg == 0 && m.connGen == 0 && m.refusedN == 0
    && m.seq == 0 && m.tag == 0

/-- R179, R180. `OPEN`: matched to an OPENING connection and answered, or refused. Grains whose signature does not verify match no connection. -/
def execMsgOpen (m : Msg) (s : State) : Host.Outcome State Fault Refusal :=
  .next (s.onKind kOpen m fun s =>
    if s.fabric.stationFenced then s.refuse m arClosed
    else if !openHeadOk m then s.refuse m arFormat
    else match if s.openSigned m then s.fabric.conns.find? fun x => openMatches m x.2 else none with
      | some x => s.takeOpen x.1 m.body
      | none => s.refuse m arNoConn)

/-- R180. `OPEN_ACK`: its body is taken as the peer's open grains if none has come yet; its tag confirms the keys or fails the end. -/
def execOpenAck (m : Msg) (s : State) : Host.Outcome State Fault Refusal :=
  .next (s.onKind kOpenAck m fun s =>
    match s.headFails m with
    | some code => s.refuse m code
    | none =>
      if !openOk m.body || !openMatches m (s.conn m.conn) || !s.openSigned m then s.refuse m arNoConn
      else
        let t := if (s.conn m.conn).ackSent then s else s.takeOpen m.conn m.body
        if ackTag (t.conn m.conn).rxKey m = m.tag then t.keysConfirmed m.conn else t.setConnState m.conn 5 .key)

/-- R177, R182. `CLOSE`. -/
def execMsgClose (m : Msg) (s : State) : Host.Outcome State Fault Refusal :=
  .next (s.onKind kClose m fun s =>
    match s.headFails m with
    | some code => s.refuse m code
    | none =>
      if m.enc && !tagOk (s.conn m.conn).rxKey m then (s.stray).tagFailed m.conn
      else
        let t := s.modConn m.conn fun k => { k with closeSeen := true, lastChain := s.now }
        if (t.conn m.conn).state = 4 then t.tryClose m.conn else t.beginClose m.conn .peer)

/-! The drain limit (R192). -/

/-- R192. Messages of a drain unfinished 16 chains after the boundary are discarded and refused with `AR_REVOKED`. -/
def execRevokeDrainLimit (ease : Nat) (s : State) : Host.Outcome State Fault Refusal :=
  .next (match s.drainOf ease with
    | some d =>
      if d.startChain + 16 < s.now || (d.startChain + 16 = s.now && d.startRod ≤ s.clock.rod) then
        let n := s.unfinished d
        let t := s.fabric.conns.foldl (fun t x =>
          if connParcel x.1 = ease / 256 then
            (x.2.held.filter (HeldMsg.under d)).foldl (fun t h =>
              match h.msg with
              | some m => (t.refuse m arRevoked).modConn x.1 (Conn.consumeSeq h.seq)
              | none => t) t
          else t) s
        t.drainPost { d with discarded := d.discarded + n } 512000
      else s
    | none => s)

end Sys2Proof.Machine
end

