-- ==== Sys2Proof/Machine/Links.lean ====
section
/-! DEFINITION. Links: retraining, status, training, identity, flits, replay, relock, credits (R136 to R153, R160, R161, R164, R289, R344). -/

namespace Sys2Proof.Machine

/-! Commands of the operator (R141, R219). -/

/-- A link is training. -/
def State.isTraining (l : Nat) (s : State) : Bool := (s.link l).state == 0

/-- R141. `link.retrain` (long): the link enters `TRAINING`; answered when training ends. -/
def execLinkRetrain (fn : Nat) (s : State) : Host.Outcome State Fault Refusal :=
  .next (s.runDrawer fn 0x06 fun t s => t.withPayload 8 fun b =>
    let l := fld 0 1 b
    if !allZero (b.drop 1) then .no stReserved
    else s.gated fn 0x06 true false <|
      if s.longs.any (fun x => x.link == l) then .wait else
      guarded [(48 ≤ l, stArg), (s.isTraining l, stBusy)] <|
        .long { s.enterTraining l .operator with longs := s.longs ++ [{ LongCmd.reset with fn := fn, req := t, link := l }] })

/-- R141, R324. `link.retrain` over management. -/
def State.mgmtRetrain (m : MgmtMsg) (s : State) : State :=
  let l := fld 0 1 m.body
  if !s.pathOpen m then s
  else if m.flags ≠ 0 || m.reserved ≠ 0 then s.answerMgmt m 0x43 stReserved []
  else if m.body.length ≠ 8 then s.answerMgmt m 0x43 stPayload []
  else if !allZero (m.body.drop 1) then s.answerMgmt m 0x43 stReserved []
  else if 48 ≤ l then s.answerMgmt m 0x43 stArg []
  else if s.isTraining l then s.answerMgmt m 0x43 stBusy []
  else { s.enterTraining l .operator with longs := s.longs ++ [{ LongCmd.reset with link := l, mgmt := some m }] }

/-- R141. Management orders a link retraining. -/
def execMgmtLinkRetrain (m : MgmtMsg) (s : State) : Host.Outcome State Fault Refusal := .next (s.mgmtRetrain m)

/-- `link.status` (Table 9.11): all 48 links. -/
def State.linkStatus (s : State) : Bytes :=
  (List.range 48).flatMap fun l => let k := s.link l; linkBytes k.state k.width k.peer k.delayPs

/-- R219. `link.status`. -/
def execLinkStatus (fn : Nat) (s : State) : Host.Outcome State Fault Refusal :=
  .next (s.runDrawer fn 0x07 fun t s => t.withPayload 0 fun _ => s.gated fn 0x07 true false (.done s.linkStatus s))

/-- R324. `link.status` over management. -/
def execMgmtLinkStatus (m : MgmtMsg) (s : State) : Host.Outcome State Fault Refusal :=
  .next (s.runMgmt m 0x44 fun b s => s.sized 0 b (stOk, s.linkStatus, s))

/-! Training (R137, R138, R142). -/

/-- The station of a link may train it: its die is powered, a cable is present, and its supply is on (R277, R279, R344). -/
def State.mayTrain (l : Nat) (s : State) : Bool := !s.power.off && l / 12 < s.boot.diesUp && (s.link l).cable && (s.link l).supply

/-- R138, R140. Signal detected starts a full training of a `DOWN` link that has not used up its attempts, and of a `MISWIRED` link: its signal comes anew
only when it is recabled (DEDUCED from Table 7.2). -/
def execSignalDetect (link : Nat) (s : State) : Host.Outcome State Fault Refusal :=
  .next (if s.mayTrain link && ((s.link link).state == 4 || ((s.link link).state == 5 && (s.link link).attempts < 3)) then
    s.enterTraining link .training else s)

/-- R138. A training not `UP` after 250 ms (7,812 whole chains) is abandoned: a new one begins, or after three failures the link is `DOWN`. -/
def execTrainingTimeout (link : Nat) (s : State) : Host.Outcome State Fault Refusal :=
  .next (let k := s.link link
    if k.state == 0 && k.trainChain + 7812 ≤ s.now then
      let t := s.modLink link fun k => { k with attempts := k.attempts + 1 }
      if 3 ≤ k.attempts + 1 then t.setLinkState link 5 .training else t.enterTraining link .training
    else s)

/-- R138. A `DOWN` link makes a new attempt every 32,768 chains. -/
def execTrainingRetry (link : Nat) (s : State) : Host.Outcome State Fault Refusal :=
  .next (if s.mayTrain link && (s.link link).state == 5 && 3 ≤ (s.link link).attempts && (s.link link).trainChain + 32768 ≤ s.now then
    s.enterTraining link .training else s)

/-- The width of a set of good lanes (R142). -/
def widthOf (good : BitVec 4) : Nat :=
  let n := (bitsOf 4 good.toNat).length
  if n = 4 then 4 else if 2 ≤ n then 2 else n

/-- A training has all that the next chain boundary needs: lanes, identity and 64 `ECHO` exchanges (Table 7.1). -/
def Link.ready (k : Link) : Bool := k.state == 0 && k.trained && k.helloOk && 64 ≤ k.echoes

/-- The state that a trained link takes at the boundary (R142). -/
def Link.upState (k : Link) : Nat := if k.width = 4 then 1 else 3

/-- Answer a pending retrain once its training has all that it needs. -/
def State.trainingEnds (l : Nat) (s : State) : State := if (s.link l).ready then s.answerRetrain l (s.link l).upState else s

/-- R138, R142. Lanes lock and the width is chosen: lanes that failed now or are retired in the plat are left out. -/
def execTrainingComplete (link : Nat) (good : BitVec 4) (s : State) : Host.Outcome State Fault Refusal :=
  .next (if (s.link link).state ≠ 0 then s else
    let ok := good &&& ~~~(s.plat.lanesRetired.getD link 0)
    let t := s.modLink link fun k => { k with lanesFailed := ~~~ok, width := widthOf ok, trained := widthOf ok != 0 }
    let t := { t with boot := { t.boot with firstTrained := some (t.boot.firstTrained.getD s.now) } }
    if widthOf ok = 0 then t.setLinkState link 5 .lane else t.trainingEnds link)

/-- At a chain boundary a trained link becomes `UP`, or `DEGRADED` below x4 (R138, R142). -/
def State.linkUp (l : Nat) (s : State) : State :=
  if (s.link l).ready then (s.setLinkState l (s.link l).upState .training).modLink l fun k => { k with attempts := 0, trained := false } else s

/-- R142. A lane has failed: the link retrains. In the enduring profile the lane is retired in the plat (Table 14.8). -/
def execLaneFail (link lane : Nat) (s : State) : Host.Outcome State Fault Refusal :=
  .next (let k := s.link link
    if (k.state == 1 || k.state == 3) && !k.lanesFailed.getLsbD lane then
      let t := (s.modLink link fun k => { k with lanesFailed := k.lanesFailed ||| BitVec.twoPow 4 lane }).enterTraining link .lane
      if s.enduring then t.platPend 3 link ((s.plat.lanesRetired.getD link 0).toNat ||| 2 ^ lane) else t
    else s)

/-- R344. A cable end draws beyond its allowance: its supply is cut, and its link goes `DOWN`. -/
def execCableOverdraw (link : Nat) (s : State) : Host.Outcome State Fault Refusal :=
  .next ((s.modLink link fun k => { k with supply := false }).setLinkState link 5 .training)

/-! Identity (R139, R289) and delay (R137, R138). -/

/-- The survey entry of a module: flags, link mask and key. -/
def State.surveyEntry (m : Nat) (s : State) : Option (Nat × Nat × Bytes) :=
  match s.boot.survey with
  | some v => (v.entries.find? fun e => e.1 == m).map (·.2)
  | none => none

/-- The survey digest (R287). -/
def Survey.digest (v : Survey) : Digest := Config.sha384 v.bytes

/-- The first 16 bytes of the digest of the survey in force. -/
def State.surveyPrefix (s : State) : BitVec 128 :=
  match s.boot.survey with | some v => v.digest.setWidth 128 | none => 0

/-- The partner that a `HELLO` names agrees with R19, R159 and the survey (R139, R288). -/
def State.partnerOk (l module linkId : Nat) (digest : BitVec 128) (s : State) : Bool :=
  let own := s.boot.moduleId
  own != 16383 && farEnd s.groups own l == some (module, linkId) && digest == s.surveyPrefix
    && (match s.surveyEntry own with | some e => bit l e.2.1 | none => false)
    && (match s.surveyEntry module with | some e => bit linkId e.2.1 | none => false)

/-- R139, R289. A `HELLO` grain is checked: a partner that disagrees makes the link `MISWIRED`, one that agrees lets it train. -/
def State.hello (l module linkId : Nat) (digest : BitVec 128) (s : State) : State :=
  let k := s.link l
  if !k.live then s else
  let t := s.modLink l fun k => { k with peer := module, peerLink := linkId }
  if t.partnerOk l module linkId digest then
    if k.state = 4 then (t.enterTraining l .identity)
    else if k.state = 0 then (t.modLink l fun k => { k with helloOk := true }).trainingEnds l
    else t
  else t.setLinkState l 4 .identity

/-- R139. `HELLO`; the width that it carries is the partner's and decides nothing. -/
def execHello (link module linkId _width : Nat) (digest : BitVec 128) (s : State) : Host.Outcome State Fault Refusal :=
  .next (s.hello link module linkId digest)

/-- Send `HELLO` on a link (Table 7.4). -/
def State.sendHello (l : Nat) (s : State) : State :=
  s.sendGrain l 0xF4 (cat [le 2 s.boot.moduleId, le 1 l, le 1 (s.link l).width, zeros 3, le 16 s.surveyPrefix.toNat])

/-- R138. An `ECHO` request is answered; a reply measures the one-way delay, half the least round trip less the turnaround, over 64 exchanges.
A delay above 1.200 us holds the link `DOWN` (R137). -/
def execEcho (link : Nat) (reply : Bool) (sentPs turnPs nowPs : Nat) (s : State) : Host.Outcome State Fault Refusal :=
  .next (let k := s.link link
    if !reply then s.sendGrain link 0xF5 (cat [le 1 1, zeros 2, le 8 sentPs, le 8 turnPs])
    else if k.state ≠ 0 || 64 ≤ k.echoes then s
    else
      let rtt := nowPs - sentPs - turnPs
      let least := if k.echoes = 0 then rtt else min k.minRtt rtt
      let t := s.modLink link fun k => { k with echoes := k.echoes + 1, minRtt := least }
      if k.echoes + 1 = 64 then
        let t := t.modLink link fun k => { k with delayPs := least / 2 }
        if 1200000 < least / 2 then t.setLinkState link 5 .delay else t.trainingEnds link
      else t)

/-! Replay (R148). -/

/-- Send the flits of the window again from number `seq` on. -/
def State.replayFrom (l seq : Nat) (s : State) : State :=
  let w := (s.link l).window.dropWhile fun f => f.seq != seq
  w.foldl (fun t f => t.emit (.flitSent l f.seq)) (s.modLink l fun k => { k with replays := k.replays + 1 })

/-- R148. A `NAK`: the sender resumes from that number; a number outside the window is ignored. -/
def State.nak (l seq : Nat) (s : State) : State := if (s.link l).window.any fun f => f.seq == seq then s.replayFrom l seq else s

/-- R148. `NAK`. -/
def execNak (link seq : Nat) (s : State) : Host.Outcome State Fault Refusal := .next (if (s.link link).live then s.nak link seq else s)

/-- Send a `NAK` for the number expected (Table 7.4). -/
def State.sendNak (l : Nat) (s : State) : State :=
  (s.modLink l fun k => { k with naks := k.naks + 1 }).sendGrain l 0xF1 (cat [zeros 3, le 4 (s.link l).rxNext])

/-- R148. The receiver repeats its `NAK` every 64 flit times until the flit arrives. -/
def execNakRepeat (link : Nat) (s : State) : Host.Outcome State Fault Refusal :=
  .next (if (s.link link).nakPend && (s.link link).live then s.sendNak link else s)

/-- R148. The oldest uncovered flit has waited 512 flit times: the sender replays from it. -/
def execReplayTimeout (link : Nat) (s : State) : Host.Outcome State Fault Refusal :=
  .next (match (s.link link).window with
    | f :: _ => if (s.link link).live then s.replayFrom link f.seq else s
    | [] => s)

/-- An `ACK` covers the flits before its number (R148); a value outside the window is ignored. -/
def State.ack (l a : Nat) (s : State) : State :=
  match (s.link l).window with
  | [] => s
  | f :: w =>
    let n := (a + 256 - f.seq % 256) % 256
    if n ≤ w.length + 1 then (s.modLink l fun k => { k with window := k.window.drop n }).flushLink l else s

/-! Credits (R153). -/

/-- R153. A `CREDIT` grain grants eight slices grains of one even rod. -/
def State.credit (l first chain rod : Nat) (grants : List Nat) (s : State) : State :=
  if (s.link l).state ≠ 1 || !(first == 0 || first == 8) || !(rod == 0 || rod == 2) then s else
  s.modLink l fun k =>
    let old := if k.grantChain = chain && k.grantRod = rod then k.grants else List.replicate 16 0
    { k with
      grantChain := chain
      grantRod := rod
      grants := (List.range 16).map fun p => if first ≤ p && p < first + 8 then grants.getD (p - first) 0 else old.getD p 0 }

/-- R153. `CREDIT`. -/
def execCredit (link first chain rod : Nat) (grants : List Nat) (s : State) : Host.Outcome State Fault Refusal :=
  .next (s.credit link first chain rod grants)

/-! Received grains (R146, R160, R161, R164). -/

/-- The message that a run of grains spells, header grain first, as it arrives on link `l`. -/
def grainsMsg (l : Nat) (g : List (BitVec 256)) : Msg :=
  let b := grainBytes g
  let conn := fld 8 4 b
  { kind := fld 0 1 b
    enc := bit 0 (fld 1 1 b)
    signal := bit 1 (fld 1 1 b)
    arg := fld 1 1 b / 4
    bodyGrains := fld 2 2 b
    dstModule := fld 4 2 b
    srcModule := fld 6 2 b
    conn := conn % 2 ^ 20
    slice := bits 23 20 conn
    connGen := fld 12 2 b
    refusedN := fld 14 2 b
    seq := fld 16 4 b
    tag := BitVec.ofNat 96 (fld 20 12 b)
    body := b.drop 32
    viaGlobal := 31 ≤ l }

/-- Deliver a whole message through admission: the state of the row of its kind. An unknown kind is refused (check 1). -/
def State.deliver (m : Msg) (s : State) : State :=
  let r := if m.kind = kWrite then execWrite m s else if m.kind = kReadReq then execReadReq m s else if m.kind = kLeaf then execLeaf m s
    else if m.kind = kReadResp then execReadResp m s else if m.kind = kComplete then execComplete m s
    else if m.kind = kRefuse then execRefuse m s else if m.kind = kOpen then execMsgOpen m s else if m.kind = kOpenAck then execOpenAck m s
    else if m.kind = kClose then execMsgClose m s else if m.kind = kAttest then execAttest m s else .next (s.refuse m arFormat)
  match r with
  | .next t => t
  | _ => s

/-- A whole message at a station: delivered if it is for this module, otherwise forwarded (R160, R161). -/
def State.messageIn (m : Msg) (s : State) : State := if m.dstModule = s.boot.moduleId then s.deliver m else s.toStation m

/-- A link grain at the station (Table 7.4). `MARKER` and `ECHO` come as rows of their own, because they need the time at which they arrive; an
unknown kind is counted. -/
def State.linkGrain (l : Nat) (g : BitVec 256) (s : State) : State :=
  let b := le 32 g.toNat
  let kind := fld 0 1 b
  if kind = 0xF1 then s.nak l (fld 4 4 b)
  else if kind = 0xF2 then s.credit l (fld 1 1 b) (fld 4 8 b) (fld 12 1 b) (wordsOf 2 8 (b.drop 16))
  else if kind = 0xF4 then s.hello l (fld 1 2 b % 2 ^ 14) (fld 3 1 b) (BitVec.ofNat 128 (fld 8 16 b))
  else if kind = 0xF3 || kind = 0xF5 then s
  else s.modLink l fun k => { k with unknownGrains := k.unknownGrains + 1 }

/-- One accepted grain: part of a message that has begun, an idle grain, a link grain, or the header of a message (R146). -/
def State.grainIn (l : Nat) (g : BitVec 256) (s : State) : State :=
  let part := (s.link l).rxGrains
  let kind := g.toNat % 256
  if part.isEmpty && kind = 0 then s
  else if part.isEmpty && 0xF0 ≤ kind then s.linkGrain l g
  else
    let p := part ++ [g]
    let need := 1 + (match p.head? with | some h => bits 31 16 h.toNat | none => 0)
    if need ≤ p.length then (s.modLink l fun k => { k with rxGrains := [] }).messageIn (grainsMsg l p)
    else s.modLink l fun k => { k with rxGrains := p }

/-! Flits (R143 to R148, R165). -/

/-- End a burst of discarded flits: it is reported (R165). -/
def State.endBurst (l : Nat) (s : State) : State :=
  let k := s.link l
  if k.discarded = 0 then s
  else (s.evLink l 0x0702 [l, s.now, k.discarded, k.naks, k.replays, b2n k.allLanes]).modLink l fun k => { k with
    discarded := 0
    naks := 0
    replays := 0
    allLanes := true }

/-- Discard a flit (R147): the first after an accepted one is answered with a `NAK`. -/
def State.discardFlit (l : Nat) (every : Bool) (s : State) : State :=
  let k := s.link l
  let t := s.modLink l fun k => { k with discarded := k.discarded + 1, allLanes := k.allLanes && every, nakPend := true }
  if k.nakPend then t else t.sendNak l

/-- Whether wrong symbols lie on every active lane of a link of width `w` (R144). -/
def onEveryLane (w : Nat) (places : List Nat) : Bool := (List.range w).all fun n => places.any fun j => j % w == n

/-- A received flit (R147): decoded, descrambled and checked; accepted in sequence, accepted as null, or discarded. -/
def State.flit (l : Nat) (symbols : List (BitVec 10)) (s : State) : State :=
  let k := s.link l
  if !k.live || symbols.length ≠ 544 then s else
  let w := symbols.map (·.toNat)
  let dec := rsDecode w
  let word := match dec with | some (v, _) => v | none => w
  let d := descramble (symbolBits (word.take 514)) k.scrambler
  let s := s.modLink l fun k => { k with scrambler := d.2 }
  match dec with
  | none => s.discardFlit l true
  | some (_, places) =>
    let f := parseFlit d.1
    if f.checks k.rxNext then
      let t := (s.modLink l fun k => { k with rxNext := (k.rxNext + 1) % 2 ^ 31, nakPend := false }).endBurst l
      f.grains.foldl (fun t g => t.grainIn l g) (t.ack l f.ack)
    else if f.isNull then s.ack l f.ack
    else s.discardFlit l (places.isEmpty || onEveryLane (max 1 k.width) places)

/-- R147. A flit. -/
def execFlit (link : Nat) (symbols : List (BitVec 10)) (s : State) : Host.Outcome State Fault Refusal := .next (s.flit link symbols)

/-! Relock (R149). -/

/-- R149. No flit accepted for 1,024 flit times: an `UP` link enters `RELOCK`. -/
def execFlitLockLoss (link : Nat) (s : State) : Host.Outcome State Fault Refusal :=
  .next (if (s.link link).state = 1 then
    (s.modLink link fun k => { k with routeLost := false, relockChain := s.now }).setLinkState link 2 .relock else s)

/-- R149, R164. A link still in `RELOCK` one chain after it entered it is not up for routing: its messages are sent again by detours. -/
def execRelockRouteLoss (link : Nat) (s : State) : Host.Outcome State Fault Refusal :=
  .next (let k := s.link link
    if k.state == 2 && !k.routeLost && k.relockChain + 1 ≤ s.now then (s.modLink link fun k => { k with routeLost := true }).leaveUp link else s)

/-- R149. Relock completes: the link is `UP` again and replays from the oldest uncovered flit. -/
def execRelockDone (link : Nat) (s : State) : Host.Outcome State Fault Refusal :=
  .next (if (s.link link).state = 2 then
    let t := (s.setLinkState link 1 .relock).modLink link fun k => { k with routeLost := false }
    match (t.link link).window with
    | f :: _ => t.replayFrom link f.seq
    | [] => t
  else s)

/-- R149. Relock that has not completed in 4 chains puts the link in `TRAINING`. -/
def execRelockTimeout (link : Nat) (s : State) : Host.Outcome State Fault Refusal :=
  .next (if (s.link link).state == 2 && (s.link link).relockChain + 4 ≤ s.now then s.enterTraining link .relock else s)

end Sys2Proof.Machine
end

