-- ==== Sys2Proof/Machine/Admission.lean ====
section
/-! DEFINITION. The ledger of a lot image: its format (R30 to R32), the capacities of Tables 2.6 and 13.4, the admission checks of R34 and the
shortfall record of R35, and the shelf rows that contexts hold (R36). -/

namespace Sys2Proof.Machine

/-- Scope of a ledger resource (Table 2.6): 0 cluster, 1 subchannel, 2 parcel; none when unknown. -/
def ledgerScope (r : Nat) : Option Nat :=
  if 1 ≤ r && r ≤ 5 then some 0 else if r = 6 then some 1 else if 7 ≤ r && r ≤ 9 then some 2 else if r = 0x0A then some 0 else none

/-- An entry is well formed for its header (R31, R32). -/
def entryOk (h : LedgerHeader) (e : LedgerEntry) : Bool :=
  e.patternIndex < h.patternChains && e.rod ≤ 3 && e.reserved == 0
    && (match ledgerScope e.resource with
      | some 0 => e.unit < h.clusters
      | some 1 => e.unit < h.subchannels
      | some _ => e.unit == 0xFFFF
      | none => false)
    && (e.resource != 0x0A || e.rod == 0) && (e.resource != 0x09 || e.rod == 0 || e.rod == 3)

/-- Two entries state one use twice (R31). -/
def sameUse (a b : LedgerEntry) : Bool :=
  a.patternIndex == b.patternIndex && a.rod == b.rod && a.resource == b.resource && a.unit == b.unit

/-- No two entries of a list state one use. -/
def distinctUses : List LedgerEntry → Bool
  | [] => true
  | e :: r => r.all (fun x => !sameUse e x) && distinctUses r

/-- The header's fields lie in their ranges (Table 2.4). -/
def headerOk (h : LedgerHeader) : Bool :=
  h.magic == 0x0A5ED6E1 && h.version == 1 && h.headerBytes == 64 && isPow2 h.patternChains && h.patternChains ≤ 256
    && h.spanLog2 ≤ 10 && 1 ≤ h.clusters && h.clusters ≤ 64 && 1 ≤ h.subchannels && h.subchannels ≤ 64
    && 1 ≤ h.role && h.role ≤ 3 && h.flags ≤ 1 && h.shelfRowFirst ≤ 255 && h.shelfRowCount ≤ 256
    && h.shelfRowFirst + h.shelfRowCount ≤ 256 && h.swapBytes % 64 == 0 && h.swapBytes ≤ 262144 && h.entryCount ≤ 412160
    && h.reserved == 0

/-- The ledger is well formed (R32). -/
def ledgerOk (i : LotImage) : Bool :=
  headerOk i.ledger && i.ledger.entryCount == i.entries.length && i.ledgerExact && i.entries.all (entryOk i.ledger)
    && distinctUses i.entries

/-- `WORST` of a use; zero without an entry (R31). -/
def worst (i : LotImage) (c r res u : Nat) : Nat :=
  match i.entries.find? fun e => e.patternIndex == c && e.rod == r && e.resource == res && e.unit == u with
  | some e => e.worst
  | none => 0

/-- Capacity of a resource in a rod (Tables 2.6 and 13.4). -/
def State.capacity (p res r : Nat) (s : State) : Nat :=
  let early := !s.boot.ready
  let cyc := (if early then rodCyclesOf s.flash.variant / 2 else rodCyclesOf s.flash.variant) - 128
  match res with
  | 1 => cyc
  | 2 => cyc
  | 3 => 64 * cyc
  | 4 => 2 * cyc
  | 5 => 4 * cyc
  | 6 => 2048
  | 7 => if early || r % 2 = 1 then 0 else 48 * 32 * (s.parcel p).fabricShare
  | 8 => if early || r % 2 = 1 then 0 else 48 * 32 * (s.parcel p).fabricShare
  | 9 => 4 * (s.parcel p).hostShare
  | 10 => 524288
  | 11 => (s.parcel p).logical
  | 12 => (s.parcel p).subchs.length
  | _ => 0

/-- One admission check (R34, Table 2.7). -/
structure AdmCheck where
  context : Nat
  pattern : Nat
  rod : Nat
  resource : Nat
  unit : Nat
  need : Nat
  cap : Nat
  deriving DecidableEq, Repr

/-- The checks of one context, in the order of pattern index, rod, resource code and unit (R34, R35). `others` are the swap sizes of
the parcel's other contexts. -/
def State.admChecks (p x : Nat) (i : LotImage) (others : List Nat) (s : State) : List AdmCheck :=
  let h := i.ledger
  let sw := if others.isEmpty then 0 else h.swapBytes + others.foldl max 0
  let swAcc := ceilDiv (ceilDiv (sw * h.clusters) 64) h.subchannels
  (List.range h.patternChains).flatMap fun c => (List.range 4).flatMap fun r =>
    let one := fun (res u extra : Nat) => AdmCheck.mk x c r res u (worst i c r res u + extra) (s.capacity p res r)
    (List.range 5).flatMap (fun k => (List.range h.clusters).map fun u => one (k + 1) u (if r = 3 && k = 2 then sw else 0))
      ++ (List.range h.subchannels).map (fun u => one 6 u (if r = 3 then swAcc else 0))
      ++ [one 7 0xFFFF 0, one 8 0xFFFF 0]
      ++ (if r = 0 then
          [AdmCheck.mk x c 0 9 0xFFFF (worst i c 0 9 0xFFFF + worst i c 3 9 0xFFFF) (s.capacity p 9 0)]
            ++ (List.range h.clusters).map fun u => one 10 u 0 else [])
      ++ (if r = 0 && c = 0 then
          [AdmCheck.mk x 0 0 11 0xFFFF h.clusters (s.capacity p 11 0), AdmCheck.mk x 0 0 12 0xFFFF h.subchannels (s.capacity p 12 0)] else [])

/-- Contexts of a parcel with the image being loaded, by local ID. -/
def State.withLoaded (p x : Nat) (i : LotImage) (s : State) : List (Nat × LotImage) :=
  (List.range 8).filterMap fun k =>
    if k = x then some (k, i) else
    match ((s.parcel p).ctx k).image with
    | some j => if ((s.parcel p).ctx k).state = 0 then none else some (k, j)
    | none => none

/-- The failing checks of R34, in order. -/
def State.shortfalls (p x : Nat) (i : LotImage) (s : State) : List AdmCheck :=
  let l := s.withLoaded p x i
  (l.flatMap fun kj => s.admChecks p kj.1 kj.2 ((l.filter fun o => o.1 != kj.1).map fun o => o.2.ledger.swapBytes)).filter
    fun a => a.cap < a.need

/-- The shortfall record (Table 2.7). -/
def shortfallBytes (clock : Nat) (a : AdmCheck) (failed : Nat) : Bytes :=
  cat [le 1 a.context, le 1 a.rod, le 1 a.resource, zeros 1, le 2 a.pattern, le 2 a.unit, le 4 a.need, le 4 a.cap,
    le 4 (a.need - a.cap), le 4 failed, le 4 clock, zeros 4]

/-- The shortfall record of the first failing check, or none when the ledger fits (R35). -/
def State.shortfall (p x : Nat) (i : LotImage) (s : State) : Option Bytes :=
  match s.shortfalls p x i with
  | [] => none
  | a :: r =>
    let clock := match (s.withLoaded p x i).find? (·.1 == a.context) with | some kj => kj.2.ledger.clockKhz | none => 0
    some (shortfallBytes clock a (r.length + 1))

/-- Context `k` of a parcel holds its image's rows now (R36): while loaded, or with `HOLDS_SUM` from its first `FOLD` to the drain. -/
def State.holdsRows (p k : Nat) (s : State) : Bool :=
  let x := s.ctx p k
  x.state != 0 && x.image.isSome && (!x.holdsSum ||
    (s.parcel p).clusters.any fun c => (s.cluster c).rows.any fun w => rowHeld w.2.ctrl && rowOwner w.2.ctrl == k)

/-- Two row ranges (first, count) overlap. -/
def rowsOverlap (a b : Nat × Nat) : Bool := a.1 < b.1 + b.2 && b.1 < a.1 + a.2

/-- The image's rows overlap rows that another context holds (R36). -/
def State.shelfHeld (p x : Nat) (i : LotImage) (s : State) : Bool :=
  (List.range 8).any fun k => k != x && s.holdsRows p k
    && rowsOverlap (i.ledger.shelfRowFirst, i.ledger.shelfRowCount) (s.ctx p k).rows

end Sys2Proof.Machine
end

