-- ==== Sys2Proof/Machine/Parcels.lean ====
section
/-! DEFINITION. Parcels, sessions and bounce mappings as drawer commands: `parcel.open`, `parcel.close`, `parcel.status`, `session.open`,
`attest.report`, `parcel.attach`, `bounce.map`, `debug.consent` (R209 to R215, R249, R256, R261). -/

namespace Sys2Proof.Machine

/-- The units that the early parcel consists of (R283): the first four working clusters of wave 1, and subchannels 0 to 3. -/
def State.earlyClusters (s : State) : List Nat :=
  ((List.range 64).filter fun c => waveOf c == 1 && s.clusterInUse c).take 4

/-- The carving checks of `parcel.open`, in the order of Table 11.1, after those of early service (R283). -/
def State.openChecks (p : Nat) (paired : Bool) (cs xs : List Nat) (s : State) : List (Bool × Nat) :=
  [ (!s.boot.ready && (s.earlyClusters.length < 4 || s.boot.earlyUsed), stUnitsBusy),
    (!s.boot.ready && (cs != s.earlyClusters || xs != [0, 1, 2, 3]), stArg),
    (16 ≤ p || (s.parcel p).isOpen, stParcelState),
    (!(s.fn (p + 1)).present, stVfAbsent),
    (cs.length < 4 || xs.length < 4 || xs.length % 4 ≠ 0, stArg),
    (paired && (!s.enduring || cs.length % 2 ≠ 0
      || (List.range (cs.length / 2)).any fun i => dieOf (cs.getD (2 * i) 0) != dieOf (cs.getD (2 * i + 1) 0)), stArg),
    (cs.any (fun c => !s.clusterInUse c || (s.cluster c).fenced || (s.ownerOf c).isSome)
      || xs.any (fun x => !s.subchInUse x || s.faults.subchFailed.contains x || (s.subchOwner x).isSome) || s.parcelsMax ≤ s.openParcels, stUnitsBusy) ]

/-- The parcel as `parcel.open` makes it (R214, R249): shares as set, tenant counter, grant and window fresh. -/
def State.newParcel (p : Nat) (paired : Bool) (cs xs : List Nat) (owner : Digest) (s : State) : Parcel :=
  { Parcel.reset with
    state := (s.parcel p).state
    paired := paired
    clusters := cs
    subchs := xs
    ownerDigest := owner
    hostShare := (s.fn (p + 1)).hostShare
    fabricShare := s.fabric.slices.getD p 0
    early := !s.boot.ready }

/-- R249, R283. `parcel.open`. -/
def execParcelOpen (fn : Nat) (s : State) : Host.Outcome State Fault Refusal :=
  .next (s.runDrawer fn 0x10 fun t s => t.withPayload 72 fun b =>
    let p := fld 0 1 b
    let cs := bitsOf 64 (fld 8 8 b)
    let xs := bitsOf 64 (fld 16 8 b)
    if 2 ≤ fld 1 1 b || !allZero (cut 2 6 b) then .no stReserved
    else s.gated fn 0x10 true false <|
      if s.parcelBusy p then .wait else
      guarded (s.openChecks p (bit 0 (fld 1 1 b)) cs xs) <|
        let u := s.modParcel p fun _ => s.newParcel p (bit 0 (fld 1 1 b)) cs xs (BitVec.ofNat 384 (fld 24 48 b))
        let u := u.setParcelState p 1 0
        let u := { u with boot := { u.boot with earlyUsed := u.boot.earlyUsed || !u.boot.ready } }
        .done [] (u.modParcel p fun q => { q with measDigest := u.measurement p }))

/-- R220: PF0 may name any parcel, a VF only its own. -/
def namesOther (fn p : Nat) : Bool := fn != 0 && p != parcelOf fn

/-- R256. `parcel.close` (long): the parcel is CLOSING from acceptance; the answer comes when the scrub completes. -/
def execParcelClose (fn : Nat) (s : State) : Host.Outcome State Fault Refusal :=
  .next (s.runDrawer fn 0x11 fun t s => t.withPayload 8 fun b =>
    let p := fld 0 1 b
    if !allZero (b.drop 1) then .no stReserved
    else if namesOther fn p then .no stNotPermitted
    else s.gated fn 0x11 true true <|
      if s.parcelBusy p then .wait else
      guarded [(16 ≤ p, stArg), (!(s.parcel p).isOpen, stParcelState)] <|
        .long ((s.setParcelState p 4 0).modParcel p fun q => { q with fillReq := some (fn, t) }))

/-- `parcel.status` response (Table 9.11). -/
def State.parcelStatus (p : Nat) (s : State) : Bytes :=
  let q := s.parcel p
  cat [le 1 q.state, le 1 (maskOf ((List.range 8).filter fun c => (q.ctx c).state != 0)), le 1 s.clock.idleRatio, zeros 1,
    le 4 (if q.isOpen then q.hostShare else 0), le 8 (maskOf q.clusters), le 8 (maskOf q.subchs),
    le 2 (if q.isOpen then q.fabricShare else 0), zeros 14]

/-- R219. `parcel.status`. -/
def execParcelStatus (fn : Nat) (s : State) : Host.Outcome State Fault Refusal :=
  .next (s.runDrawer fn 0x12 fun t s => t.withPayload 8 fun b =>
    let p := fld 0 1 b
    if !allZero (b.drop 1) then .no stReserved
    else if namesOther fn p then .no stNotPermitted
    else s.gated fn 0x12 true true <|
      if s.parcelBusy p then .wait else
      guarded [(16 ≤ p, stArg)] (.done (s.parcelStatus p) s))

/-- The session keys of R209: 128 bytes in the order `K_REQ`, `K_RESP`, `K_IN`, `K_OUT`. -/
def sessionKeys (priv : Key) (pub : BitVec 256) (nonce : Bytes) (vf gen : Nat) : Bytes :=
  Config.hkdf384 (le 32 (Config.x25519 priv pub).toNat) nonce (ascii "axulo host v1" ++ le 2 vf ++ le 2 gen) 128

/-- Attribute word of a session key: AES-256 of the parcel, generated inside, for drawer sealing and the bounce engine. -/
def sessionAttr (p : Nat) : BitVec 32 := slotAttr 1 2 p true false 4 lcWork

/-- R209. `session.open`: an earlier session ends; the chest draws the module's key pair and derives the four keys. -/
def execSessionOpen (fn : Nat) (s : State) : Host.Outcome State Fault Refusal :=
  .next (s.runDrawer fn 0x20 fun t s => t.withPayload 64 fun b => s.gated fn 0x20 false true <|
    guarded [(!s.canDraw, stEntropy), (!s.canSign, stKeyUse)] <|
      let p := parcelOf fn
      let tenant := b.take 32
      let nonce := b.drop 32
      let u := s.endSession fn 1
      let priv : Key := u.fresh.setWidth 256
      let u := u.drawn
      let pub := le 32 (Config.x25519Pub priv).toNat
      let keys := sessionKeys priv (BitVec.ofNat 256 (leNat tenant)) nonce fn (s.fn fn).gen
      let u := [0, 1, 2, 3].foldl (fun u i =>
        u.fillSlot (parcelSlot p (i + 1)) (sessionAttr p) (BitVec.ofNat 1024 (fld (32 * i) 32 keys))) u
      let u := u.modFn fn fun f => { f with session := true, bounce := { Bounce.reset with map := f.bounce.map } }
      .done (pub ++ u.report p (Config.sha384 (tenant ++ pub ++ nonce))) u.drawn)

/-- R219, R237. `attest.report`. -/
def execAttestReport (fn : Nat) (s : State) : Host.Outcome State Fault Refusal :=
  .next (s.runDrawer fn 0x21 fun t s => t.withPayload 32 fun b => s.gated fn 0x21 false true <|
    guarded [(!s.canSign, stKeyUse)] <| .done (s.report (parcelOf fn) (Config.sha384 b)) s.drawn)

/-- Fill a parcel's sealed key slot with a key generated in the chest (R241). -/
def State.newSealedKey (p : Nat) (s : State) : State :=
  let priv := s.fresh.setWidth 256
  let t := s.drawn.fillSlot (parcelSlot p 0) (slotAttr 3 2 p true false (32 + 64) lcWork) (priv.setWidth 1024)
  t.modParcel p fun q => { q with sealedPub := Config.x25519Pub priv }

/-- R215. `parcel.attach`: the token's digest, and the rules of a first and of a later attach. -/
def execParcelAttach (fn : Nat) (s : State) : Host.Outcome State Fault Refusal :=
  .next (s.runDrawer fn 0x22 fun t s => t.withPayload 72 fun b =>
    if 2 ≤ fld 0 1 b || !allZero (cut 1 7 b) then .no stReserved
    else s.gated fn 0x22 false true <|
      let p := parcelOf fn
      let q := s.parcel p
      let re := bit 0 (fld 0 1 b)
      let key := cut 8 32 b
      guarded [
        (Config.sha384 (cut 40 32 b) ≠ q.ownerDigest || re != q.everAttached || (re && !allZero key), stAttachDenied),
        (!q.everAttached && !s.canDraw, stEntropy)] <|
        let u := if q.everAttached then s else
          (s.newSealedKey p).fillSlot (parcelSlot p 5) (slotAttr 1 2 p false false 16 lcWork) (BitVec.ofNat 1024 (leNat key))
        let u := u.modParcel p fun q => { q with everAttached := true }
        .done [] (if q.state = 2 then u else u.setParcelState p 2 0))

/-- The value of a stake at a mapping. -/
def State.mapBases (p : Nat) (m : BounceMap) (b : Bounce) (s : State) : Bounce :=
  { b with
    map := some m
    live := true
    next := none
    inBase := b.inHead
    freeBase := s.stakeVal p m.inFree
    outBase := b.outTail
    readyBase := s.stakeVal p m.outReady }

/-- The mapping that a `bounce.map` payload names (Table 9.11). -/
def parseMap (b : Bytes) : BounceMap :=
  { hostBase := fld 0 8 b
    areaOff := fld 8 8 b
    inSlots := fld 16 4 b
    outSlots := fld 20 4 b
    stride := fld 24 4 b
    context := fld 28 1 b
    inReady := fld 30 2 b
    inFree := fld 32 2 b
    outReady := fld 34 2 b
    outFree := fld 36 2 b }

/-- The rules of R211 for a mapping. -/
def State.mapOk (p : Nat) (m : BounceMap) (s : State) : Bool :=
  let q := s.parcel p
  m.hostBase % 4096 == 0 && m.areaOff % 4096 == 0 && m.areaOff + (m.inSlots + m.outSlots) * m.stride ≤ q.size
    && isPow2 m.inSlots && m.inSlots ≤ 65536 && isPow2 m.outSlots && m.outSlots ≤ 65536
    && m.stride % 4096 == 0 && 4096 ≤ m.stride && m.stride ≤ 1052672
    && m.context < 8 && [m.inReady, m.inFree, m.outReady, m.outFree].all (q.ctx m.context).declares

/-- R211. `bounce.map`: the first of a session takes effect at once, a later one at a chain boundary. -/
def execBounceMap (fn : Nat) (s : State) : Host.Outcome State Fault Refusal :=
  .next (s.runDrawer fn 0x23 fun t s => t.withPayload 44 fun b =>
    if !allZero (cut 29 1 b) || !allZero (cut 38 6 b) then .no stReserved
    else s.gated fn 0x23 false true <|
      let p := parcelOf fn
      let m := parseMap b
      guarded [(!s.mapOk p m, stArg)] <|
        .done [] (s.modFn fn fun f =>
          if f.bounce.live then { f with bounce := { f.bounce with next := some m } }
          else { f with bounce := s.mapBases p m f.bounce }))

/-- A context of parcel `p` has an open round in sealed mode (R240). -/
def State.sealedRound (p : Nat) (s : State) : Bool :=
  (s.parcel p).contexts.any fun x => match x.round with | some r => r.outcome.isNone && r.desc.mode == 3 | none => false

/-- R261. `debug.consent`: a new grant takes effect at the next chain boundary; a change is refused during a sealed round. -/
def execDebugConsent (fn : Nat) (s : State) : Host.Outcome State Fault Refusal :=
  .next (s.runDrawer fn 0x24 fun t s => t.withPayload 8 fun b =>
    if 16 ≤ fld 0 4 b || !allZero (b.drop 4) then .no stReserved
    else s.gated fn 0x24 false true <|
      let p := parcelOf fn
      let g : BitVec 32 := BitVec.ofNat 32 (fld 0 4 b)
      guarded [(g ≠ (s.parcel p).grant && s.sealedRound p, stParcelState)] <|
        .done [] (s.modParcel p fun q => { q with pendGrant := some g }))

end Sys2Proof.Machine
end

