-- ==== Sys2Proof/Machine/Lot.lean ====
section
/-! DEFINITION. `lot.load` and `lot.unload`: the trailer, the image's parts, admission (R34 to R36, R53, R59, R64, R76, R83, R92, R169, R236, R240,
R252, R286, R298, R299, R358). -/

namespace Sys2Proof.Machine

/-! The trailer (R236). -/

/-- The first `n` bytes of a slot's value. -/
def State.slotBytes (i n : Nat) (s : State) : Bytes := le n (s.slotVal i).toNat

/-- The verification slot that a trailer names. -/
def verifySlot (p : Nat) (t : Trailer) : Nat := parcelSlot p t.verifySlot

/-- The trailer passes R236. -/
def State.trailerOk (p : Nat) (i : LotImage) (s : State) : Bool :=
  let t := i.trailer
  let a := (s.slotAttrs (verifySlot p t)).toNat
  t.magic == 0x0A5E51C0 && t.version == 1 && t.mode ≤ 3 && t.reserved == 0 && t.signature.length == 96
    && 8 ≤ t.verifySlot && t.verifySlot ≤ 15 && bits 3 0 a == 5 && bit 21 a
    && Config.sha384 (Config.imageBytes i ++ (trailerBytes t).take 8) == t.digest
    && Config.ecdsaVerify (s.slotBytes (verifySlot p t) 97) ((trailerBytes t).take 64) t.signature

/-! The image's other parts. -/

/-- Filled entries of a modulus table. -/
def filledModuli (l : List Nat) : List Nat := l.filter (· != 0)

/-- No two queue programs name one queue of one cluster (R358). -/
def programsApart : List QueueProg → Bool
  | [] => true
  | a :: l => l.all (fun b => a.queue != b.queue || (a.clusterMask &&& b.clusterMask) == 0) && programsApart l

/-- The carry plan is good (R59, R358). -/
def State.planOk (p : Nat) (i : LotImage) (s : State) : Bool :=
  programsApart i.plan && i.plan.all fun q =>
    q.queue < 4 && q.clusterMask < 2 ^ i.ledger.clusters
      && (q.descs.filter (·.opcode == 0)).length == 4 * i.ledger.patternChains
      && q.descs.all fun d => s.descrOk p i.ledger.clusters (fun x => i.stakes.any (·.stake == x)) d

/-- The stake table is good (R64). -/
def stakesOk (i : LotImage) : Bool :=
  i.stakes.all (fun d => d.stake < 128 * i.ledger.clusters) && decide (i.stakes.map (·.stake)).Nodup
    && (i.ledger.role != 2 || i.trailer.mode == 0 || i.stakes.any (·.close))

/-- No two entries of a swap map overlap (R252). -/
def swapApart : List Operand → Bool
  | [] => true
  | a :: l => l.all (fun b => a.space != b.space || a.addr + a.length ≤ b.addr || b.addr + b.length ≤ a.addr) && swapApart l

/-- The swap map is good (R252). -/
def swapOk (q : Parcel) (i : LotImage) : Bool :=
  i.swapMap.length ≤ 64 && swapApart i.swapMap && (i.swapMap.map (·.length)).sum == i.ledger.swapBytes
    && i.swapMap.all fun o => o.space ≤ 1 && o.reserved == 0 && o.length % 64 == 0 && o.addr % 64 == 0
      && spaceFits q i.ledger.clusters o.space o.addr o.length

/-- The image's preloads are good (R53, R83). -/
def preloadsOk (i : LotImage) : Bool :=
  i.preloads.all fun x => preloadOk i.moduli (i.ledger.shelfRowFirst, i.ledger.shelfRowCount) x && x.clusterMask < 2 ^ i.ledger.clusters

/-- Operands of a node. -/
def nodeOperands : NodeParams → List Operand
  | .fold .. => []
  | .maskExpand _ _ _ _ _ a _ _ => [a]
  | .nttFwd _ _ _ _ a b _ => [a, b]
  | .nttInv _ _ _ _ a b _ => [a, b]
  | .keyswitch _ _ _ _ _ _ _ a b c d _ _ _ => [a, b, c, d]
  | .refreshLut _ _ _ _ _ _ _ _ _ a b c d _ _ => [a, b, c, d]
  | .clipL2 _ _ _ _ _ _ a b _ => [a, b]
  | .sumsq _ _ _ _ a b _ => [a, b]
  | .meanvar _ _ _ _ a b _ => [a, b]
  | .noiseGauss _ _ _ _ _ _ _ a _ => [a]
  | .decodeCenter _ _ _ _ _ a _ => [a]
  | .applyStep _ _ _ _ _ a b c _ => [a, b, c]
  | .matmul _ _ _ _ _ a b _ => [a, b]
  | .seedRecover _ _ _ _ _ a b _ => [a, b]
  | .pairSeed _ _ _ a b c => [a, b, c]

/-- Bench numbers that an image names in the `BENCH` space (Table 3.6), for R3. -/
def namedBenches (i : LotImage) : List Nat :=
  let op := fun (o : Operand) => if o.space = 0 && o.length != 0 then [o.addr / 65536] else []
  let ds := i.plan.flatMap (·.descs)
  ((i.nodes.flatMap fun nd => nodeOperands nd.params) ++ i.swapMap).flatMap op
    ++ (ds.filter fun d => (d.opcode == 1 || d.opcode == 2 || d.opcode == 4) && d.srcSpace == 0).map (fun d => d.srcAddr / 65536)
    ++ (ds.filter fun d => 1 ≤ d.opcode && d.opcode ≤ 3 && d.dstSpace == 0).map (fun d => d.dstAddr / 65536)

/-- Physical clusters behind the image's logical clusters, and in the enduring profile the spares of their dies (R286). -/
def State.mappedClusters (p : Nat) (i : LotImage) (s : State) : List Nat :=
  let own := (List.range i.ledger.clusters).flatMap fun k => s.live p k
  let spares := (List.range 64).filter fun c => (s.platCluster c).state == 1 && own.any fun o => dieOf o == dieOf c
  if s.enduring then own ++ spares else own

/-- The image names a unit that the plat marks as failed, a code slot beyond a cluster's working benches, or a fenced cluster (R3, R286,
R298). -/
def State.platBad (p : Nat) (i : LotImage) (s : State) : Bool :=
  let l := s.mappedClusters p i
  l.any (fun c => i.benchSlots.any fun b => s.benches c ≤ b)
    || l.any (fun c => (namedBenches i).any fun b => !bit b (s.platCluster c).benchMask.toNat)
    || (List.range (min i.ledger.clusters (s.parcel p).logical)).any fun k => (s.live p k).isEmpty

/-- The contexts of the parcel, with this image, declare more than 128 stakes in one physical cluster (R64). -/
def State.stakesFull (p c : Nat) (i : LotImage) (s : State) : Bool :=
  let all := (s.withLoaded p c i).flatMap fun x => x.2.stakes
  (List.range 64).any fun k => 128 < (all.filter fun d => d.stake / 128 == k).length

/-- The load would pin more than 256 connections (R169). -/
def State.pinsFull (p : Nat) (i : LotImage) (s : State) : Bool :=
  256 < (s.pinnedOf p ++ (imageConns i).filter fun id => (s.conn? id).isSome).dedup.length

/-- The checks of an image that follow the trailer, in the order in which the model makes them (log entry 12). -/
def State.imageChecks (p c : Nat) (i : LotImage) (s : State) : List (Bool × Nat) :=
  [ (!ledgerOk i, stLedgerFormat),
    (64 < i.moduli.length || !(filledModuli i.moduli).all modulusForm, stModulusForm),
    (!(filledModuli i.moduli).all isPrime31, stModulusPrime),
    (!graphOk (s.parcel p) i, stOpParam),
    (!(s.planOk p i && stakesOk i && swapOk (s.parcel p) i && preloadsOk i), stCarryFormat),
    (s.platBad p i, stPlatUnit),
    (s.shelfHeld p c i, stShelfHeld),
    (s.stakesFull p c i, stStakesFull),
    (s.pinsFull p i, stPinFull) ]

/-- The context with an image loaded (R251). -/
def loadedContext (i : LotImage) : Context :=
  { Context.reset with state := 1, image := some i, imageDigest := i.trailer.digest }

/-- R34, R236. `lot.load` once its payload is an image: the trailer before any other rule of the command. -/
def State.lotLoad (p c : Nat) (i : LotImage) (s : State) : Verdict :=
  guarded ([(!s.trailerOk p i, stSignature), (!s.slotUse (verifySlot p i.trailer) 5, stKeyUse), (8 ≤ c, stArg),
      ((s.ctx p c).state ≠ 0, stContextState)] ++ s.imageChecks p c i) <|
    match s.shortfall p c i with
    | some rec => .refuse stLedgerOver rec
    | none => .done [] (s.modCtx p c fun _ => loadedContext i)

/-- The parcel's refusals that come before a context's own state: a parcel fault (R299) and, for what changes the digest, a sealed
round (R240). -/
def State.parcelRefuses (p : Nat) (digest : Bool) (s : State) : List (Bool × Nat) :=
  [((s.parcel p).refusing || (digest && s.sealedRound p), stParcelState)]

/-- R34. `lot.load`. -/
def execLotLoad (fn : Nat) (s : State) : Host.Outcome State Fault Refusal :=
  .next (s.runDrawer fn 0x30 fun t s =>
    let go := fun (head : Bytes) (k : Nat → Verdict) =>
      if head.length ≠ 8 then .no stPayload
      else if !allZero (head.drop 1) then .no stReserved
      else s.gated fn 0x30 false true (guarded (s.parcelRefuses (parcelOf fn) true) (k (fld 0 1 head)))
    match t.payload with
    | .bytes b => go (b.take 8) fun _ => .no stSignature
    | .lot head i => go head fun c => s.lotLoad (parcelOf fn) c i)

/-- R251. `lot.unload`: takes effect at the next chain boundary. -/
def execLotUnload (fn : Nat) (s : State) : Host.Outcome State Fault Refusal :=
  .next (s.runDrawer fn 0x31 fun t s => t.withPayload 8 fun b =>
    if !allZero (b.drop 1) then .no stReserved
    else s.gated fn 0x31 false true <|
      let p := parcelOf fn
      let c := fld 0 1 b
      let x := s.ctx p c
      guarded [(s.sealedRound p, stParcelState), (8 ≤ c, stArg), (x.state = 0 || x.state = 2 || x.pendStart, stContextState),
        (x.pendUnload, stBusy)] <|
        .done [] (s.modCtx p c fun x => { x with pendUnload := true }))

end Sys2Proof.Machine
end

