-- ==== Sys2Proof/Machine/Chest.lean ====
section
/-! DEFINITION. The chest's commands: key certificates, update messages, the life cycle, the sealed model's key and field access (R224, R231 to R235,
R242 to R246). -/

namespace Sys2Proof.Machine

/-! Key certificates (R242). -/

/-- R242. `chest.certify`. -/
def execChestCertify (fn : Nat) (s : State) : Host.Outcome State Fault Refusal :=
  .next (s.runDrawer fn 0x71 fun t s => t.withPayload 40 fun b =>
    let purpose := fld 0 1 b
    if !allZero (cut 1 7 b) then .no stReserved
    else s.gated fn 0x71 false true <|
      let slot := if purpose = 1 then parcelSlot (parcelOf fn) 0 else 5
      guarded [(purpose ≠ 1 && purpose ≠ 2, stArg), (!s.canDraw, stEntropy), (!s.canSign || !s.slotUse slot 5, stKeyUse)] <|
        .done (s.certificate (parcelOf fn) purpose (cut 8 32 b)) s.drawn)

/-! Update messages (R233, R234). -/

/-- The fields of an update message (Table 10.4). -/
structure Update where
  head : Bytes
  magic : Nat
  version : Nat
  op : Nat
  authority : Nat
  slot : Nat
  reserved : Bool
  attrs : Nat
  counter : Nat
  target : Digest
  bodyBytes : Nat
  body : Bytes
  signed : Bytes
  signature : Bytes
  deriving DecidableEq, Repr

/-- Read an update message. -/
def parseUpdate (b : Bytes) : Update :=
  let n := fld 72 4 b
  { head := b.take 96
    magic := fld 0 4 b
    version := fld 4 1 b
    op := fld 5 1 b
    authority := fld 6 1 b
    slot := fld 8 2 b
    reserved := !allZero (cut 7 1 b ++ cut 10 2 b ++ cut 76 20 b)
    attrs := fld 12 4 b
    counter := fld 16 8 b
    target := BitVec.ofNat 384 (fld 24 48 b)
    bodyBytes := n
    body := cut 96 n b
    signed := b.take (96 + n)
    signature := cut (96 + n) 96 b }

/-- A pairing of `OP`, `AUTHORITY` and `SLOT` that Table 10.5 allows. The model key can be destroyed by `DESTROY` too (Table 10.9). -/
def Update.pairs (u : Update) : Bool :=
  match u.op with
  | 1 => (u.authority == 0 && 8 ≤ u.slot && u.slot ≤ 15) || (u.authority == 1 && u.slot == 11) || (u.authority == 2 && 8 ≤ u.slot && u.slot ≤ 11)
  | 2 => (u.authority == 0 && (u.slot == 6 || (8 ≤ u.slot && u.slot ≤ 15))) || (u.authority == 1 && u.slot == 11)
    || (u.authority == 2 && 8 ≤ u.slot && u.slot ≤ 11)
  | 3 => (u.authority == 1 || u.authority == 2) && u.slot == 0
  | 4 => (u.authority == 1 || u.authority == 2) && u.slot == 10
  | 5 => u.authority == 0 && u.slot == 6
  | 6 => u.authority == 3 && u.slot == 0
  | 7 => u.authority == 3 && u.slot == 0
  | _ => false

/-- The body has the form that Table 10.5 gives its `OP`: a public key of 97 bytes, or for slot 11 a wrapped secret of 48. -/
def Update.bodyOk (u : Update) : Bool :=
  match u.op with
  | 1 => if u.slot = 11 && u.authority != 0 then u.bodyBytes == 96 else u.bodyBytes == 97
  | 2 => u.bodyBytes == 0
  | 3 => u.bodyBytes == 8 && allZero (u.body.drop 1)
  | 4 => u.bodyBytes == 97
  | 5 => 72 + 160 ≤ u.bodyBytes && 1 ≤ fld 64 4 u.body && fld 64 4 u.body ≤ 1024 && allZero (cut 68 4 u.body)
    && u.bodyBytes == 72 + 160 * fld 64 4 u.body
  | 6 => u.bodyBytes == 0
  | 7 => u.bodyBytes == 32
  | _ => false

/-- An update that carries no signature (R233). -/
def Update.unsigned (u : Update) : Bool := u.authority == 0 || u.op == 6

/-- Check 1 of R234. -/
def Update.formOk (u : Update) : Bool :=
  u.magic == 0x0A5EC4E5 && u.version == 1 && !u.reserved && u.pairs && u.bodyOk && (u.op == 1 || u.attrs == 0)
    && (u.op != 6 || u.counter == 0) && (!u.unsigned || allZero u.signature)

/-- The absolute slot that an update names. -/
def Update.abs (p : Nat) (u : Update) : Nat := if u.authority = 0 then parcelSlot p u.slot else u.slot

/-- Chest slot of an authority's key: 10 operator, 8 Vutawen update, 9 Vutawen service. -/
def authoritySlot (a : Nat) : Nat := if a = 1 then 10 else if a = 2 then 8 else 9

/-- The stored counter of an update's authority (R234). -/
def State.storedCounter (p : Nat) (u : Update) (s : State) : Nat :=
  if u.authority = 0 then (s.parcel p).tenantCounter else s.chest.counters.getD u.authority 0

/-- Targets of a `LIFECYCLE` update that Table 10.3 allows its authority. -/
def State.transitionOk (u : Update) (s : State) : Bool :=
  let t := fld 0 1 u.body
  match s.flash.lifecycle with
  | 1 => (t == 2 && u.authority == 2) || t == 5
  | 2 => (t == 3 && u.authority == 1) || t == 5
  | 3 => t == 5
  | 4 => (t == 2 && u.authority == 2 && s.flash.returns < 15) || t == 5
  | _ => false

/-- Check 4: the operation is allowed in the life-cycle state. -/
def State.opAllowed (u : Update) (s : State) : Bool :=
  match u.op with
  | 3 => s.transitionOk u
  | 6 => s.flash.lifecycle == 3
  | 7 => s.flash.lifecycle == 3
  | _ => 1 ≤ s.flash.lifecycle && s.flash.lifecycle ≤ 4

/-- Check 5: the signature verifies under the authority's key. -/
def State.signedOk (u : Update) (s : State) : Bool :=
  u.unsigned || (s.slotFilled (authoritySlot u.authority)
    && Config.ecdsaVerify (s.slotBytes (authoritySlot u.authority) 97) u.signed u.signature)

/-- World of a slot that an update may fill: the authorities of Vutawen are the module's, the operator's key and TLS key the operator's. -/
def updateWorld (slot : Nat) : Nat := if 128 ≤ slot then 2 else if slot = 10 || slot = 11 then 1 else 0

/-- Masters that a slot allows, as bits [22:16]: its uses are `M_FW` and `M_CHEST`, and for the slots that sign firmware `M_BOOT` too. -/
def updateMasters (slot : Nat) : Nat := if slot = 8 || slot = 9 || slot = 10 then 0x23 else 0x22

/-- Check 7: the proposed attributes keep what the chest sets and name only masters that the slot allows. -/
def attrsOk (p slot attrs : Nat) : Bool :=
  bits 3 0 attrs == (if slot = 11 then 4 else 5) && bits 5 4 attrs == updateWorld slot
    && bits 9 6 attrs == (if 128 ≤ slot then p else 0) && !bit 10 attrs && (slot < 128 || !bit 11 attrs) && bits 15 12 attrs == 0
    && bits 22 16 attrs ||| updateMasters slot == updateMasters slot && !bit 23 attrs && bits 31 30 attrs == 0

/-- Keys for a value wrapped to the unwrap key (R235, R243): AES key and nonce. -/
def State.unwrapKeys (epk salt info : Bytes) (s : State) : Key × Bytes :=
  let k := Config.hkdf384 (le 32 (Config.x25519 (s.slotKey 5) (BitVec.ofNat 256 (leNat epk))).toNat) salt info 44
  (BitVec.ofNat 256 (leNat (k.take 32)), cut 32 12 k)

/-- Unwrap a value: its bytes, or none where the tag fails or the unwrap key may not be used. -/
def State.unwrap (epk salt info aad ct : Bytes) (tag : BitVec 128) (s : State) : Option Bytes :=
  let (k, n) := s.unwrapKeys epk salt info
  if s.slotUse 5 5 && Config.gcmTag k n aad ct == tag then some (gcmOpen k n aad ct) else none

/-- The secret of an `INSTALL` body (R235). -/
def State.unwrapInstall (u : Update) (s : State) : Option Bytes :=
  s.unwrap (u.body.take 32) (le 8 u.counter) (ascii "axulo wrap v1" ++ le 2 u.slot ++ le 48 u.target.toNat) u.head (cut 32 48 u.body)
    (BitVec.ofNat 128 (fld 80 16 u.body))

/-- The model key of the entry that names this module (R243). -/
def State.unwrapModel (u : Update) (s : State) : Option Bytes :=
  let t := le 48 s.chest.identity.toNat
  match (chunks 160 1024 (u.body.drop 72)).find? fun e => e.take 48 == t with
  | some e =>
    s.unwrap (cut 48 32 e) (cut 16 48 u.body) (ascii "axulo model v1" ++ t) t (cut 80 64 e) (BitVec.ofNat 128 (fld 144 16 e))
  | none => none

/-- The value that an update unwraps, where it carries one (check 9). -/
def State.unwrapped (u : Update) (s : State) : Option Bytes :=
  if u.op = 5 then s.unwrapModel u
  else if u.op = 1 && u.slot == 11 && u.authority != 0 then s.unwrapInstall u
  else some u.body

/-- Check 8: `INSTALL`, `AUTHORITY` and `MODEL_KEY` need an empty slot, `DESTROY` a filled one. -/
def State.slotStateOk (abs : Nat) (u : Update) (s : State) : Bool :=
  match u.op with
  | 1 => !s.slotFilled abs
  | 2 => s.slotFilled abs
  | 4 => !s.slotFilled abs
  | 5 => !s.slotFilled abs
  | _ => true

/-- A `MODEL_KEY` body's window is good (R243). -/
def modelWindowOk (q : Parcel) (b : Bytes) : Bool :=
  fld 0 8 b % 4096 == 0 && fld 8 8 b % 4096 == 0 && fld 8 8 b != 0 && fld 0 8 b + fld 8 8 b ≤ q.size

/-- Every parcel is CLOSED (R232). -/
def State.allClosed (s : State) : Bool := s.openParcels == 0

/-- The challenge of a `FIELD_OPEN` is the one in force, and it is valid (R245). -/
def State.challengeOk (u : Update) (s : State) : Bool :=
  match s.chest.challenge with
  | some (c, at_) => c == BitVec.ofNat 256 (leNat u.body) && s.now < at_ + 67108864
  | none => false

/-- The checks of R234 in order, then those of R232, R243 and R245; `vf` says that a VF carries the message, for parcel `p`. -/
def State.updateChecks (vf : Bool) (p : Nat) (u : Update) (s : State) : List (Bool × Nat) :=
  [ (!u.formOk || (u.op == 5 && !modelWindowOk (s.parcel p) u.body), stArg),
    (vf != (u.authority == 0) || (!vf && 4 ≤ u.authority), stNotPermitted),
    (u.target != s.chest.identity, stSignature),
    (!s.opAllowed u, stLifecycle),
    (!s.signedOk u, stSignature),
    (u.op != 6 && u.counter ≤ s.storedCounter p u, stCounter),
    ((u.op == 1 && !attrsOk p (u.abs p) u.attrs) || (u.op == 5 && fld 16 48 u.body != (s.measurement p).toNat), stKeyUse),
    (!s.slotStateOk (u.abs p) u, stSlotState),
    ((s.unwrapped u).isNone, stSignature),
    (u.op == 7 && !s.challengeOk u, stSignature),
    ((u.op == 3 || u.op == 7) && !s.allClosed, stParcelState),
    ((u.op == 1 || u.op == 4 || u.op == 5 || u.op == 6) && !s.canDraw, stEntropy) ]

/-- Store an update's counter (R234); the tenant's lives with its parcel. -/
def State.storeCounter (p : Nat) (u : Update) (s : State) : State :=
  if u.op = 6 then s
  else if u.authority = 0 then s.modParcel p fun q => { q with tenantCounter := u.counter }
  else { s with chest := { s.chest with counters := s.chest.counters.set u.authority u.counter } }

/-- Keep a persistent slot as a blob (R227). -/
def State.keepBlob (slot : Nat) (s : State) : State :=
  { s with chest := { s.chest with
    blobs := s.chest.blobs.filter (· != slot) ++ [slot]
    writeCount := s.chest.writeCount + 1 } }

/-! The life cycle (R231, R232). -/

/-- Step 1: every slot whose `LC` lacks the bit of `t` is destroyed; at DEPLOYED to RETURNED and back slots 10 and 11 go too, at END all. -/
def State.transitionKeys (t : Nat) (s : State) : State :=
  let keep := fun i => t != 5 && bit (24 + t) (s.slotAttrs i).toNat && !((t == 4 || s.flash.lifecycle == 4) && (i == 10 || i == 11))
  (s.chest.slots.map (·.1)).foldl (fun u i => if keep i then u else u.destroySlot i .lifeCycle) s

/-- The plat back at its fused defects (R285). -/
def platFused (p : Plat) : Plat :=
  { p with
    clusters := (List.range 64).map fun c =>
      if p.fusedClusters.contains c then { PlatCluster.reset with state := 2 } else PlatCluster.reset
    subchs := (List.range 64).map fun x => if p.fusedSubchs.contains x then 2 else 0
    links := List.replicate 48 0
    lanesRetired := List.replicate 48 0 }

/-- Steps 2 to 4: blobs sealed anew, the fuses programmed, and what Table 10.3 changes with them. -/
def State.transitionFuses (t : Nat) (s : State) : State :=
  let f := s.flash.lifecycle
  let u := { s with
    chest := { s.chest with writeCount := s.chest.writeCount + s.chest.blobs.length, blobs := if t = 5 then [] else s.chest.blobs }
    flash := { s.flash with lifecycle := t } }
  if f = 1 && t = 2 then
    { u with
      chest := { u.chest with devidCert := Config.certChain 2 s.chest.identity 0 0 2 0 }
      flash := { u.flash with
        provisioned := true
        settings := { Settings.reset with profile := s.flash.fusedProfile }
        settingsCounter := 0
        settingsBad := false } }
  else if f = 4 && t = 2 then { u with flash := { u.flash with returns := u.flash.returns + 1 }, plat := platFused u.plat }
  else u

/-- A life-cycle transition: keys, fuses, `EV_LIFECYCLE`, and a cold reset is ordered (R232). -/
def State.transition (t authority : Nat) (s : State) : State :=
  let old := s.flash.lifecycle
  let u := (s.transitionKeys t).transitionFuses t
  let u := (u.evPf 0x1002 [old, t, authority]).evMgmt 0x1002 [old, t, authority]
  { u with faults := { u.faults with order := some (s.now, true) } }

/-! The model window (R244). -/

/-- The 16-byte block of a parcel's memory that begins at an offset, as its listed bytes lie there. -/
def State.rawBlock (p a : Nat) (s : State) : Bytes := (List.range 16).map fun i => s.extRaw p (a + i)

/-- First offsets of the blocks in a range that hold a listed byte. -/
def listedBlocks (m : Memory) (base size : Nat) : List Nat :=
  ((m.filter fun c => base ≤ c.1 && c.1 < base + size).map fun c => c.1 / 16 * 16).dedup

/-- Convert the blocks of a range between what lies under the parcel key and what is kept for a window: XTS with units of 64 bytes (R253). -/
def State.convert (enc : Bool) (p base size : Nat) (s : State) : State :=
  (listedBlocks (s.parcel p).mem base size).foldl (fun t a =>
    let b := s.rawBlock p a
    let k := s.memKey p
    t.extPuts p a (if enc then xtsSeal k (a / 64) (a % 64 / 16) b else xtsOpen k (a / 64) (a % 64 / 16) b)) s

/-- Open the model window: bytes written before are the parcel key's ciphertext in it, and are not converted (R244). -/
def State.openWindow (p base size : Nat) (s : State) : State :=
  let t := match (s.parcel p).window with | some (b, n) => s.convert false p b n | none => s
  (t.convert true p base size).modParcel p fun q => { q with window := some (base, size) }

/-! Executing an update. -/

/-- The effect of an update that passes its checks, with the response body. -/
def State.updateEffect (p : Nat) (u : Update) (s : State) : Bytes × State :=
  let v : BitVec 1024 := BitVec.ofNat 1024 (leNat ((s.unwrapped u).getD []))
  let abs := u.abs p
  let t := s.storeCounter p u
  let body := cat [le 2 u.slot, zeros 2, le 8 u.counter]
  match u.op with
  | 1 =>
    let t := t.fillSlot abs (BitVec.ofNat 32 u.attrs) v
    (body, if bit 11 u.attrs then t.keepBlob abs else t)
  | 2 => (body, t.destroySlot abs .command)
  | 3 => (body, t.transition (fld 0 1 u.body) u.authority)
  | 4 => (body, (t.fillSlot 10 (slotAttr 5 1 0 false true 0x22 lcWork) v).keepBlob 10)
  | 5 => (body, (t.fillSlot abs (slotAttr 2 2 p false false 16 lcWork) v).openWindow p (fld 0 8 u.body) (fld 8 8 u.body))
  | 6 =>
    let c : BitVec 256 := t.fresh.setWidth 256
    (cat [le 32 c.toNat, le 48 t.chest.identity.toNat, le 1 t.flash.returns],
      { t.drawn with chest := { t.chest with challenge := some (c, s.now) } })
  | _ =>
    let t := { t with chest := { t.chest with challenge := none } }
    (body, t.transition 4 3)

/-- Check and execute an update message: status, response body, state. -/
def State.update (vf : Bool) (p : Nat) (b : Bytes) (s : State) : Nat × Bytes × State :=
  let u := parseUpdate b
  if b.length ≠ 192 + u.bodyBytes then s.deny stPayload
  else match firstFail (s.updateChecks vf p u) with
    | some st => s.deny st
    | none => let r := s.updateEffect p u; (stOk, r.1, r.2)
/-- The row of an update message: the one of its `OP`; an `OP` that Table 10.5 does not have is refused by the first row. -/
def updateRow (b : Bytes) : Nat := let op := fld 5 1 b; if 1 ≤ op && op ≤ 7 then op else 1

/-- The bytes of a taken request's payload. -/
def Taken.bytes (t : Taken) : Bytes := match t.payload with | .bytes b => b | .lot _ _ => []

/-- Run the update row `op` on a source (R233): the head of a function's taken commands, or a management message. -/
def State.runUpdate (src : UpdateSource) (op : Nat) (s : State) : State :=
  match src with
  | .drawer fn =>
    match s.front fn 0x70 with
    | some t =>
      if updateRow t.bytes = op then
        s.runDrawer fn 0x70 fun t s => s.gated fn 0x70 true true <|
          match t.payload with
          | .lot _ _ => .no stPayload
          | .bytes b =>
            let r := s.update (fn != 0) (parcelOf fn) b
            if r.1 = stOk then .done r.2.1 r.2.2 else .no r.1
      else s
    | none => s
  | .mgmt m => if updateRow m.body = op then s.runMgmt m 0x32 fun b s => s.update false 0 b else s

/-- R233 to R235. `INSTALL`. -/
def execInstall (src : UpdateSource) (s : State) : Host.Outcome State Fault Refusal := .next (s.runUpdate src 1)
/-- R233, R234. `DESTROY`. -/
def execDestroy (src : UpdateSource) (s : State) : Host.Outcome State Fault Refusal := .next (s.runUpdate src 2)
/-- R231, R232. `LIFECYCLE`. -/
def execLifecycle (src : UpdateSource) (s : State) : Host.Outcome State Fault Refusal := .next (s.runUpdate src 3)
/-- R233, R234. `AUTHORITY`. -/
def execAuthority (src : UpdateSource) (s : State) : Host.Outcome State Fault Refusal := .next (s.runUpdate src 4)
/-- R243, R244. `MODEL_KEY`. -/
def execModelKey (src : UpdateSource) (s : State) : Host.Outcome State Fault Refusal := .next (s.runUpdate src 5)
/-- R245. `FIELD_CHALLENGE`. -/
def execFieldChallenge (src : UpdateSource) (s : State) : Host.Outcome State Fault Refusal := .next (s.runUpdate src 6)
/-- R245. `FIELD_OPEN`. -/
def execFieldOpen (src : UpdateSource) (s : State) : Host.Outcome State Fault Refusal := .next (s.runUpdate src 7)

/-- R245. A challenge expires 67,108,864 chains after its issue. -/
def execFieldChallengeExpiry (s : State) : Host.Outcome State Fault Refusal :=
  .next (match s.chest.challenge with
    | some (_, c) => if c + 67108864 ≤ s.now then { s with chest := { s.chest with challenge := none } } else s
    | none => s)

end Sys2Proof.Machine
end

