-- ==== Sys2Proof/Machine/Markers.lean ====
section
/-! DEFINITION. Chain markers: sending, the choice of the source, following, stepping, holdover and mastership (R154 to R158). -/

namespace Sys2Proof.Machine

/-- A chain in picoseconds (R23). -/
def chainPs : Int := 32000000

/-- A marker may be followed (R155). -/
def followable (m : MarkerGrain) : Bool := m.stratum ≤ 7 && m.state == 0

/-- The followable marker that a link brought in this chain or the one before, while it carries markers. -/
def State.linkMarker (l : Nat) (s : State) : Option MarkerGrain :=
  let k := s.link l
  match k.markerSeen with
  | some m => if (k.state == 1 || k.state == 3) && followable m && s.now ≤ k.markerChain + 1 then some m else none
  | none => none

/-- Links with a followable marker. -/
def State.markerLinks (s : State) : List (Nat × MarkerGrain) :=
  (List.range 48).filterMap fun l => (s.linkMarker l).map fun m => (l, m)

/-- The link that Table 7.7 names for this module under a master, rows 2 to 4. -/
def State.properSource (master : Nat) (s : State) : Option Nat :=
  let own := s.boot.moduleId
  let p := positionOf own
  if groupOf own = groupOf master then (if p = positionOf master then none else some (localLink p (positionOf master)))
  else
    let n := s.groups
    let k := (groupOf master + n - groupOf own) % n - 1
    if k / 17 = p then some (31 + k % 17) else some (localLink p (k / 17))

/-- Least of a list of links with markers: lowest `STRATUM`, then lowest link (Table 7.7). -/
def leastMarker : List (Nat × MarkerGrain) → Option (Nat × MarkerGrain)
  | [] => none
  | x :: l => match leastMarker l with
    | some y => if y.2.stratum < x.2.stratum then some y else some x
    | none => some x

/-- The master to follow: the one named so far while a link still names it, and otherwise the lowest that any followable marker names. -/
def State.masterChoice (s : State) : Option Nat :=
  let l := s.markerLinks
  if l.any fun x => x.2.master == s.marker.master then some s.marker.master
  else l.foldl (fun b x => match b with | some v => some (min v x.2.master) | none => some x.2.master) none

/-- The marker source (Table 7.7): none for the system master, or while there is no followable marker. -/
def State.markerSource (s : State) : Option (Nat × MarkerGrain) :=
  if s.marker.isMaster then none else
  match s.masterChoice with
  | none => none
  | some m =>
    match s.properSource m with
    | some l =>
      match s.linkMarker l with
      | some g => if g.master = m then some (l, g) else leastMarker (s.markerLinks.filter fun x => x.2.master == m)
      | none => leastMarker (s.markerLinks.filter fun x => x.2.master == m)
    | none => leastMarker (s.markerLinks.filter fun x => x.2.master == m)

/-- Offset of the source's boundary to the own one, in ps, chain numbers included (R154, R158). -/
def State.markerOffset (l : Nat) (m : MarkerGrain) (s : State) : Int :=
  (m.arrivalPs : Int) + m.offsetPs - (s.link l).delayPs - chainPs + ((s.now : Int) + 1 - m.chain) * chainPs

/-- `EV_MASTER_CHANGE` to PF0 and management. -/
def State.evMaster (old new : Nat) (s : State) : State := (s.evPf 0x0706 [old, new, s.now]).evMgmt 0x0706 [old, new, s.now]

/-- Follow a marker (R155, R158): the offset is slewed if it is within 1 us, otherwise the module will step at its next boundary. -/
def State.follow (l : Nat) (m : MarkerGrain) (s : State) : State :=
  let d := s.markerOffset l m
  let near : Bool := -1000000 ≤ d && d ≤ 1000000
  let early : Bool := (m.arrivalPs : Int) + m.offsetPs - (s.link l).delayPs < chainPs
  let old := s.marker.master
  let t := { s with marker := { s.marker with
    source := some l
    master := m.master
    stratum := m.stratum + 1
    state := 0
    lastFollowed := s.now
    holdRaised := false
    offsetPs := d
    stepTo := if near then none else some (if early then m.chain + 1 else m.chain) } }
  if old = m.master then t else t.evMaster old m.master

/-- Two masters hear each other (R156): the one with the higher ID will follow the other from its next boundary; each reports it. -/
def State.rivals (l : Nat) (m : MarkerGrain) (s : State) : State :=
  let own := s.boot.moduleId
  if m.master < own then { s with marker := { s.marker with masterNext := some m.master } }
  else if own < m.master then s.evLink l 0x0706 [m.master, own, s.now]
  else s

/-- R154 to R156, R158. A `MARKER` grain. -/
def execMarker (link : Nat) (m : MarkerGrain) (s : State) : Host.Outcome State Fault Refusal :=
  .next (let k := s.link link
    if !(k.state == 1 || k.state == 3) then s else
    let t := s.modLink link fun k => { k with markerSeen := some m, markerChain := s.now }
    if !followable m then t
    else if t.marker.isMaster then t.rivals link m
    else match t.markerSource with
      | some (l, g) => if l = link then t.follow l g else t
      | none => t)

/-- At a chain boundary a master that must give way follows the other (R156). -/
def State.yieldMaster (s : State) : State :=
  match s.marker.masterNext with
  | some m =>
    let t := { s with marker := { s.marker with isMaster := false, master := m, masterNext := none, stratum := 7, lastFollowed := s.now } }
    t.evMaster s.boot.moduleId m
  | none => s

/-- At a chain boundary: a chain without the source's marker is held over (R157), and the timer slews by at most 16 ns (R158). -/
def State.markerBoundary (s : State) : State :=
  let t := s.yieldMaster
  let d := t.marker.offsetPs
  let t := { t with marker := { t.marker with offsetPs := d - clampInt (-16000) 16000 d } }
  if !t.marker.isMaster && t.marker.state == 0 && t.marker.lastFollowed + 1 < t.now then
    { t with marker := { t.marker with state := 1, source := none } }
  else t

/-- R158. The source's boundary has come: its chain number is adopted, so that the boundary that now follows opens that chain. The wait is not a
chain. -/
def execChainStep (waitNs : Nat) (s : State) : Host.Outcome State Fault Refusal :=
  .next (match s.marker.stepTo with
    | some n =>
      if s.clock.running && s.clock.rod == 3 && n ≠ 0 then
        let t := { s with
          clock := { s.clock with chain := n - 1 }
          marker := { s.marker with stepTo := none, offsetPs := 0, lastFollowed := n - 1 } }
        (t.evPf 0x0705 [s.now + 1, n, waitNs]).evMgmt 0x0705 [s.now + 1, n, waitNs]
      else s
    | none => s)

/-- R157. Eight chains without a marker followed are reported, once. -/
def execMarkerHoldover (s : State) : Host.Outcome State Fault Refusal :=
  .next (if s.marker.state == 1 && !s.marker.holdRaised && s.marker.lastFollowed + 8 ≤ s.now then
    let t := { s with marker := { s.marker with holdRaised := true } }
    (t.evPf 0x0703 [s.marker.lastFollowed]).evMgmt 0x0703 [s.marker.lastFollowed]
  else s)

/-- R157. After 1,024 chains of holdover the module free-runs. -/
def execMarkerLost (s : State) : Host.Outcome State Fault Refusal :=
  .next (if s.marker.state == 1 && s.marker.lastFollowed + 1024 ≤ s.now then
    let t := { s with marker := { s.marker with state := 2 } }
    (t.evPf 0x0704 [s.now]).evMgmt 0x0704 [s.now]
  else s)

/-- The survey lets this module be system master (R156). -/
def State.eligible (s : State) : Bool :=
  match s.surveyEntry s.boot.moduleId with | some e => bit 0 e.1 | none => false

/-- The chain from which the 64 chains of R156 count: the last marker followed, or the end of the first training. -/
def State.quietSince (s : State) : Option Nat :=
  if s.marker.lastFollowed ≠ 0 then some s.marker.lastFollowed else s.boot.firstTrained

/-- The module becomes system master (R156): it keeps its own numbering. -/
def State.takeMastership (s : State) : State :=
  let t := { s with marker := { s.marker with
    isMaster := true
    source := none
    master := s.boot.moduleId
    stratum := 0
    state := 0
    stepTo := none
    offsetPs := 0 } }
  t.evMaster s.marker.master s.boot.moduleId

/-- R156. An eligible module that has heard no followable marker for 64 chains becomes system master. -/
def execMasterTakeover (s : State) : Host.Outcome State Fault Refusal :=
  .next (match s.quietSince with
    | some c => if s.eligible && !s.marker.isMaster && s.markerLinks.isEmpty && c + 64 ≤ s.now then s.takeMastership else s
    | none => s)

/-- Send the `MARKER` grain of a link in rod 3 (R154, Table 7.6). It leaves in the rod's first flit, so the boundary lies 8 us less a flit after it. -/
def State.sendMarker (l : Nat) (s : State) : State :=
  let k := s.link l
  if k.state = 1 || k.state = 3 then
    let flit := 12800 * (4 / max 1 k.width)
    s.sendGrain l 0xF3 (cat [le 1 s.marker.stratum, le 2 s.marker.master, le 8 (s.now + 1), le 4 (8000000 - flit), le 2 s.marker.state])
  else s

/-- What a rod's beginning sends on a link (R150, R153, R154, R289). -/
def State.linkRod (l : Nat) (s : State) : State :=
  match s.clock.rod with
  | 1 => s.sendCredits s.now 2 l
  | 3 =>
    let t := (s.sendCredits (s.now + 1) 0 l).sendMarker l
    if (t.link l).helloDue then (t.sendHello l).modLink l fun k => { k with helloDue := false } else t
  | _ => s.sendSlices l

end Sys2Proof.Machine
end

