-- ==== Sys2Proof/Machine/Boot.lean ====
section
/-! DEFINITION. What a reset keeps and what the boot ROM does (R200, R227 to R229, R264 to R269, R274 to R279, R285, R288, R305, R311, R338, R357), and
the events of bring-up: `EBXEL_START`, `DIE_POWER_UP`, `WAVE_WAKE`, `WAVE_TEST_DONE`, `DEVICE_READY`, `EARLY_SERVICE`, `TOPOLOGY_JUDGE`. -/

namespace Sys2Proof.Machine

/-! Causes (R357, Table 14.3). -/
def fcFwConflict : Nat := 0x140D
def fcHubTest : Nat := 0x1701
def fcNoEntropy : Nat := 0x1702
def fcNoImage : Nat := 0x1703

/-! Meter records (R338). -/

/-- Bytes 0 to 143 of a meter record (Table 15.7). -/
def meterHead (r : MeterRec) : Bytes :=
  cat [le 4 0x0A5EE4E6, le 1 1, le 1 r.flags, le 2 (r.moduleId % 2 ^ 14), le 4 r.index, le 4 r.bootGen, le 8 r.startChain, le 8 r.endChain,
    bytesOf 8 r.tariffMj, le 4 r.peakW, le 2 r.capMinW, zeros 2, le 4 r.idleChains, le 4 r.failChains, le 4 r.throttleChains, le 4 r.lostMj, zeros 24]

/-- A closed record joins the ring of 1,024, signed by the AliasID key, and is reported (R338). -/
def State.writeRecord (r : MeterRec) (s : State) : State :=
  let r := { r with index := s.power.nextRecord, moduleId := s.boot.moduleId, bootGen := s.flash.bootGen }
  let r := { r with signature := s.aliasSign (meterHead r) }
  let l := s.power.records ++ [r]
  let t := { s.drawn with power := { s.power with
    records := l.drop (l.length - 1024)
    nextRecord := s.power.nextRecord + 1
    recOpen := false } }
  t.evMgmt 0x1503 [r.index, r.endChain]

/-- The record that was open at a loss of power without an orderly stop closes at the boot (R338): as it was saved last. -/
def State.closeAbrupt (s : State) : State :=
  if s.power.recOpen then
    let r := s.power.savedRec
    s.writeRecord { r with flags := r.flags ||| 2 }
  else s

/-! What a reset keeps (R305). -/

/-- The power stage's state after a reset: pins, sensors and what boot flash holds of the meter (R338). A record that was open keeps what was saved of
it, with the energy since as lost. -/
def Power.kept (saved : Nat) (p : Power) : Power :=
  { Power.reset with
    present := p.present
    switch := p.switch
    ovOpen := p.ovOpen
    cycleLow := p.cycleLow
    warn := p.warn
    uv := p.uv
    off := p.off
    sensors := p.sensors
    meter := saved
    records := p.records
    nextRecord := p.nextRecord
    recOpen := p.recOpen
    savedRec := { p.savedRec with lostMj := p.meter - saved } }

/-- The slots that a reset keeps: the UDS in its fuses, and those with a blob in boot flash (R227). -/
def Chest.kept (c : Chest) : Chest :=
  { Chest.reset with
    slots := c.slots.filter fun x => x.1 == 0 || c.blobs.contains x.1
    counters := c.counters
    blobs := c.blobs
    badBlobs := c.badBlobs
    writeCount := c.writeCount
    tlsChain := c.tlsChain
    devidCert := c.devidCert
    identity := c.identity }

/-- Everything ends but what boot flash, the fuses, the counter bank and the pins hold (R305). -/
def State.wiped (s : State) : State :=
  { State.reset with
    pending := s.pending
    draws := s.draws
    outbox := s.outbox
    flash := s.flash
    plat := { s.plat with pending := [], cold := false }
    chest := s.chest.kept
    power := s.power.kept s.flash.meterSaved
    links := s.links.map fun k => { Link.reset with cable := k.cable }
    smbus := { SmBus.reset with strap := s.smbus.strap }
    faults := { FaultSt.reset with mgmtWord := s.faults.mgmtWord, trayCycles := s.faults.trayCycles } }

/-! The boot ROM. -/

/-- `EV_SETTINGS_BAD` (Table 13.9): record 0 settings, 1 plat, 2 survey; action 0 defaults, 1 cold path, 2 no survey. -/
def State.evSettingsBad (record action : Nat) (s : State) : State := (s.evPf 0x1303 [record, action]).evMgmt 0x1303 [record, action]

/-- A reset takes the cold path (R277): ordered, a plat whose tag failed, or the third reset in a row that would have taken the warm one. -/
def State.takesCold (ordered : Bool) (s : State) : Bool := ordered || s.plat.tagBad || 2 ≤ s.flash.warmRow

/-- The bytes of a firmware copy. -/
def fwBytes (c : FwCopy) : Bytes := Memory.read0 0 c.bytes c.image

/-- A firmware copy may run (R311, R339): marked valid, verified under slot 8, its counter not below the floor. -/
def State.fwGood (c : FwCopy) (s : State) : Bool :=
  c.valid && s.slotFilled 8 && Config.fwVerifies (s.slotBytes 8 97) (fwBytes c) && s.flash.fwFloor ≤ c.counter

/-- Which copy runs (Table 14.7): copy B if true, or the cause for which none does. -/
def State.fwChoice (s : State) : Except Nat Bool :=
  let a := s.flash.fwA
  let b := s.flash.fwB
  if s.fwGood a && s.fwGood b then
    if a.counter ≠ b.counter then .ok (a.counter < b.counter)
    else if a.digest = b.digest then .ok false else .error fcFwConflict
  else if s.fwGood a then .ok false
  else if s.fwGood b then .ok true
  else .error fcNoImage

/-- Order of the group of P-384, which R228 names (PRESUMED, log entry 23). -/
def p384Order : Nat :=
  0xFFFFFFFFFFFFFFFFFFFFFFFFFFFFFFFFFFFFFFFFFFFFFFFFC7634D81F4372DDF581A0DB248B0A77AECEC196ACCC52973

/-- `keygen_p384` of R228. -/
def keygenP384 (seed : Bytes) : Nat := beNat seed % (p384Order - 1) + 1

/-- The boot ROM derives the keys of slots 1 to 5 from the UDS and the firmware digest, and locks slot 0 (R228). -/
def State.deriveKeys (s : State) : State :=
  if !s.slotFilled 0 then { s with chest := { s.chest with lock0 := true } } else
  let uds := s.slotBytes 0 48
  let z := zeros 48
  let num := fun (b : Bytes) => BitVec.ofNat 1024 (leNat b)
  let cdi := Config.hkdf384 uds (le 48 s.boot.fwDigest.toNat) (ascii "axulo cdi v1" ++ le 1 s.flash.lifecycle) 48
  let devid := keygenP384 (Config.hkdf384 uds z (ascii "axulo devid v1") 48)
  let fabric := keygenP384 (Config.hkdf384 uds z (ascii "axulo fabric v1") 48)
  let unwrap := Config.hkdf384 uds z (ascii "axulo unwrap v1") 32
  let alias_ := keygenP384 (Config.hkdf384 cdi z (ascii "axulo alias v1") 48)
  let t := s.fillSlot 1 (slotAttr 6 0 0 true false 1 lcWork) (num cdi)
  let t := t.fillSlot 2 (slotAttr 4 0 0 true false 1 lcWork) (BitVec.ofNat 1024 devid)
  let t := t.fillSlot 3 (slotAttr 4 0 0 true false 2 lcWork) (BitVec.ofNat 1024 alias_)
  let t := t.fillSlot 4 (slotAttr 4 0 0 true false 2 lcWork) (BitVec.ofNat 1024 fabric)
  let t := t.fillSlot 5 (slotAttr 3 0 0 true false 32 lcWork) (num unwrap)
  { t with chest := { t.chest with lock0 := true, identity := Config.sha384 (Config.p384Pub (BitVec.ofNat 384 devid)) } }

/-- Bytes of a survey entry's FabricID key that is the module's own. -/
def State.ownFabric (s : State) : Bytes := (Config.p384Pub ((s.slotVal 4).setWidth 384)).drop 1

/-- The signature of a survey verifies under slot 10, or under slot 8 while slot 10 is empty or the module is MANUFACTURED (R287). -/
def State.surveySigned (b : Bytes) (s : State) : Bool :=
  let slot := if !s.slotFilled 10 || s.flash.lifecycle == 1 then 8 else 10
  let n := b.length - 96
  s.slotFilled slot && Config.ecdsaVerify (s.slotBytes slot 97) (b.take n) (b.drop n)

/-- The module ID that a survey gives this module (R288). -/
def State.idIn (v : Survey) (s : State) : Nat :=
  match v.entries.find? fun e => e.2.2.2 == s.ownFabric with | some e => e.1 | none => 16383

/-- The boot ROM reads the stored survey (R288). -/
def State.readSurvey (s : State) : State :=
  match s.flash.survey with
  | none => s
  | some v =>
    if s.flash.surveyBad || !s.surveySigned v.bytes then s.evSettingsBad 2 2
    else { s with boot := { s.boot with survey := some v, moduleId := s.idIn v } }

/-- The boot ROM reads the stored settings (R275, R276). -/
def State.readSettings (s : State) : State :=
  let bad := s.flash.settingsBad
  let r := if bad then { Settings.reset with profile := s.flash.fusedProfile } else s.flash.settings
  let t := { s with boot := { s.boot with
    profile := if r.profile = 1 then .enduring else .integrated
    early := r.early
    surveyWait := r.surveyWait
    settingsCounter := r.counter } }
  if bad then t.evSettingsBad 0 0 else t

/-- Unit states at the start of the cold path (R285): working units wait for their tests; a plat whose tag failed is rebuilt from the fuses. -/
def State.platCold (s : State) : State :=
  let p := if s.plat.tagBad then platFused s.plat else s.plat
  let t := { s with plat := { p with
    tagBad := false
    revision := (p.revision + 1) % 2 ^ 32
    cold := true
    pending := []
    clusters := p.clusters.map fun c => if c.state = 0 || c.state = 1 then { c with state := 4 } else c
    subchs := p.subchs.map fun x => if x = 0 || x = 1 then 4 else x } }
  if s.plat.tagBad then t.evSettingsBad 1 1 else t

/-- The highest working cluster of a die: in state 0 or 1 now. -/
def State.spareOf (clusters : Bool) (die : Nat) (s : State) : Option Nat :=
  ((List.range 16).map (16 * die + ·)).reverse.find? fun u =>
    let st := if clusters then (s.platCluster u).state else s.plat.subchs.getD u 2
    st == 0 || st == 1

/-- `EV_PLAT_CHANGE` (Table 13.9): unit kind 0 cluster, 1 subchannel, 2 link, 3 bench (its cluster, with the masks). -/
def State.evPlat (kind unitId old new : Nat) (s : State) : State :=
  (s.evOpen 0x1302 [s.plat.revision, kind, unitId, old, new]).evMgmt 0x1302 [s.plat.revision, kind, unitId, old, new]

/-- The value that a plat change replaces, by the kinds of `platPend`. -/
def State.platOld (kind u : Nat) (s : State) : Nat :=
  match kind with
  | 0 => (s.platCluster u).state
  | 1 => s.plat.subchs.getD u 2
  | 2 => (s.platCluster u).benchMask.toNat
  | 3 => (s.plat.lanesRetired.getD u 0).toNat
  | _ => s.plat.links.getD u 0

/-- A plat change takes effect (R284, R285): `REVISION` rises, and the change is reported. -/
def State.platSet (kind u v : Nat) (s : State) : State :=
  let old := s.platOld kind u
  if old = v then s else
  let p := s.plat
  let p := match kind with
    | 0 => { p with clusters := p.clusters.modify u fun c => { c with state := v } }
    | 1 => { p with subchs := p.subchs.set u v }
    | 2 => { p with clusters := p.clusters.modify u fun c => { c with benchMask := BitVec.ofNat 64 v } }
    | 3 => { p with lanesRetired := p.lanesRetired.set u (BitVec.ofNat 4 v) }
    | _ => { p with links := p.links.set u v }
  let t := { s with plat := { p with revision := (p.revision + 1) % 2 ^ 32 } }
  t.evPlat (match kind with | 0 => 0 | 1 => 1 | 2 => 3 | _ => 2) u old v

/-- Reserve one die's spare of a kind in the enduring profile (R276): every other working unit of it is in use. -/
def State.reserveOn (clusters : Bool) (s : State) (die : Nat) : State :=
  let kind := if clusters then 0 else 1
  match s.spareOf clusters die with
  | none => if s.enduring then s.evPlat kind (16 * die + 15) 2 2 else s
  | some n =>
    (span (16 * die) 16).foldl (fun t u =>
      if 1 < t.platOld kind u then t else t.platSet kind u (b2n (s.enduring && u == n))) s

/-- Reserve the spares of every die (R276); in the integrated profile every working unit is in use. -/
def State.reserveSpares (s : State) : State :=
  (List.range 4).foldl (State.reserveOn false) ((List.range 4).foldl (State.reserveOn true) s)

/-- The boot stops (R279, R357). -/
def State.bootStop (stage cause : Nat) (s : State) : State :=
  let w := faultWord 4 4 cause
  let t := s.raiseFault w
  { t with
    boot := { t.boot with stage := stage, stopWord := w }
    faults := { t.faults with mgmtWord := w } }

/-- Blobs that fail their tags are treated as destroyed (R227). -/
def State.openBlobs (s : State) : State :=
  let t := s.chest.badBlobs.foldl (fun t i => t.destroySlot i .blob) s
  { t with chest := { t.chest with badBlobs := [] } }

/-- The boot ROM's work once the hub has passed its test: settings, firmware, keys, survey, plat (R277, R311). -/
def State.bootRom (s : State) : State :=
  let t := s.openBlobs.readSettings
  match t.fwChoice with
  | .error cause => t.bootStop 0x02 cause
  | .ok b =>
    let c := if b then t.flash.fwB else t.flash.fwA
    let t := { t with boot := { t.boot with
      fwRunB := b
      fwDigest := c.digest
      fwCounter := c.counter
      fwVersion := c.version } }
    let t := t.deriveKeys.readSurvey
    let t := if t.boot.cold then t.platCold else t.reserveSpares
    t.closeAbrupt

/-- A module reset (R277, R305): nothing of the module's work survives; the boot generation rises, both noise sources begin their start-up tests, and the
boot ROM runs. On the cold path the hub is tested first. -/
def State.reboot (ordered hubOk : Bool) (s : State) : State :=
  let cold := s.takesCold ordered
  let t := s.wiped
  let t := { t with
    flash := { t.flash with bootGen := (s.flash.bootGen + 1) % 2 ^ 32, warmRow := if cold then 0 else s.flash.warmRow + 1 }
    boot := { t.boot with cold := cold, stage := 0x01 }
    entropy := { t.entropy with
      primary := { Source.reset with state := 1 }
      fallback := { Source.reset with state := 1 } } }
  if cold && !hubOk then t.bootStop 0xF0 fcHubTest else t.bootRom

/-- The function's event and response queues go out while its ring has room. -/
def State.flushRing (n : Nat) : Nat → State → State
  | 0, s => s
  | k + 1, s => match execResponseWrite n s with | .next t => State.flushRing n k t | _ => s

/-- What waits for the drawers goes out as far as their rings have room (R305). -/
def State.flushRings (s : State) : State :=
  (List.range 17).foldl (fun t n => t.flushRing n ((t.fn n).responses.length + (t.fn n).events.length)) s

/-- The module powers down: only what survives a loss of power is left (R336, R352). -/
def State.powerDown (s : State) : State :=
  let t := s.flushRings.wiped
  { t with power := { t.power with off := true } }

/-! Bring-up (R277 to R283). -/

/-- R277. Ebxel starts: the chain timer free-runs from chain 0, and a demand window opens. -/
def execEbxelStart (s : State) : Host.Outcome State Fault Refusal :=
  .next (if !s.power.off && s.boot.stage = 0x01 && s.entropy.instantiated && !s.boot.railFailed then
    { s with
      boot := { s.boot with stage := 0x10 }
      clock := { s.clock with running := true, chain := 0, rod := 0, reserve := false }
      power := { s.power with openRec := MeterRec.reset, recOpen := true, savedRec := MeterRec.reset } }
  else s)

/-- The chain timer runs and bring-up goes on. -/
def State.bringing (s : State) : Bool := s.clock.running && !s.boot.railFailed && 0x10 ≤ s.boot.stage && s.boot.stage ≤ 0x40

/-- R349. A compute die's core rail comes up in its turn, and its stations begin training. -/
def execDiePowerUp (die : Nat) (s : State) : Host.Outcome State Fault Refusal :=
  .next (if s.bringing && die = s.boot.diesUp && die < 4 then
    let t := { s with boot := { s.boot with diesUp := die + 1 } }
    (span (12 * die) 12).foldl (fun t l => if t.mayTrain l then t.enterTraining l .training else t) t
  else s)

/-- R280. A wave wakes: its clusters that are not failed or retired get power. Without tests it counts at once (Table 13.3). -/
def execWaveWake (wave : Nat) (s : State) : Host.Outcome State Fault Refusal :=
  .next (if s.bringing && s.boot.diesUp = 4 && wave = s.boot.wavesAwake + 1 && wave ≤ 8 then
    let up := (List.range 64).filter fun c => waveOf c == wave && [0, 1, 4].contains (s.platCluster c).state
    let t := s.modClusters up fun k => { k with awake := true }
    { t with boot := { t.boot with
      wavesAwake := wave
      waves := if t.boot.cold then t.boot.waves else wave
      stage := if t.boot.stage = 0x10 then 0x20 else t.boot.stage } }
  else s)

/-- Every unit is tested, and every subchannel in use trained and filled (Tables 13.2, 13.3). -/
def State.unitsReady (s : State) : Bool := s.boot.waves == 8 && (List.range 16).all fun d => s.boot.devicesReady.contains d

/-- Stage 0x40 begins once every unit is ready, after early service if it is configured (R278); spares are chosen after the cold tests (R276). -/
def State.toStage40 (s : State) : State :=
  if s.unitsReady && (s.boot.stage = 0x30 || (s.boot.stage = 0x20 && !s.boot.early)) then
    { s with
      boot := { s.boot with stage := 0x40, stage40 := s.now, sparesDue := s.boot.cold }
      plat := { s.plat with coldBoots := s.plat.coldBoots + b2n s.boot.cold } }
  else s

/-- A test's result for a unit, which takes effect at the next chain boundary (R285). -/
def State.tested (kind unitId : Nat) (failed : Bool) (s : State) : State := s.platPend kind unitId (if failed then 2 else 0)

/-- R285. A wave's cold tests finish: failed clusters go to state 2, failed benches leave their masks, and `WAVES` advances. -/
def execWaveTestDone (wave : Nat) (failed : List Nat) (failedBenches : List (Nat × Nat)) (s : State) : Host.Outcome State Fault Refusal :=
  .next (if s.bringing && s.boot.cold && wave = s.boot.waves + 1 && wave ≤ s.boot.wavesAwake then
    let mine := (List.range 64).filter fun c => waveOf c == wave && (s.platCluster c).state == 4
    let t := mine.foldl (fun t c =>
      let gone := (failedBenches.filter fun b => b.1 == c && b.2 < 64).map (·.2)
      let t := if gone.isEmpty then t else t.platPend 2 c ((s.platCluster c).benchMask.toNat &&& (2 ^ 64 - 1 - maskOf gone))
      t.tested 0 c (failed.contains c)) s
    { t with boot := { t.boot with waves := wave } }.toStage40
  else s)

/-- R278. A memory device is trained, on the cold path tested, and filled. The first device of a die needs its die's power; a subchannel that fails
leaves service. -/
def execDeviceReady (device : Nat) (failed : List Nat) (s : State) : Host.Outcome State Fault Refusal :=
  .next (if s.bringing && 0 < s.boot.wavesAwake && device < 16 && !s.boot.devicesReady.contains device then
    let t := (span (4 * device) 4).foldl (fun t x =>
      let st := s.plat.subchs.getD x 2
      if s.boot.cold then (if st = 4 then t.tested 1 x (failed.contains x) else t)
      else if failed.contains x && st ≤ 1 then t.platPend 1 x 3 else t) s
    { t with boot := { t.boot with devicesReady := t.boot.devicesReady ++ [device] } }.toStage40
  else s)

/-- R282. With `EARLY` set, early service begins once wave 1 is in service and the first device of each die is ready. -/
def execEarlyService (s : State) : Host.Outcome State Fault Refusal :=
  .next (if s.bringing && s.boot.early && s.boot.stage = 0x20 && 1 ≤ s.boot.waves && [0, 4, 8, 12].all (s.boot.devicesReady.contains ·) then
    ({ s with boot := { s.boot with stage := 0x30 } }.openHeldDrawers).toStage40
  else s)

/-! Agreement and ready (R290, R291). -/

/-- The links that the module's entry names. -/
def State.linkMask (s : State) : List Nat :=
  match s.surveyEntry s.boot.moduleId with | some e => bitsOf 48 e.2.1 | none => []

/-- A link has settled (R290). -/
def State.settled (l : Nat) (s : State) : Bool := [1, 3, 4, 5].contains (s.link l).state

/-- The own entry says `SOLITARY`. -/
def State.solitary (s : State) : Bool := match s.surveyEntry s.boot.moduleId with | some e => bit 1 e.1 | none => false

/-- What breaks agreement, as the reason bits of `EV_SURVEY_MISMATCH` (R290, Table 13.9); zero when topology agrees. -/
def State.disagreement (s : State) : Nat :=
  let noEntry := s.boot.moduleId == 16383 || (s.surveyEntry s.boot.moduleId).isNone
  let miswired := (List.range 48).any fun l => (s.link l).state == 4
  let alone := !s.solitary && !s.linkMask.any fun l => (s.link l).state == 1
  let aligned := s.solitary || s.marker.isMaster || (s.marker.source.isSome && s.marker.state == 0)
  b2n noEntry + 2 * b2n miswired + 4 * b2n alone + 8 * b2n !aligned

/-- The module becomes ready (R291): the clock rises, held drawers open. -/
def State.becomeReady (s : State) : State :=
  let t := if s.solitary && !s.marker.isMaster then s.takeMastership else s
  let t := { t with
    boot := { t.boot with stage := 0x50, ready := true }
    flash := { t.flash with warmRow := 0 }
    faults := { t.faults with trayCycles := 0 } }
  let t := t.openHeldDrawers
  let d := [t.now, b2n t.boot.cold, t.clustersInUse, t.subchsInUse, t.parcelsMax]
  (t.evOpen 0x1304 d).evMgmt 0x1304 d

/-- Disagreement is reported, at most once per `SURVEY_WAIT` chains (R291). -/
def State.reportMismatch (s : State) : State :=
  let due : Bool := match s.boot.mismatchChain with | some c => decide (c + s.boot.surveyWait ≤ s.now) | none => true
  if due then
    let miswired := (List.range 48).filter fun l => (s.link l).state == 4
    let absent := s.linkMask.filter fun l => [0, 3, 5].contains (s.link l).state
    let d := [s.now, s.disagreement, maskOf miswired, maskOf absent]
    ({ s with boot := { s.boot with mismatchChain := some s.now } }.evPf 0x1301 d).evMgmt 0x1301 d
  else s

/-- R290, R291. Agreement is judged at a chain boundary in stage 0x40: when every link of the entry has settled or `SURVEY_WAIT` is over, and from
then on again. -/
def execTopologyJudge (s : State) : Host.Outcome State Fault Refusal :=
  .next (if s.clock.running && s.boot.stage = 0x40 && s.clock.rod = 0 && s.boot.stage40 ≠ s.now
      && (s.boot.judged || s.linkMask.all s.settled || s.boot.stage40 + s.boot.surveyWait ≤ s.now) then
    let t := { s with boot := { s.boot with judged := true } }
    if t.disagreement = 0 then t.becomeReady else t.reportMismatch
  else s)

end Sys2Proof.Machine
end

