-- ==== Sys2Proof/Machine/Bounce.lean ====
section
/-! DEFINITION. The bounce channels: `BOUNCE_IN_RECORD`, `BOUNCE_OUT_RECORD`, `BOUNCE_MAP_EFFECT`, and the index block (R211 to R213, R217). -/

namespace Sys2Proof.Machine

/-- The mapping through which VF `n` moves records now: it belongs to the open session, and the parcel is `ATTACHED` (R213, R217). -/
def State.channel (n : Nat) (s : State) : Option (BounceMap × Bounce) :=
  let f := s.fn n
  match f.bounce.map with
  | some m => if n ≠ 0 && f.present && f.session && f.bounce.live && (s.parcel (parcelOf n)).state == 2
      && !(s.parcel (parcelOf n)).refusing then some (m, f.bounce) else none
  | none => none

/-- Bytes 0 to 23 of a bounce record, the additional data of its seal (R212). -/
def recordHead (r : BounceRec) : Bytes :=
  cat [le 4 r.magic, le 1 r.version, le 1 r.channel, le 1 r.status, le 1 r.reserved, le 8 r.seq, le 4 r.payloadBytes, le 4 r.user]

/-- The 64 header bytes of a bounce record (Table 9.9). -/
def recordHeader (r : BounceRec) : Bytes := recordHead r ++ le 40 r.reservedTail

/-- The nonce of a bounce record (R212): 4 for IN, 5 for OUT. -/
def bounceNonce (kind seq : Nat) : Bytes := le 4 kind ++ le 8 seq

/-- IN records placed and not yet freed (R213). -/
def State.placed (p : Nat) (m : BounceMap) (b : Bounce) (s : State) : Int :=
  (BitVec.ofNat 32 (b.inHead - b.inBase) - (s.stakeVal p m.inFree - b.freeBase)).toInt

/-- The port takes the next IN record now (R213). -/
def State.inDue (p : Nat) (m : BounceMap) (b : Bounce) (s : State) : Bool :=
  b.inHead < b.inTail && s.placed p m b < m.inSlots

/-- A record passes the checks of the IN channel (R213), under `K_IN`. -/
def State.inRecordOk (p : Nat) (m : BounceMap) (b : Bounce) (r : BounceRec) (s : State) : Bool :=
  r.magic == 0x0A5EB0C1 && r.version == 1 && r.channel == 0 && r.seq == b.inHead && r.payloadBytes ≤ m.stride - 80
    && r.payload.length == r.payloadBytes
    && Config.gcmTag (s.slotKey (parcelSlot p 3)) (bounceNonce 4 r.seq) (recordHead r) r.payload == r.tag

/-- Write bytes to the bounce area, whose bytes lie under the parcel's memory key (R212). -/
def State.areaWrite (p : Nat) (m : BounceMap) (a : Nat) (b : Bytes) (s : State) : State := s.extWrite false p (m.areaOff + a) b

/-- A signal of the host port to a channel stake of the mapping's context (R213). -/
def State.channelSignal (p : Nat) (m : BounceMap) (stake : Nat) (s : State) : State := s.signalCtx p m.context stake 1

/-- R213. The port takes IN record `IN_HEAD`: cleartext to the area, or a failed record's header marked discarded. -/
def execBounceInRecord (vf : Nat) (r : BounceRec) (s : State) : Host.Outcome State Fault Refusal :=
  .next (match s.channel vf with
    | some (m, b) =>
      let p := parcelOf vf
      if s.inDue p m b then
        let good := s.inRecordOk p m b r
        let clear := gcmOpen (s.slotKey (parcelSlot p 3)) (bounceNonce 4 r.seq) (recordHead r) r.payload
        let bytes := if good then recordHeader { r with status := 0 } ++ (clear ++ zeros (r.payload.length - clear.length)).take r.payload.length
          else recordHeader { r with status := 1, payloadBytes := 0 }
        let t := (s.areaWrite p m (b.inHead % m.inSlots * m.stride) bytes).channelSignal p m m.inReady
        t.modFn vf fun f => { f with bounce := { f.bounce with
          inHead := b.inHead + 1
          inBad := b.inBad + b2n (!good)
          moved := true } }
      else s
    | none => s)

/-- The port takes the next OUT record now (R213). -/
def State.outDue (p : Nat) (m : BounceMap) (b : Bounce) (s : State) : Bool :=
  waitMet (s.stakeVal p m.outReady - b.readyBase) (BitVec.ofNat 32 (b.outTail - b.outBase + 1)) && b.outTail < b.outHead + m.outSlots

/-- An OUT record as it goes to host memory: header filled in, sealed under `K_OUT` (R212, R213). -/
def State.outRecord (p seq user : Nat) (clear : Bytes) (s : State) : BounceRec :=
  let h : BounceRec := ⟨0x0A5EB0C1, 1, 1, 0, 0, seq, clear.length, user, 0, [], 0⟩
  let k := s.slotKey (parcelSlot p 4)
  let ct := gcmSeal k (bounceNonce 5 seq) (recordHead h) clear
  { h with payload := ct, tag := Config.gcmTag k (bounceNonce 5 seq) (recordHead h) ct }

/-- R213. The port takes OUT record `OUT_TAIL`: sealed and written to the host, or refused and counted when it is too long; a refused record
uses up its rise of `OUT_READY` and no `SEQ` (DEDUCED, log entry 20). -/
def execBounceOutRecord (vf : Nat) (s : State) : Host.Outcome State Fault Refusal :=
  .next (match s.channel vf with
    | some (m, b) =>
      let p := parcelOf vf
      if s.outDue p m b then
        let a := m.areaOff + m.inSlots * m.stride + b.outTail % m.outSlots * m.stride
        let n := leNat (s.extRead p (a + 16) 4)
        if m.stride - 80 < n then
          s.modFn vf fun f => { f with bounce := { f.bounce with outBad := b.outBad + 1, readyBase := b.readyBase + 1 } }
        else
          let r := s.outRecord p b.outTail (leNat (s.extRead p (a + 20) 4)) (s.extRead p (a + 64) n)
          let t := (s.emit (.outRecord vf r)).channelSignal p m m.outFree
          t.modFn vf fun f => { f with bounce := { f.bounce with outTail := b.outTail + 1, moved := true } }
      else s
    | none => s)

/-- R211. A later mapping of the session takes effect at the chain boundary, once no record is in transfer. -/
def execBounceMapEffect (vf : Nat) (s : State) : Host.Outcome State Fault Refusal :=
  .next (match s.channel vf with
    | some (_, b) =>
      match b.next with
      | some m => if s.clock.rod = 0 && !b.moved then s.modFn vf fun f => { f with bounce := s.mapBases (parcelOf vf) m f.bounce } else s
      | none => s
    | none => s)

/-- The module writes the index block of each VF of which it moved a record in the rod that ends (R213). -/
def State.writeIndex (s : State) : State :=
  (List.range 17).foldl (fun t n =>
    let b := (t.fn n).bounce
    if b.moved then
      (t.emit (.indexBlock n b.inHead b.outTail t.now)).modFn n fun f => { f with bounce := { f.bounce with moved := false } }
    else t) s

/-- The host port reads the index block of each mapped VF once per rod (R213). -/
def State.readIndex (idx : List (Nat × Nat × Nat)) (s : State) : State :=
  idx.foldl (fun t x =>
    match t.channel x.1 with
    | some _ => t.modFn x.1 fun f => { f with bounce := { f.bounce with inTail := x.2.1, outHead := x.2.2 } }
    | none => t) s

/-- Bad records are reported once per chain, to the VF (R213). -/
def State.bounceBad (s : State) : State :=
  (List.range 17).foldl (fun t n =>
    let b := (t.fn n).bounce
    if b.inBad = b.inBadSeen && b.outBad = b.outBadSeen then t else
      (t.evFn n 0x0902 [t.now, b.inBad - b.inBadSeen, b.outBad - b.outBadSeen]).modFn n fun f =>
        { f with bounce := { f.bounce with inBadSeen := b.inBad, outBadSeen := b.outBad } }) s

end Sys2Proof.Machine
end

