-- ==== Sys2Proof/Machine/Contexts.lean ====
section
/-! DEFINITION. `context.start`, `context.stop`, `context.seed`, `context.status` (R41, R64, R87, R219, R251, R299). -/

namespace Sys2Proof.Machine

/-- The context with a start accepted: its `LATE_LIMIT` is set, 64 for 0 (R41). -/
def Context.starting (limit : Nat) (x : Context) : Context :=
  { x with pendStart := true, lateLimit := if limit = 0 then 64 else limit }

/-- R251, R64. `context.start`: the image's stakes are allocated and zeroed, and the context starts at the next chain boundary. -/
def execContextStart (fn : Nat) (s : State) : Host.Outcome State Fault Refusal :=
  .next (s.runDrawer fn 0x32 fun t s => t.withPayload 8 fun b =>
    if !allZero (cut 1 1 b) || !allZero (b.drop 4) then .no stReserved
    else s.gated fn 0x32 false true <|
      let p := parcelOf fn
      let c := fld 0 1 b
      let x := s.ctx p c
      guarded (s.parcelRefuses p false) <| guarded [(8 ≤ c || 1024 < fld 2 2 b, stArg), (x.state ≠ 1 || x.pendUnload, stContextState), (x.pendStart, stBusy)] <|
        let u := s.modCtx p c (Context.starting (fld 2 2 b))
        .done [] (match x.image with | some i => u.allocStakes p c i.stakes | none => u))

/-- R251. `context.stop`: a started context stops at the next chain boundary. -/
def execContextStop (fn : Nat) (s : State) : Host.Outcome State Fault Refusal :=
  .next (s.runDrawer fn 0x33 fun t s => t.withPayload 8 fun b =>
    if !allZero (b.drop 1) then .no stReserved
    else s.gated fn 0x33 false true <|
      let p := parcelOf fn
      let c := fld 0 1 b
      guarded (s.parcelRefuses p false) <| guarded [(8 ≤ c, stArg), (!(s.ctx p c).started, stContextState), ((s.ctx p c).pendStop, stBusy)] <|
        .done [] (s.modCtx p c fun x => { x with pendStop := true }))

/-- R87, R251. `context.seed`: the rounding seed takes effect at the next chain boundary. -/
def execContextSeed (fn : Nat) (s : State) : Host.Outcome State Fault Refusal :=
  .next (s.runDrawer fn 0x34 fun t s => t.withPayload 40 fun b =>
    if !allZero (cut 1 7 b) then .no stReserved
    else s.gated fn 0x34 false true <|
      let p := parcelOf fn
      let c := fld 0 1 b
      let st := (s.ctx p c).state
      guarded (s.parcelRefuses p false) <| guarded [(8 ≤ c, stArg), (st ≠ 1 && st ≠ 2, stContextState)] <|
        .done [] (s.modCtx p c fun x => { x with seedSet := true, pendSeed := some (BitVec.ofNat 256 (fld 8 32 b)) }))

/-- The per-cluster part of `context.status` (Table 9.12). -/
def State.clusterStatus (p c k : Nat) (s : State) : Bytes :=
  let u := s.lead p k
  let x := (s.ctx p c).on k
  cat [le 32 (u.satMapOf c), le 4 x.satCount, le 4 u.leafHolds, le 4 x.contrib, zeros 20,
    (List.range 128).flatMap fun j => le 4 (match tget j u.stakes with | some t => t.value.toNat | none => 0)]

/-- `context.status` response (Table 9.12). -/
def State.contextStatus (p c : Nat) (s : State) : Bytes :=
  let x := s.ctx p c
  cat [le 1 x.state, le 1 (b2n x.seedSet), le 2 x.lateRun, le 4 x.overruns, le 4 x.repeats,
    le 4 (if x.state = 5 then x.fault.toNat else 0), le 8 s.now, x.discards.flatMap (le 4), zeros 8,
    (List.range (if x.state = 0 then 0 else x.width)).flatMap fun k => s.clusterStatus p c k]

/-- R219. `context.status`. -/
def execContextStatus (fn : Nat) (s : State) : Host.Outcome State Fault Refusal :=
  .next (s.runDrawer fn 0x35 fun t s => t.withPayload 8 fun b =>
    if !allZero (b.drop 1) then .no stReserved
    else s.gated fn 0x35 false true <|
      guarded [(8 ≤ fld 0 1 b, stArg)] <| .done (s.contextStatus (parcelOf fn) (fld 0 1 b)) s)

end Sys2Proof.Machine
end

