-- ==== Sys2Proof/Machine/Entropy.lean ====
section
/-! DEFINITION. Noise sources, the hub DRBG, cluster generators, and the factory's fuse programming (R231, R264 to R273). -/

namespace Sys2Proof.Machine

/-- The estimate record of a source (Table 12.2). -/
def sourceBytes (fallback : Bool) (x : Source) : Bytes :=
  cat [le 1 (b2n fallback), le 1 x.state, zeros 2, le 4 x.ones, le 4 x.equalPairs, le 4 x.rctFails, le 4 x.aptFails, le 4 x.maxRun, le 8 x.chain]

/-- A source's estimates over its last 2^20 raw bits, at the chain now (R267): what noise gives is a free value within the counts' bounds. -/
def Source.estimated (now : Nat) (d : BitVec 1024) (x : Source) : Source :=
  if x.state = 0 then x else
  { x with
    ones := d.toNat % (2 ^ 20 + 1)
    equalPairs := d.toNat / 2 ^ 32 % 2 ^ 20
    maxRun := d.toNat / 2 ^ 64 % 2 ^ 20 + 1
    chain := now }

/-- The estimate record of a source is formed (R267). -/
def State.estimate (fallback : Bool) (s : State) : State :=
  let e := s.entropy
  { s with
    draws := s.draws + 1
    entropy := if fallback then { e with fallback := e.fallback.estimated s.now s.fresh } else { e with primary := e.primary.estimated s.now s.fresh } }

/-- `EV_ENTROPY_SOURCE` with a source's record (R266, R267). -/
def State.evEntropy (fallback : Bool) (s : State) : State :=
  let s := s.estimate fallback
  let x := if fallback then s.entropy.fallback else s.entropy.primary
  let d := [b2n fallback, x.state, x.ones, x.equalPairs, x.rctFails, x.aptFails, x.maxRun, x.chain]
  (s.evPf 0x1201 d).evMgmt 0x1201 d

/-- Select the fallback (R266): it runs its start-up test, unless it has failed. -/
def Entropy.toFallback (e : Entropy) : Entropy :=
  if e.fallback.state = 4 then e else { e with fallback := { e.fallback with state := 1 } }

/-- A source is in use, or the test pattern stands in for it (R264, R268). -/
def Entropy.live (e : Entropy) : Bool := e.pattern.isSome || e.primary.state == 2 || e.fallback.state == 2

/-- The primary is marked failed (R266): the fallback is selected, and the event is raised. -/
def State.primaryFailed (s : State) : State :=
  let e := s.entropy
  { s with entropy := { e with
    primary := { e.primary with state := 4 }
    retestChain := s.now
    selectNext := false }.toFallback }.evEntropy false

/-- A failed health test is counted (R267). -/
def Source.failed (rct : Bool) (x : Source) : Source :=
  if rct then { x with rctFails := x.rctFails + 1 } else { x with aptFails := x.aptFails + 1 }

/-- R266, R268. A continuous health test of a running source fails: the source is marked failed, and for the primary the fallback is selected. While the test
pattern is in effect the result is reported and not acted on. -/
def execHealthTestFail (primary rct : Bool) (s : State) : Host.Outcome State Fault Refusal :=
  let e := s.entropy
  let x := if primary then e.primary else e.fallback
  .next (if x.state = 0 || x.state = 4 then s else
    let t := { s with entropy := if primary then { e with primary := x.failed rct } else { e with fallback := x.failed rct } }
    if e.pattern.isSome then t.evEntropy (!primary)
    else if primary then t.primaryFailed
    else { t with entropy := { t.entropy with fallback := { t.entropy.fallback with state := 4 } } }.evEntropy true)

/-- R266. Once every 32,768 chains the failed primary is retested; if it passes it is selected again at the next chain boundary. -/
def execPrimaryRetest (pass : Bool) (s : State) : Host.Outcome State Fault Refusal :=
  .next (let e := s.entropy
    if e.primary.state = 4 && e.retestChain + 32768 ≤ s.now then
      { s with entropy := { e with
        retestChain := s.now
        primary := if pass then { e.primary with state := 3 } else e.primary
        selectNext := pass } }
    else s)

/-- At a chain boundary a primary that passed its retest is selected again (R266), and a test pattern takes effect (R273). -/
def State.entropyBoundary (s : State) : State :=
  let e := s.entropy
  let t := if e.selectNext && e.primary.state = 3 then
      { s with entropy := { e with
        primary := { e.primary with state := 2 }
        fallback := if e.fallback.state = 4 then e.fallback else { e.fallback with state := 3 }
        selectNext := false } }.evEntropy false
    else s
  match t.entropy.pendPattern with
  | some k => { t with entropy := { t.entropy with pattern := some k, pendPattern := none } }
  | none => t

/-- R269. The hub DRBG reseeds: when 1,024 chains or 2^20 requests are over, or on a request from management. Without entropy it produces nothing until
a reseed succeeds. -/
def execHubReseed (ok : Bool) (s : State) : Host.Outcome State Fault Refusal :=
  .next (let e := s.entropy
    if e.instantiated && (e.reseedDue || e.stalled || e.lastReseed + 1024 ≤ s.now || 2 ^ 20 ≤ e.requests) then
      if ok && e.live then
        { s with entropy := { e with lastReseed := s.now, requests := 0, reseedDue := false, stalled := false } }
      else { s with entropy := { e with stalled := true } }
    else s)

/-- R270. The generator of a cluster of the running context reseeds from the hub every 1,024 chains; one whose reseed fails draws no more noise. -/
def execClusterGeneratorReseed (p k : Nat) (ok : Bool) (s : State) : Host.Outcome State Fault Refusal :=
  .next (match s.runner p with
    | some (c, x) =>
      match (x.on k).generator with
      | some n =>
        if k < x.width && n + 1024 ≤ s.now then
          let good := ok && s.canDraw
          (s.modCtx p c (Context.modOn k fun y => { y with generator := if good then some s.now else none })).drawnMany (b2n good)
        else s
      | none => s
    | none => s)

/-- The DRBG is instantiated, and the keys that are drawn at every boot are drawn: the spill key, the fill key, the interleave key (R257, R269, R278,
Table 10.1). -/
def State.instantiate (s : State) : State :=
  let spill := s.fresh.setWidth 256
  let t := s.drawn.fillSlot 6 (slotAttr 1 0 0 true false 8 lcWork) (spill.setWidth 1024)
  let fill : Key := t.fresh.setWidth 256
  let t := t.drawn
  let hash : Key := t.fresh.setWidth 256
  let t := t.drawn
  { t with
    boot := { t.boot with fillKey := fill, hashKey := hash }
    entropy := { t.entropy with instantiated := true, stalled := false, lastReseed := t.now, requests := 0 } }

/-- A source that has passed goes into use, or stands by (R264, R265). -/
def Entropy.passed (primary : Bool) (e : Entropy) : Entropy :=
  if primary then { e with primary := { e.primary with state := 2 } }
  else { e with fallback := { e.fallback with state := if e.primary.state = 4 then 2 else 3 } }

/-- R265. A start-up test ends: the source is put in use or stands by, or is marked failed. The first source in use instantiates the DRBG; when both
have failed in the boot ROM, the boot stops in 0xF0 (R279). -/
def execStartUpTestEnd (primary pass : Bool) (s : State) : Host.Outcome State Fault Refusal :=
  .next (let e := s.entropy
    let x := if primary then e.primary else e.fallback
    if x.state ≠ 1 then s
    else if pass then
      let t := { s with entropy := e.passed primary }
      if !e.instantiated && t.entropy.live then t.instantiate else t
    else
      let t := if primary then s.primaryFailed
        else { s with entropy := { e with fallback := { e.fallback with state := 4 } } }.evEntropy true
      if t.boot.stage = 0x01 && t.entropy.primary.state = 4 && t.entropy.fallback.state = 4 then t.bootStop 0xF0 fcNoEntropy else t)

/-- R231, Table 10.1. Factory fuse programming takes the module from BLANK to MANUFACTURED: the UDS is drawn from the live source, Vutawen's two authorities
are installed, and a cold reset follows (R232). -/
def execFactoryFuseProgramming (s : State) : Host.Outcome State Fault Refusal :=
  .next (if s.flash.lifecycle = 0 && s.canDraw && s.entropy.live && s.entropy.pattern.isNone then
    let uds := s.fresh.setWidth 384
    let t := s.drawn.fillSlot 0 (slotAttr 6 0 0 true false 1 lcWork) (uds.setWidth 1024)
    let k8 := t.fresh
    let t := (t.drawn.fillSlot 8 (slotAttr 5 0 0 false true 0x23 lcWork) (k8.setWidth 776 |>.setWidth 1024)).keepBlob 8
    let k9 := t.fresh
    let t := (t.drawn.fillSlot 9 (slotAttr 5 0 0 false true 0x23 lcWork) (k9.setWidth 776 |>.setWidth 1024)).keepBlob 9
    let t := { t with flash := { t.flash with lifecycle := 1 } }
    let t := (t.evPf 0x1002 [0, 1, 0]).evMgmt 0x1002 [0, 1, 0]
    { t with faults := { t.faults with order := some (s.now, true) } }
  else s)

end Sys2Proof.Machine
end

