-- ==== Sys2Proof/Machine/Operations.lean ====
section
/-! DEFINITION. The catalog operations but `FOLD`: `MASK_EXPAND`, `NTT_FWD`, `NTT_INV`, `KEYSWITCH`, `REFRESH_LUT`, `CLIP_L2`, `SUMSQ`, `MEANVAR`,
`NOISE_GAUSS`, `DECODE_CENTER`, `APPLY_STEP`, `MATMUL`, `SEED_RECOVER`, `PAIR_SEED` (R98 to R112). -/

namespace Sys2Proof.Machine

/-- Row `r` of the logical cluster. -/
def State.rowOf (p k r : Nat) (s : State) : Row := (s.lead p k).row r

/-- The modulus that a `RING32` or `RESIDUE` row works in. -/
def State.rowModulus (p k r : Nat) (s : State) : Nat :=
  if rowMode (s.rowOf p k r).ctrl = 1 then 2 ^ 32 else (s.lead p k).moduli.getD (rowSlot (s.rowOf p k r).ctrl) 0

/-- Reach a row that must have one of these modes and not be held by another context; otherwise the context faults (R55, R56). -/
def State.reach (p c k r : Nat) (modes : List Nat) (g : State → State) (s : State) : State :=
  s.ifUp p c fun s =>
    if modes.contains (rowMode (s.rowOf p k r).ctrl) && !rowRefuses c (s.rowOf p k r) then g s else s.faultCtx p c fcShelfMode

/-! Masks (R99). -/

/-- A seed entry is valid (R99). -/
def seedEntryOk (e : Bytes) : Bool :=
  fld 32 1 e == 0 && (fld 33 1 e == 1 || fld 33 1 e == 2) && fld 34 1 e ≤ 1 && allZero (cut 35 5 e)

/-- One entry's masks for one row: subtracted with `SIGN` 0, added with `SIGN` 1. -/
def State.maskRow (p c k : Nat) (limb round g0 r : Nat) (e : Bytes) (s : State) : State :=
  s.reach p c k r [1, 2] fun s =>
    let q := s.rowModulus p k r
    let vals := (List.range 128).map fun j => (maskWord (BitVec.ofNat 256 (fld 0 32 e)) (fld 33 1 e) limb 0 round (g0 + j) q : Int)
    s.landWrite p c k r (if fld 34 1 e = 0 then 2 else 3) 0 vals []

/-- R99. `MASK_EXPAND`. -/
def execMaskExpand (p k node : Nat) (s : State) : Host.Outcome State Fault Refusal :=
  .next (s.operate p k node 0x02 fun c _ nd s =>
    match nd.params with
    | .maskExpand round limb base rows g seeds cnt _ =>
      let es := chunks 40 cnt (s.readOp p k seeds (40 * cnt))
      let good := es.filter seedEntryOk
      let s := s.discard p c 6 (es.length - good.length)
      (List.range rows).foldl (fun s i => good.foldl (fun s e => s.maskRow p c k limb round (g + 128 * i) (base + i) e) s) s
    | _ => s)

/-! Transforms (R100 to R103). -/

/-- The primes that a node's `MOD_SLOT` list names. -/
def State.primes (p k : Nat) (slots : List Nat) (s : State) : List Nat := slots.map fun m => (s.lead p k).moduli.getD m 0

/-- A transform of every limb of an operand into another. -/
def State.transform (p k : Nat) (f : Nat → Nat → List Nat → List Nat) (logN limbs row work : Nat) (src dst : Operand) (slots : List Nat)
    (s : State) : State :=
  let n := 2 ^ logN
  let ps := s.primes p k slots
  let ls := limbsOf n limbs (s.readOp p k src (4 * n * limbs))
  let out := (List.range limbs).map fun i => f (ps.getD i 1) n (ls.getD i [])
  (s.scribbleWork p k row work (4 * n)).writeOp p k dst (bytesOf 4 out.flatten)

/-- R100. `NTT_FWD`. -/
def execNttFwd (p k node : Nat) (s : State) : Host.Outcome State Fault Refusal :=
  .next (s.operate p k node 0x10 fun _ _ nd s =>
    match nd.params with
    | .nttFwd ln l row work src dst m => s.transform p k nttFwd ln l row work src dst m
    | _ => s)

/-- R100. `NTT_INV`. -/
def execNttInv (p k node : Nat) (s : State) : Host.Outcome State Fault Refusal :=
  .next (s.operate p k node 0x11 fun _ _ nd s =>
    match nd.params with
    | .nttInv ln l row work src dst m => s.transform p k nttInv ln l row work src dst m
    | _ => s)

/-- R101. The fused sequence: `c0` and `c1` by limbs of Q, the key's stored halves by digit and limb, all in NTT form; the switched pair. -/
def keyswitch (n l k dnum kid : Nat) (seed : Key) (ps : List Nat) (c0 c1 : List (List Nat)) (key : Nat → Nat → List Nat) :
    List (List Nat) × List (List Nat) :=
  let alpha := alphaOf l dnum
  let pr := fun j => ps.getD j 1
  let limbs := fun i => (List.range l).filter fun j => i * alpha ≤ j && j < min l ((i + 1) * alpha)
  let d := fun i => (limbs i).map fun j => nttInv (pr j) n (c1.getD j [])
  let e := fun i j => if (limbs i).contains j then (d i).getD (j - i * alpha) [] else convLimbs n ((limbs i).map pr) (pr j) (d i)
  let half := fun i j => (List.range n).map fun x => maskWord seed 3 j i kid x (pr j)
  let acc := fun (other : Nat → Nat → List Nat) j =>
    (List.range dnum).foldl (fun a i =>
      zipMod (pr j) (· + ·) a (zipMod (pr j) (· * ·) (nttFwd (pr j) n (e i j)) (other i j))) (List.replicate n 0)
  let specials := (List.range k).map fun j => l + j
  let down := fun (z : Nat → List Nat) j =>
    let w := convLimbs n (specials.map pr) (pr j) (specials.map fun x => nttInv (pr x) n (z x))
    let pinv := invMod 32 (pr j) ((specials.map pr).foldl (· * ·) 1 % pr j)
    zipMod (pr j) (fun x y => (x + pr j - y) * pinv) (z j) (nttFwd (pr j) n w)
  ((List.range l).map fun j => zipMod (pr j) (· + ·) (c0.getD j []) (down (acc key) j),
   (List.range l).map fun j => down (acc half) j)

/-- R101, R102. `KEYSWITCH`. -/
def execKeyswitch (p k node : Nat) (s : State) : Host.Outcome State Fault Refusal :=
  .next (s.operate p k node 0x12 fun _ _ nd s =>
    match nd.params with
    | .keyswitch ln l kk dnum kid row work src dst key acc seed m _ =>
      let n := 2 ^ ln
      let b := s.readOp p k src (8 * n * l)
      let kb := s.readOp p k key (4 * n * dnum * (l + kk))
      let half := fun i j => wordsOf 4 n (cut (4 * n * (i * (l + kk) + j)) (4 * n) kb)
      let r := keyswitch n l kk dnum kid seed (s.primes p k m) (limbsOf n l b) (limbsOf n l (b.drop (4 * n * l))) half
      let accBytes := 8 * (l + kk) * n
      let s := s.scribbleWork p k row work (ksWork n l dnum)
      let s := (s.writeOp p k acc ((List.range accBytes).map (freeByte s.draws))).drawMany (ceilDiv accBytes 128)
      s.writeOp p k dst (bytesOf 4 (r.1.flatten ++ r.2.flatten))
    | _ => s)

/-- R103. `REFRESH_LUT`: the spec says what the result encodes and not its words, which are a free function of the operands. -/
def execRefreshLut (p k node : Nat) (s : State) : Host.Outcome State Fault Refusal :=
  .next (s.operate p k node 0x13 fun _ _ nd s =>
    match nd.params with
    | .refreshLut ln lo dr tl nl row _ work _ src dst table key _ m =>
      let n := 2 ^ ln
      let out := Config.refreshLut nd.params (s.primes p k m) (s.readOp p k src (8 * n)) (s.readOp p k table (4 * 2 ^ tl))
        (s.readOp p k key (8 * n * nl * dr))
      (s.scribbleWork p k row work (4 * n * (2 * dr + 6))).writeOp p k dst (padTo (8 * n * lo) out)
    | _ => s)

/-! Clipping and statistics (R104, R105). -/

/-- A word that rejects its update outright (R104). -/
def tooLarge (v : Int) : Bool := v.natAbs ≥ 2 ^ 19

/-- R104. The clipped words of an update, or none when it is rejected; `r` gives the rounding word of element i. -/
def clip (mode bound reject : Nat) (r : Nat → Nat) (x : List Int) : Option (List Int) :=
  let n := ceilSqrt ((x.map fun v => (v * v).toNat).sum)
  if x.any tooLarge then none
  else if reject ≠ 0 && reject < n then none
  else if n ≤ bound then some x
  else
    let f : Nat := bound * 2 ^ 32 / n
    some ((List.range x.length).map fun i =>
      let y : Int := x.getD i 0 * (f : Int)
      if mode = 0 then y.tdiv (2 ^ 32) else srInt y 32 (r i))

/-- R104. `CLIP_L2`: the pair through which the squares are summed ends with free values; an update rejected outright writes nothing. -/
def execClipL2 (p k node : Nat) (s : State) : Host.Outcome State Fault Refusal :=
  .next (s.operate p k node 0x20 fun c x nd s =>
    match nd.params with
    | .clipL2 cnt mode pair bound reject g src dst _ =>
      s.reach p c k pair [6] fun s =>
        let l := (s.words p k src cnt).map (sgn 32)
        let t := if l.any tooLarge then s else [pair, pair + 1].foldl (State.scribbleRow p k) s
        match clip mode bound reject (fun i => roundWord x.seed nd.stream nd.draw (g + i)) l with
        | none => t.discard p c 5 1
        | some l => t.writeOp p k dst (bytesOf 4 (l.map (trunc 32)))
    | _ => s)

/-- Add the words of `SUMSQ` or `MEANVAR` to its pairs, sample-major (R105). -/
def State.addSamples (p c k pair samples groups : Nat) (mode : Nat) (words : List Nat) (s : State) : State :=
  (List.range (samples * groups)).foldl (fun s i =>
    let r := pair + 2 * (i % groups)
    s.reach p c k r [mode] fun s =>
      let a := pathAddends mode ((words.drop (128 * i)).take 128)
      s.landWrite p c k r 1 0 a.1 a.2) s

/-- R105. `SUMSQ`. -/
def execSumsq (p k node : Nat) (s : State) : Host.Outcome State Fault Refusal :=
  .next (s.operate p k node 0x21 fun c _ nd s =>
    match nd.params with
    | .sumsq n pair g dr src dst _ =>
      let t := s.addSamples p c k pair n g 6 (s.words p k src (128 * n * g))
      t.ifUp p c fun t => if dr = 0 then t else
        t.writeOp p k dst ((span pair (2 * g)).flatMap fun r => (t.lead p k).drained r (dr == 2))
    | _ => s)

/-- A partial of one column: count, mean and M2 in binary64 (R105). -/
structure Partial where
  n : Nat
  mean : Nat
  m2 : Nat
  deriving DecidableEq, Repr

/-- R105. The merge of two partials, each step rounded in binary64; the count of the result is not yet bounded. -/
def mergePartial (a b : Partial) : Partial :=
  let n := a.n + b.n
  if n = 0 then ⟨0, 0, 0⟩ else
  let i := fun (v : Nat) => fofInt fp64 v 0
  let d := fsub fp64 b.mean a.mean
  let mean := fadd fp64 a.mean (fdiv fp64 (fmul fp64 d (i b.n)) (i n))
  let x := fdiv fp64 (fmul fp64 (fmul fp64 (fmul fp64 d d) (i a.n)) (i b.n)) (i n)
  ⟨n, mean, fadd fp64 (fadd fp64 a.m2 b.m2) x⟩

/-- The count is held at its bound (R81). -/
def Partial.bounded (a : Partial) : Partial := { a with n := min a.n (2 ^ 32 - 1) }

/-- The 24-byte record of a coordinate (R105). -/
def Partial.record (a : Partial) : Bytes :=
  let v := if a.n < 2 then 0 else fdiv fp64 a.m2 (fofInt fp64 ((a.n - 1 : Nat) : Int) 0)
  cat [le 8 a.mean, le 8 v, le 4 a.n, zeros 4]

/-- The partial of a column of a pair on a logical cluster. -/
def State.partialAt (p k pair j : Nat) (s : State) : Partial :=
  ⟨(s.rowOf p k pair).count, (s.rowOf p k pair).nat j, (s.rowOf p k (pair + 1)).nat j⟩

/-- The merged partial of a column over logical clusters in order. -/
def State.mergedAt (p pair j : Nat) (ks : List Nat) (s : State) : Partial :=
  match ks with
  | [] => ⟨0, 0, 0⟩
  | k :: l => l.foldl (fun a m => (mergePartial a (s.partialAt p m pair j)).bounded) (s.partialAt p k pair j)

/-- A merge of counts meets the bound of R81. -/
def State.mergeFull (p pair : Nat) (ks : List Nat) (s : State) : Bool := 2 ^ 32 ≤ (ks.map fun m => (s.rowOf p m pair).count).sum

/-- R105. `MEANVAR`: with `MERGE` the lowest cluster of the node writes the records, once the others have added their samples. -/
def execMeanvar (p k node : Nat) (s : State) : Host.Outcome State Fault Refusal :=
  .next (match s.working? p k node 0x22 with
    | some (_, x, nd) =>
      match nd.params with
      | .meanvar _ _ _ merge _ _ _ =>
        let ks := nodeClusters x.width nd
        let low := ks.getD 0 k
        if merge = 1 && k = low && (ks.any fun m => m != k && x.nodeState m node < 2) then s else
        s.operate p k node 0x22 fun c _ nd s =>
          match nd.params with
          | .meanvar n pair g _ src dst _ =>
            let t := s.addSamples p c k pair n g 7 (s.words p k src (128 * n * g))
            t.ifUp p c fun t =>
              if merge = 1 && k ≠ low then t else
              let from_ := if merge = 1 then ks else [k]
              let out := (List.range g).flatMap fun j => (List.range 128).flatMap fun col => (t.mergedAt p (pair + 2 * j) col from_).record
              let full := (List.range g).filter fun j => from_.length ≠ 1 && t.mergeFull p (pair + 2 * j) from_
              (t.writeOp p k dst out).saturate p c k (full.map fun j => pair + 2 * j)
          | _ => s
      | _ => s
    | none => s)

/-! Noise and decoding (R106, R108). -/

/-- Sample `i` of the draws from now on. -/
def State.sample (sigma i : Nat) (s : State) : Int := Config.gaussSample sigma (s.draws + i)

/-- One row of noise (R106). -/
def State.noiseRow (p c k r scale sigma delta first : Nat) (base : State) (s : State) : State :=
  s.reach p c k r (if delta = 1 then [1, 2, 3, 4, 5, 6, 7] else [1, 2]) fun s =>
    let e := (List.range 128).map fun j => base.sample sigma (first + j)
    let m := rowMode (s.rowOf p k r).ctrl
    if m = 4 || m = 7 then s.landWrite p c k r 4 0 [] (e.map fun v => fofInt fp32 v 0)
    else s.landWrite p c k r 4 scale (e.map fun v => (delta : Int) * v) []

/-- R106, R270. `NOISE_GAUSS`: without a seeded cluster generator the context faults. -/
def execNoiseGauss (p k node : Nat) (s : State) : Host.Outcome State Fault Refusal :=
  .next (s.operate p k node 0x23 fun c x nd s =>
    match nd.params with
    | .noiseGauss base rows scale target slot sigma delta dst _ =>
      if (x.on k).generator.isNone then s.faultCtx p c 0x1201
      else if target = 0 then
        ((List.range rows).foldl (fun t i => State.noiseRow p c k (base + i) scale sigma delta (128 * i) s t) s).drawMany (128 * rows)
      else
        let q := if slot = 0xFF then 2 ^ 32 else (s.lead p k).moduli.getD slot 0
        let out := (List.range (128 * rows)).map fun i => (((delta : Int) * s.sample sigma i) % (q : Int)).toNat
        (s.writeOp p k dst (bytesOf 4 out)).drawMany (128 * rows)
    | _ => s)

/-- The word that `DECODE_CENTER` writes for a canonical value (R89, R108). -/
def decodeWord (format qScale q u : Nat) : Nat :=
  match format with
  | 0 => trunc 32 (centred q u)
  | 1 => fofInt fp32 (centred q u) (-(qScale : Int))
  | _ => u

/-- One row of a decode: its words are written, and with `RESET` it becomes `EMPTY` and `HELD` clears (R108). -/
def State.decodeRow (p c k r format qScale : Nat) (reset : Bool) (dst : Operand) (off : Nat) (s : State) : State :=
  s.reach p c k r [1, 2] fun s =>
    let q := s.rowModulus p k r
    let w := s.rowOf p k r
    let words := (List.range 128).map fun j => decodeWord format qScale q (canonCol (s.lead p k).moduli w 0 false j).1
    let t := s.writeSpace false p k dst.space (dst.addr + off) (bytesOf 4 words)
    if reset && !(s.replaying p && rowHeld w.ctrl) then t.modLogical p k (Cluster.resetRow r) else t

/-- R108. `DECODE_CENTER`; it waits while a row that it drains is busy (R55). -/
def execDecodeCenter (p k node : Nat) (s : State) : Host.Outcome State Fault Refusal :=
  .next (match s.working? p k node 0x24 with
    | some (_, x, nd) =>
      if (x.nodeRows nd).any (s.rowBusy p k) then s else
      s.operate p k node 0x24 fun c _ nd s =>
        match nd.params with
        | .decodeCenter base rows format qs rs dst _ =>
          (List.range rows).foldl (fun s i => s.decodeRow p c k (base + i) format qs (rs == 1) dst (512 * i)) s
        | _ => s
    | none => s)

/-! The update (R109). -/

/-- w' of R109. -/
def applyWord (step decay w u : Nat) : Nat := fadd fp32 (fsub fp32 w (fmul fp32 decay w)) (fmul fp32 step u)

/-- R109. `APPLY_STEP`. -/
def execApplyStep (p k node : Nat) (s : State) : Host.Outcome State Fault Refusal :=
  .next (s.operate p k node 0x25 fun _ x nd s =>
    match nd.params with
    | .applyStep cnt format step decay g w u dst _ =>
      let out := List.zipWith (applyWord step.toNat decay.toNat) (s.words p k w cnt) (s.words p k u cnt)
      let narrow := (List.range out.length).map fun i =>
        let v := out.getD i 0
        match format with
        | 0 => v
        | 1 => fconv fp32 bf16 v
        | _ => srBf16 v (roundWord x.seed nd.stream nd.draw (g + i))
      s.writeOp p k dst (bytesOf (if format = 0 then 4 else 2) narrow)
    | _ => s)

/-! Matrix products (R110). -/

/-- Format of a `MATMUL` (Table 5.4). -/
def matFormat (f : Nat) : TileFormat := match f with | 0 => .residue | 1 => .int16 | 2 => .fp32 | 3 => .bf16 | _ => .int8

/-- Element (r, c) of a row-major operand of `cols` columns; zero outside it. -/
def matAt (w rows cols : Nat) (b : Bytes) (r c : Nat) : Nat := if r < rows && c < cols then fld (w * (r * cols + c)) w b else 0

/-- A weight in the form that its target rows take: S-form for `RESIDUE` rows (R78). -/
def weightForm (f : TileFormat) (mode p w : Nat) : Nat := if f = .residue && mode = 2 then w * 2 ^ modS p % p else w

/-- One output row of one chunk lands (R110). -/
def State.matRow (p c k : Nat) (f : TileFormat) (scale r m h ch : Nat) (a b : Nat → Nat → Nat) (s : State) : State :=
  s.reach p c k r (formatModes f) fun s =>
    let mode := rowMode (s.rowOf p k r).ctrl
    let q := s.rowModulus p k r
    let kf := formatK f
    let l := (List.range 128).map fun j => product f mode q (fun x => a m (ch * kf + x)) fun x => weightForm f mode q (b (ch * kf + x) (128 * h + j))
    s.landWrite p c k r 0 scale (l.filterMap fun x => match x with | .inl v => some v | .inr _ => none)
      (l.filterMap fun x => match x with | .inl _ => none | .inr v => some v)

/-- The rows that one tile step of a product targets share one modulus (R79): with one column group its steps take up to 64 rows. -/
def State.matSlots (p k base m groups : Nat) (f : TileFormat) (s : State) : Bool :=
  f != .residue || groups != 1 ||
    (chunks 64 m (span base m)).all fun l => (l.map fun r => (rowMode (s.rowOf p k r).ctrl, rowSlot (s.rowOf p k r).ctrl)).dedup.length ≤ 1

/-- R110. `MATMUL`. The spec gives the operation no step scale for `SCALED` rows: a free value. -/
def execMatmul (p k node : Nat) (s : State) : Host.Outcome State Fault Refusal :=
  .next (s.operate p k node 0x30 fun c _ nd s =>
    match nd.params with
    | .matmul format base m kk n oa ob _ =>
      let f := matFormat format
      let w := elemBytes format
      let ab := s.readOp p k oa (w * m * kk)
      let bb := s.readOp p k ob (w * kk * n)
      let groups := colGroups n
      let scale := s.fresh.toNat % 256
      if !s.matSlots p k base m groups f then s.faultCtx p c fcShelfMode else
      (List.range (ceilDiv kk (formatK f))).foldl (fun s ch => (List.range groups).foldl (fun s h => (List.range m).foldl (fun s i =>
        s.matRow p c k f scale (base + i * groups + h) i h ch (matAt w m kk ab) (matAt w kk n bb)) s) s) (s.drawMany 1)
    | _ => s)

/-! Seeds (R111, R112). -/

/-- The field of the shares. -/
def shareField : Nat := 2 ^ 255 - 19

/-- R111. Interpolation at zero. -/
def interpolate (pts : List (Nat × Nat)) : Nat :=
  let q := shareField
  ((List.range pts.length).map fun i =>
    let xi := (pts.getD i (0, 0)).1
    let lam := (List.range pts.length).foldl (fun a j =>
      if j = i then a else
      let xj := (pts.getD j (0, 0)).1
      a * (xj * invMod 255 q ((xj + q - xi) % q) % q) % q) 1
    (pts.getD i (0, 0)).2 * lam % q).sum % q

/-- A seed entry (R99). -/
def seedEntry (seed : Nat) (status kind sign : Nat) : Bytes := cat [le 32 seed, le 1 status, le 1 kind, le 1 sign, zeros 5]

/-- The status and secret of one set of shares, tested in the order 2, 1, 3 (R111). -/
def recoverOne (t : Nat) (commit : Bool) (b : Bytes) : Nat × Nat :=
  let pts := (List.range t).map fun i => (fld (64 * i) 32 b, fld (64 * i + 32) 32 b)
  let xs := pts.map (·.1)
  if pts.any fun p => shareField ≤ p.1 || shareField ≤ p.2 then (2, 0)
  else if xs.contains 0 || xs.dedup.length ≠ xs.length then (1, 0)
  else
    let secret := interpolate pts
    if commit && (le 48 (Config.sha384 (ascii "axulo seed v1" ++ le 32 secret)).toNat).take 16 != cut (64 * t) 16 b then (3, 0)
    else (0, secret)

/-- A seed entry that cannot be rebuilt ends the keep's round with outcome 3 (R127). -/
def State.seedFailed (p c : Nat) (statuses : List Nat) (s : State) : State :=
  if (s.ctx p c).role = 3 && statuses.any (fun st => st != 0 && st != 5) then s.endRound p c 3 else s

/-- R111, R127. `SEED_RECOVER`. -/
def execSeedRecover (p k node : Nat) (s : State) : Host.Outcome State Fault Refusal :=
  .next (s.operate p k node 0x40 fun c _ nd s =>
    match nd.params with
    | .seedRecover cnt t kind sign fl shares dst _ =>
      let one := 64 * t + 16 * fl
      let rs := (chunks one cnt (s.readOp p k shares (cnt * one))).map (recoverOne t (fl == 1))
      ((s.discard p c 7 (rs.filter fun r => r.1 != 0).length).writeOp p k dst (rs.flatMap fun r => seedEntry r.2 r.1 kind sign)).seedFailed p c
        (rs.map (·.1))
    | _ => s)

/-- R112. The entry of one peer; `bit` is the sign that the spec leaves open for the owner's own index. -/
def pairOne (self : Nat) (tag : BitVec 128) (sk : Key) (sign : Nat) (e : Bytes) : Nat × Bytes :=
  let v := fld 0 4 e
  let shared := Config.x25519 sk (BitVec.ofNat 256 (fld 8 32 e))
  let sg := if v < self then 0 else if self < v then 1 else sign
  if v = self then (5, seedEntry 0 5 1 sg)
  else if shared = 0 then (4, seedEntry 0 4 1 sg)
  else
    let info := ascii "axulo pair v1" ++ le 4 (min self v) ++ le 4 (max self v)
    (0, seedEntry (leNat ((Config.hkdf384 (le 32 shared.toNat) (le 16 tag.toNat) info 32).take 32)) 0 1 sg)

/-- R112, R127. `PAIR_SEED`. -/
def execPairSeed (p k node : Nat) (s : State) : Host.Outcome State Fault Refusal :=
  .next (s.operate p k node 0x41 fun c _ nd s =>
    match nd.params with
    | .pairSeed self cnt tag sk peers dst =>
      let key : Key := BitVec.ofNat 256 (leNat (s.readOp p k sk 32))
      let rs := (chunks 40 cnt (s.readOp p k peers (40 * cnt))).map (pairOne self tag key (s.fresh.toNat % 2))
      (((s.drawMany 1).discard p c 7 (rs.filter fun r => r.1 != 0).length).writeOp p k dst (rs.flatMap (·.2))).seedFailed p c (rs.map (·.1))
    | _ => s)

end Sys2Proof.Machine
end

