-- ==== Sys2Proof/Machine/Rounds.lean ====
section
/-! DEFINITION. Aggregation rounds: `round.open`, `round.map`, `round.close`, the intake path, receipts and the roster, slice close and
publication (R116 to R135, R297). -/

namespace Sys2Proof.Machine

/-! The descriptor (Tables 6.2 and 6.3). -/

/-- A slice map entry from its 32 bytes. -/
def parseEntry (e : Bytes) : SliceEntry :=
  { coordFirst := fld 0 8 e
    coordCount := fld 8 4 e
    partCoords := fld 12 4 e
    owner := fld 16 2 e % 2 ^ 14
    parcel := fld 18 1 e % 16
    parts := fld 19 1 e
    limbFirst := fld 20 1 e
    limbCount := fld 21 1 e
    cls := fld 22 1 e
    branch := fld 23 1 e
    setSize := fld 24 1 e
    mapRev := fld 25 1 e
    reserved := fld 16 2 e / 2 ^ 14 + fld 18 1 e / 16 + fld 26 6 e }

/-- `n` slice map entries. -/
def parseEntries (n : Nat) (b : Bytes) : List SliceEntry := (chunks 32 n b).map parseEntry

/-- A round descriptor from its bytes. -/
def parseRound (b : Bytes) : RoundDesc :=
  let mc := fld 6 2 b
  { roundId := fld 0 4 b
    mode := fld 4 1 b
    role := fld 5 1 b
    mapCount := mc
    clients := fld 8 4 b
    threshold := fld 12 2 b
    memberCount := fld 14 2 b
    intakeDeadline := fld 16 8 b
    closeDeadline := fld 24 8 b
    minSurvivors := fld 32 4 b
    backlogChains := fld 36 2 b
    reserved := fld 38 2 b + fld 56 8 b
    roundTag := BitVec.ofNat 128 (fld 40 16 b)
    maps := parseEntries mc (cut 64 (32 * mc) b)
    members := wordsOf 4 (fld 14 2 b) (b.drop (64 + 32 * mc)) }

/-- The descriptor outside its maps is good for this module and parcel (R116). -/
def State.roundFormatOk (p : Nat) (d : RoundDesc) (s : State) : Bool :=
  d.roundId != 0 && 1 ≤ d.mode && d.mode ≤ 3 && 1 ≤ d.role && d.role ≤ 3 && 1 ≤ d.mapCount && d.mapCount ≤ 4096
    && 2 ≤ d.clients && d.clients ≤ 1048576
    && (if d.mode = 1 then 2 ≤ d.threshold && d.threshold ≤ 1024 else d.threshold == 0)
    && 2 ≤ d.memberCount && d.memberCount ≤ 4096 && s.now < d.intakeDeadline && d.intakeDeadline < d.closeDeadline
    && 1 ≤ d.minSurvivors && d.minSurvivors ≤ d.clients && 1 ≤ d.backlogChains && d.backlogChains ≤ 1024 && d.reserved == 0
    && d.members.all (fun m => m < 2 ^ 20 && memberRole m != 0)
    && d.members.any fun m => memberModule m == s.boot.moduleId && memberParcel m == p && memberRole m == d.role

/-- One entry lies in the ranges of Table 6.3 and keeps R118 and R119. -/
def entryValid (mode : Nat) (e : SliceEntry) : Bool :=
  e.coordFirst % 128 == 0 && e.partCoords % 128 == 0 && 128 ≤ e.partCoords && e.partCoords ≤ 32768
    && 1 ≤ e.parts && e.parts ≤ 64 && e.coordCount == e.partCoords * e.parts
    && e.limbFirst ≤ 47 && 1 ≤ e.limbCount && e.limbFirst + e.limbCount ≤ 48 && (mode == 2 || e.limbCount == 1)
    && e.partCoords / 128 * e.limbCount ≤ 256 && 1 ≤ e.cls && e.cls ≤ 3 && e.branch ≤ 7
    && 1 ≤ e.setSize && e.setSize ≤ 8 && (mode == 1 || e.setSize == 1) && e.reserved == 0

/-- Two entries have the same range. -/
def sameRange (a b : SliceEntry) : Bool :=
  a.coordFirst == b.coordFirst && a.coordCount == b.coordCount && a.limbFirst == b.limbFirst && a.limbCount == b.limbCount

/-- Two entries may stand in one map: roots are disjoint, and the entries of one range agree (R118, R119, Table 6.3). -/
def entriesAgree (a b : SliceEntry) : Bool :=
  (a.branch != 0 || b.branch != 0 || a.coordFirst + a.coordCount ≤ b.coordFirst || b.coordFirst + b.coordCount ≤ a.coordFirst
      || a.limbFirst + a.limbCount ≤ b.limbFirst || b.limbFirst + b.limbCount ≤ a.limbFirst)
    && (!sameRange a b || (a.setSize == b.setSize && a.partCoords == b.partCoords && a.parts == b.parts))

/-- Every two entries of a map agree. -/
def mapAgrees : List SliceEntry → Bool
  | [] => true
  | a :: l => l.all (entriesAgree a) && mapAgrees l

/-- The entries of a map that name a module and parcel. -/
def ownEntries (module parcel : Nat) (l : List SliceEntry) : List SliceEntry := l.filter fun e => e.owner == module && e.parcel == parcel

/-- The slice map of a descriptor is good for a context (R116, R118, R119, R20). -/
def State.mapFormatOk (p : Nat) (x : Context) (d : RoundDesc) (s : State) : Bool :=
  d.maps.all (entryValid d.mode) && mapAgrees d.maps
    && (d.role != 2 || (match x.image with
      | some i => (ownEntries s.boot.moduleId p d.maps).isPerm i.sliceMap
      | none => true))

/-- The parcel holds a verified attestation of the member at a module and parcel (R181). -/
def State.attests (p module parcel : Nat) (s : State) : Bool :=
  (s.connsOf p).any fun id => let k := s.conn id; k.state == 3 && k.verified && k.peerModule == module && k.peerParcel == parcel

/-- Every other member of a sealed round is attested (R132). -/
def State.groupAttested (p : Nat) (d : RoundDesc) (s : State) : Bool :=
  d.members.all fun m => (memberModule m == s.boot.moduleId && memberParcel m == p) || s.attests p (memberModule m) (memberParcel m)

/-- Trailer mode of a context's image. -/
def Context.mode (x : Context) : Nat := match x.image with | some i => i.trailer.mode | none => 0

/-- R116, R236, R132. `round.open`. -/
def execRoundOpen (fn : Nat) (s : State) : Host.Outcome State Fault Refusal :=
  .next (s.runDrawer fn 0x40 fun t s =>
    match t.payload with
    | .lot _ _ => .no stPayload
    | .bytes b =>
      let d := parseRound (b.drop 8)
      if b.length ≠ 72 + 32 * d.mapCount + 4 * d.memberCount then .no stPayload
      else if !allZero (cut 1 7 b) then .no stReserved
      else s.gated fn 0x40 false true <|
        let p := parcelOf fn
        let c := fld 0 1 b
        let x := s.ctx p c
        guarded (s.parcelRefuses p false) <| guarded
          [(8 ≤ c, stArg), (!s.roundFormatOk p d, stRoundFormat), (!s.mapFormatOk p x d, stMapFormat),
            (!x.started || x.role ≠ d.role || x.roundOpen || x.mode ≠ d.mode, stRoundState),
            (d.mode = 3 && !s.groupAttested p d, stGroupAttest)] <|
          .done [] (s.modCtx p c fun x => { x with round := some { Round.reset with desc := d } }))

/-- The entry is another but for `SET_SIZE`, which may rise, and `MAP_REV` (R119). -/
def grows (old new : SliceEntry) : Bool := { new with setSize := old.setSize, mapRev := old.mapRev } == old && old.setSize ≤ new.setSize

/-- A revision adds branch entries and raises `SET_SIZE`, and does nothing else (R119). -/
def revisionOk (mode : Nat) (old new : List SliceEntry) : Bool :=
  new.all (entryValid mode) && mapAgrees new
    && new.all (fun e => e.mapRev == (old.headD ⟨0, 0, 0, 0, 0, 0, 0, 0, 0, 0, 0, 0, 0⟩).mapRev + 1)
    && old.all (fun o => new.any (grows o))
    && new.all fun n => old.any (fun o => grows o n) || (n.branch != 0 && old.any fun o => o.branch == 0 && sameRange o n)

/-- R119. `round.map`: an accepted revision is applied at the next chain boundary. -/
def execRoundMap (fn : Nat) (s : State) : Host.Outcome State Fault Refusal :=
  .next (s.runDrawer fn 0x41 fun t s =>
    match t.payload with
    | .lot _ _ => .no stPayload
    | .bytes b =>
      let n := fld 8 2 b
      if b.length ≠ 16 + 32 * n then .no stPayload
      else if !allZero (cut 1 3 b) || !allZero (cut 10 6 b) then .no stReserved
      else s.gated fn 0x41 false true <|
        let p := parcelOf fn
        let c := fld 0 1 b
        let new := parseEntries n (b.drop 16)
        guarded (s.parcelRefuses p false) <| guarded [(8 ≤ c, stArg)] <|
          match (s.ctx p c).round with
          | none => .no stRoundState
          | some r =>
            guarded [(r.outcome.isSome || r.desc.roundId ≠ fld 4 4 b, stRoundState),
                (n = 0 || 4096 < n || !revisionOk r.desc.mode (r.pendMaps.getD r.desc.maps) new, stMapFormat)] <|
              .done [] (s.modCtx p c fun x => { x with round := some { r with pendMaps := some new } }))

/-- R128. `round.close`: accepted for the open round of a fold context; what is published from now on is not folded. -/
def execRoundClose (fn : Nat) (s : State) : Host.Outcome State Fault Refusal :=
  .next (s.runDrawer fn 0x42 fun t s => t.withPayload 8 fun b =>
    if !allZero (cut 1 3 b) then .no stReserved
    else s.gated fn 0x42 false true <|
      let p := parcelOf fn
      let c := fld 0 1 b
      guarded (s.parcelRefuses p false) <| guarded [(8 ≤ c, stArg)] <|
        match (s.ctx p c).round with
        | none => .no stRoundState
        | some r =>
          guarded [(r.outcome.isSome || r.desc.role ≠ 2 || r.desc.roundId ≠ fld 4 4 b, stRoundState)] <|
            .done [] (s.modCtx p c fun x => { x with round := some { r with closeTaken := some (r.closeTaken.getD s.now) } }))

/-! The intake path (R120 to R124). -/

/-- Change a context's round. -/
def Context.modRound (g : Round → Round) (x : Context) : Context := { x with round := x.round.map g }

/-- A client fragment's header fields (Table 6.4). -/
structure Frag where
  magic : Nat
  version : Nat
  mode : Nat
  limb : Nat
  roundId : Nat
  client : Nat
  coordFirst : Nat
  bytes : Nat
  index : Nat
  count : Nat
  check : Nat
  reserved : Bool
  deriving DecidableEq, Repr

/-- Read a fragment's header. -/
def parseFrag (f : Bytes) : Frag :=
  { magic := fld 0 4 f
    version := fld 4 1 f
    mode := fld 5 1 f
    limb := fld 6 1 f
    roundId := fld 8 4 f
    client := fld 12 4 f % 2 ^ 20
    coordFirst := fld 16 8 f
    bytes := fld 24 4 f
    index := fld 28 2 f
    count := fld 30 2 f
    check := fld 32 4 f
    reserved := allZero (cut 7 1 f) && fld 12 4 f < 2 ^ 20 && allZero (cut 36 28 f) }

/-- Check 1 of Table 6.5. -/
def fragFormat (mode : Nat) (f : Bytes) : Bool :=
  let h := parseFrag f
  let envelope := if h.mode = 3 then 48 else 0
  64 ≤ f.length && h.magic == 0x0A5EF0A1 && h.version == 1 && h.reserved && (if mode = 0 then 1 ≤ h.mode && h.mode ≤ 3 else h.mode == mode)
    && h.coordFirst % 128 == 0 && h.bytes % 512 == 0 && 512 ≤ h.bytes && h.bytes ≤ 1048576 && f.length == 64 + h.bytes + envelope

/-- Position of a parcel's intake entry among the intake members, and their number (R120). -/
def RoundDesc.intakeSeat (module parcel : Nat) (d : RoundDesc) : Nat × Nat :=
  let l := d.ofRole 1
  (l.findIdx fun m => memberModule m == module && memberParcel m == parcel, l.length)

/-- The client is assigned to the intake at this seat (R120). -/
def assigned (seat : Nat × Nat) (u : Nat) : Bool := seat.1 < seat.2 && u % seat.2 == seat.1

/-- The 44 bytes that open a sealed envelope (R122). -/
def State.envelopeKey (p : Nat) (d : RoundDesc) (h : Frag) (epk : Bytes) (s : State) : Bytes :=
  Config.hkdf384 (le 32 (Config.x25519 (s.slotKey (parcelSlot p 0)) (BitVec.ofNat 256 (leNat epk))).toNat) (le 16 d.roundTag.toNat)
    (ascii "axulo seal v1" ++ le 4 h.client ++ le 2 h.index) 44

/-- Check 5 of Table 6.5: `CHECK`, and in sealed mode the envelope's tag. -/
def State.fragIntact (p : Nat) (d : RoundDesc) (f : Bytes) (s : State) : Bool :=
  let h := parseFrag f
  crc32c (f.take 32 ++ zeros 4 ++ f.drop 36) == h.check
    && (d.mode != 3 ||
      let k := s.envelopeKey p d h (cut 64 32 f)
      s.slotUse (parcelSlot p 0) 6
        && Config.gcmTag (BitVec.ofNat 256 (fld 0 32 k)) (cut 32 12 k) (f.take 64) (cut 96 h.bytes f)
          == BitVec.ofNat 128 (fld (96 + h.bytes) 16 f))

/-- A fragment's payload in clear. -/
def State.fragClear (p : Nat) (d : RoundDesc) (f : Bytes) (s : State) : Bytes :=
  let h := parseFrag f
  if d.mode = 3 then
    let k := s.envelopeKey p d h (cut 64 32 f)
    padTo h.bytes (gcmOpen (BitVec.ofNat 256 (fld 0 32 k)) (cut 32 12 k) (f.take 64) (cut 96 h.bytes f))
  else f.drop 64

/-- The entry that takes a client's coordinate of a limb: of the branch `u mod SET_SIZE` (R118, R119). -/
def routeEntry (maps : List SliceEntry) (u limb c : Nat) : Option SliceEntry :=
  maps.find? fun e => e.limbFirst ≤ limb && limb < e.limbFirst + e.limbCount && e.coordFirst ≤ c && c < e.coordFirst + e.coordCount
    && e.branch == u % e.setSize

/-- Payload bytes that the intake holds or still has to forward. -/
def Round.heldBytes (r : Round) : Nat :=
  (r.clients.map fun x => (x.2.frags.map fun g => g.2.2.length).sum).sum + (r.forwardQ.map fun q => q.2.2.2.length - 32).sum

/-- The first check of Table 6.5 that a fragment fails, by its place in the table less one. -/
def State.fragFails (p : Nat) (hold : Nat) (r : Option Round) (f : Bytes) (s : State) : Option Nat :=
  let h := parseFrag f
  match r with
  | none => if fragFormat 0 f then some 1 else some 0
  | some r =>
    let d := r.desc
    let seat := d.intakeSeat s.boot.moduleId p
    let u := (tget h.client r.clients).getD Client.reset
    let first := [!fragFormat d.mode f, r.outcome.isSome || h.roundId != d.roundId, d.intakeDeadline ≤ s.now,
      d.clients ≤ h.client || !assigned seat h.client]
    let later := fun (_ : Unit) => [!s.fragIntact p d f,
      !((List.range (h.bytes / 512)).all fun i => (routeEntry d.maps h.client h.limb (h.coordFirst + 128 * i)).isSome),
      h.count ≤ h.index || (u.fragCount != 0 && u.fragCount != h.count), u.complete || u.held.contains h.index,
      hold < r.heldBytes + h.bytes]
    if first.any id then some (first.findIdx id)
    else let l := later (); if l.any id then some (4 + l.findIdx id) else none

/-- A fold record (Table 6.6) for a client's words. -/
def foldRecord (roundId u limb c : Nat) (e : SliceEntry) (data : Bytes) : Nat × Nat × Nat × Bytes :=
  let part := (c - e.coordFirst) / e.partCoords
  let begins := limb == e.limbFirst && c == e.coordFirst + part * e.partCoords
  (e.owner, e.parcel, part,
    cat [le 4 roundId, le 1 1, le 1 e.cls, le 1 (limb - e.limbFirst), zeros 1, le 8 c, le 4 data.length, le 4 (b2n begins), le 4 u, zeros 4]
      ++ data)

/-- The fold records of one fragment from coordinate `c` on: split at cluster-part boundaries and at 8,192 data bytes (R122). -/
def fragRecords (maps : List SliceEntry) (roundId u limb : Nat) : Nat → Nat → Bytes → List (Nat × Nat × Nat × Bytes)
  | 0, _, _ => []
  | n + 1, c, b =>
    if b.isEmpty then [] else
    match routeEntry maps u limb c with
    | none => []
    | some e =>
      let left := e.partCoords - (c - e.coordFirst) % e.partCoords
      let k := min 2048 left
      foldRecord roundId u limb c e (b.take (4 * k)) :: fragRecords maps roundId u limb n (c + k) (b.drop (4 * k))

/-- The fold records of a complete client. -/
def clientRecords (d : RoundDesc) (u : Nat) (frags : List (Nat × Nat × Bytes)) : List (Nat × Nat × Nat × Bytes) :=
  frags.flatMap fun g => fragRecords d.maps d.roundId u g.1 (g.2.2.length / 512 + 1) g.2.1 g.2.2

/-- The `CLIP_L2` parameters of an image: mode, bound, reject, first coordinate, stream and draw. -/
def clipOf (i : LotImage) : Option (Nat × Nat × Nat × Nat × Nat × Nat) :=
  i.nodes.findSome? fun nd => match nd.params with
    | .clipL2 _ mode _ bound reject g _ _ _ => some (mode, bound, reject, g, nd.stream, nd.draw)
    | _ => none

/-- A sealed client's fragments after `CLIP_L2` over its whole update in coordinate order, or none when it is rejected (R122, R104). -/
def clipClient (x : Context) (frags : List (Nat × Nat × Bytes)) : Option (List (Nat × Nat × Bytes)) :=
  match x.image.bind clipOf with
  | none => none
  | some (mode, bound, reject, g, stream, draw) =>
    let l := frags.mergeSort fun a b => a.2.1 ≤ b.2.1
    let words := (l.flatMap fun f => wordsOf 4 (f.2.2.length / 4) f.2.2).map (sgn 32)
    match clip mode bound reject (fun i => roundWord x.seed stream draw (g + i)) words with
    | none => none
    | some out =>
      let bytes := bytesOf 4 (out.map (trunc 32))
      some ((l.foldl (fun (a : List (Nat × Nat × Bytes) × Bytes) f =>
        (a.1 ++ [(f.1, f.2.1, a.2.take f.2.2.length)], a.2.drop f.2.2.length)) ([], bytes)).1)

/-- The client that a fragment makes, before it is known whether it completes. -/
def Client.hold (h : Frag) (rev : Nat) (clear : Bytes) (u : Client) : Client :=
  { u with
    fragCount := h.count
    held := u.held ++ [h.index]
    frags := u.frags ++ [(h.limb, h.coordFirst, clear)]
    mapRev := if u.held.isEmpty then rev else u.mapRev }

/-- A client is complete (R122): its records join those to be forwarded, or it is reported as rejected. -/
def Context.complete (u : Nat) (x : Context) : Context :=
  match x.round with
  | none => x
  | some r =>
    let k := (tget u r.clients).getD Client.reset
    let out := if r.desc.mode = 3 then clipClient x k.frags else some k.frags
    let done := fun (st : Nat) => { k with complete := true, frags := [], status := some st }
    match out with
    | some frags => { x with round := some { r with
        clients := tset u (done 0) r.clients
        newStatus := r.newStatus ++ [(u, 0)]
        forwardQ := r.forwardQ ++ clientRecords r.desc u frags } }
    | none => { x with
        discards := x.discards.set 5 ((x.discards.getD 5 0 + 1) % 2 ^ 32)
        round := some { r with
          clients := tset u (done 2) r.clients
          newStatus := r.newStatus ++ [(u, 2)] } }

/-- An accepted fragment. -/
def State.holdFrag (p c : Nat) (f : Bytes) (s : State) : State :=
  let h := parseFrag f
  s.modCtx p c fun x =>
    match x.round with
    | none => x
    | some r =>
      let rev := match routeEntry r.desc.maps h.client h.limb h.coordFirst with | some e => e.mapRev | none => 0
      let k := ((tget h.client r.clients).getD Client.reset).hold h rev (s.fragClear p r.desc f)
      let y := { x with round := some { r with clients := tset h.client k r.clients } }
      if k.held.length = h.count then y.complete h.client else y

/-- The lowest open connection of a parcel toward a module and parcel. -/
def State.connToward (p module parcel : Nat) (s : State) : Option Nat :=
  (s.connsOf p).find? fun id => let k := s.conn id; k.state == 3 && k.peerModule == module && k.peerParcel == parcel

/-- Forward what the windows allow, in order on each connection (R122, R184): the records still to be sent. -/
def State.forwardAll (p : Nat) : List (Nat × Nat × Nat × Bytes) → State → List (Nat × Nat × Nat × Bytes) → State × List (Nat × Nat × Nat × Bytes)
  | [], s, kept => (s, kept)
  | q :: l, s, kept =>
    match s.connToward p q.1 q.2.1 with
    | some id =>
      if s.resident id && (s.conn id).canSend then State.forwardAll p l (s.sendSeq id kLeaf false q.2.2.1 none q.2.2.2) kept
      else State.forwardAll p l s (kept ++ [q])
    | none => State.forwardAll p l s (kept ++ [q])

/-- The intake of the running context forwards in rods 0 and 2 (Table 2.2, R122). -/
def State.forwards (p : Nat) (s : State) : State :=
  match s.holder p with
  | some (c, x) =>
    match x.round with
    | some r =>
      if s.clock.rod % 2 = 0 && r.desc.role == 1 && !r.forwardQ.isEmpty then
        let o := s.forwardAll p r.forwardQ []
        o.1.modCtx p c (Context.modRound fun r => { r with forwardQ := o.2 })
      else s
    | none => s
  | none => s

/-- The count of a discarded fragment by reason (R121), and for the round where no map covers it (R20). -/
def Context.discardFrag (why : Nat) (x : Context) : Context :=
  { (x.modRound fun r => { r with unmappedCount := r.unmappedCount + b2n (why == 5) }) with intakeCounts := addAt why 1 x.intakeCounts }

/-- R120 to R122. The running intake context meets a client fragment: held, or discarded and counted; a complete client is forwarded. -/
def execClientFragment (p ctx : Nat) (frag : Bytes) (s : State) : Host.Outcome State Fault Refusal :=
  .next (match if s.clock.reserve then none else s.holder p with
    | some (c, x) =>
      if c ≠ ctx || x.role ≠ 1 then s else
      let hold := match x.image with | some i => i.holdBytes | none => 0
      match s.fragFails p hold x.round frag with
      | some why => s.modCtx p c (Context.discardFrag why)
      | none => (s.holdFrag p c frag).forwards p
    | none => s)

/-- Intake discards are reported once per chain, to the VF (R121). -/
def State.intakeReport (p c : Nat) (s : State) : State :=
  let x := s.ctx p c
  if x.intakeCounts = x.intakeSeen then s else
  (s.evVf p 0x0604 ((p * 8 + c) :: s.now :: List.zipWith (fun a b => a - b) x.intakeCounts x.intakeSeen)).modCtx p c fun x => { x with intakeSeen := x.intakeCounts }

/-- R122. The boundary that opens chain `INTAKE_DEADLINE`: clients that are not complete are dropped, and their fragments are gone. -/
def execIntakeDeadline (p ctx : Nat) (s : State) : Host.Outcome State Fault Refusal :=
  .next (match (s.ctx p ctx).round with
    | some r =>
      if r.outcome.isNone && r.desc.role == 1 && !r.deadlinePassed && r.desc.intakeDeadline ≤ s.now then
        s.modCtx p ctx (Context.modRound fun r => { r with
          deadlinePassed := true
          clients := r.clients.map fun k => if k.2.complete then k else (k.1, { k.2 with frags := [] }) })
      else s
    | none => s)

/-! Receipts (R125). -/

/-- One receipt message. -/
def receiptBytes (roundId module : Nat) (final : Bool) (l : List (Nat × Nat)) : Bytes :=
  cat [le 4 roundId, le 2 module, le 2 (b2n final), le 4 l.length, zeros 4] ++ l.flatMap fun e => le 4 (e.1 + e.2 * 2 ^ 20)

/-- The messages of a receipt: at most 2,044 entries in each, `FINAL` on the last only (R125, R360). -/
def receiptMsgs (roundId module : Nat) (final : Bool) (l : List (Nat × Nat)) : List Bytes :=
  let ps := if l.isEmpty then [[]] else chunks 2044 (l.length / 2044 + 1) l
  (List.range ps.length).map fun i => receiptBytes roundId module (final && i + 1 == ps.length) (ps.getD i [])

/-- Send messages to every keep member of a round. -/
def State.toKeeps (d : RoundDesc) (msgs : List Bytes) (s : State) : State :=
  (d.ofRole 3).foldl (fun t m => msgs.foldl (fun t b => t.emit (.roundTransfer (memberModule m) (memberParcel m) b)) t) s

/-- The intake sends a receipt of the statuses that changed (R125). -/
def State.sendReceipt (p c : Nat) (s : State) : State :=
  match (s.ctx p c).round with
  | some r =>
    if r.outcome.isSome || r.desc.role != 1 || r.newStatus.isEmpty then s else
    (s.toKeeps r.desc (receiptMsgs r.desc.roundId s.boot.moduleId false r.newStatus)).modCtx p c (Context.modRound fun r => { r with
      listed := r.listed ++ r.newStatus.map (·.1)
      newStatus := [] })
  | none => s

/-- Every forward of the intake has been made visible at its fold member (R125): none waits, and no `LEAF` message is outstanding. -/
def State.forwardsVisible (p : Nat) (r : Round) (s : State) : Bool :=
  r.forwardQ.isEmpty && (s.connsOf p).all fun id => (s.conn id).outst.all fun o => o.msg.kind != kLeaf

/-- R125. The `FINAL` receipt: every assigned client that no earlier receipt listed is dropped. -/
def execFinalReceipt (p ctx : Nat) (s : State) : Host.Outcome State Fault Refusal :=
  .next (match (s.ctx p ctx).round with
    | some r =>
      if r.outcome.isNone && r.deadlinePassed && !r.finalSent && s.forwardsVisible p r then
        let t := s.sendReceipt p ctx
        match (t.ctx p ctx).round with
        | some r =>
          let seat := r.desc.intakeSeat s.boot.moduleId p
          let rest := ((List.range r.desc.clients).filter fun u => assigned seat u && !r.listed.contains u).map fun u => (u, 1)
          (t.toKeeps r.desc (receiptMsgs r.desc.roundId s.boot.moduleId true rest)).modCtx p ctx (Context.modRound fun r => { r with
            finalSent := true
            listed := r.listed ++ rest.map (·.1) })
        | none => t
      else s
    | none => s)

/-! The keep (R125, R126, R133, R134). -/

/-- Fix the statuses of a receipt: the first for each client stands (R125). -/
def Round.fix (l : List Nat) (r : Round) : Round :=
  { r with statuses := l.foldl (fun m w =>
      let u := w % 2 ^ 20
      if r.desc.clients ≤ u || (tget u m).isSome then m else tset u (w / 2 ^ 20 % 16) m) r.statuses }

/-- Every intake member has sent its `FINAL` receipt (R126). -/
def Round.allFinal (r : Round) : Bool :=
  (r.desc.ofRole 1).all fun m =>
    ((r.desc.ofRole 1).filter fun n => memberModule n == memberModule m).length ≤ (r.finals.filter (· == memberModule m)).length

/-- The roster close record (R126). -/
def Round.closeRecordBytes (r : Round) : Bytes :=
  cat [le 4 r.desc.roundId, le 4 r.survivors, le 4 r.dropped,
    le 48 (Config.sha384 (le (ceilDiv r.desc.clients 8) (maskOf ((r.statuses.filter fun x => x.2 == 0).map (·.1))))).toNat]

/-- A slice result from its message (R133). -/
def parseResult (b : Bytes) : SliceResult :=
  { module := fld 4 2 b
    limbFirst := fld 6 1 b
    limbCount := fld 7 1 b
    coordFirst := fld 8 8 b
    coordCount := fld 16 4 b
    format := fld 20 1 b
    qScale := fld 21 1 b
    contrib := fld 24 4 b
    words := b.drop 64 }

/-- The header of a slice result (R133). -/
def resultHeader (roundId : Nat) (x : SliceResult) : Bytes :=
  cat [le 4 roundId, le 2 x.module, le 1 x.limbFirst, le 1 x.limbCount, le 8 x.coordFirst, le 4 x.coordCount, le 1 x.format,
    le 1 x.qScale, zeros 2, le 4 x.contrib, zeros 36]

/-- The result that has arrived for a root entry. -/
def Round.resultOf (e : SliceEntry) (r : Round) : Option SliceResult :=
  r.results.find? fun x => x.limbFirst == e.limbFirst && x.coordFirst == e.coordFirst

/-- The root entries of a round. -/
def Round.roots (r : Round) : List SliceEntry := r.desc.maps.filter (·.branch == 0)

/-- A result is a good slice: not lost, and its contributors are the survivors (R134). -/
def Round.sliceGood (r : Round) (x : SliceResult) : Bool := x.format != 3 && x.contrib == r.survivors

/-- R134. Once the roster is closed: too few survivors end the round; when every slice is in, it is published, or what arrived is. -/
def State.judgeRound (p c : Nat) (s : State) : State :=
  match (s.ctx p c).round with
  | some r =>
    if r.outcome.isSome || !r.rosterClosed then s
    else if r.survivors < r.desc.minSurvivors then s.endRound p c 1
    else
      let got := r.roots.map r.resultOf
      if got.any (·.isNone) then s else
      let l := got.filterMap id
      if l.all r.sliceGood then (s.emit (.published p (l.flatMap (·.words)))).endRound p c 0
      else
        let arrived := l.filter (·.format != 3)
        (s.emit (.published p (arrived.flatMap fun x => resultHeader r.desc.roundId x ++ x.words))).endRound p c 3
  | none => s

/-- The keep's open round of a context. -/
def State.keepRound (p c : Nat) (s : State) : Option Round :=
  match (s.ctx p c).round with
  | some r => if r.outcome.isNone && r.desc.role == 3 && (s.ctx p c).started then some r else none
  | none => none

/-- Close the roster once every `FINAL` has come (R126); in masked mode the close record is published. -/
def State.closeRoster (p c : Nat) (s : State) : State :=
  match s.keepRound p c with
  | some r =>
    if !r.rosterClosed && r.allFinal then
      let record := r.closeRecordBytes
      let t := s.modCtx p c (Context.modRound fun r => { r with rosterClosed := true })
      if r.desc.mode = 1 then t.emit (.published p record) else t
    else s
  | none => s

/-- R125, R126. The keep takes a receipt. -/
def execReceipt (p ctx : Nat) (msg : Bytes) (s : State) : Host.Outcome State Fault Refusal :=
  .next (match s.keepRound p ctx with
    | some r =>
      let m := fld 4 2 msg
      if msg.length ≠ 16 + 4 * fld 8 4 msg || fld 0 4 msg ≠ r.desc.roundId || !(r.desc.ofRole 1).any (fun x => memberModule x == m) then s
      else
        let t := s.modCtx p ctx (Context.modRound fun r =>
          let r := r.fix (wordsOf 4 (fld 8 4 msg) (msg.drop 16))
          if bit 0 (fld 6 2 msg) then { r with finals := r.finals ++ [m] } else r)
        (t.closeRoster p ctx).judgeRound p ctx
    | none => s)

/-- R133, R134. The keep takes a slice result: the first for each root entry counts. -/
def execSliceResult (p ctx : Nat) (msg : Bytes) (s : State) : Host.Outcome State Fault Refusal :=
  .next (match s.keepRound p ctx with
    | some r =>
      let x := parseResult msg
      let known := r.roots.any fun e => e.owner == x.module && e.limbFirst == x.limbFirst && e.coordFirst == x.coordFirst && (r.resultOf e).isNone
      if msg.length < 64 || fld 0 4 msg ≠ r.desc.roundId || !known then s
      else (s.modCtx p ctx (Context.modRound fun r => { r with results := r.results ++ [x] })).judgeRound p ctx
    | none => s)

/-! Closing (R117, R128, R297). -/

/-- A cluster's leaves hold an unconsumed record of the round that was published by the acceptance of its close (R128). -/
def Cluster.beforeClose (roundId : Nat) (k : Cluster) : Bool :=
  k.leaves.any fun l => l.recs.any fun r => !r.used && !r.afterClose && fld 0 4 r.header == roundId

/-- R128. The close stake is signalled at the first chain boundary at which every such record has been consumed. -/
def execCloseStakeSignal (p ctx : Nat) (s : State) : Host.Outcome State Fault Refusal :=
  .next (match (s.ctx p ctx).round, (s.ctx p ctx).image with
    | some r, some i =>
      if r.outcome.isNone && r.closeTaken.isSome && !r.closeSignalled && s.clock.rod == 0
          && !(List.range (s.parcel p).logical).any (fun k => (s.lead p k).beforeClose r.desc.roundId) then
        let t := s.modCtx p ctx (Context.modRound fun r => { r with closeSignalled := true })
        match i.stakes.find? (·.close) with
        | some d => t.signalCtx p ctx d.stake 1
        | none => t
      else s
    | _, _ => s)

/-- R117. The start of chain `CLOSE_DEADLINE`: a round that is not published ends with outcome 2. -/
def execCloseDeadline (p ctx : Nat) (s : State) : Host.Outcome State Fault Refusal :=
  .next (match (s.ctx p ctx).round with
    | some r => if r.outcome.isNone && r.desc.closeDeadline ≤ s.now then s.endRound p ctx 2 else s
    | none => s)

/-- The slice-lost notice of a fold context with an open round that faulted or was stopped (R297): one header for each of its entries to
each keep member, on the connection of its slice result, if that is `OPEN`. -/
def State.lostNotice (p c : Nat) (s : State) : State :=
  match (s.ctx p c).round, (s.ctx p c).image with
  | some r, some i =>
    let isUp := match i.resultConn with | some id => (s.conn id).state == 3 | none => false
    if r.outcome.isNone && r.desc.role == 2 && isUp then
      (ownEntries s.boot.moduleId p r.desc.maps).foldl (fun t e =>
        t.toKeeps r.desc [resultHeader r.desc.roundId
          ⟨s.boot.moduleId, e.limbFirst, e.limbCount, e.coordFirst, 0, 3, 0, 0, []⟩]) s
    else s
  | _, _ => s

end Sys2Proof.Machine
end

