-- ==== Sys2Proof/Machine/Spans.lean ====
section
/-! DEFINITION. Contexts in time: the pattern's progress and overruns, spans and swaps, and a context's start, finish, stop, fault release, unload and
snapshot (R24, R27 to R29, R40, R41, R251, R252, R254, R262, R270, R297, R359). -/

namespace Sys2Proof.Machine

/-! Causes (Table 17.5). -/
def fcOverrun : Nat := 0x0210
def fcHang : Nat := 0x1401
def fcHangLost : Nat := 0x1402

/-! Progress and overruns (R40, R41). -/

/-- The context has finished a rod that it was due in (R40). -/
def Context.rodDone (rod : Nat) (x : Context) : Context :=
  if x.rodNext = rod && !x.rodStopped then
    if rod = 3 then { x with rodNext := 0, patternPos := x.patternPos + 1 } else { x with rodNext := rod + 1 }
  else x

/-- The output rows in flight on a parcel's clusters land (R24): what a trestle has issued lands within the reserve. -/
def State.landAll (p : Nat) (s : State) : State :=
  (List.range (s.parcel p).logical).foldl (fun t k =>
    (List.range (t.lead p k).inflight.length).foldl (fun u _ => u.shelfWrite p k) t) s

/-- The rod that runs now ends for every parcel (R40): finished contexts move on in their patterns. -/
def State.endRod (s : State) : State :=
  (List.range 16).foldl (fun t p =>
    if t.working && (t.parcel p).snap.isNone && !((t.parcel p).idleRods && t.clock.rod < 3) then
      match t.runner p with
      | some (c, _) => (t.landAll p).modCtx p c (Context.rodDone t.clock.rod)
      | none => t
    else t) s

/-- The context with an overrun counted (R40, R41). -/
def Context.overran (cause : Nat) (x : Context) : Context :=
  { x with
    overruns := x.overruns + 1
    runLen := x.runLen + 1
    runCause := cause
    lateNow := true
    rodStopped := true
    lateRun := if cause = 0 then x.lateRun + 1 else x.lateRun }

/-- An overrun of the running context (R41): reported if it begins a run, and a fault at `LATE_LIMIT`. -/
def State.overrun (p c : Nat) (s : State) : State :=
  let cause := b2n s.clock.throttle
  let x := s.ctx p c
  let t := s.modCtx p c (Context.overran cause)
  let t := if x.runLen = 0 then t.evBoth p 0x0210 [p * 8 + c, s.now, s.clock.rod, cause, 0, 1] else t
  if cause = 0 && x.lateLimit ≤ x.lateRun + 1 then t.faultCtx p c fcOverrun else t

/-- The boundary reserve begins (R24, R40): each context whose work for the rod is not finished is stopped. `late` names the parcels whose
running context has node work left that was due in the rod; queue work is the model's to know (R61). -/
def State.beginReserve (late : List Nat) (s : State) : State :=
  if s.clock.running && !s.clock.reserve then
    let t := (List.range 16).foldl (fun t p =>
      match s.holder p with
      | some (c, x) => if late.contains p || s.queuesLate p x then t.overrun p c else t
      | none => t) s
    { t with clock := { t.clock with reserve := true } }
  else s

/-- R24. The last 128 cycles of a rod begin. -/
def execBoundaryReserve (late : List Nat) (s : State) : Host.Outcome State Fault Refusal :=
  .next (s.beginReserve late)

/-- A run of overrun chains ends with the first clean chain (R41). -/
def Context.cleanChain (x : Context) : Context := { x with runLen := 0, lateRun := 0 }

/-- The chain that ends, for the context that ran in it (R41): a clean chain ends a run and clears the count towards the limit. -/
def State.chainEnd (p : Nat) (s : State) : State :=
  let t :=
    match if s.working then s.runner p else none with
    | some (c, x) =>
      if x.lateNow || (s.parcel p).idleRods || (s.parcel p).snap.isSome then s
      else
        let t := s.modCtx p c Context.cleanChain
        if x.runLen = 0 then t else t.evBoth p 0x0210 [p * 8 + c, s.now, 0, x.runCause, 1, x.runLen]
    | none => s
  t.modParcel p fun q => { q with contexts := q.contexts.map fun x => { x with lateNow := false, rodStopped := false } }

/-! Entering the clusters (R28, R53, R63, R252, R270). -/

/-- The queue program that an image gives queue `q` of logical cluster `k` (R358). -/
def imageQueue (i : LotImage) (k q : Nat) : List Descr :=
  match i.plan.find? fun g => g.queue == q && bit k g.clusterMask with | some g => g.descs | none => []

/-- What a context starts with on a logical cluster (R251, R93, R358). -/
def freshCluster (i : LotImage) (k : Nat) : CtxCluster :=
  { CtxCluster.reset with
    nodes := List.replicate i.nodes.length NodeRun.reset
    queues := (List.range 4).map fun q => { Queue.reset with descs := imageQueue i k q } }

/-- The stakes of a context, by logical number, with their values. -/
def State.stakesOf (p c : Nat) (s : State) : List (Nat × BitVec 32) :=
  (List.range (s.parcel p).logical).flatMap fun k =>
    ((s.lead p k).stakes.filter fun x => x.2.owner == c).map fun x => (128 * k + x.1, x.2.value)

/-- Set stakes to given values. -/
def State.putStakes (p : Nat) (l : List (Nat × BitVec 32)) (s : State) : State :=
  l.foldl (fun t v => t.modLogical p (v.1 / 128) fun k =>
    match tget (v.1 % 128) k.stakes with
    | some st => { k with stakes := tset (v.1 % 128) { st with value := v.2 } k.stakes }
    | none => k) s

/-- The bytes that a swap saves of logical cluster `k` (R252). -/
def State.swapBytes (p c k : Nat) (s : State) : Bytes :=
  match (s.ctx p c).image with
  | some i => i.swapMap.flatMap fun o => s.readSpace p k o.space o.addr o.length
  | none => []

/-- Save a context's swap bytes, cluster by cluster (R28 step 2). -/
def State.swapOut (p c : Nat) (s : State) : State :=
  s.modCtx p c fun x => { x with saved := (List.range x.width).map fun k => (k, s.swapBytes p c k) }

/-- Put saved bytes back at the addresses of a swap map. -/
def State.putSaved (p k : Nat) : List Operand → Bytes → State → State
  | [], _, s => s
  | o :: l, b, s => State.putSaved p k l (b.drop o.length) (s.writeSpace false p k o.space o.addr (b.take o.length))

/-- Empty the parcel's bench stores, scratch and engines (R254, R63). -/
def State.clearStores (p : Nat) (s : State) : State :=
  s.modClusters (s.parcel p).clusters fun k => { k.dropStores with
    moduli := [], inflight := [], weights := none, active := [], shadow := none, shadowW := [], pairStall := false }

/-- Restore a context's stores and modulus table, and instantiate its cluster generators (R28 step 3, R53, R270). -/
def State.swapIn (p c : Nat) (s : State) : State :=
  let t := s.clearStores p
  match (s.ctx p c).image with
  | none => t
  | some i =>
    let t := (s.ctx p c).saved.foldl (fun t b => t.putSaved p b.1 i.swapMap b.2) t
    let t := t.modClusters (s.parcel p).clusters fun k => { k with moduli := i.moduli }
    (t.modCtx p c fun x => { x with clusters := x.clusters.map fun k =>
      { k with generator := if s.canDraw then some s.now else none } }).drawnMany (s.ctx p c).width

/-- The context as it begins a span: its state there is kept for a replay (R302). -/
def State.markSpan (p c : Nat) (s : State) : State :=
  s.modCtx p c fun x => { x with
    atStart := x.clusters
    posStart := x.patternPos
    rodStart := x.rodNext
    stakesStart := s.stakesOf p c
    lostWork := false }

/-- Context `c` runs parcel `p` from the chain that opens (R27). -/
def State.enter (p c : Nat) (s : State) : State :=
  (s.modParcel p fun q => { q with
    running := some c
    lastRan := c
    spanDone := 0
    swapDue := false
    swapTo := none
    idleRods := false }).markSpan p c

/-- Declared preloads of an image on logical cluster `k` (R54, R359). -/
def clusterPreloads (i : LotImage) (k : Nat) : List Preload := i.preloads.filter fun x => bit k x.clusterMask

/-- The declared preloads run at the start of rod 0 of the context's first running chain (R359). -/
def State.declaredPreloads (p : Nat) (s : State) : State :=
  if s.clock.rod ≠ 0 then s else
  match s.holder p with
  | some (c, x) =>
    match x.image with
    | some i =>
      (List.range i.ledger.clusters).foldl (fun t k =>
        if ((t.ctx p c).on k).preloaded then t else
        ((clusterPreloads i k).foldl (fun t y => t.ifUp p c fun t => t.preload p c k y) t).modCtx p c
          (Context.modOn k fun y => { y with preloaded := true })) s
    | none => s
  | none => s

/-! Selection (R27 to R29). -/

/-- The next of a list of contexts in rotation after `c` (R27). -/
def nextAfter (c : Nat) (l : List Nat) : Option Nat :=
  match l.filter (c < ·) with
  | d :: _ => some d
  | [] => l.head?

/-- The contexts of a parcel that take turns: started, and not about to stop or finish (R27). -/
def Parcel.runnable (q : Parcel) : List Nat :=
  (List.range 8).filter fun c => let x := q.ctx c; x.started && !x.pendStop && !x.pendFinish

/-- The span log of a context. -/
def Context.spanChains (x : Context) : Nat := match x.image with | some i => 2 ^ i.ledger.spanLog2 | none => 1

/-- The running context still takes turns. -/
def Parcel.runsOn (q : Parcel) : Bool := match q.running with | some c => q.runnable.contains c | none => false

/-- A swap or a restore is due in rod 3 of this chain (R28, R29). -/
def Parcel.swapWanted (q : Parcel) : Bool :=
  q.snap.isNone && q.replay.isNone
    && (match q.running with
      | some c => if q.runsOn then q.swapDue && (q.runnable.filter (· != c)).length != 0 else !q.runnable.isEmpty
      | none => q.idleRods && !q.runnable.isEmpty)

/-- Rod 3 begins: what is due in it is fixed (R29). -/
def State.markSwaps (s : State) : State :=
  { s with parcels := s.parcels.map fun q => { q with swapReady := s.working && s.clock.rod == 3 && q.swapWanted } }

/-- The outgoing context's rod 3 work ends (R28): finished, or stopped and counted as an overrun. -/
def State.leaveRod (p c : Nat) (s : State) : State :=
  let s := s.landAll p
  match s.holder p with
  | some (_, x) =>
    if s.queuesLate p x then s.overrun p c
    else s.modCtx p c (Context.rodDone 3)
  | none => s

/-- Swap or restore in rod 3 (R28, R29). -/
def State.swap (p : Nat) (s : State) : State :=
  let q := s.parcel p
  match nextAfter q.lastRan (if q.runsOn then q.runnable.filter (q.running != some ·) else q.runnable) with
  | none => s
  | some d =>
    let t :=
      match q.running with
      | some c => if q.runsOn then (s.leaveRod p c).swapOut p c else s
      | none => s
    (t.swapIn p d).modParcel p fun q => { q with swapTo := some d, swapReady := false }

/-- R28. A span's swap, or the restore after a context's end (R29), in rod 3 of a working chain. -/
def execContextSwap (p : Nat) (s : State) : Host.Outcome State Fault Refusal :=
  .next (if s.working && s.clock.rod = 3 && (s.parcel p).swapReady && (s.parcel p).swapWanted && (s.parcel p).swapTo.isNone then s.swap p else s)

/-- One more chain of the running span (R27): the swap is due in its last chain, if another context takes turns. -/
def Parcel.spanOn (c : Nat) (q : Parcel) : Parcel :=
  let k := (q.ctx c).spanChains
  let n := if k ≤ q.spanDone + 1 && (q.runnable.filter (· != c)).isEmpty then 0 else q.spanDone + 1
  { q with
    spanDone := n
    swapDue := (q.swapDue || k ≤ n + 1) && (q.runnable.filter (· != c)).length != 0 }

/-- The scheduler selects the context that runs the chain that opens (R26 step 5, R27 to R29). -/
def State.select (p : Nat) (s : State) : State :=
  let q := s.parcel p
  if q.snap.isSome || q.replay.isSome then s.modParcel p fun q => { q with spanDone := q.spanDone + 1 }
  else
    match q.swapTo with
    | some d =>
      if (q.ctx d).started then s.enter p d
      else s.modParcel p fun q => { q with swapTo := none, running := none, idleRods := !q.runnable.isEmpty }
    | none =>
      match q.running with
      | some c =>
        if (q.ctx c).started then s.modParcel p (Parcel.spanOn c)
        else s.modParcel p fun q => { q with running := none, idleRods := !q.runnable.isEmpty }
      | none =>
        if q.idleRods && !q.runnable.isEmpty then s
        else
          match nextAfter q.lastRan q.runnable with
          | some d => (s.swapIn p d).enter p d
          | none => s.modParcel p fun q => { q with idleRods := false }

/-- The first span of a context that enters alone is also its last chain where its span is one chain (R27, R28). -/
def State.selectAll (s : State) : State :=
  (List.range 16).foldl (fun t p =>
    let u := t.select p
    u.modParcel p fun q =>
      match q.running with
      | some c => if q.spanDone = 0 && q.snap.isNone && q.replay.isNone && (q.ctx c).spanChains ≤ 1 then
          { q with swapDue := (q.runnable.filter (· != c)).length != 0 } else q
      | none => q) s

/-! Ends of a context (R251, R254, R56, R297). -/

/-- The context's graph is complete (Table 11.3): every node on every cluster that it runs on, or, without nodes, one pass of every queue. -/
def Context.graphDone (x : Context) : Bool :=
  match x.image with
  | none => false
  | some i =>
    if i.nodes.isEmpty then
      (List.range i.ledger.clusters).all fun k => (x.on k).queues.all fun q => q.descs.isEmpty || 4 * i.ledger.patternChains ≤ q.mark
    else
      (List.range i.nodes.length).all fun n =>
        match i.nodes[n]? with
        | some nd => (nodeClusters i.ledger.clusters nd).all fun k => x.nodeState k n == 3
        | none => true

/-- R251. A running context whose graph is complete finishes at the end of the chain. -/
def execContextFinish (p ctx : Nat) (s : State) : Host.Outcome State Fault Refusal :=
  .next (match s.runner p with
    | some (c, x) =>
      if c = ctx && !x.pendFinish && (s.parcel p).replay.isNone && x.graphDone then s.modCtx p c fun x => { x with pendFinish := true } else s
    | none => s)

/-- The snapshot that a stop or fault of context `c` begins, if the grant in force asks for one and the parcel is not closing (R262). -/
def State.snapshotOf (p c : Nat) (s : State) : Option Snapshot :=
  let q := s.parcel p
  if q.grant.toNat.testBit 2 && q.state != 4 then
    some { Snapshot.reset with
      context := c
      chain := s.now
      cause := if (s.ctx p c).state = 5 then 1 else if q.running = some c then 0 else 2 }
  else none

/-- Release and invalidation of an ended context (Tables 11.4 and 14.5). -/
def State.releaseCtx (p c : Nat) (s : State) : State :=
  ((((s.dropHeld p c).freeStakes p c).endEngines p c)).modCtx p c fun x => { x with pendRelease := false }

/-- A stopped or faulted context is released at a chain boundary: its round ends, with a notice from a fold member (R297), and a consented
snapshot comes first (R262). Its keep's report gives outcome 3 (DESIGN CHOICE, log entry 21). -/
def State.endCtx (p c : Nat) (s : State) : State :=
  let x := s.ctx p c
  if !x.pendRelease || (s.parcel p).snap.isSome then s else
  let t := if (s.parcel p).state = 4 then s else s.lostNotice p c
  let t := t.endRoundOnly p c 3
  match t.snapshotOf p c with
  | some n => t.modParcel p fun q => { q with snap := some n }
  | none => t.releaseCtx p c

/-- The context takes the state changes that wait for the boundary (Table 11.3): stop, finish. -/
def Context.turn (x : Context) : Context :=
  if x.pendStop && x.started then { x with state := 4, pendStop := false, pendFinish := false, pendRelease := true }
  else if x.pendFinish && x.started then { x with state := 3, pendFinish := false }
  else { x with pendStop := false, pendFinish := false }

/-- A finished context releases its stakes and stores. -/
def State.finishCtx (p c : Nat) (s : State) : State := (s.freeStakes p c).endEngines p c

/-- `lot.unload` takes effect (R251, R254): its rows are invalidated, and the context is empty. It waits for a snapshot in progress. -/
def State.unloadCtx (p c : Nat) (s : State) : State :=
  let x := s.ctx p c
  if !x.pendUnload || x.pendRelease || (match (s.parcel p).snap with | some n => n.context == c | none => false) then s else
  let inRange := fun (r : Nat) => x.rows.1 ≤ r && r < x.rows.1 + x.rows.2
  (s.modClusters (s.parcel p).clusters (Cluster.dropRows fun r w => inRange r && rowOwner w.ctrl == c)).modCtx p c fun _ => Context.reset

/-- `context.start` takes effect (R251): engines empty, pattern at its beginning. -/
def Context.begin (x : Context) : Context :=
  if !x.pendStart then x else
  match x.image with
  | some i => { x with
      pendStart := false
      state := 2
      clusters := (List.range i.ledger.clusters).map (freshCluster i)
      patternPos := 0
      rodNext := 0 }
  | none => { x with pendStart := false }

/-- `context.seed` takes effect (R251). -/
def Context.reseed (x : Context) : Context :=
  match x.pendSeed with | some k => { x with seed := k, pendSeed := none } | none => x

/-- Context `c` at a chain boundary (Table 11.3). -/
def State.turnCtx (p c : Nat) (s : State) : State :=
  let before := (s.ctx p c).state
  let t := s.modCtx p c Context.turn
  let t := if before = 2 && (t.ctx p c).state = 3 then t.finishCtx p c else t
  let t := (t.endCtx p c).unloadCtx p c
  t.modCtx p c fun x => x.begin.reseed

/-- Every context of a parcel at a chain boundary. -/
def State.turnCtxs (p : Nat) (s : State) : State := (List.range 8).foldl (fun t c => t.turnCtx p c) s

/-! Snapshots (R262). -/

/-- Bytes of a snapshot record. -/
def snapshotBytes : Nat := 2363392

/-- Chains that a snapshot of `n` logical clusters takes (R262). -/
def snapshotChains (n subchs : Nat) : Nat := ceilDiv (n * snapshotBytes) (subchs * 524288)

/-- The snapshot record of logical cluster `k` (Table 11.7). -/
def State.snapshotRecord (p k : Nat) (n : Snapshot) (s : State) : Bytes :=
  let u := s.lead p k
  let x := s.ctx p n.context
  let held := fun (r : Nat) => rowHeld (u.row r).ctrl
  let live := (s.parcel p).running == some n.context && n.cause != 2
  cat [le 4 0x0A5E5A95, le 1 1, le 1 n.context, le 1 k, le 1 n.cause, le 4 (if x.state = 5 then x.fault.toNat else 0), zeros 4,
    le 8 n.chain, zeros 8, le 32 (maskOf ((List.range 256).filter held)), le 32 u.satMap.toNat, zeros 32,
    (List.range 256).flatMap (fun r => le 4 (u.row r).ctrl.toNat),
    (List.range 128).flatMap (fun i => le 8 (stakeWord (tget i u.stakes)
      ((x.clusters.flatMap (·.queues)).filter fun q => s.queueBlocked p q == some (128 * k + i)).length)),
    zeros 1920,
    (List.range 256).flatMap (fun r => if held r then zeros 1024 else bytesOf 8 ((List.range 128).map (u.row r).nat)),
    if live then Memory.read0 0 2097152 u.scratch else zeros 2097152]

/-- R262. The snapshot's records are complete: written, reported, and the context's stores are invalidated. -/
def execSnapshotDone (p : Nat) (s : State) : Host.Outcome State Fault Refusal :=
  .next (match (s.parcel p).snap with
    | some n =>
      let q := s.parcel p
      let w := (s.ctx p n.context).width
      if n.chain + snapshotChains w q.subchs.length ≤ s.now then
        let t := (List.range w).foldl (fun t k => t.extWrite false p (q.snapBase + 2621440 * k) (s.snapshotRecord p k n)) s
        let t := t.evVf p 0x1102 [p * 8 + n.context, n.chain]
        (t.releaseCtx p n.context).modParcel p fun q => { q with snap := none }
      else s
    | none => s)

end Sys2Proof.Machine
end

