-- ==== Sys2Proof/Machine/Hangs.lean ====
section
/-! DEFINITION. The wait-for detector, the replay of suspects and its verdict (R300 to R303). -/

namespace Sys2Proof.Machine

/-! Queues are numbered 4k + q for carry queue q of logical cluster k, and 256 + k for the node issue of cluster k. -/

/-- The first node that has not started on a cluster. -/
def Context.nextNode (k : Nat) (x : Context) : Option Node :=
  match x.image with
  | some i => ((List.range i.nodes.length).filterMap fun n =>
      match i.nodes[n]? with | some nd => if bit k nd.clusterMask && x.nodeState k n == 0 then some nd else none | none => none).head?
  | none => none

/-- The queue numbers of a context. -/
def Context.queueCodes (x : Context) : List Nat := List.range (4 * x.width) ++ (List.range x.width).map (256 + ·)

/-- The stake that a queue is blocked on. -/
def State.blockedAt (p : Nat) (x : Context) (q : Nat) (s : State) : Option Nat :=
  if q < 256 then s.queueBlocked p (x.queue (q / 4) (q % 4))
  else match x.nextNode (q - 256) with
    | some nd => if s.nodeWait p nd then none else some nd.waitStake
    | none => none

/-- A queue holds an uncompleted descriptor, or the node issue a node, whose signal names a stake. -/
def Context.holdsSignal (q stake : Nat) (x : Context) : Bool :=
  if q < 256 then
    let u := x.queue (q / 4) (q % 4)
    (u.descs ++ u.pushed ++ u.inflight).any fun d => d.opcode != 0 && dSignal d && d.signalStake == stake
  else match x.image with
    | some i => (List.range i.nodes.length).any fun n => match i.nodes[n]? with
      | some nd => bit (q - 256) nd.clusterMask && x.nodeState (q - 256) n == 0 && bit 1 nd.flags && nd.signalStake == stake
      | none => false
    | none => false

/-- A started node, which is never blocked, signals a stake. -/
def Context.runningSignals (stake : Nat) (x : Context) : Bool :=
  match x.image with
  | some i => (List.range i.nodes.length).any fun n => match i.nodes[n]? with
    | some nd => bit 1 nd.flags && nd.signalStake == stake && (List.range x.width).any fun k =>
      bit k nd.clusterMask && (x.nodeState k n == 1 || x.nodeState k n == 2)
    | none => false
  | none => false

/-- Something outside the context may signal a stake (R300): a station, the firmware at the close, the host port. -/
def State.outsideStake (p c stake : Nat) (s : State) : Bool :=
  (match s.stake p (stake / 128) (stake % 128) with | some st => st.remoteEn | none => false)
    || (match (s.ctx p c).image with | some i => i.stakes.any fun d => d.stake == stake && d.close | none => false)
    || (match s.areaOff p with
      | some m => m.context == c && (s.fn (p + 1)).bounce.live && [m.inReady, m.inFree, m.outReady, m.outFree].contains stake
      | none => false)

/-- The blocked queues of a context with their stakes, but for waits that something outside or a running node may end. -/
def State.stuck (p c : Nat) (s : State) : List (Nat × Nat) :=
  let x := s.ctx p c
  x.queueCodes.filterMap fun q => match s.blockedAt p x q with
    | some st => if s.outsideStake p c st || x.runningSignals st then none else some (q, st)
    | none => none

/-- Queues that hold a signal of a stake. -/
def Context.signallers (stake : Nat) (x : Context) : List Nat := x.queueCodes.filter fun q => x.holdsSignal q stake

/-- Keep the waits all of whose signalling queues are stuck too, `n` times: a wait behind a queue that is not blocked is no hang. -/
def stuckCore (sig : Nat → List Nat) : Nat → List (Nat × Nat) → List (Nat × Nat)
  | 0, l => l
  | n + 1, l => stuckCore sig n (l.filter fun w => (sig w.2).all fun q => l.any fun v => v.1 == q)

/-- Queues reached from a set along waits, `n` steps. -/
def reachQueues (sig : Nat → List Nat) (l : List (Nat × Nat)) : Nat → List Nat → List Nat
  | 0, a => a
  | n + 1, a => reachQueues sig l n (a ++ (l.filter fun w => a.contains w.1).flatMap fun w => (sig w.2).filter fun q => !a.contains q).dedup

/-- The queues of a hang of context `c` (R300): those on a cycle, and orphan waits that stood at the check before too. -/
def State.hung (p c : Nat) (s : State) : List Nat :=
  let x := s.ctx p c
  let all := s.stuck p c
  let l := stuckCore (fun st => x.signallers st) all.length all
  let cycle := l.filter fun w => (reachQueues (fun st => x.signallers st) l l.length (x.signallers w.2)).contains w.1
  let orphans := all.filter fun w => (x.signallers w.2).isEmpty && x.blockedOn.contains w
  ((cycle ++ orphans).map (·.1)).dedup

/-- Remember what each queue is blocked on, for the next check (R300). -/
def State.noteBlocked (p c : Nat) (s : State) : State :=
  let l := s.stuck p c
  s.modCtx p c fun x => { x with blockedOn := l }

/-- The ledger declares a use of the engine of a queue (R301): the carry engine, or for the node issue the engines of nodes. -/
def usesEngine (i : LotImage) (q : Nat) : Bool :=
  i.entries.any fun e => e.worst != 0 &&
    if q < 256 then e.resource == 3 && e.unit == q / 4 else [1, 2, 4, 5].contains e.resource && e.unit == q - 256

/-- The suspects of a hang (R301): the blocked context, and every started one whose ledger declares use of an involved engine. -/
def State.suspects (p c : Nat) (involved : List Nat) (s : State) : List Nat :=
  (List.range 8).filter fun d => (s.ctx p d).started
    && (d == c || match (s.ctx p d).image with | some i => involved.any (usesEngine i) | none => false)

/-- Involved engines, one bit each: bit k for the carry engine of cluster k, bit 64 + k for its node engines. -/
def engineMask (l : List Nat) : Nat := maskOf (l.map fun q => if q < 256 then q / 4 else 64 + (q - 256))

/-- `EV_HANG` (R303). -/
def State.evHang (p engines : Nat) (suspects guilty : List Nat) (s : State) : State :=
  s.evBoth p 0x1402 [s.now, engines, maskOf suspects, maskOf guilty]

/-- The engine state, stakes and place in the pattern of a context at its last span start (R302). -/
def State.rewind (p c : Nat) (s : State) : State :=
  let x := s.ctx p c
  (s.modCtx p c fun x => { x with
    clusters := x.atStart.map fun k => k
    patternPos := x.posStart
    rodNext := x.rodStart
    rodStopped := false
    blockedOn := [] }).putStakes p x.stakesStart

/-- Begin the replay of suspect `c` alone on the parcel's clusters (R302). -/
def State.startReplay (p c : Nat) (s : State) : State :=
  let t := (s.rewind p c).swapIn p c
  let t := t.modClusters (t.parcel p).clusters fun k => { k with replayReads := 0 }
  t.modParcel p fun q => { q with
    running := some c
    idleRods := false
    replay := q.replay.map fun r => { r with started := s.now } }

/-- A swapped-out suspect's state is its present one (R302). -/
def State.markSuspects (p c : Nat) (l : List Nat) (s : State) : State :=
  l.foldl (fun t d => if d = c then t else
    t.modCtx p d fun x => { x with atStart := x.clusters, posStart := x.patternPos, rodStart := x.rodNext, stakesStart := s.stakesOf p d }) s

/-- A hang of the running context `c` (R301, R303). -/
def State.onHang (p c : Nat) (involved : List Nat) (s : State) : State :=
  let sus := s.suspects p c involved
  let eng := engineMask involved
  let allGuilty := fun (_ : Unit) => (sus.foldl (fun t d => t.faultCtx p d fcHang) s).evHang p eng sus sus
  let again := match (s.parcel p).lastHang with | some (n, l) => l == sus && s.now ≤ n + 1024 | none => false
  if sus.length ≤ 1 || again then allGuilty ()
  else
    let t := (s.clearStores p).markSuspects p c sus
    let t := t.modParcel p fun q => { q with
      swapTo := none
      swapDue := false
      replay := some { Replay.reset with
        suspects := sus
        pending := sus
        blocked := c
        engines := eng
        lost := (s.ctx p c).lostWork } }
    t.startReplay p (sus.headD c)

/-- Station signals that were held during the replays apply (R302). -/
def State.releaseSignals (p : Nat) (l : List (Nat × Nat)) (s : State) : State := l.foldl (fun t x => t.signal p x.1 x.2) s

/-- The verdict once every suspect has been replayed (R303). -/
def State.verdict (p : Nat) (r : Replay) (s : State) : State :=
  let t := s.modParcel p fun q => { q with
    replay := none
    lastHang := if r.guilty.isEmpty then some (s.now, r.suspects) else q.lastHang }
  let t := r.guilty.foldl (fun t d => t.faultCtx p d fcHang) t
  let t := if r.lost && !r.guilty.contains r.blocked then t.faultCtx p r.blocked fcHangLost else t
  let t := if (t.ctx p r.blocked).started then (t.swapIn p r.blocked).modParcel p fun q => { q with running := some r.blocked, lastRan := r.blocked }
    else t.modParcel p fun q => { q with running := none, idleRods := !q.runnable.isEmpty }
  (t.releaseSignals p r.signals).evHang p r.engines r.suspects r.guilty

/-- The replay of the head suspect ends (R302): its state before the replay returns, the stores are invalidated, and the next one or the verdict
follows. -/
def State.endReplay (p : Nat) (r : Replay) (hang : Bool) (s : State) : State :=
  match r.pending with
  | [] => s.verdict p r
  | c :: rest =>
    let r := { r with pending := rest, guilty := if hang then r.guilty ++ [c] else r.guilty }
    let t := ((s.rewind p c).clearStores p).modParcel p fun q => { q with replay := some r }
    match rest with
    | d :: _ => t.startReplay p d
    | [] => t.verdict p r

/-- Chains after which a replay without a hang ends (R302). -/
def Context.replayChains (x : Context) : Nat := min x.spanChains 1024

/-- R302, R303. A suspect's replay ends: the detector has found a hang in it, or its chains are over. -/
def execHangReplayEnd (p : Nat) (hung : Bool) (s : State) : Host.Outcome State Fault Refusal :=
  .next (match (s.parcel p).replay with
    | some r =>
      match r.pending with
      | c :: _ =>
        let found := !(s.hung p c).isEmpty
        if hung && found then s.endReplay p r true
        else if !hung && (!(s.ctx p c).started || r.started + (s.ctx p c).replayChains ≤ s.now) then s.endReplay p r false
        else s
      | [] => s.endReplay p r false
    | none => s)

/-- The detector's check of a parcel at a chain boundary (R300). -/
def State.detect (p : Nat) (s : State) : State :=
  if (s.parcel p).snap.isSome then s else
  match s.runner p with
  | none => s
  | some (c, _) =>
    let l := s.hung p c
    let t := s.noteBlocked p c
    if l.isEmpty || (s.parcel p).replay.isSome then t else t.onHang p c l

end Sys2Proof.Machine
end

