-- ==== Sys2Proof/Machine/Faults.lean ====
section
/-! DEFINITION. Faults from outside the running programs: contexts, clusters, memory, the hub, fences that do not complete, and the module reset; migration
and the joining of spares (R9, R257, R259, R296 to R299, R304 to R306, R313 to R316), and the field debug port (R261). -/

namespace Sys2Proof.Machine

def fcMemPoison : Nat := 0x1101
def fcSubchFail : Nat := 0x1102
def fcD2d : Nat := 0x1409
def fcLockstep : Nat := 0x140A
def fcWatchdog : Nat := 0x140B
def fcNoBoot : Nat := 0x140C

/-- The causes of context level (Table 17.5). -/
def contextCauses : List Nat := [0x0210, 0x0301, 0x0302, 0x1101, 0x1201, 0x1401, 0x1402, 0x1406]

/-- R296, R251. A context fault: its engines halt in the cycle; release and invalidation follow at the chain boundary. -/
def execContextFault (p ctx cause : Nat) (s : State) : Host.Outcome State Fault Refusal :=
  .next (if contextCauses.contains cause then s.faultCtx p ctx cause else s)

/-- R296, Table 14.3. An uncorrectable error of a cluster that is awake: a bench, the trestle or shelf, the scratch, leaves or stakes. -/
def execClusterError (cluster : Nat) (err : ClusterErr) (s : State) : Host.Outcome State Fault Refusal :=
  .next (if !(s.cluster cluster).awake then s else
    match err with
    | .bench b => if b < 64 then s.clusterFault cluster fcBench (some b) else s
    | .trestle => s.clusterFault cluster fcTrestle none
    | .scratch => s.clusterFault cluster fcScratch none)

/-- R259. An uncorrectable read faults the reading context; no poisoned value is written. -/
def execMemPoison (p ctx : Nat) (s : State) : Host.Outcome State Fault Refusal := .next (s.faultCtx p ctx fcMemPoison)

/-! The interleave hash (R257). -/

/-- Subchannel and line of a parcel offset. -/
def State.lineOf (p o : Nat) (s : State) : Nat × Nat :=
  let j := o / 2 ^ 34
  let l := o % 2 ^ 34 / 64
  let f := l / 4
  let blk := Config.aes256 s.boot.hashKey (BitVec.ofNat 128 (leNat (le 8 (f / 64) ++ le 2 j ++ le 1 p ++ zeros 5)))
  let k := blk.toNat / 2 ^ (2 * (f % 64)) % 4
  ((s.parcel p).subchs.getD (4 * j + (l % 4 ^^^ k)) 64, f)

/-- The lines of a failed subchannel are lost but for the first `kept` (R319): they hold what the boot's fill left in the spare. -/
def State.loseLines (p x kept : Nat) (s : State) : State :=
  s.modParcel p fun q => { q with mem := q.mem.filter fun c => let w := s.lineOf p c.1; w.1 != x || w.2 < kept }

/-! Subchannels. -/

/-- Retire subchannel `x`; in the enduring profile its spare joins at the next chain boundary (Table 14.8). -/
def State.subchGone (x : Nat) (spare : Option Nat) (s : State) : State :=
  let t := s.platPend 1 x 3
  let t := { t with faults := { t.faults with
    migrate := t.faults.migrate.filter fun m => m.1 != x
    subchFailed := t.faults.subchFailed ++ [x] } }
  match spare with | some n => t.addJoin 1 x n | none => t

/-- R259, R299, R313, R319. A subchannel fails training or loses its command path: its parcel faults. In the enduring profile the die's spare joins; in the
integrated profile it leaves service with its parcel's close. -/
def execSubchFail (subch : Nat) (s : State) : Host.Outcome State Fault Refusal :=
  .next (if !(s.subchInUse subch) || s.faults.subchFailed.contains subch || !s.clock.running then s else
    match s.subchOwner subch with
    | none => s.subchGone subch none
    | some p =>
      let moving := s.faults.migrate.find? fun m => m.1 == subch
      let spare := match moving with | some m => some m.2.1 | none => if s.enduring then s.spareSubch (dieOf subch) else none
      let t := s.parcelFault p fcSubchFail
      match spare with
      | some n => (t.loseLines p subch (match moving with | some m => m.2.2 | none => 0)).subchGone subch (some n)
      | none => { t with faults := { t.faults with subchFailed := t.faults.subchFailed ++ [subch] } })

/-- R259, R313, R315. Corrections above 4,096 in 1,024 chains are reported; in the enduring profile migration to the die's spare begins. -/
def execSubchDegraded (subch count : Nat) (s : State) : Host.Outcome State Fault Refusal :=
  .next (if count ≤ 4096 || 4096 < s.faults.eccCounts.getD subch 0 || 64 ≤ subch then s else
    let t := { s with faults := { s.faults with eccCounts := s.faults.eccCounts.set subch count } }
    let t := (t.evPf 0x1101 [subch, count]).evMgmt 0x1101 [subch, count]
    match if s.enduring && s.subchInUse subch && !s.faults.migrate.any (fun m => m.1 == subch) then s.spareSubch (dieOf subch) else none with
    | some n => { t with faults := { t.faults with migrate := t.faults.migrate ++ [(subch, n, 0)] } }
    | none => t)

/-- Lines of a subchannel (R315). -/
def subchLines : Nat := 2 ^ 26

/-- R315. The last line has been copied: at the next chain boundary the spare takes the subchannel's place. -/
def execMigrationDone (subch : Nat) (s : State) : Host.Outcome State Fault Refusal :=
  .next (match s.faults.migrate.find? fun m => m.1 == subch with
    | some m => if subchLines ≤ m.2.2 then s.subchGone subch (some m.2.1) else s
    | none => s)

/-- What the memory engines do in rod 3 of a working chain (R315, R316): 64 lines of each migration, and 16 lines of the patrol on every other
subchannel in use. -/
def State.patrol (s : State) : State :=
  if !(s.working && s.clock.rod = 3 && s.enduring) then s else
  let busy := fun (x : Nat) => s.faults.migrate.any fun m => m.1 == x || m.2.1 == x
  { s with faults := { s.faults with
    migrate := s.faults.migrate.map fun m => (m.1, m.2.1, min subchLines (m.2.2 + 64))
    patrol := s.faults.patrol.mapIdx fun x n => if s.subchInUse x && !busy x then (n + 16) % subchLines else n } }

/-! Spares join (R314, R315). -/

/-- `EV_SPARE`: kind, retired unit, spare, logical index, chain. -/
def State.evSpare (p kind old new logical : Nat) (s : State) : State :=
  (s.evBoth p 0x1403 [kind, old, new, logical, s.now]).evMgmt 0x1403 [kind, old, new, logical, s.now]

/-- A started context maps onto logical cluster `k` of parcel `p`. -/
def State.mapped (p k : Nat) (s : State) : Bool := (s.parcel p).contexts.any fun x => x.started && k < x.width

/-- A spare cluster takes the place of a retired one. A new partner takes the survivor's stakes and leaves, so that the two go on alike. -/
def State.joinCluster (old new : Nat) (s : State) : State :=
  match s.ownerOf old with
  | none => s
  | some p =>
    let k := (s.parcel p).logicalOf old
    let from_ := match s.live p k with | m :: _ => s.cluster m | [] => s.cluster old
    let idle := (s.live p k).isEmpty
    let t := s.modParcel p fun q => { q with clusters := q.clusters.map fun c => if c = old then new else c }
    let t := t.modCluster new fun _ => { Cluster.reset with
      awake := true
      stakes := from_.stakes
      leaves := if idle then Cluster.reset.leaves else from_.leaves
      filling := if idle then 0 else from_.filling
      moduli := if idle then [] else from_.moduli }
    let t := t.modCluster old fun u => { u with errored := false }
    (t.platSet 0 new 0).evSpare p 0 old new k

/-- A spare subchannel takes the place of a retired one; after a parcel fault the parcel's contexts can be loaded again (Table 14.8). -/
def State.joinSubch (old new : Nat) (s : State) : State :=
  let t := s.platSet 1 new 0
  match s.subchOwner old with
  | none => t
  | some p =>
    let t := t.modParcel p fun q => { q with subchs := q.subchs.map fun x => if x = old then new else x }
    let t := t.evSpare p 1 old new ((s.parcel p).subchs.idxOf old)
    let t := { t with faults := { t.faults with subchFailed := t.faults.subchFailed.filter (· != old) } }
    if (t.parcel p).refusing && !(t.parcel p).subchs.any (t.faults.subchFailed.contains ·) then
      (t.modParcel p fun q => { q with refusing := false }).modClusters (t.parcel p).clusters fun u => { u with fenced := u.errored, gated := u.errored }
    else t

/-- Spares join at a chain boundary; the partner of a pair waits until no started context maps onto the logical cluster (R314). -/
def State.joinSpares (s : State) : State :=
  s.faults.joins.foldl (fun t j =>
    let wait := j.1 == 0 && match t.ownerOf j.2.1 with
      | some p => (t.parcel p).paired && t.mapped p ((t.parcel p).logicalOf j.2.1)
      | none => false
    if wait then t else
    let t := { t with faults := { t.faults with joins := t.faults.joins.filter (· != j) } }
    if j.1 = 0 then t.joinCluster j.2.1 j.2.2 else t.joinSubch j.2.1 j.2.2) s

/-- Fenced clusters are power-gated at a chain boundary (Table 14.5); one that has come back as a spare is ungated. -/
def State.gateClusters (s : State) : State :=
  { s with clusters := s.clusters.mapIdx fun c u =>
    if u.fenced && !u.errored && (s.platCluster c).state ≤ 1 && (s.ownerOf c).isNone then { u with fenced := false, gated := false }
    else if u.fenced then { u with gated := true } else u }

/-! The module (R296, R304 to R306). -/

/-- R9. An uncorrectable die-to-die error resets the module. -/
def execD2dError (s : State) : Host.Outcome State Fault Refusal := .next (if s.clock.running then s.moduleFault 0x05 fcD2d else s)

/-- R304. A fence that does not complete in its time raises `FC_FENCE_TIMEOUT` at the next level; above the module the tray's word is management's own, and
after three power cycles without ready the module is left unpowered. -/
def execFenceTimeout (unit : FenceUnit) (s : State) : Host.Outcome State Fault Refusal :=
  .next (match unit with
    | .context p c k => if (s.ctx p c).state = 5 && (s.parcel p).clusters.contains k then s.clusterFault k fcFenceTimeout none else s
    | .cluster c =>
      if !(s.cluster c).errored then s else
      match s.ownerOf c with
      | some p => if (s.parcel p).refusing then s else s.parcelFault p fcFenceTimeout
      | none => s.moduleFault (dieOf c) fcFenceTimeout
    | .parcel p => if (s.parcel p).refusing then s.moduleFault 0xFF fcFenceTimeout else s
    | .module =>
      if s.boot.stage = 0x00 || s.boot.stage = 0x01 then
        let t := { s with faults := { s.faults with mgmtWord := faultWord 5 0 fcNoBoot, trayCycles := s.faults.trayCycles + 1 } }
        if 3 ≤ t.faults.trayCycles then t.powerDown else t
      else s)

/-- R305. The ordered reset begins at the first chain boundary after the push; not during power-fail handling (R336). -/
def execModuleReset (hubOk : Bool) (s : State) : Host.Outcome State Fault Refusal :=
  .next (match s.faults.order with
    | some (n, cold) =>
      if s.power.off || s.power.fail || (s.clock.running && (s.now ≤ n || s.clock.rod ≠ 0)) then s else s.flushRings.reboot cold hubOk
    | none => s)

/-- R306. A mismatch stops a pair: the standby takes over at the next chain boundary; a mismatch in the remaining pair resets the module. -/
def execLockstepMismatch (pair : Nat) (s : State) : Host.Outcome State Fault Refusal :=
  .next (if !s.clock.running || 2 ≤ pair || s.faults.pairStopped = some pair then s
    else match s.faults.pairStopped with
    | some _ => s.moduleFault 0x04 fcLockstep
    | none =>
      let t := { s with faults := { s.faults with pairStopped := some pair, takeover := pair == s.faults.activePair } }
      (t.evPf 0x1407 [pair, s.now]).evMgmt 0x1407 [pair, s.now])

/-- The standby pair takes over at a chain boundary (R306). -/
def State.pairBoundary (s : State) : State :=
  if s.faults.takeover then { s with faults := { s.faults with takeover := false, activePair := 1 - s.faults.activePair } } else s

/-- R306. Ebxel has missed its watchdog. -/
def execWatchdogMiss (s : State) : Host.Outcome State Fault Refusal := .next (if s.clock.running then s.moduleFault 0x04 fcWatchdog else s)

/-! The field debug port (R232, R261). -/

/-- The port reaches a cluster: it is open, and a parcel that holds the cluster has granted `FIELD_PORT`. -/
def State.debugReaches (c : Nat) (s : State) : Bool :=
  s.debugOpen && c < 64 && match s.ownerOf c with | some p => (s.parcel p).grant.toNat.testBit 3 | none => true

/-- The port drives a value out, if it reaches the cluster. -/
def State.debugOut (c v : Nat) (s : State) : State := if s.debugReaches c then s.emit (.debugPort v) else s

/-- R261. The field debug port reads a unit or halts it; a unit that it does not reach it neither reads nor changes. -/
def execFieldDebugAccess (a : DebugAccess) (s : State) : Host.Outcome State Fault Refusal :=
  .next (match a with
    | .readScratch c addr => s.debugOut c (leNat (Memory.read0 addr 8 (s.cluster c).scratch))
    | .readStake c i => s.debugOut c (stakeWord (tget i (s.cluster c).stakes) 0)
    | .readControl c r => s.debugOut c ((s.cluster c).row r).ctrl.toNat
    | .halt c => if s.debugReaches c then s.modCluster c fun u => { u with halted := true } else s
    | .resume c => if s.debugReaches c then s.modCluster c fun u => { u with halted := false } else s)

end Sys2Proof.Machine
end

