-- ==== Sys2Proof/Machine/Power.lean ====
section
/-! DEFINITION. Input power, power failure, throttling, thermal limits, caps and metering (R42 to R45, R331 to R338, R341, R347 to R352, R354). -/

namespace Sys2Proof.Machine

def fcPowerFail : Nat := 0x1501
def fcThermal : Nat := 0x1601
def fcPowerRail : Nat := 0x1602

/-! The idle ratio (R332, R333). -/

/-- Figures of Table 15.5a: full-load draw at 35 C or below, added per degree above it, idle draw, lowest settable cap. -/
def powerFigures : Variant → Nat × Nat × Nat × Nat
  | .a => (1084, 12, 300, 315)
  | .b => (860, 9, 255, 266)
  | .c => (655, 7, 215, 223)

/-- `W_FULL(T)` in W. -/
def wFull (v : Variant) (t : Nat) : Nat := (powerFigures v).1 + (powerFigures v).2.1 * (t - 35)
/-- `W_IDLE` in W. -/
def wIdle (v : Variant) : Nat := (powerFigures v).2.2.1
/-- The lowest settable cap in W. -/
def capFloor (v : Variant) : Nat := (powerFigures v).2.2.2

/-- A cap imposes something: not zero. -/
def capAt (limit cap : Nat) : Nat := if cap = 0 then limit else min limit cap

/-- The effective cap for a schedule cap (R333). -/
def State.capWith (sched : Nat) (s : State) : Nat := capAt (capAt (limitWOf s.flash.variant) s.power.standingCap) sched
/-- The effective cap E now. -/
def State.effectiveCap (s : State) : Nat := s.capWith s.power.schedCap

/-- The effective cap from the next boundary on: an acknowledged entry counts already (Table 15.6). -/
def State.nextCap (s : State) : Nat := s.capWith (match s.power.acked with | some e => e.capW | none => s.power.schedCap)

/-- A ratio brings the draw down to E (R332). -/
def ratioMeets (full idle e i : Nat) : Bool := (64 - i) * full + i * idle ≤ 64 * e

/-- The idle ratio for E at inlet T: the smallest that meets it, and 63 if none does. -/
def ratioFor (v : Variant) (t e : Nat) : Nat := ((List.range 64).find? (ratioMeets (wFull v t) (wIdle v) e)).getD 63

/-- No ratio meets E (R332). -/
def capUnmetFor (v : Variant) (t e : Nat) : Bool := !(List.range 64).any (ratioMeets (wFull v t) (wIdle v) e)

/-- Compute the ratio against a cap; it takes effect at the next chain boundary (R45). -/
def State.computeRatio (e : Nat) (s : State) : State :=
  { s with
    clock := { s.clock with pendRatio := some (ratioFor s.flash.variant s.power.tHeld e) }
    power := { s.power with capUnmet := capUnmetFor s.flash.variant s.power.tHeld e } }

/-- The inlet in whole degrees with the hysteresis of R332; the first reading counts as it is. -/
def holdInlet (t r : Nat) : Nat := if t = 0 || t < r then r else if r < t - 1 then r + 1 else t

/-- R332. Once per 1,024 chains the inlet is read and the ratio computed against E. -/
def execInletReading (dc : Nat) (s : State) : Host.Outcome State Fault Refusal :=
  .next (let t := { s with power := { s.power with tHeld := holdInlet s.power.tHeld (ceilDiv dc 10), sensors := { s.power.sensors with inletDc := dc } } }
    t.computeRatio t.nextCap)

/-- R334. In chain `START_CHAIN` - 1 the next schedule entry is acknowledged: its ratio is computed, and it takes effect at the boundary. -/
def execScheduleAck (s : State) : Host.Outcome State Fault Refusal :=
  .next (match s.power.schedule with
    | e :: l =>
      if e.startChain = s.now + 1 && s.power.acked.isNone then
        { s with power := { s.power with schedule := l, acked := some e } }.computeRatio (s.capWith e.capW)
      else s
    | [] => s)

/-! Power failure (R336, R347, R348). -/

/-- `EV_POWER_FAIL`: phase 0 entered, 1 recovered, 2 stopping; chain, `INPUT_MV`, store energy. -/
def State.evPower (phase storeMj : Nat) (s : State) : State :=
  (s.evPf 0x1501 [phase, s.now, s.power.sensors.j1Mv, storeMj]).evMgmt 0x1501 [phase, s.now, s.power.sensors.j1Mv, storeMj]

/-- Power-fail handling begins (R336): every chain is forced idle from the next boundary. The store's energy, which no rule states, is a free value. -/
def State.beginFail (s : State) : State :=
  let t := { s with power := { s.power with dirtyNow := true, clearRun := 0 } }
  if s.power.fail || s.power.off then t
  else
    let mj := s.fresh.toNat % 2 ^ 32
    { t.drawMany 1 with power := { t.power with fail := true, failDue := true } }.evPower 0 mj

/-- R336. `PWR_WARN#` changes; asserted, it begins power-fail handling. -/
def execPwrWarn (asserted : Bool) (s : State) : Host.Outcome State Fault Refusal :=
  .next (let t := { s with power := { s.power with warn := asserted } }
    if asserted then t.beginFail else t)

/-- J1 has been at a voltage (R336, R347): outside 42 to 60 V the chain is not clear. -/
def State.seeJ1 (mv : Nat) (s : State) : State :=
  let bad := mv < 42000 || 60000 < mv
  { s with power := { s.power with
    uv := bad
    dirtyNow := s.power.dirtyNow || bad
    sensors := { s.power.sensors with j1Mv := mv } } }

/-- R336, R347, R354. J1 has been below 40 V: for 10 us or more, power-fail handling begins; a shorter droop does nothing. A voltage in range says that the
input has returned. -/
def execInputUndervoltage (mv us : Nat) (s : State) : Host.Outcome State Fault Refusal :=
  .next (if 40000 ≤ mv then s.seeJ1 mv else if us < 10 then s else (s.seeJ1 mv).beginFail)

/-- R336. After 32 whole clear chains working chains resume at the boundary, unless the thermal idle still holds (R354). -/
def execPowerFailRecovered (s : State) : Host.Outcome State Fault Refusal :=
  .next (if s.power.fail && 32 ≤ s.power.clearRun && s.clock.rod = 0 then
    let mj := s.fresh.toNat % 2 ^ 32
    { s.drawMany 1 with
      power := { s.power with fail := false, failDue := false, clearRun := 0 }
      clock := { s.clock with forced := s.power.thermal } }.evPower 1 mj
  else s)

/-- The open meter record as it closes (R338). -/
def State.closedRecord (s : State) : MeterRec :=
  { s.power.openRec with
    endChain := s.now
    flags := (if s.power.fail then s.power.openRec.flags ||| 1 else s.power.openRec.flags) }

/-- The meter is saved to boot flash (R338). -/
def State.saveMeter (s : State) : State :=
  { s with
    flash := { s.flash with meterSaved := s.power.meter }
    power := { s.power with savedRec := s.power.openRec } }

/-- R338. Every 32,768 chains the meter counter is saved. -/
def execMeterSave (s : State) : Host.Outcome State Fault Refusal := .next (if s.clock.running then s.saveMeter else s)

/-- The orderly stop (R336): the word, the meter, the open record, power. -/
def State.powerStop (w : BitVec 32) (s : State) : State :=
  let t := s.raiseFault w
  let t := { t with faults := { t.faults with mgmtWord := w } }.saveMeter
  let t := if t.power.recOpen then t.writeRecord t.closedRecord else t
  t.powerDown

/-- R336. The store reaches its stop reserve of 0.25 J. -/
def execPowerFailStop (storeMj : Nat) (s : State) : Host.Outcome State Fault Refusal :=
  .next (if s.power.fail && !s.power.off && storeMj ≤ 250 then (s.evPower 2 storeMj).powerStop (faultWord 4 6 fcPowerFail) else s)

/-- The input switch opens (R341, R347, R350): the module runs from its store. -/
def State.openSwitch (s : State) : State := { s with power := { s.power with switch := false } }.beginFail

/-- R347. J1 above 62 V for 10 us opens the input switch; above 80 V for more than 100 us no behaviour is defined. -/
def execInputOvervoltage (mv us : Nat) (s : State) : Host.Outcome State Fault Refusal :=
  if 80000 < mv && 100 < us then .fault .surgeUndefined
  else .next (if 62000 < mv && 10 ≤ us then
      let t := s.seeJ1 mv
      { t with power := { t.power with ovOpen := true } }.openSwitch
    else if 60000 < mv then s.seeJ1 mv else s)

/-- R347. After an overvoltage opening the switch closes when J1 falls below 60 V. -/
def execOvervoltageRecovery (mv : Nat) (s : State) : Host.Outcome State Fault Refusal :=
  .next (if s.power.ovOpen && mv < 60000 then
    let t := s.seeJ1 mv
    { t with power := { t.power with ovOpen := false, switch := t.power.present && !t.power.cycleLow } }
  else s)

/-- R341, R346. `PWR_CYCLE#`: held low for 10 ms it opens the input switch; a shorter pulse is ignored. -/
def execPwrCycle (low : Bool) (ms : Nat) (s : State) : Host.Outcome State Fault Refusal :=
  .next (if !low then { s with power := { s.power with cycleLow := false } }
    else if ms < 10 then s
    else { s with power := { s.power with cycleLow := true } }.openSwitch)

/-- The module takes the cold path from the input (R277, R350). -/
def State.coldStart (mv : Nat) (hubOk : Bool) (s : State) : State :=
  { s with power := { s.power with
    switch := true
    off := false
    fail := false
    sensors := { s.power.sensors with j1Mv := mv } } }.reboot true hubOk

/-- R341, R350. The input switch closes 2 s after the line's release, and the module takes the cold path. -/
def execInputSwitchClose (mv : Nat) (hubOk : Bool) (s : State) : Host.Outcome State Fault Refusal :=
  .next (if s.power.present && !s.power.cycleLow && !s.power.ovOpen && !s.power.switch && 40000 ≤ mv && mv ≤ 60000 then s.coldStart mv hubOk else s)

/-- R350. `PRESENT_J1` breaks: the switch opens, and the module runs from its store. -/
def execPresentJ1Break (s : State) : Host.Outcome State Fault Refusal :=
  .next (if s.power.present then { s with power := { s.power with present := false } }.openSwitch else s)

/-- R277, R350. The input of a module that is off rises through 40 V, with its contacts mated: the cold path begins. -/
def execPowerOn (mv : Nat) (hubOk : Bool) (s : State) : Host.Outcome State Fault Refusal :=
  .next (if s.power.off && !s.power.cycleLow && !s.power.ovOpen && 40000 ≤ mv && mv ≤ 60000 then
    { s with power := { s.power with present := true } }.coldStart mv hubOk
  else s)

/-- R349. A rail that does not reach regulation stops bring-up until a power cycle: rails 0 to 4 in the boot ROM, 5 to 8 the core of die 0 to 3. -/
def execRailFail (rail timeUs : Nat) (s : State) : Host.Outcome State Fault Refusal :=
  .next (let turn := if rail ≤ 4 then s.boot.stage ≤ 0x01 else rail ≤ 8 && s.boot.diesUp == rail - 5 && s.clock.running
    if s.power.off || s.boot.ready || s.boot.railFailed || !turn then s else
    let w := faultWord 4 6 fcPowerRail
    let t := s.raiseFault w
    { t with
      boot := { t.boot with
        railFailed := true
        stage := 0x00
        stopWord := w
        recovery := t.boot.recovery ++ [(timeUs, fcPowerRail, rail)] }
      clock := Clock.reset
      faults := { t.faults with mgmtWord := w } })

/-! Throttling and heat (R335, R351, R352). -/

/-- A junction is at 100 C or above, or a regulator warns (R335). -/
def Sensors.hot (x : Sensors) : Bool := x.overcurrent || x.junctionDc.any (1000 ≤ ·)

/-- `EV_THROTTLE` (R42): on entry 1, on exit 0. -/
def State.evThrottle (entry : Nat) (s : State) : State := (s.evOpen 0x0211 [entry, s.now]).evMgmt 0x0211 [entry, s.now]

/-- R335, R42. A junction reading or a regulator's warning: at 105 C, or with a warning, a ready module is throttled from the next rod boundary. -/
def execThrottleTrigger (die dc : Nat) (overcurrent : Bool) (s : State) : Host.Outcome State Fault Refusal :=
  .next (if 5 ≤ die then s else
    let x := { s.power.sensors with junctionDc := s.power.sensors.junctionDc.set die dc, overcurrent := overcurrent }
    let trip := (1050 ≤ dc || overcurrent) && s.boot.ready && !s.clock.throttle
    { s with
      power := { s.power with sensors := x }
      clock := { s.clock with hotNow := s.clock.hotNow || x.hot, throttleDue := s.clock.throttleDue || trip } })

/-- Throttling begins at a rod boundary (R42). -/
def State.throttleBegin (s : State) : State :=
  if s.clock.throttleDue then
    { s with clock := { s.clock with throttle := true, throttleDue := false, throttledNow := true } }.evThrottle 1
  else s

/-- R352. A junction at 115 C or a memory device at 100 C shuts the module down. -/
def execThermalShutdown (isDram : Bool) (unit dc : Nat) (s : State) : Host.Outcome State Fault Refusal :=
  .next (let trip := if isDram then unit < 16 && 1000 ≤ dc else unit < 5 && 1150 ≤ dc
    if s.power.off || !trip then s else s.powerStop (faultWord 4 (if isDram then unit / 4 else unit) fcThermal))

/-- `EV_COOLANT`: reason 0 inlet low, 1 inlet high, 2 flow, 3 memory, 4 memory clear. -/
def State.evCoolant (why : Nat) (s : State) : State :=
  let x := s.power.sensors
  (s.evPf 0x1601 [why, x.inletDc, x.outletDc, s.now]).evMgmt 0x1601 [why, x.inletDc, x.outletDc, s.now]

/-- R352. A reading of a memory device: at 95 C every chain is forced idle from the next boundary. -/
def execThermalIdle (device dc : Nat) (s : State) : Host.Outcome State Fault Refusal :=
  .next (if 16 ≤ device then s else
    let t := { s with power := { s.power with
      sensors := { s.power.sensors with dramDc := s.power.sensors.dramDc.set device dc }
      coolRun := if 900 ≤ dc then 0 else s.power.coolRun } }
    if 950 ≤ dc && !s.power.thermal then { t with power := { t.power with thermal := true } }.evCoolant 3 else t)

/-- R352, R354. Every device has been below 90 C for 32 whole chains: the thermal idle ends at the boundary. -/
def execThermalIdleClear (s : State) : Host.Outcome State Fault Refusal :=
  .next (if s.power.thermal && 32 ≤ s.power.coolRun && s.clock.rod = 0 then
    { s with
      power := { s.power with thermal := false, coolRun := 0 }
      clock := { s.clock with forced := s.power.fail } }.evCoolant 4
  else s)

/-- R351. Coolant readings: an inlet outside 20 to 45 C is reported once per 32,768 chains, a rise above 15 C once it has lasted 1,024 chains. -/
def execCoolantLimit (inletDc outletDc : Nat) (s : State) : Host.Outcome State Fault Refusal :=
  .next (let t := { s with power := { s.power with sensors := { s.power.sensors with inletDc := inletDc, outletDc := outletDc } } }
    let due : Bool := match s.power.coolantChain with | some c => decide (c + 32768 ≤ s.now) | none => true
    let t := if (inletDc < 200 || 450 < inletDc) && due then
        { t with power := { t.power with coolantChain := some s.now } }.evCoolant (if inletDc < 200 then 0 else 1)
      else t
    if 1024 ≤ s.power.hotOutlet && inletDc + 150 < outletDc then { t with power := { t.power with hotOutlet := 0 } }.evCoolant 2 else t)

/-! Telemetry (R331, R309). -/

/-- The telemetry record (Table 15.4). -/
def State.telemetryBytes (s : State) : Bytes :=
  let p := s.power
  let x := p.sensors
  let flags := b2n s.smbus.fenced + 2 * b2n p.fail + 4 * b2n s.clock.throttle + 8 * b2n s.smbus.noPartner + 16 * b2n p.capUnmet
  cat [le 4 0x0A5E7E1E, le 1 1, le 1 flags, le 2 x.inletDc, le 8 s.now, le 4 x.j1Mv, le 4 x.j1Ma, le 4 x.powerMw, le 2 s.effectiveCap,
    le 1 s.clock.idleRatio, le 1 p.tariff, le 8 p.meter, bytesOf 2 ((List.range 5).map fun d => x.junctionDc.getD d 0),
    le 2 (x.dramDc.foldl max 0), le 2 x.outletDc, zeros 2, bytesOf 2 ((List.range 8).map fun v => x.vrW.getD v 0), le 4 p.throttleChains,
    le 4 p.idleChains, zeros 48]

/-- Reports that the limit of R309 held back are summarised, and its 1,024 chains begin again. -/
def State.stormReport (s : State) : State :=
  let t := if s.mgmt.storm.all (· == 0) then s else s.evMgmt 0x1405 (s.mgmt.storm ++ [s.now])
  { t with mgmt := { t.mgmt with reports := 0, storm := [0, 0, 0] } }

/-- R331. Once every 1,024 chains the sensors are read and the record is refreshed. -/
def execTelemetryRefresh (r : Readings) (s : State) : Host.Outcome State Fault Refusal :=
  .next (if s.power.off then s else
    let x := { s.power.sensors with
      j1Mv := r.inputMv
      j1Ma := r.inputMa
      powerMw := r.powerMw
      junctionDc := (List.range 5).map fun d => r.junctionDc.getD d 0
      dramDc := (List.range 16).map fun d => r.dramDc.getD d 0
      outletDc := r.outletDc
      vrW := (List.range 8).map fun v => r.vrW.getD v 0 }
    let t := { s with
      power := { s.power with
        sensors := x
        openRec := { s.power.openRec with peakW := max s.power.openRec.peakW (ceilDiv r.powerMw 1000) } }
      clock := { s.clock with hotNow := s.clock.hotNow || x.hot } }
    let t := t.stormReport
    { t with power := { t.power with telemetry := t.telemetryBytes } })

/-! What a chain boundary does (R26, R42 to R45, R331, R334 to R338, R351, R352). -/

/-- The chain that ends is metered and counted (R331, R338): `mj` is its energy. -/
def State.meterChain (mj : Nat) (s : State) : State :=
  let p := s.power
  let r := p.openRec
  let ratioIdle := b2n (s.clock.idle && !s.clock.forced)
  let fail := b2n (s.clock.forced && p.fail)
  let slow := b2n s.clock.throttledNow
  { s with power := { p with
    meter := p.meter + mj
    throttleChains := p.throttleChains + slow
    idleChains := p.idleChains + ratioIdle
    hotOutlet := if p.sensors.inletDc + 150 < p.sensors.outletDc then p.hotOutlet + 1 else 0
    openRec := { r with
      tariffMj := addAt p.tariff mj r.tariffMj
      capMinW := (if r.capMinW = 0 then s.effectiveCap else min r.capMinW s.effectiveCap)
      idleChains := r.idleChains + ratioIdle
      failChains := r.failChains + fail
      throttleChains := r.throttleChains + slow } } }

/-- Clear and cool chains are counted (R336, R352), for the chain that ends. -/
def State.countClear (s : State) : State :=
  let p := s.power
  let clear := !p.dirtyNow && !p.warn && !p.uv && p.switch
  let cool := p.sensors.dramDc.all (· < 900)
  { s with power := { p with
    clearRun := if p.fail && !p.failDue && clear then p.clearRun + 1 else 0
    dirtyNow := p.warn || p.uv || !p.switch
    coolRun := if p.thermal && cool then p.coolRun + 1 else 0 } }

/-- Steps 1 to 3 of Table 15.6: forced idling, the end of a demand window, the acknowledged entry. -/
def State.powerBoundary (s : State) : State :=
  let t := { s with
    clock := { s.clock with forced := s.power.fail || s.power.thermal }
    power := { s.power with failDue := false } }
  match t.power.acked with
  | none => t
  | some e =>
    let t := if e.windowEnd then
        let u := if t.power.recOpen then t.writeRecord t.closedRecord else t
        { u with power := { u.power with openRec := { MeterRec.reset with startChain := u.now }, recOpen := true } }
      else t
    { t with power := { t.power with
      acked := none
      schedCap := e.capW
      tariff := e.tariff
      openRec := if e.capW = t.power.schedCap then t.power.openRec else { t.power.openRec with flags := t.power.openRec.flags ||| 4 } } }

/-- Step 3 of Table 2.3: an acknowledged ratio takes effect (R45). -/
def State.ratioBoundary (s : State) : State :=
  match s.clock.pendRatio with
  | none => s
  | some i =>
    let t := { s with clock := { s.clock with idleRatio := i, pendRatio := none } }
    if i = s.clock.idleRatio then t
    else (t.evOpen 0x0212 [s.clock.idleRatio, i, s.now]).evMgmt 0x0212 [s.clock.idleRatio, i, s.now]

/-- Step 4: throttling ends after a chain without its conditions (R42, R335). -/
def State.throttleBoundary (s : State) : State :=
  let t := if s.clock.throttle && !s.clock.hotNow then { s with clock := { s.clock with throttle := false } }.evThrottle 0 else s
  { t with clock := { t.clock with hotNow := t.power.sensors.hot, throttledNow := t.clock.throttle } }

/-- `idle(n)` of R43. -/
def idleChain (n i : Nat) : Bool := (n % 64 * i) % 64 < i

/-- Step 6: the chain is marked idle or working (R43). -/
def State.idleMark (s : State) : State := { s with clock := { s.clock with idle := idleChain s.now s.clock.idleRatio } }

end Sys2Proof.Machine
end

