-- ==== Sys2Proof/Machine/Management.lean ====
section
/-! DEFINITION. The management operations (R261, R267 to R269, R275, R287, R289, R322 to R324, R331, R333, R334, R338 to R340), TLS sessions
and the management port's packets (R320, R321). -/

namespace Sys2Proof.Machine

/-- The first failed check refuses; otherwise the operation goes on. -/
def State.checked (l : List (Bool × Nat)) (k : Nat × Bytes × State) (s : State) : Nat × Bytes × State :=
  match firstFail l with
  | some st => s.deny st
  | none => k

/-! Telemetry. -/

/-- R331. `mgmt.telemetry`: the record as last refreshed; before the first refresh, as the figures stand. -/
def execMgmtTelemetry (m : MgmtMsg) (s : State) : Host.Outcome State Fault Refusal :=
  .next (s.runMgmt m 0x01 fun b s => s.sized 0 b (stOk, if s.power.telemetry.isEmpty then s.telemetryBytes else s.power.telemetry, s))

/-- R267. `mgmt.entropy`: the estimate records of both sources. -/
def execMgmtEntropy (m : MgmtMsg) (s : State) : Host.Outcome State Fault Refusal :=
  .next (s.runMgmt m 0x02 fun b u =>
    let s := (u.estimate false).estimate true
    u.sized 0 b (stOk, sourceBytes false s.entropy.primary ++ sourceBytes true s.entropy.fallback, s))

/-- R261, R322. `mgmt.profile`: each context's ledger use per rod, which needs the parcel's `PROFILE` grant. No rule states the figures' layout or
what a rod's use comes to: they are a free value of 128 bytes. -/
def execMgmtProfile (m : MgmtMsg) (s : State) : Host.Outcome State Fault Refusal :=
  .next (s.runMgmt m 0x03 fun b s => s.sized 8 b
    (s.checked [(!allZero (b.drop 1), stReserved), (16 ≤ fld 0 1 b, stArg), (!(s.parcel (fld 0 1 b)).grant.toNat.testBit 1, stNotPermitted)]
      (stOk, le 128 s.fresh.toNat, s.drawMany 1)))

/-! Caps, schedule, meter (R333, R334, R338). -/

/-- A cap breaks R333: above the provisioned limit, or below the lowest settable cap. -/
def State.capBad (cap : Nat) (s : State) : Bool := cap != 0 && (limitWOf s.flash.variant < cap || cap < capFloor s.flash.variant)

/-- The standing cap is set, and the ratio computed against the cap that results (R333, R45). -/
def State.setCap (cap : Nat) (s : State) : State :=
  let t := { s with power := { s.power with
    standingCap := cap
    openRec := if cap = s.power.standingCap then s.power.openRec else { s.power.openRec with flags := s.power.openRec.flags ||| 4 } } }
  t.computeRatio t.nextCap

/-- R333. `mgmt.cap`: answered with the first chain under the new ratio; void under power-fail handling (R336). -/
def execMgmtCap (m : MgmtMsg) (s : State) : Host.Outcome State Fault Refusal :=
  .next (s.runMgmt m 0x10 fun b s => s.sized 8 b
    (s.checked [(!allZero (b.drop 2), stReserved), (s.power.fail, stPowerFail), (s.capBad (fld 0 2 b), stCapRange)]
      (let t := s.setCap (fld 0 2 b)
       (stOk, cat [le 8 (s.now + 1), le 1 (t.clock.pendRatio.getD 0), zeros 7], t))))

/-- A schedule entry (Table 15.5), with whether a reserved bit of it is set. -/
def readEntry (b : Bytes) : SchedEntry × Bool :=
  ({ startChain := fld 0 8 b, capW := fld 8 2 b, tariff := fld 10 1 b, windowEnd := bit 0 (fld 11 1 b) },
   fld 11 1 b / 2 != 0 || !allZero (cut 12 4 b))

/-- `START_CHAIN` values ascend strictly. -/
def ascending : List SchedEntry → Bool
  | a :: b :: l => a.startChain < b.startChain && ascending (b :: l)
  | _ => true

/-- R334. `mgmt.schedule`: the entries replace every entry that is not yet acknowledged. -/
def execMgmtSchedule (m : MgmtMsg) (s : State) : Host.Outcome State Fault Refusal :=
  .next (s.runMgmt m 0x11 fun b s =>
    let n := fld 0 4 b
    let es := (chunks 16 64 (b.drop 8)).map readEntry
    let l := es.map (·.1)
    s.checked [(b.length < 8, stPayload), (64 < n, stArg), (b.length ≠ 8 + 16 * n, stPayload),
        (!allZero (cut 4 4 b) || es.any (·.2), stReserved), (l.any fun e => 8 ≤ e.tariff, stArg),
        (!ascending l || (match l with | e :: _ => e.startChain < s.now + 2 | [] => false), stSchedule), (l.any fun e => s.capBad e.capW, stCapRange)]
      (stOk, [], { s with power := { s.power with schedule := l } }))

/-- A closed meter record, 240 bytes (Table 15.7). -/
def meterBytes (r : MeterRec) : Bytes := meterHead r ++ padTo 96 r.signature

/-- R338. `mgmt.meter`: the records of the range that the ring still holds, as many as the path's body allows. -/
def execMgmtMeter (m : MgmtMsg) (s : State) : Host.Outcome State Fault Refusal :=
  .next (s.runMgmt m 0x12 fun b s =>
    let a := fld 0 4 b
    let n := fld 4 4 b
    s.sized 8 b (s.checked [(n = 0 || 64 < n, stArg)]
      (stOk, ((s.power.records.filter fun r => a ≤ r.index && r.index < a + n).take (mgmtMost m.path / 240)).flatMap meterBytes, s)))

/-! Firmware (R339, R340). -/

/-- The copy that staging writes: the one that is not running; in stage 0x02 the one that boot refused, copy A first. -/
def State.stagingTarget (s : State) : Bool := if s.boot.stage = 0x02 then s.fwGood s.flash.fwA else !s.boot.fwRunB

/-- Change a firmware copy: B if true. -/
def State.modCopy (b : Bool) (g : FwCopy → FwCopy) (s : State) : State :=
  { s with flash := if b then { s.flash with fwB := g s.flash.fwB } else { s.flash with fwA := g s.flash.fwA } }

/-- A firmware copy. -/
def State.copy (b : Bool) (s : State) : FwCopy := if b then s.flash.fwB else s.flash.fwA

/-- Open or close staging. -/
def State.setStaging (v : Option Bool) (s : State) : State := { s with mgmt := { s.mgmt with staging := v } }

/-- R339. `fw.begin`: the target copy is erased, and staging opens. -/
def execFwBegin (m : MgmtMsg) (s : State) : Host.Outcome State Fault Refusal :=
  .next (s.runMgmt m 0x20 fun b s =>
    let n := fld 0 4 b
    s.sized 8 b (s.checked [(!allZero (b.drop 4), stReserved), (s.mgmt.staging.isSome, stBusy), (n = 0 || 33554432 < n, stArg)]
      (let c := s.stagingTarget
       (stOk, le 1 (b2n c) ++ zeros 7, (s.modCopy c fun _ => { FwCopy.reset with bytes := n }).setStaging (some c)))))

/-- R339. `fw.data`: bytes are written at `OFFSET` of the staged copy. -/
def execFwData (m : MgmtMsg) (s : State) : Host.Outcome State Fault Refusal :=
  .next (s.runMgmt m 0x21 fun b s =>
    let d := b.drop 8
    s.checked [(b.length < 9, stPayload), (!allZero (cut 4 4 b), stReserved), (s.mgmt.staging.isNone, stFwState),
        ((s.copy (s.mgmt.staging.getD false)).bytes < fld 0 4 b + d.length, stArg)]
      (stOk, [], s.modCopy (s.mgmt.staging.getD false) fun c => { c with image := Memory.write0 (fld 0 4 b) d c.image }))

/-- The counter of a staged image is refused (R339): below the running copy's, or equal to it with a different digest. -/
def State.counterBad (counter : Nat) (digest : Digest) (s : State) : Bool :=
  s.boot.stage != 0x02 && (counter < s.boot.fwCounter || (counter == s.boot.fwCounter && digest != s.boot.fwDigest))

/-- R339. `fw.end`: the copy is verified under slot 8 and by its counter and marked valid; a refused copy stays invalid. Either way staging ends. -/
def execFwEnd (m : MgmtMsg) (s : State) : Host.Outcome State Fault Refusal :=
  .next (s.runMgmt m 0x22 fun b s =>
    s.sized 0 b (match s.mgmt.staging with
      | none => s.deny stFwState
      | some x =>
        let img := fwBytes (s.copy x)
        let n := Config.fwCounter img
        let d := Config.sha384 img
        let t := s.setStaging none
        if !(s.slotFilled 8 && Config.fwVerifies (s.slotBytes 8 97) img) then t.deny stSignature
        else if s.counterBad n d then t.deny stCounter
        else
          let t := t.modCopy x fun c => { c with valid := true, counter := n, digest := d, version := Config.fwVersion img }
          let ev := [b2n x, n, (d.setWidth 128).toNat]
          (stOk, cat [le 1 (b2n x), zeros 3, le 4 n, le 48 d.toNat], (t.evPf 0x1504 ev).evMgmt 0x1504 ev)))

/-- R340. `fw.commit`: the counter bank's floor rises to the running copy's counter. -/
def execFwCommit (m : MgmtMsg) (s : State) : Host.Outcome State Fault Refusal :=
  .next (s.runMgmt m 0x23 fun b s =>
    s.sized 0 b (s.checked [(s.boot.stage ≠ 0x50 || s.boot.fwCounter ≤ s.flash.fwFloor, stFwState)]
      (stOk, le 4 s.boot.fwCounter ++ zeros 4, { s with flash := { s.flash with fwFloor := s.boot.fwCounter } })))

/-! Signed records (R275, R287, R289, R324). -/

/-- R275. `settings.write`: a record signed under slot 10 is stored for the next module reset. -/
def execSettingsWrite (m : MgmtMsg) (s : State) : Host.Outcome State Fault Refusal :=
  .next (s.runMgmt m 0x30 fun b s =>
    let n := fld 16 8 b
    let w := fld 8 4 b
    s.sized 128 b (s.checked [(!allZero (cut 7 1 b ++ cut 12 4 b ++ cut 24 8 b), stReserved),
        (fld 0 4 b ≠ 0x0A5EB5E7 || fld 4 1 b ≠ 1 || 1 < fld 5 1 b || 1 < fld 6 1 b || w < 31250 || 1048576 < w, stArg),
        (!(s.slotFilled 10 && Config.ecdsaVerify (s.slotBytes 10 97) (b.take 32) (b.drop 32)), stSignature),
        (n ≤ s.flash.settingsCounter, stCounter)]
      (stOk, [], { s with flash := { s.flash with
        settings := { profile := fld 5 1 b, early := fld 6 1 b = 1, surveyWait := w, counter := n }
        settingsCounter := n
        settingsBad := false } })))

/-- A survey by its bytes (Tables 13.7 and 13.8). -/
def parseSurvey (b : Bytes) : Survey :=
  { groups := fld 8 2 b
    counter := fld 16 8 b
    entries := (chunks 112 (fld 12 4 b) ((b.drop 64).take (112 * fld 12 4 b))).map fun e => (fld 0 2 e, fld 2 2 e, fld 4 8 e, cut 16 96 e)
    bytes := b }

/-- The entry of a module in a survey. -/
def Survey.entry (m : Nat) (v : Survey) : Option (Nat × Nat × Bytes) := (v.entries.find? fun e => e.1 == m).map (·.2)

/-- A `LINK_MASK` bit's far end is in the survey and has the matching bit (R287). -/
def Survey.matched (v : Survey) (m l : Nat) : Bool :=
  match farEnd v.groups m l with
  | some (q, k) => (match v.entry q with | some e => bit k e.2.1 | none => false)
  | none => false

/-- Module IDs ascend strictly. -/
def idsAscend : List (Nat × Nat × Nat × Bytes) → Bool
  | a :: b :: l => a.1 < b.1 && idsAscend (b :: l)
  | _ => true

/-- A survey keeps the rules of R287. -/
def Survey.wellFormed (v : Survey) : Bool :=
  idsAscend v.entries && v.entries.all fun e =>
    groupOf e.1 < v.groups && (!bit 1 e.2.1 || (e.2.2.1 == 0 && bit 0 e.2.1)) && (bitsOf 48 e.2.2.1).all (v.matched e.1)

/-- A reserved bit or byte of a survey is set. -/
def surveyReserved (b : Bytes) (v : Survey) : Bool :=
  !allZero (cut 10 2 b ++ cut 24 40 b) || v.entries.any (fun e => 2 ^ 14 ≤ e.1 || 4 ≤ e.2.1 || 2 ^ 48 ≤ e.2.2.1)
    || (List.range (fld 12 4 b)).any fun i => !allZero (cut (64 + 112 * i + 12) 4 b)

/-- A new survey waits for the next module reset: it changes the module's own entry or the number of groups (R289). -/
def State.surveyWaits (v : Survey) (s : State) : Bool :=
  match s.boot.survey with
  | some o => o.groups != v.groups || o.entries.find? (fun e => e.2.2.2 == s.ownFabric) != v.entries.find? (fun e => e.2.2.2 == s.ownFabric)
  | none => true

/-- R287, R289. `survey.write`: a signed survey is stored, and takes effect at the next chain boundary, or at the next reset where it must wait. -/
def execSurveyWrite (m : MgmtMsg) (s : State) : Host.Outcome State Fault Refusal :=
  .next (s.runMgmt m 0x31 fun b s =>
    let n := fld 12 4 b
    let v := parseSurvey b
    s.checked [(b.length < 64 || b.length ≠ 64 + 112 * n + 96, stPayload), (surveyReserved b v, stReserved),
        (fld 0 4 b ≠ 0x0A5E5E70 || fld 4 2 b ≠ 1 || fld 6 2 b ≠ 64 || v.groups = 0 || 512 < v.groups || n = 0 || 16384 < n || !v.wellFormed, stArg),
        (!s.surveySigned b, stSignature), (v.counter ≤ s.flash.surveyCounter, stCounter)]
      (let t := { s with flash := { s.flash with survey := some v, surveyCounter := v.counter, surveyBad := false } }
       (stOk, [], if s.surveyWaits v then t else { t with boot := { t.boot with pendSurvey := some v } })))

/-- DER certificates, each preceded by le16 of its length; none where the lengths do not fill the body. -/
def certList : Nat → Bytes → Option (List Bytes)
  | _, [] => some []
  | 0, _ => none
  | n + 1, b =>
    let k := fld 0 2 b
    if b.length < 2 + k || k = 0 then none else (certList n (b.drop (2 + k))).map (cut 2 k b :: ·)

/-- The public half of the management TLS key (slot 11). -/
def State.tlsPub (s : State) : Bytes := Config.p384Pub ((s.slotVal 11).setWidth 384)

/-- R324. `tls.cert`: the management TLS chain is installed. -/
def execTlsCert (m : MgmtMsg) (s : State) : Host.Outcome State Fault Refusal :=
  .next (s.runMgmt m 0x33 fun b s =>
    match certList 65536 b with
    | none => s.deny stPayload
    | some l =>
      s.checked [(l.isEmpty, stPayload),
          (!(s.slotFilled 11 && s.slotFilled 10 && Config.certLeafKey l == s.tlsPub && Config.certSignedBy l (s.slotBytes 10 97)), stSignature)]
        (stOk, [], { s with chest := { s.chest with tlsChain := b } }))

/-! Resets and entropy (R268, R269, R277, R305). -/

/-- A module reset is ordered: an order that stands stays, cold if either is (R277, R305). -/
def State.orderReset (cold : Bool) (s : State) : State :=
  { s with faults := { s.faults with order := match s.faults.order with | some (n, c) => some (n, c || cold) | none => some (s.now, cold) } }

/-- `module.reset` of a kind: the message's `KIND` says which row takes it, and one that Table 15.2 does not have is refused by the warm row. -/
def State.mgmtReset (cold : Bool) (m : MgmtMsg) (s : State) : State :=
  if (fld 0 1 m.body == 1) != cold then s else
  s.runMgmt m 0x40 fun b s => s.sized 8 b
    (s.checked [(!allZero (b.drop 1), stReserved), (1 < fld 0 1 b, stArg)] (stOk, [], s.orderReset cold))

/-- R277. `module.reset`, warm: answered before the reset begins. -/
def execModuleResetWarm (m : MgmtMsg) (s : State) : Host.Outcome State Fault Refusal := .next (s.mgmtReset false m)
/-- R277. `module.reset`, cold: answered before the reset begins. -/
def execModuleResetCold (m : MgmtMsg) (s : State) : Host.Outcome State Fault Refusal := .next (s.mgmtReset true m)

/-- R269. `drbg.reseed`: the hub DRBG is to reseed within one chain. -/
def execDrbgReseed (m : MgmtMsg) (s : State) : Host.Outcome State Fault Refusal :=
  .next (s.runMgmt m 0x41 fun b s => s.sized 0 b (stOk, [], { s with entropy := { s.entropy with reseedDue := true } }))

/-- R268, R273. `entropy.pattern`: in MANUFACTURED only, the test pattern replaces the source output from the next chain boundary. -/
def execEntropyPattern (m : MgmtMsg) (s : State) : Host.Outcome State Fault Refusal :=
  .next (s.runMgmt m 0x42 fun b s => s.sized 32 b
    (s.checked [(s.flash.lifecycle ≠ 1 || s.flash.provisioned, stLifecycle)]
      (stOk, [], { s with entropy := { s.entropy with pendPattern := some (BitVec.ofNat 256 (leNat b)) } })))

/-! The management port (R320, R321). -/

/-- The port accepts TLS connections: slots 10 and 11 and the chain are present. -/
def State.tlsReady (s : State) : Bool := !s.power.off && s.slotUse 11 1 && s.slotFilled 10 && !s.chest.tlsChain.isEmpty

/-- A client's hello is one that R321 accepts. -/
def State.tlsAccepts (h : TlsHello) (s : State) : Bool :=
  h.tls13 && h.aes256GcmSha384 && h.groupOk && h.p384Sha384 && Config.tlsChainVerifies (s.slotBytes 10 97) (h.clientChain ++ h.chainSig)

/-- R321. A TLS handshake on port 6416: it opens a session, of which there are at most four, or fails. -/
def execTlsHandshake (h : TlsHello) (s : State) : Host.Outcome State Fault Refusal :=
  .next (if s.power.off then s
    else match (List.range 4).find? fun k => !s.mgmt.tls.contains k with
      | some k =>
        if s.tlsReady && s.tlsAccepts h then { s with mgmt := { s.mgmt with tls := s.mgmt.tls ++ [k] } }.emit (.tls (some k)) else s.emit (.tls none)
      | none => s.emit (.tls none))

/-- R320. A packet on the management port: `ICMP` echo and neighbour solicitation are answered, addresses taken, and everything else that is not for TCP
port 6416 is discarded. -/
def execEthPacket (pkt : EthPacket) (s : State) : Host.Outcome State Fault Refusal :=
  .next (if s.power.off then s else match pkt with
    | .icmpEcho data => s.emit (.eth 0 data)
    | .neighbourSolicit a =>
      if a = Config.linkLocal || s.mgmt.ipv6.contains a then s.emit (.eth 1 (le 6 Config.macAddress.toNat)) else s
    | .dhcpOffer a => { s with mgmt := { s.mgmt with ipv4 := some a } }.emit (.eth 2 (le 4 a.toNat))
    | .raPrefix a => if s.mgmt.ipv6.contains a then s else { s with mgmt := { s.mgmt with ipv6 := s.mgmt.ipv6 ++ [a] } }
    | .tcp6416 => s
    | .other => s)

end Sys2Proof.Machine
end

