-- ==== Sys2Proof/Machine/Smbus.lean ====
section
/-! DEFINITION. The SMBus port, MCTP control and SPDM (R325 to R330). The bodies of MCTP control messages follow DSP0236, and those of SPDM 1.2
messages DSP0274, which the rules name (log entry 24). -/

namespace Sys2Proof.Machine

/-- Bytes of a number, highest first. -/
def be (n v : Nat) : Bytes := (le n v).reverse

/-! The port (R327 to R330). -/

/-- The module's target address on the SMBus (R327). -/
def State.smbusAddress (s : State) : Nat := 0x30 + s.smbus.strap % 4

/-- `EV_SMBUS` (Table 15.8): state 0 fenced, 1 unfenced, 2 no partner, 3 partner; line 0 SDA, 1 SCL, 2 neither. To PF0 and over Ethernet. -/
def State.evSmbus (st line : Nat) (s : State) : State :=
  (s.evPf 0x1502 [st, line, s.smbus.discards]).emit (.mgmtEvent 0x1502 s.now [st, line, s.smbus.discards])

/-- The partner answers again (R330): the state ends, and what has waited is sent, oldest first. -/
def State.partnerBack (s : State) : State :=
  if s.smbus.noPartner then
    let l := s.smbus.queue
    let t := { s with smbus := { s.smbus with noPartner := false, queue := [], retries := 0, transfer := l.getLast? } }
    (l.foldl (fun t b => t.emit (.smbus 0 b)) t).evSmbus 3 2
  else s

/-- The port takes part in the bus. -/
def State.busOn (s : State) : Bool := !s.power.off && !s.smbus.fenced

/-- R328. The line check before a START: SDA low with SCL high is cleared by up to nine clocks and a STOP, after which the transfer is retried; SDA still low
after nine keeps the recovery going (R329). -/
def execSmbusLineRecovery (highAfter : Option Nat) (s : State) : Host.Outcome State Fault Refusal :=
  .next (if !s.busOn then s else
    match highAfter with
    | some n =>
      if n ≤ 9 then
        let t := { s with smbus := { s.smbus with recovering := false } }.emit (.smbus 2 (le 1 n))
        match t.smbus.transfer with | some b => t.emit (.smbus 1 b) | none => t
      else { s with smbus := { s.smbus with recovering := true } }.emit (.smbus 2 (le 1 9))
    | none => { s with smbus := { s.smbus with recovering := true } }.emit (.smbus 2 (le 1 9)))

/-- R327, R328. As target, the module releases the bus when SCL has been low for more than 25 ms, or after 35 ms without an SCL edge. -/
def execSmbusTargetTimeout (sclLowUs noEdgeUs : Nat) (s : State) : Host.Outcome State Fault Refusal :=
  .next (if s.busOn && (25000 < sclLowUs || 35000 ≤ noEdgeUs) then s.emit (.smbus 4 []) else s)

/-- R329. A line that has been low for 32,768 chains fences the port: what waits is discarded and counted. -/
def execSmbusFence (sdaLow : Bool) (chains : Nat) (s : State) : Host.Outcome State Fault Refusal :=
  .next (if s.busOn && 32768 ≤ chains then
    let k := s.smbus
    let t := { s with smbus := { k with
      fenced := true
      recovering := false
      discards := k.discards + k.queue.length
      queue := []
      transfer := none
      retries := 0
      probeChain := s.now } }
    t.evSmbus 0 (if sdaLow then 0 else 1)
  else s)

/-- R329. Once per 32,768 chains the fenced lines are sampled: both high for 35 ms, the fence is lifted. -/
def execSmbusUnfence (highUs : Nat) (s : State) : Host.Outcome State Fault Refusal :=
  .next (if s.smbus.fenced && s.smbus.probeChain + 32768 ≤ s.now then
    let t := { s with smbus := { s.smbus with probeChain := s.now } }
    if 35000 ≤ highUs then { t with smbus := { t.smbus with fenced := false } }.evSmbus 1 2 else t
  else s)

/-- A retry of the packet being sent begins, and its outcome is known (R330): after the third failure it is discarded, and there is no partner. -/
def State.retried (acked : Bool) (s : State) : State :=
  match s.smbus.transfer with
  | none => s
  | some b =>
    if !s.busOn || s.smbus.noPartner then s else
    let t := s.emit (.smbus 1 b)
    let k := t.smbus
    if acked then { t with smbus := { k with transfer := none, retries := 0 } }
    else if k.retries + 1 < 3 then { t with smbus := { k with retries := k.retries + 1 } }
    else { t with smbus := { k with
      transfer := none
      retries := 0
      discards := k.discards + 1
      noPartner := true
      probeChain := t.now } }.evSmbus 2 2

/-- R330. A packet that was not acknowledged is retried after 10 ms. -/
def execSmbusRetry (acked : Bool) (s : State) : Host.Outcome State Fault Refusal := .next (s.retried acked)

/-- R330. Without a partner, one probe per 32,768 chains carries the oldest queued message; an acknowledged one ends the state. -/
def execSmbusProbe (acked : Bool) (s : State) : Host.Outcome State Fault Refusal :=
  .next (match s.smbus.queue with
    | b :: l =>
      if s.busOn && s.smbus.noPartner && s.smbus.probeChain + 32768 ≤ s.now then
        let t := { s with smbus := { s.smbus with probeChain := s.now } }.emit (.smbus 3 b)
        if acked then { t with smbus := { t.smbus with queue := l } }.partnerBack else t
      else s
    | [] => s)

/-- R327. As controller, the module abandons a transfer once SCL has been held low for 35 ms in all: the lines are recovered, and the transfer is retried. -/
def execTransferAbandon (lowMs : Nat) (s : State) : Host.Outcome State Fault Refusal :=
  .next (if s.busOn && s.smbus.transfer.isSome && 35 ≤ lowMs then { s with smbus := { s.smbus with recovering := true } } else s)

/-- The module accepts a message type (R325). -/
def mctpAccepts (t : Nat) : Bool := t == 0x00 || t == 0x05 || t == 0x7F

/-- R325, R327, R330. A packet as target: a bad PEC discards and counts it; any packet received ends the no-partner state; a message of a type that the module
does not accept is discarded. A message that it accepts takes effect as its own command. -/
def execSmbusPacket (pkt : SmbusPacket) (s : State) : Host.Outcome State Fault Refusal :=
  .next (if !s.busOn then s
    else if !pkt.pecOk then { s with smbus := { s.smbus with pecErrors := s.smbus.pecErrors + 1 } }
    else
      let t := s.partnerBack
      if mctpAccepts pkt.msgType then t else { t with smbus := { t.smbus with discards := t.smbus.discards + 1 } })

/-! MCTP control (R325). -/

/-- Answer an MCTP message of a type; a message received as target says that the partner is there (R330). -/
def State.answerMctp (msgType : Nat) (f : State → Bytes × State) (s : State) : State :=
  if !s.busOn then s else
  let r := f s.partnerBack
  r.2.sendSmbus (.mctp msgType r.1) (le 1 msgType ++ r.1)

/-- A control answer: command, completion code, data. -/
def control (cmd code : Nat) (data : Bytes) : Bytes := le 1 cmd ++ le 1 code ++ data

/-- R325, R327. Set Endpoint ID: the ID is set, and the sender's address is where the module sends its packets. A reserved ID is refused. -/
def execSetEndpointId (src eid : Nat) (s : State) : Host.Outcome State Fault Refusal :=
  .next (s.answerMctp 0x00 fun s =>
    let t := { s with smbus := { s.smbus with partner := src } }
    if 8 ≤ eid && eid ≤ 254 then (control 0x01 0x00 (le 1 0 ++ le 1 eid ++ le 1 0), { t with smbus := { t.smbus with eid := eid } })
    else (control 0x01 0x02 [], t))

/-- R325. Get Endpoint ID. -/
def execGetEndpointId (s : State) : Host.Outcome State Fault Refusal :=
  .next (s.answerMctp 0x00 fun s => (control 0x02 0x00 (le 1 s.smbus.eid ++ zeros 2), s))

/-- R325. Get Endpoint UUID. -/
def execGetEndpointUuid (s : State) : Host.Outcome State Fault Refusal :=
  .next (s.answerMctp 0x00 fun s => (control 0x03 0x00 (be 16 Config.endpointUuid.toNat), s))

/-- R325. Get MCTP Version Support: version 1.3 for the base protocol and control messages. -/
def execGetMctpVersionSupport (msgType : Nat) (s : State) : Host.Outcome State Fault Refusal :=
  .next (s.answerMctp 0x00 fun s =>
    if msgType = 0xFF || msgType = 0x00 then (control 0x04 0x00 (le 1 1 ++ be 4 0xF1F3FF00), s)
    else if mctpAccepts msgType then (control 0x04 0x00 (le 1 1 ++ be 4 (Config.mctpVersion msgType).toNat), s)
    else (control 0x04 0x80 [], s))

/-- R325. Get Message Type Support: SPDM and vendor-defined messages, beside control. -/
def execGetMessageTypeSupport (s : State) : Host.Outcome State Fault Refusal :=
  .next (s.answerMctp 0x00 fun s => (control 0x05 0x00 (le 1 2 ++ le 1 0x05 ++ le 1 0x7F), s))

/-- R325. Get Vendor Defined Message Support: one set, under the IANA enterprise number. -/
def execGetVendorMessageSupport (selector : Nat) (s : State) : Host.Outcome State Fault Refusal :=
  .next (s.answerMctp 0x00 fun s =>
    if selector = 0 then (control 0x06 0x00 (cat [le 1 0xFF, le 1 1, be 4 Config.enterpriseNumber, be 2 Config.vendorSet.toNat]), s)
    else (control 0x06 0x02 [], s))

/-- R325. Any other control command: `ERROR_UNSUPPORTED_CMD`. -/
def execMctpUnsupportedCmd (cmd : Nat) (s : State) : Host.Outcome State Fault Refusal :=
  .next (s.answerMctp 0x00 fun s => (control cmd 0x05 [], s))

/-! SPDM (R326). -/

/-- An SPDM 1.2 answer: code, two parameters, payload. -/
def spdm (code p1 p2 : Nat) (b : Bytes) : Bytes := cat [le 1 0x12, le 1 code, le 1 p1, le 1 p2, b]

/-- An SPDM error: 0x01 InvalidRequest, 0x05 Unspecified, 0x07 UnsupportedRequest. -/
def spdmError (code data : Nat) : Bytes := spdm 0x7F code data []

/-- R326. GET_VERSION: version 1.2 only. -/
def execGetVersion (s : State) : Host.Outcome State Fault Refusal :=
  .next (s.answerMctp 0x05 fun s => (cat [le 1 0x10, le 1 0x04, zeros 2, le 1 0, le 1 1, le 2 0x1200], s))

/-- R326. GET_CAPABILITIES: `CERT_CAP`, `CHAL_CAP`, `MEAS_CAP` signed. -/
def execGetCapabilities (s : State) : Host.Outcome State Fault Refusal :=
  .next (s.answerMctp 0x05 fun s => (spdm 0x61 0 0 (cat [zeros 1, [Config.spdmTiming], zeros 2, le 4 0x16, le 8 Config.spdmSizes.toNat]), s))

/-- R326. NEGOTIATE_ALGORITHMS: ECDSA P-384 and SHA-384 only. -/
def execNegotiateAlgorithms (p384Sha384 : Bool) (s : State) : Host.Outcome State Fault Refusal :=
  .next (s.answerMctp 0x05 fun s =>
    if p384Sha384 then
      (spdm 0x63 0 0 (cat [le 2 36, le 1 1, zeros 1, le 4 0x04, le 4 0x80, le 4 0x02, zeros 16]),
        { s with mgmt := { s.mgmt with spdmNegotiated := true } })
    else (spdmError 0x01 0, s))

/-- The certificate chain of an SPDM slot: 0 AliasID, 1 FabricID (R229). -/
def State.spdmChain (slot : Nat) (s : State) : Bytes :=
  Config.certChain slot s.chest.identity s.boot.fwDigest s.boot.fwCounter s.flash.lifecycle s.boot.moduleId

/-- R326. GET_DIGESTS: the SHA-384 of each slot's chain. -/
def execGetDigests (s : State) : Host.Outcome State Fault Refusal :=
  .next (s.answerMctp 0x05 fun s =>
    (spdm 0x01 0 3 (le 48 (Config.sha384 (s.spdmChain 0)).toNat ++ le 48 (Config.sha384 (s.spdmChain 1)).toNat), s))

/-- R229, R326. GET_CERTIFICATE: a portion of a slot's chain. -/
def execGetCertificate (slot offset length : Nat) (s : State) : Host.Outcome State Fault Refusal :=
  .next (s.answerMctp 0x05 fun s =>
    let c := s.spdmChain slot
    if 2 ≤ slot || c.length ≤ offset then (spdmError 0x01 0, s)
    else
      let part := cut offset length c
      (spdm 0x02 slot 0 (cat [le 2 part.length, le 2 (c.length - offset - part.length), part]), s))

/-- Sign a request and its answer with chest slot 3 (AliasID) or 4 (FabricID), if the slot may be used and the nonce and the signature can be drawn. -/
def State.spdmSign (key : Nat) (request : Bytes) (answer : Bytes → Bytes) (s : State) : Bytes × State :=
  if s.slotUse key 1 && s.canDraw then
    let b := answer (le 32 (s.fresh.setWidth 256).toNat)
    let t := s.drawn
    (b ++ signature ((t.slotVal key).setWidth 384) (request ++ b) t.draws, t.drawn)
  else (spdmError 0x05 0, s)

/-- R326. CHALLENGE: signed by the leaf key of the slot named. -/
def execChallenge (slot : Nat) (nonce : BitVec 256) (s : State) : Host.Outcome State Fault Refusal :=
  .next (s.answerMctp 0x05 fun s =>
    if 2 ≤ slot then (spdmError 0x01 0, s)
    else s.spdmSign (3 + slot) (spdm 0x83 slot 0 (le 32 nonce.toNat)) fun own =>
      spdm 0x03 slot (2 ^ slot) (cat [le 48 (Config.sha384 (s.spdmChain slot)).toNat, own, zeros 2]))

/-- The boot settings record in force (Table 13.1). -/
def State.settingsBytes (s : State) : Bytes :=
  cat [le 4 0x0A5EB5E7, le 1 1, le 1 (profileCode s.boot.profile), le 1 (b2n s.boot.early), zeros 1, le 4 s.boot.surveyWait, zeros 4,
    le 8 s.boot.settingsCounter, zeros 8]

/-- A measurement block's value (Table 15.3); the survey digest is zero without a survey. -/
def State.block (i : Nat) (s : State) : Bytes :=
  match i with
  | 1 => le 48 s.boot.fwDigest.toNat
  | 2 => le 48 (Config.sha384 s.settingsBytes).toNat
  | 3 => le 48 (Config.sha384 s.platBytes).toNat
  | 4 => (match s.boot.survey with | some v => le 48 v.digest.toNat | none => zeros 48)
  | _ => cat [le 1 s.flash.lifecycle, le 1 (variantCode s.flash.variant), le 1 (profileCode s.boot.profile), zeros 1, le 4 s.boot.fwCounter]

/-- A measurement block: index, the DMTF specification, and its value with type and size. -/
def State.blockBytes (i : Nat) (s : State) : Bytes :=
  let v := s.block i
  cat [le 1 i, le 1 1, le 2 (v.length + 3), le 1 (0x80 + i), le 2 v.length, v]

/-- R326. GET_MEASUREMENTS: index 0 asks for the number of blocks, 255 for all of Table 15.3; signed by the AliasID key. -/
def execGetMeasurements (index : Nat) (nonce : BitVec 256) (s : State) : Host.Outcome State Fault Refusal :=
  .next (s.answerMctp 0x05 fun s =>
    let l := if index = 0xFF then [1, 2, 3, 4, 5] else if index = 0 then [] else [index]
    if 5 < index && index ≠ 0xFF then (spdmError 0x01 0, s)
    else
      let rec_ := l.flatMap fun i => s.blockBytes i
      s.spdmSign 3 (spdm 0xE0 1 index (le 32 nonce.toNat)) fun own =>
        spdm 0x60 (if index = 0 then 5 else 0) 0 (cat [le 1 l.length, le 3 rec_.length, rec_, own, zeros 2]))

/-- R326. Any other SPDM request: UnsupportedRequest. -/
def execSpdmUnsupportedRequest (code : Nat) (s : State) : Host.Outcome State Fault Refusal :=
  .next (s.answerMctp 0x05 fun s => (spdmError 0x07 code, s))

end Sys2Proof.Machine
end

