-- ==== Sys2Proof/Machine/Tick.lean ====
section
/-! DEFINITION. The chain timer's boundaries: what ends and begins with a rod, the ordered actions of a chain boundary, and a parcel's close (R23, R26,
R70, R114, R130, R193, R196, R197, R215, R226, R240, R256, R289, R300). -/

namespace Sys2Proof.Machine

/-! What a rod begins with (R23). -/

/-- Step 3 of a close (R256): in rod 0 the chest destroys the parcel's 16 slots, and the fill key is drawn. -/
def State.closeKeys (p : Nat) (s : State) : State :=
  let q := s.parcel p
  if s.clock.rod ≠ 0 || !q.closeStopped then s else
  let t := if q.keysGone then s
    else ((List.range 16).foldl (fun t i => t.destroySlot (parcelSlot p i) .parcelClose) s).modParcel p fun q => { q with
      keysGone := true
      mem := []
      window := none
      fillLeft := 8192 }
  if (t.parcel p).closeKey.isNone && t.canDraw then
    let k : Key := t.fresh.setWidth 256
    t.drawn.modParcel p fun q => { q with closeKey := some k }
  else t

/-- What every parcel does as a rod begins: step 3 of a close, the declared preloads, the intake's forwards. -/
def State.parcelRod (p : Nat) (s : State) : State := ((s.closeKeys p).declaredPreloads p).forwards p

/-- A rod begins (R23): changes of the easement table, throttling, index blocks, completions, preloads, and what the links send. -/
def State.rodBegin (idx : List (Nat × Nat × Nat)) (s : State) : State :=
  let t := (s.easeBoundary.throttleBegin.readIndex idx).markSwaps
  let t := (List.range 16).foldl (fun t p => t.parcelRod p) t
  let t := if t.clock.rod % 2 = 0 then t.completes else t
  ((List.range 48).foldl (fun t l => t.linkRod l) t).patrol

/-- A rod ends: its reserve begins if it has not, the pattern moves on, index blocks are written. -/
def State.rodEnd (late : List Nat) (s : State) : State := (s.beginReserve late).endRod.writeIndex

/-- R23. The next rod of the chain begins. -/
def execRodBoundary (idx : List (Nat × Nat × Nat)) (s : State) : Host.Outcome State Fault Refusal :=
  .next (if s.clock.running && s.clock.rod < 3 then
    let t := s.rodEnd []
    { t with clock := { t.clock with rod := s.clock.rod + 1, reserve := false } }.rodBegin idx
  else s)

/-! Leaves (R70, R130). -/

/-- Bytes of a leaf's records that no reader has consumed. -/
def Leaf.unread (l : Leaf) : Nat := ((l.recs.filter (!·.used)).map (·.data.length)).sum

/-- The reading leaf is drained (R70). -/
def Cluster.leafDrained (k : Cluster) : Bool := k.reading.recs.all (·.used)

/-- The leaves at a chain boundary: swapped if the reading leaf is drained, held otherwise. -/
def Cluster.turnLeaves (k : Cluster) : Cluster :=
  if k.leafDrained then
    { k with
      leaves := k.leaves.set (1 - k.filling) Leaf.reset
      filling := 1 - k.filling
      holdRun := 0
      leafEpoch := bumpEpoch k.leafEpoch }
  else { k with leafHolds := k.leafHolds + 1, holdRun := k.holdRun + 1 }

/-- `EV_ROUND_BACKLOG` for context `c`, after every `BACKLOG_CHAINS` consecutive holds of a fold cluster (R130). -/
def State.backlog (p k run left : Nat) (s : State) (c : Nat) : State :=
  let x := s.ctx p c
  match x.round with
  | some r =>
    if r.outcome.isNone && r.desc.role = 2 && k < x.width && 0 < r.desc.backlogChains && run % r.desc.backlogChains = 0 then
      s.evBoth p 0x0601 [p * 8 + c, k, s.now, left, run]
    else s
  | none => s

/-- The leaves of logical cluster `k` of a parcel at a chain boundary, with their reports. -/
def State.leafBoundary (p k : Nat) (s : State) : State :=
  if (s.live p k).isEmpty then s else
  let u := s.lead p k
  let t := s.modLogical p k Cluster.turnLeaves
  if u.leafDrained then (if u.holdRun = 0 then t else t.evBoth p 0x0301 [k, s.now, 0, 1, u.holdRun])
  else
    let t := if u.holdRun = 0 then t.evBoth p 0x0301 [k, s.now, u.reading.unread, 0, 1] else t
    (List.range 8).foldl (State.backlog p k (u.holdRun + 1) u.reading.unread) t

/-- Step 2 of Table 2.3 for a parcel that is open and not closing. -/
def State.leaves (p : Nat) (s : State) : State :=
  let q := s.parcel p
  if q.state = 0 || q.state = 4 then s else (List.range q.logical).foldl (fun t k => t.leafBoundary p k) s

/-! A parcel's close at the boundary (R256 steps 1 and 2). -/

/-- Every started context of a closing parcel is to stop; a snapshot or a replay in progress ends. -/
def Parcel.closing (q : Parcel) : Parcel :=
  if q.state = 4 && !q.closeStopped then
    { q with
      snap := none
      replay := none
      swapTo := none
      swapDue := false
      contexts := q.contexts.map fun x => { x with pendStart := false, pendStop := x.started, pendFinish := false } }
  else q

/-- Time since a drain's boundary, in ns, as a chain opens. -/
def State.drainNs (d : Drain) (s : State) : Nat := (s.now - d.startChain) * 32000 - d.startRod * 8000

/-- Drains of a closing parcel stop: unfinished messages count as discarded, and the revokes are answered (Table 8.12). -/
def State.stopDrains (p : Nat) (s : State) : State :=
  s.fabric.drains.foldl (fun t d =>
    if d.ease / 256 ≠ p then t else
    let ns := if (t.ease d.ease).revokeDue then 0 else t.drainNs d
    t.drainPost { d with discarded := d.discarded + t.unfinished d } ns) s

/-- Every connection of a closing parcel sends `CLOSE` and ends; what was admitted and is not visible is discarded (R182). -/
def State.endConns (p : Nat) (s : State) : State :=
  (s.connsOf p).foldl (fun t id =>
    if (t.conn id).state = 6 then t else
    ((t.sendClose id).setConnState id 6 .parcelClose).modConn id fun k => { k with held := [], outst := [], completeDue := false }) s

/-- An easement of a closed parcel: only its generation stays, so that a later grant raises it. -/
def Ease.cleared (e : Ease) : Ease := { Ease.reset with gen := e.gen }

/-- A cluster of a closing parcel: every store of Table 11.4 is invalidated, and its stakes are released. -/
def Cluster.closed (k : Cluster) : Cluster :=
  { (k.dropStores.dropRows fun _ _ => true) with
    stakes := []
    leaves := [Leaf.reset, Leaf.reset]
    leafEpoch := bumpEpoch k.leafEpoch
    filling := 0
    leafHolds := 0
    holdRun := 0
    heldRecs := []
    replayReads := 0
    satMap := 0
    satOwner := []
    moduli := []
    inflight := []
    weights := none
    active := []
    shadow := none
    shadowW := []
    pairStall := false }

/-- Steps 1 and 2 of a close, once the parcel's contexts have stopped. -/
def State.closeStop (p : Nat) (s : State) : State :=
  let q := s.parcel p
  if q.state ≠ 4 || q.closeStopped then s else
  let t := (List.range 8).foldl (fun t c => t.endRound p c 3) s
  let t := (t.stopDrains p).endConns p
  let t := { t with fabric := { t.fabric with eases := t.fabric.eases.map fun (x : Nat × Ease) => if x.1 / 256 = p then (x.1, x.2.cleared) else x } }
  let t := (t.endSession (p + 1) 0).modClusters q.clusters Cluster.closed
  t.modParcel p fun q => { q with closeStopped := true, running := none, idleRods := false }

/-- The fill of a closing parcel has run for one more working chain (R256 step 4). -/
def Parcel.filled (q : Parcel) : Parcel := if q.closeKey.isSome then { q with fillLeft := q.fillLeft - 1 } else q

/-- The units of a closed parcel are free (R256, R298): a faulted cluster leaves the parcel's fence for the plat's verdict, and a failed subchannel is retired. -/
def State.freeUnits (p : Nat) (s : State) : State :=
  let q := s.parcel p
  let t := q.clusters.foldl (fun t c =>
    let u := t.cluster c
    let t := if u.errored then t.retirePlat c 0 u.badBench else t
    t.modCluster c fun u => { u with fenced := u.errored, gated := u.errored, errored := false, badBench := none, halted := false }) s
  q.subchs.foldl (fun t x => if t.faults.subchFailed.contains x && t.plat.subchs.getD x 2 = 0 then t.platPend 1 x 3 else t) t

/-- R256. The last line of the fill is written: the units are free, the parcel is CLOSED, and `parcel.close` is answered. -/
def execCloseFillDone (p : Nat) (s : State) : Host.Outcome State Fault Refusal :=
  .next (let q := s.parcel p
    if q.state = 4 && q.closeKey.isSome && q.fillLeft = 0 then
      let t := ((s.freeUnits p).setParcelState p 0 0).modParcel p fun _ => Parcel.reset
      match q.fillReq with
      | some (fn, req) => (t.respond fn req stOk []).takeAll fn
      | none => t
    else s)

/-! What waits for a chain boundary. -/

/-- Shares, slices and the host link's full rate take effect (R193, R196, R197). -/
def State.sharesBoundary (s : State) : State :=
  let t := match s.host.pendShares with
    | some h => { s with
        fns := s.fns.mapIdx fun n f => if n = 0 then f else { f with hostShare := h.getD (n - 1) f.hostShare }
        host := { s.host with pendShares := none } }
    | none => s
  let t := { t with fabric := { t.fabric with slices := t.fabric.pendSlices.getD t.fabric.slices, pendSlices := none } }
  if t.host.scaledNext then { t with host := { t.host with scaled := false, scaledNext := false } } else t

/-- An accepted map revision is applied (R119). -/
def Context.mapsTurn (x : Context) : Context :=
  match x.round with
  | some r => (match r.pendMaps with
    | some m => { x with round := some { r with desc := { r.desc with maps := m, mapCount := m.length }, pendMaps := none } }
    | none => x)
  | none => x

/-- A new grant is in force (R261). -/
def Parcel.grantTurn (q : Parcel) : Parcel := match q.pendGrant with | some g => { q with grant := g, pendGrant := none } | none => q

/-- An `ATTACHED` parcel whose session has ended is `DETACHED` (R215). -/
def State.detach (p : Nat) (s : State) : State :=
  match (s.parcel p).pendDetach with
  | some why =>
    let t := s.modParcel p fun q => { q with pendDetach := none }
    if (s.parcel p).state = 2 then t.setParcelState p 3 why else t
  | none => s

/-- What changes when a parcel's measurement digest has (R240): attested connections fail, the sealed key is replaced, slot 6 is destroyed. -/
def State.measured (p : Nat) (s : State) : State :=
  let q := s.parcel p
  let d := s.measurement p
  if q.state = 0 || q.state = 4 || q.measDigest = d then s else
  let t := (s.connsOf p).foldl (fun t id =>
    let k := t.conn id
    if k.attested && [1, 2, 3, 4].contains k.state then (t.sendClose id).setConnState id 5 .measurement else t) s
  let had := t.slotFilled (parcelSlot p 0)
  let t := (t.destroySlot (parcelSlot p 0) .measurement).destroySlot (parcelSlot p 6) .measurement
  let t := if !had then t else if t.canDraw then t.newSealedKey p else t.modParcel p fun q => { q with sealedPub := 0 }
  t.modParcel p fun q => { q with measDigest := d }

/-- Counts of discards that rose in the chain are reported, to the VF only (R114). -/
def State.opDiscards (p c : Nat) (s : State) : State :=
  let x := s.ctx p c
  if x.discards = x.discardsSeen then s else
  (s.evVf p 0x0501 ((p * 8 + c) :: s.now :: List.zipWith (fun a b => a - b) x.discards x.discardsSeen)).modCtx p c fun x => { x with
    discardsSeen := x.discards }

/-- The reports and receipts of a context at a chain boundary (R114, R121, R125). -/
def State.ctxReports (p c : Nat) (s : State) : State := ((s.opDiscards p c).intakeReport p c).sendReceipt p c

/-- Plat changes that have waited take effect, and spares are reserved after the cold tests (R276, R285). -/
def State.platBoundary (s : State) : State :=
  let t := s.plat.pending.foldl (fun t x => t.platSet x.1 x.2.1 x.2.2) { s with plat := { s.plat with pending := [] } }
  if t.boot.sparesDue then { t with boot := { t.boot with sparesDue := false } }.reserveSpares else t

/-- A survey that has waited takes effect (R289): `HELLO` goes out again on every link, and agreement is judged anew. -/
def State.surveyBoundary (s : State) : State :=
  match s.boot.pendSurvey with
  | some v => { s with
      boot := { s.boot with
        survey := some v
        pendSurvey := none
        judged := s.boot.judged && s.boot.stage != 0x40
        stage40 := if s.boot.stage = 0x40 then s.now else s.boot.stage40 }
      links := s.links.map fun k => { k with helloDue := true } }
  | none => s

/-- The chest draws a fresh pair of shares for each filled slot (R226). -/
def State.refreshShares (s : State) : State :=
  if !s.canDraw then s else
  let n := s.chest.slots.length
  { s with
    draws := s.draws + n
    entropy := { s.entropy with requests := s.entropy.requests + n }
    chest := { s.chest with slots := s.chest.slots.mapIdx fun i x =>
      let d := Config.freeValue (s.draws + i)
      (x.1, { x.2 with share0 := x.2.share0 ^^^ x.2.share1 ^^^ d, share1 := d }) } }

/-- A halt through the field debug port ends when the port no longer reaches the cluster (R261). -/
def State.releaseHalts (s : State) : State :=
  { s with clusters := s.clusters.mapIdx fun c u => if u.halted && !s.debugReaches c then { u with halted := false } else u }

/-- Counts that are kept per 1,024 chains begin again (R259). -/
def State.clearCounts (s : State) : State :=
  if s.now % 1024 = 0 then { s with faults := { s.faults with eccCounts := List.replicate 64 0 } } else s

/-- Apply an operation to every parcel. -/
def State.eachParcel (f : Nat → State → State) (s : State) : State := (List.range 16).foldl (fun t p => f p t) s

/-! The boundary (R26, R300, R337). -/

/-- The chain that runs now ends: its rod 3, its run of overruns, its energy, a close's fill. -/
def State.chainOver (late : List Nat) (mj : Nat) (s : State) : State :=
  let t := (s.rodEnd late).eachParcel State.chainEnd
  let t := if t.working then { t with parcels := t.parcels.map Parcel.filled } else t
  (t.meterChain mj).countClear

/-- The next chain's number. -/
def State.chainNext (s : State) : State := { s with clock := { s.clock with chain := s.clock.chain + 1, rod := 0, reserve := false } }

/-- Links, markers and messages that wait for a route. -/
def State.linksBoundary (s : State) : State := ((List.range 48).foldl (fun t l => t.linkUp l) s).retryWaiting.markerBoundary

/-- Module-wide changes that wait for the boundary: units, shares, survey, entropy, lockstep pairs. -/
def State.moduleBoundary (s : State) : State :=
  s.platBoundary.joinSpares.gateClusters.pairBoundary.sharesBoundary.surveyBoundary.entropyBoundary.clearCounts

/-- Parcels and contexts: grants, map revisions, ends and starts of contexts, closes, detachment, measurement, reports. -/
def State.parcelsBoundary (s : State) : State :=
  let t := { s with parcels := s.parcels.map fun (q : Parcel) => let q := q.grantTurn.closing; { q with contexts := q.contexts.map Context.mapsTurn } }
  let t := (t.eachParcel State.turnCtxs).eachParcel State.closeStop
  let t := (t.eachParcel State.detach).eachParcel State.measured
  t.eachParcel fun p t => (List.range 8).foldl (fun t c => t.ctxReports p c) t

/-- R26. Chain n opens: the ordered actions of Table 2.3, with those of Table 15.6 and what other rules place at a chain boundary. -/
def execChainBoundary (late : List Nat) (mj : Nat) (idx : List (Nat × Nat × Nat)) (s : State) : Host.Outcome State Fault Refusal :=
  .next (if s.clock.running && s.clock.rod = 3 then
    let t := (s.chainOver late mj).chainNext
    let t := t.powerBoundary.eachParcel State.leaves
    let t := t.ratioBoundary.throttleBoundary.moduleBoundary.linksBoundary
    let t := t.parcelsBoundary.bounceBad.refusedReport.refreshShares.releaseHalts
    let t := { t with fabric := { t.fabric with refuseSent := [] } }
    ((t.eachParcel State.detect).selectAll.idleMark).rodBegin idx
  else s)

end Sys2Proof.Machine
end

