-- ==== Sys2Proof/Machine/Dispatch.lean ====
section
/-! DEFINITION. The dispatch of commands to their meanings: one arm for each constructor of `Instr`. -/

namespace Sys2Proof.Machine

open Sys2Proof

/-- The effect of a command on everything but the queue. -/
def exec (i : Instr) (s : State) : Host.Outcome State Fault Refusal :=
  match i with
  | .moduleInfo fn => Sys2Proof.Machine.execModuleInfo fn s
  | .modulePlat fn => Sys2Proof.Machine.execModulePlat fn s
  | .spillMap fn => Sys2Proof.Machine.execSpillMap fn s
  | .hostShares fn => Sys2Proof.Machine.execHostShares fn s
  | .fabricShares fn => Sys2Proof.Machine.execFabricShares fn s
  | .linkRetrain fn => Sys2Proof.Machine.execLinkRetrain fn s
  | .linkStatus fn => Sys2Proof.Machine.execLinkStatus fn s
  | .parcelOpen fn => Sys2Proof.Machine.execParcelOpen fn s
  | .parcelClose fn => Sys2Proof.Machine.execParcelClose fn s
  | .parcelStatus fn => Sys2Proof.Machine.execParcelStatus fn s
  | .sessionOpen fn => Sys2Proof.Machine.execSessionOpen fn s
  | .attestReport fn => Sys2Proof.Machine.execAttestReport fn s
  | .parcelAttach fn => Sys2Proof.Machine.execParcelAttach fn s
  | .bounceMap fn => Sys2Proof.Machine.execBounceMap fn s
  | .debugConsent fn => Sys2Proof.Machine.execDebugConsent fn s
  | .lotLoad fn => Sys2Proof.Machine.execLotLoad fn s
  | .lotUnload fn => Sys2Proof.Machine.execLotUnload fn s
  | .contextStart fn => Sys2Proof.Machine.execContextStart fn s
  | .contextStop fn => Sys2Proof.Machine.execContextStop fn s
  | .contextSeed fn => Sys2Proof.Machine.execContextSeed fn s
  | .contextStatus fn => Sys2Proof.Machine.execContextStatus fn s
  | .roundOpen fn => Sys2Proof.Machine.execRoundOpen fn s
  | .roundMap fn => Sys2Proof.Machine.execRoundMap fn s
  | .roundClose fn => Sys2Proof.Machine.execRoundClose fn s
  | .connOpen fn => Sys2Proof.Machine.execConnOpen fn s
  | .connClose fn => Sys2Proof.Machine.execConnClose fn s
  | .connStatus fn => Sys2Proof.Machine.execConnStatus fn s
  | .easementGrant fn => Sys2Proof.Machine.execEasementGrant fn s
  | .easementRevoke fn => Sys2Proof.Machine.execEasementRevoke fn s
  | .chestCertify fn => Sys2Proof.Machine.execChestCertify fn s
  | .install src => Sys2Proof.Machine.execInstall src s
  | .destroy src => Sys2Proof.Machine.execDestroy src s
  | .lifecycle src => Sys2Proof.Machine.execLifecycle src s
  | .authority src => Sys2Proof.Machine.execAuthority src s
  | .modelKey src => Sys2Proof.Machine.execModelKey src s
  | .fieldChallenge src => Sys2Proof.Machine.execFieldChallenge src s
  | .fieldOpen src => Sys2Proof.Machine.execFieldOpen src s
  | .drawerOpen fn irqEn ringLog2 => Sys2Proof.Machine.execDrawerOpen fn irqEn ringLog2 s
  | .drawerClose fn irqEn ringLog2 => Sys2Proof.Machine.execDrawerClose fn irqEn ringLog2 s
  | .reqTailDoorbell fn value slots => Sys2Proof.Machine.execReqTailDoorbell fn value slots s
  | .respHeadDoorbell fn value => Sys2Proof.Machine.execRespHeadDoorbell fn value s
  | .registerWrite fn offset size value => Sys2Proof.Machine.execRegisterWrite fn offset size value s
  | .responseWrite fn => Sys2Proof.Machine.execResponseWrite fn s
  | .functionReset ev => Sys2Proof.Machine.execFunctionReset ev s
  | .pcieLinkTrained rateGt width => Sys2Proof.Machine.execPcieLinkTrained rateGt width s
  | .bounceInRecord vf r => Sys2Proof.Machine.execBounceInRecord vf r s
  | .bounceOutRecord vf => Sys2Proof.Machine.execBounceOutRecord vf s
  | .bounceMapEffect vf => Sys2Proof.Machine.execBounceMapEffect vf s
  | .chainBoundary late mj idx => Sys2Proof.Machine.execChainBoundary late mj idx s
  | .rodBoundary idx => Sys2Proof.Machine.execRodBoundary idx s
  | .boundaryReserve late => Sys2Proof.Machine.execBoundaryReserve late s
  | .contextSwap p => Sys2Proof.Machine.execContextSwap p s
  | .contextFinish p ctx => Sys2Proof.Machine.execContextFinish p ctx s
  | .hangReplayEnd p hung => Sys2Proof.Machine.execHangReplayEnd p hung s
  | .tileStep p k t => Sys2Proof.Machine.execTileStep p k t s
  | .weightLoad p k addr => Sys2Proof.Machine.execWeightLoad p k addr s
  | .shelfWrite p k => Sys2Proof.Machine.execShelfWrite p k s
  | .pairVote p k agree eq0 eq1 => Sys2Proof.Machine.execPairVote p k agree eq0 eq1 s
  | .preload p k pl => Sys2Proof.Machine.execPreload p k pl s
  | .drain p k row raw reset dst => Sys2Proof.Machine.execDrain p k row raw reset dst s
  | .nodeStart p k node => Sys2Proof.Machine.execNodeStart p k node s
  | .nodeComplete p k node => Sys2Proof.Machine.execNodeComplete p k node s
  | .fold p k node => Sys2Proof.Machine.execFold p k node s
  | .foldRecord p k => Sys2Proof.Machine.execFoldRecord p k s
  | .maskExpand p k node => Sys2Proof.Machine.execMaskExpand p k node s
  | .nttFwd p k node => Sys2Proof.Machine.execNttFwd p k node s
  | .nttInv p k node => Sys2Proof.Machine.execNttInv p k node s
  | .keyswitch p k node => Sys2Proof.Machine.execKeyswitch p k node s
  | .refreshLut p k node => Sys2Proof.Machine.execRefreshLut p k node s
  | .clipL2 p k node => Sys2Proof.Machine.execClipL2 p k node s
  | .sumsq p k node => Sys2Proof.Machine.execSumsq p k node s
  | .meanvar p k node => Sys2Proof.Machine.execMeanvar p k node s
  | .noiseGauss p k node => Sys2Proof.Machine.execNoiseGauss p k node s
  | .decodeCenter p k node => Sys2Proof.Machine.execDecodeCenter p k node s
  | .applyStep p k node => Sys2Proof.Machine.execApplyStep p k node s
  | .matmul p k node => Sys2Proof.Machine.execMatmul p k node s
  | .seedRecover p k node => Sys2Proof.Machine.execSeedRecover p k node s
  | .pairSeed p k node => Sys2Proof.Machine.execPairSeed p k node s
  | .descriptorPush p k q d => Sys2Proof.Machine.execDescriptorPush p k q d s
  | .copy p k q => Sys2Proof.Machine.execCopy p k q s
  | .copy2d p k q => Sys2Proof.Machine.execCopy2d p k q s
  | .fill p k q => Sys2Proof.Machine.execFill p k q s
  | .send p k q => Sys2Proof.Machine.execSend p k q s
  | .rodMark p k q => Sys2Proof.Machine.execRodMark p k q s
  | .carryComplete p k q n => Sys2Proof.Machine.execCarryComplete p k q n s
  | .stakeWaitMet p k q => Sys2Proof.Machine.execStakeWaitMet p k q s
  | .leafDeliver p k conn header data => Sys2Proof.Machine.execLeafDeliver p k conn header data s
  | .leafDeliveryResume p k => Sys2Proof.Machine.execLeafDeliveryResume p k s
  | .clientFragment p ctx frag => Sys2Proof.Machine.execClientFragment p ctx frag s
  | .intakeDeadline p ctx => Sys2Proof.Machine.execIntakeDeadline p ctx s
  | .finalReceipt p ctx => Sys2Proof.Machine.execFinalReceipt p ctx s
  | .receipt p ctx msg => Sys2Proof.Machine.execReceipt p ctx msg s
  | .closeStakeSignal p ctx => Sys2Proof.Machine.execCloseStakeSignal p ctx s
  | .sliceResult p ctx msg => Sys2Proof.Machine.execSliceResult p ctx msg s
  | .closeDeadline p ctx => Sys2Proof.Machine.execCloseDeadline p ctx s
  | .signalDetect link => Sys2Proof.Machine.execSignalDetect link s
  | .trainingTimeout link => Sys2Proof.Machine.execTrainingTimeout link s
  | .trainingRetry link => Sys2Proof.Machine.execTrainingRetry link s
  | .hello link module linkId width digest => Sys2Proof.Machine.execHello link module linkId width digest s
  | .echo link reply sentPs turnPs nowPs => Sys2Proof.Machine.execEcho link reply sentPs turnPs nowPs s
  | .flit link symbols => Sys2Proof.Machine.execFlit link symbols s
  | .nak link seq => Sys2Proof.Machine.execNak link seq s
  | .nakRepeat link => Sys2Proof.Machine.execNakRepeat link s
  | .replayTimeout link => Sys2Proof.Machine.execReplayTimeout link s
  | .laneFail link lane => Sys2Proof.Machine.execLaneFail link lane s
  | .flitLockLoss link => Sys2Proof.Machine.execFlitLockLoss link s
  | .relockRouteLoss link => Sys2Proof.Machine.execRelockRouteLoss link s
  | .relockDone link => Sys2Proof.Machine.execRelockDone link s
  | .relockTimeout link => Sys2Proof.Machine.execRelockTimeout link s
  | .credit link first chain rod grants => Sys2Proof.Machine.execCredit link first chain rod grants s
  | .marker link m => Sys2Proof.Machine.execMarker link m s
  | .chainStep waitNs => Sys2Proof.Machine.execChainStep waitNs s
  | .markerHoldover => Sys2Proof.Machine.execMarkerHoldover s
  | .markerLost => Sys2Proof.Machine.execMarkerLost s
  | .masterTakeover => Sys2Proof.Machine.execMasterTakeover s
  | .write m => Sys2Proof.Machine.execWrite m s
  | .readReq m => Sys2Proof.Machine.execReadReq m s
  | .leaf m => Sys2Proof.Machine.execLeaf m s
  | .readResp m => Sys2Proof.Machine.execReadResp m s
  | .complete m => Sys2Proof.Machine.execComplete m s
  | .refuse m => Sys2Proof.Machine.execRefuse m s
  | .msgOpen m => Sys2Proof.Machine.execMsgOpen m s
  | .openAck m => Sys2Proof.Machine.execOpenAck m s
  | .msgClose m => Sys2Proof.Machine.execMsgClose m s
  | .attest m => Sys2Proof.Machine.execAttest m s
  | .messageVisible conn => Sys2Proof.Machine.execMessageVisible conn s
  | .connTimeout conn => Sys2Proof.Machine.execConnTimeout conn s
  | .openResend conn => Sys2Proof.Machine.execOpenResend conn s
  | .openTimeout conn => Sys2Proof.Machine.execOpenTimeout conn s
  | .closingTimeout conn => Sys2Proof.Machine.execClosingTimeout conn s
  | .fetchResend conn seq => Sys2Proof.Machine.execFetchResend conn seq s
  | .spillFetchDone conn recConn recBootGen recCount recSealed recTag => Sys2Proof.Machine.execSpillFetchDone conn recConn recBootGen recCount recSealed recTag s
  | .revokeDrainDone ease ns => Sys2Proof.Machine.execRevokeDrainDone ease ns s
  | .revokeDrainLimit ease => Sys2Proof.Machine.execRevokeDrainLimit ease s
  | .closeFillDone p => Sys2Proof.Machine.execCloseFillDone p s
  | .snapshotDone p => Sys2Proof.Machine.execSnapshotDone p s
  | .contextFault p ctx cause => Sys2Proof.Machine.execContextFault p ctx cause s
  | .clusterError cluster err => Sys2Proof.Machine.execClusterError cluster err s
  | .memPoison p ctx => Sys2Proof.Machine.execMemPoison p ctx s
  | .subchFail subch => Sys2Proof.Machine.execSubchFail subch s
  | .subchDegraded subch count => Sys2Proof.Machine.execSubchDegraded subch count s
  | .migrationDone subch => Sys2Proof.Machine.execMigrationDone subch s
  | .d2dError => Sys2Proof.Machine.execD2dError s
  | .fenceTimeout unit => Sys2Proof.Machine.execFenceTimeout unit s
  | .moduleReset hubOk => Sys2Proof.Machine.execModuleReset hubOk s
  | .lockstepMismatch pair => Sys2Proof.Machine.execLockstepMismatch pair s
  | .watchdogMiss => Sys2Proof.Machine.execWatchdogMiss s
  | .pwrWarn asserted => Sys2Proof.Machine.execPwrWarn asserted s
  | .inputUndervoltage mv us => Sys2Proof.Machine.execInputUndervoltage mv us s
  | .powerFailRecovered => Sys2Proof.Machine.execPowerFailRecovered s
  | .powerFailStop storeMj => Sys2Proof.Machine.execPowerFailStop storeMj s
  | .inputOvervoltage mv us => Sys2Proof.Machine.execInputOvervoltage mv us s
  | .pwrCycle low ms => Sys2Proof.Machine.execPwrCycle low ms s
  | .inputSwitchClose mv hubOk => Sys2Proof.Machine.execInputSwitchClose mv hubOk s
  | .presentJ1Break => Sys2Proof.Machine.execPresentJ1Break s
  | .powerOn mv hubOk => Sys2Proof.Machine.execPowerOn mv hubOk s
  | .railFail rail timeUs => Sys2Proof.Machine.execRailFail rail timeUs s
  | .throttleTrigger die dc overcurrent => Sys2Proof.Machine.execThrottleTrigger die dc overcurrent s
  | .thermalShutdown isDram unit dc => Sys2Proof.Machine.execThermalShutdown isDram unit dc s
  | .thermalIdle device dc => Sys2Proof.Machine.execThermalIdle device dc s
  | .thermalIdleClear => Sys2Proof.Machine.execThermalIdleClear s
  | .coolantLimit inletDc outletDc => Sys2Proof.Machine.execCoolantLimit inletDc outletDc s
  | .cableOverdraw link => Sys2Proof.Machine.execCableOverdraw link s
  | .inletReading dc => Sys2Proof.Machine.execInletReading dc s
  | .telemetryRefresh r => Sys2Proof.Machine.execTelemetryRefresh r s
  | .scheduleAck => Sys2Proof.Machine.execScheduleAck s
  | .meterSave => Sys2Proof.Machine.execMeterSave s
  | .mgmtTelemetry m => Sys2Proof.Machine.execMgmtTelemetry m s
  | .mgmtEntropy m => Sys2Proof.Machine.execMgmtEntropy m s
  | .mgmtProfile m => Sys2Proof.Machine.execMgmtProfile m s
  | .mgmtCap m => Sys2Proof.Machine.execMgmtCap m s
  | .mgmtSchedule m => Sys2Proof.Machine.execMgmtSchedule m s
  | .mgmtMeter m => Sys2Proof.Machine.execMgmtMeter m s
  | .fwBegin m => Sys2Proof.Machine.execFwBegin m s
  | .fwData m => Sys2Proof.Machine.execFwData m s
  | .fwEnd m => Sys2Proof.Machine.execFwEnd m s
  | .fwCommit m => Sys2Proof.Machine.execFwCommit m s
  | .settingsWrite m => Sys2Proof.Machine.execSettingsWrite m s
  | .surveyWrite m => Sys2Proof.Machine.execSurveyWrite m s
  | .tlsCert m => Sys2Proof.Machine.execTlsCert m s
  | .moduleResetWarm m => Sys2Proof.Machine.execModuleResetWarm m s
  | .moduleResetCold m => Sys2Proof.Machine.execModuleResetCold m s
  | .drbgReseed m => Sys2Proof.Machine.execDrbgReseed m s
  | .entropyPattern m => Sys2Proof.Machine.execEntropyPattern m s
  | .mgmtLinkRetrain m => Sys2Proof.Machine.execMgmtLinkRetrain m s
  | .mgmtLinkStatus m => Sys2Proof.Machine.execMgmtLinkStatus m s
  | .tlsHandshake h => Sys2Proof.Machine.execTlsHandshake h s
  | .ethPacket pkt => Sys2Proof.Machine.execEthPacket pkt s
  | .setEndpointId src eid => Sys2Proof.Machine.execSetEndpointId src eid s
  | .getEndpointId => Sys2Proof.Machine.execGetEndpointId s
  | .getEndpointUuid => Sys2Proof.Machine.execGetEndpointUuid s
  | .getMctpVersionSupport msgType => Sys2Proof.Machine.execGetMctpVersionSupport msgType s
  | .getMessageTypeSupport => Sys2Proof.Machine.execGetMessageTypeSupport s
  | .getVendorMessageSupport selector => Sys2Proof.Machine.execGetVendorMessageSupport selector s
  | .mctpUnsupportedCmd cmd => Sys2Proof.Machine.execMctpUnsupportedCmd cmd s
  | .getVersion => Sys2Proof.Machine.execGetVersion s
  | .getCapabilities => Sys2Proof.Machine.execGetCapabilities s
  | .negotiateAlgorithms p384Sha384 => Sys2Proof.Machine.execNegotiateAlgorithms p384Sha384 s
  | .getDigests => Sys2Proof.Machine.execGetDigests s
  | .getCertificate slot offset length => Sys2Proof.Machine.execGetCertificate slot offset length s
  | .challenge slot nonce => Sys2Proof.Machine.execChallenge slot nonce s
  | .getMeasurements index nonce => Sys2Proof.Machine.execGetMeasurements index nonce s
  | .spdmUnsupportedRequest code => Sys2Proof.Machine.execSpdmUnsupportedRequest code s
  | .smbusLineRecovery highAfter => Sys2Proof.Machine.execSmbusLineRecovery highAfter s
  | .smbusTargetTimeout sclLowUs noEdgeUs => Sys2Proof.Machine.execSmbusTargetTimeout sclLowUs noEdgeUs s
  | .smbusFence sdaLow chains => Sys2Proof.Machine.execSmbusFence sdaLow chains s
  | .smbusUnfence highUs => Sys2Proof.Machine.execSmbusUnfence highUs s
  | .smbusRetry acked => Sys2Proof.Machine.execSmbusRetry acked s
  | .smbusProbe acked => Sys2Proof.Machine.execSmbusProbe acked s
  | .smbusPacket pkt => Sys2Proof.Machine.execSmbusPacket pkt s
  | .healthTestFail primary rct => Sys2Proof.Machine.execHealthTestFail primary rct s
  | .primaryRetest pass => Sys2Proof.Machine.execPrimaryRetest pass s
  | .hubReseed ok => Sys2Proof.Machine.execHubReseed ok s
  | .clusterGeneratorReseed p k ok => Sys2Proof.Machine.execClusterGeneratorReseed p k ok s
  | .fieldChallengeExpiry => Sys2Proof.Machine.execFieldChallengeExpiry s
  | .ebxelStart => Sys2Proof.Machine.execEbxelStart s
  | .waveWake wave => Sys2Proof.Machine.execWaveWake wave s
  | .waveTestDone wave failed failedBenches => Sys2Proof.Machine.execWaveTestDone wave failed failedBenches s
  | .deviceReady device failed => Sys2Proof.Machine.execDeviceReady device failed s
  | .earlyService => Sys2Proof.Machine.execEarlyService s
  | .topologyJudge => Sys2Proof.Machine.execTopologyJudge s
  | .vfEnable n => Sys2Proof.Machine.execVfEnable n s
  | .trainingComplete link good => Sys2Proof.Machine.execTrainingComplete link good s
  | .overvoltageRecovery mv => Sys2Proof.Machine.execOvervoltageRecovery mv s
  | .transferAbandon lowMs => Sys2Proof.Machine.execTransferAbandon lowMs s
  | .startUpTestEnd primary pass => Sys2Proof.Machine.execStartUpTestEnd primary pass s
  | .factoryFuseProgramming => Sys2Proof.Machine.execFactoryFuseProgramming s
  | .diePowerUp die => Sys2Proof.Machine.execDiePowerUp die s
  | .fieldDebugAccess a => Sys2Proof.Machine.execFieldDebugAccess a s

end Sys2Proof.Machine
end

