-- ==== Sys2Proof/Safety.lean ====
section
/-! DEFINITION. What a sound state is, in the terms that the statements use: the units that the spec numbers, the bounds it puts on queues, and the canonical
form of every memory and table. -/

namespace Sys2Proof.Machine

/-- The units that the spec numbers: 17 functions (R195), 16 parcels (R12), 64 clusters (R12), 48 links (R136). -/
def State.units (s : State) : Prop :=
  s.fns.length = 17 ∧ s.parcels.length = 16 ∧ s.clusters.length = 64 ∧ s.links.length = 48

/-- A drawer keeps its bounds: at most 64 commands taken and not answered (R203), at most 256 events queued (R206). -/
def Fn.bounded (f : Fn) : Prop := f.unanswered ≤ 64 ∧ f.events.length ≤ 256

/-- Every queue that the spec bounds keeps its bound: the drawers; 64 messages held for the SMBus (R330); 1,024 meter records (R338); four TLS
sessions (R321). -/
def State.bounded (s : State) : Prop :=
  (∀ f ∈ s.fns, f.bounded) ∧ s.smbus.queue.length ≤ 64 ∧ s.power.records.length ≤ 1024 ∧ s.mgmt.tls.length ≤ 4

/-- A parcel's external memory lists rising offsets, and the parcel has its eight contexts (R250, R251). -/
def Parcel.canonical (q : Parcel) : Prop := rising q.mem = true ∧ q.contexts.length = 8

/-- A cluster's memories are in canonical form (scratch and bench stores read as zero where nothing is listed), and so are its tables; it has two
leaves (R47, R48, R52, R64, R68). -/
def Cluster.canonical (k : Cluster) : Prop :=
  Memory.wf true k.scratch = true ∧ rising k.benches = true ∧ (∀ x ∈ k.benches, Memory.wf true x.2 = true) ∧ rising k.rows = true
    ∧ rising k.stakes = true ∧ k.leaves.length = 2

/-- Every memory and every table of the module is in its canonical form. -/
def State.canonical (s : State) : Prop :=
  (∀ q ∈ s.parcels, q.canonical) ∧ (∀ k ∈ s.clusters, k.canonical) ∧ rising s.fabric.conns = true ∧ rising s.fabric.eases = true
    ∧ rising s.chest.slots = true ∧ Memory.wf true s.flash.fwA.image = true ∧ Memory.wf true s.flash.fwB.image = true

/-- TLS sessions are distinct numbers below 4 (R321). -/
def State.tlsDistinct (s : State) : Prop := s.mgmt.tls.Nodup ∧ ∀ k ∈ s.mgmt.tls, k < 4

/-- A sound state. -/
structure State.Sound (s : State) : Prop where
  /-- The units are there. -/
  units : s.units
  /-- The queues keep their bounds. -/
  bounded : s.bounded
  /-- Memories and tables are canonical. -/
  canonical : s.canonical
  /-- TLS sessions are distinct. -/
  tls : s.tlsDistinct

/-- The life-cycle transitions of Table 10.3, by code: BLANK 0, MANUFACTURED 1, PROVISIONED 2, DEPLOYED 3, RETURNED 4, END 5 (R231). -/
def lifeMay (s t : Nat) : Prop :=
  (s = 0 ∧ t = 1) ∨ (s = 1 ∧ t = 2) ∨ (s = 2 ∧ t = 3) ∨ (s = 3 ∧ t = 4) ∨ (s = 4 ∧ t = 2) ∨ (s ≠ 0 ∧ s ≠ 5 ∧ t = 5)

/-- The chain timer: the chain's number, the rod, and whether it runs (R23). -/
def State.time (s : State) : Nat × Nat × Bool := (s.clock.chain, s.clock.rod, s.clock.running)

/-- From `s` to `t`, link `l` has entered `TRAINING` (R138, R139, R145). -/
structure State.Trains (l : Nat) (s t : State) : Prop where
  /-- It trains from this chain on. -/
  state : (t.link l).state = 0 ∧ (t.link l).trainChain = s.now
  /-- Nothing of the training is done. -/
  fresh : (t.link l).trained = false ∧ (t.link l).helloOk = false ∧ (t.link l).echoes = 0
  /-- Both directions count flits from 0, and no flit is uncovered. -/
  numbers : (t.link l).rxNext = 0 ∧ (t.link l).txNext = 0 ∧ (t.link l).window = [] ∧ (t.link l).txQueue = []
  /-- No other link changes its state. -/
  others : ∀ n ≠ l, (t.link n).state = (s.link n).state
  /-- The chain timer goes on as before. -/
  time : t.time = s.time

/-- The rows of a list take a write of context `c` in one of these modes (R55, R56, R79). -/
def State.rowsTake (p c k : Nat) (modes rows : List Nat) (s : State) : Prop :=
  ∀ r ∈ rows, modes.contains (rowMode (s.rowOf p k r).ctrl) = true ∧ rowRefuses c (s.rowOf p k r) = false

/-- The front request of function `fn` is the command `op` with a payload of `n` plain bytes, and the function may run it (R203). -/
structure State.Asks (s : State) (fn op n : Nat) (pf vf : Bool) (t : Taken) (b : Bytes) : Prop where
  /-- It is next in order (R204). -/
  front : s.front fn op = some t
  /-- Its payload has the right length and form (R202). -/
  payload : t.plain n = .ok b
  /-- Permission and parcel state allow it (R203). -/
  gate : s.gate fn op pf vf = none

/-- What a command leaves that executes to its end: it is gone from the commands to execute, has its effect `g`, its response is queued, and what the
drawer can take is taken (R203, R204). -/
def State.served (fn : Nat) (t : Taken) (body : Bytes) (g : State → State) (s : State) : State :=
  ((g (s.popTaken fn)).respond fn t stOk body).takeAll fn

/-- A management message that is taken (R321, R323, R324): its path is open, its header's reserved fields are zero, its body fits the path. -/
structure State.Hears (s : State) (m : MgmtMsg) : Prop where
  /-- Its path is open (R321, R329). -/
  path : s.pathOpen m = true
  /-- `FLAGS` is zero (Table 15.1). -/
  flags : m.flags = 0
  /-- The reserved bytes are zero (Table 15.1). -/
  reserved : m.reserved = 0
  /-- The body fits its path (Table 15.1). -/
  size : m.body.length ≤ mgmtMost m.path

/-- A connection has been heard: its last progress is this chain (R185), and its record is used last (R170). -/
def State.heard (id : Nat) (s : State) : State := (s.modConn id fun k => { k with lastChain := s.now }).touchConn id

/-- An update message that reaches the chest (R233): the front request of a function, or a management message, carries its bytes. -/
def State.Offers (s : State) (src : UpdateSource) (b : Bytes) : Prop :=
  match src with
  | .drawer fn => ∃ t, s.front fn 0x70 = some t ∧ t.payload = .bytes b ∧ s.gate fn 0x70 true true = none ∧ 96 ≤ t.respMax
  | .mgmt m => s.Hears m ∧ m.body = b

end Sys2Proof.Machine

namespace Sys2Proof
open Machine

/-- A VF carries the update (R234). -/
def UpdateSource.isVf : UpdateSource → Bool | .drawer fn => fn != 0 | .mgmt _ => false
/-- The parcel for which an update is offered (R234). -/
def UpdateSource.parcel : UpdateSource → Nat | .drawer fn => parcelOf fn | .mgmt _ => 0
/-- The state in which the chest runs an update: a request that runs no longer waits. -/
def UpdateSource.base (s : State) : UpdateSource → State | .drawer fn => s.popTaken fn | .mgmt _ => s
/-- The answer to an update, queued or sent, with the commands that then are taken (R203, R323). -/
def UpdateSource.answer (s : State) (st : Nat) (body : Bytes) (v : State) : UpdateSource → State
  | .drawer fn => match s.front fn 0x70 with | some t => (v.respond fn t st body).takeAll fn | none => s
  | .mgmt m => v.answerMgmt m 0x32 st body

/-- The commands to which the spec gives an effect on the chain timer (R23, R26, R158, R277, R305, R336, R341, R349, R352): boundaries, the correction of the
chain number, start and stop of the power stage, a module reset, and the fence that has run out for the module itself (R304). -/
def Instr.movesTimer : Instr → Bool
  | .chainBoundary _ _ _ | .rodBoundary _ | .chainStep _ | .ebxelStart | .powerOn _ _ | .inputSwitchClose _ _ | .moduleReset _ | .powerFailStop _
  | .railFail _ _ | .thermalShutdown _ _ _ | .fenceTimeout .module => true
  | _ => false

end Sys2Proof
end

