-- ==== Sys2Proof/Certificates/Slice0/Obligations.lean ====
section
/-! DEFINITION. The statements for the provers, one for each group of rules of the spec. Most say what exec answers, under hypotheses on the state
and the operands alone; the last say what a step runs, what every step keeps and what no command moves. -/

open Sys2Proof
open Machine

/-- Tables 9.11 and 9.12 (R219, R220). Each query that may run is answered with its record and changes nothing else: `module.info`, `module.plat`,
`parcel.status`, `link.status`, `context.status`, `conn.status`.
Signed answers (R219, R237, R242): `attest.report` and `chest.certify` answer with the report or certificate, which takes one draw for its
signature and changes nothing else.
It rests on choices of the model: log entries 28, 77 and 82. -/
def Obligations.QueriesAndReports : Prop :=
  (∀ (s : State) (fn : Nat) (t : Taken) (b : Bytes),
    (s.Asks fn 0x01 0 true true t b → exec (.moduleInfo fn) s = .next (s.served fn t s.infoBytes id)) ∧
    (s.Asks fn 0x02 0 true true t b → 1536 ≤ t.respMax → exec (.modulePlat fn) s = .next (s.served fn t s.platBytes id)) ∧
    (s.Asks fn 0x07 0 true false t b → 384 ≤ t.respMax → exec (.linkStatus fn) s = .next (s.served fn t s.linkStatus id)) ∧
    (s.Asks fn 0x12 8 true true t b → allZero (b.drop 1) = true → (fn ≠ 0 → fld 0 1 b = parcelOf fn) → fld 0 1 b < 16 →
      s.parcelBusy (fld 0 1 b) = false → exec (.parcelStatus fn) s = .next (s.served fn t (s.parcelStatus (fld 0 1 b)) id)) ∧
    (s.Asks fn 0x35 8 false true t b → allZero (b.drop 1) = true → fld 0 1 b < 8 → t.fits (s.contextStatus (parcelOf fn) (fld 0 1 b)) = true →
      exec (.contextStatus fn) s = .next (s.served fn t (s.contextStatus (parcelOf fn) (fld 0 1 b)) id)) ∧
    (s.Asks fn 0x52 8 false true t b → allZero (b.drop 4) = true → fld 0 4 b < 2 ^ 20 → connParcel (fld 0 4 b) = parcelOf fn →
      s.connLive (fld 0 4 b) = true → 64 ≤ t.respMax →
      exec (.connStatus fn) s
        = .next (s.served fn t ((connRecord (fld 0 4 b) (s.conn (fld 0 4 b)) (s.isPinned (fld 0 4 b))).take 64) id))) ∧
  (∀ (s : State) (fn : Nat) (t : Taken) (b : Bytes), s.canSign = true → 4952 ≤ t.respMax →
    (s.Asks fn 0x21 32 false true t b →
      exec (.attestReport fn) s = .next (s.served fn t (s.report (parcelOf fn) (Config.sha384 b)) State.drawn)) ∧
    (s.Asks fn 0x71 40 false true t b → allZero (cut 1 7 b) = true → s.canDraw = true →
      (fld 0 1 b = 1 ∧ s.slotUse (parcelSlot (parcelOf fn) 0) 5 = true ∨ fld 0 1 b = 2 ∧ s.slotUse 5 5 = true) →
      exec (.chestCertify fn) s = .next (s.served fn t (s.certificate (parcelOf fn) (fld 0 1 b) (cut 8 32 b)) State.drawn)))

/-- The tables of PF0 and the settings of a VF (R193, R196, R211, R218, R261): each accepted command sets exactly its field, which is in force or waits
for the boundary that its rule names.
It rests on choices of the model: log entries 34 and 82. -/
def Obligations.SettingsTaken : Prop :=
  ∀ (s : State) (fn : Nat) (t : Taken) (b : Bytes),
    (s.Asks fn 0x03 16 true false t b → fld 0 8 b % 4096 = 0 → fld 8 8 b = 201326592 → s.host.spilled = [] →
      exec (.spillMap fn) s = .next (s.served fn t [] fun u => { u with host := { u.host with spillBase := some (fld 0 8 b) } })) ∧
    (s.Asks fn 0x04 64 true false t b → ((List.range 16).map fun i => fld (4 * i) 4 b).sum ≤ 880000 →
      (∀ p < 16, (s.parcel p).isOpen = true → ((List.range 16).map fun i => fld (4 * i) 4 b).getD p 0 = s.sharesNext.getD p 0) →
      exec (.hostShares fn) s = .next (s.served fn t [] fun u => { u with host := { u.host with pendShares := some ((List.range 16).map fun i => fld (4 * i) 4 b) } })) ∧
    (s.Asks fn 0x05 32 true false t b → ((List.range 16).map fun i => fld (2 * i) 2 b).sum ≤ 12500 →
      (∀ p < 16, (s.parcel p).isOpen = true → ((List.range 16).map fun i => fld (2 * i) 2 b).getD p 0 = (s.fabric.pendSlices.getD s.fabric.slices).getD p 0) →
      exec (.fabricShares fn) s = .next (s.served fn t [] fun u => { u with fabric := { u.fabric with pendSlices := some ((List.range 16).map fun i => fld (2 * i) 2 b) } })) ∧
    (s.Asks fn 0x24 8 false true t b → fld 0 4 b < 16 → allZero (b.drop 4) = true →
      (BitVec.ofNat 32 (fld 0 4 b) = (s.parcel (parcelOf fn)).grant ∨ s.sealedRound (parcelOf fn) = false) →
      exec (.debugConsent fn) s = .next (s.served fn t [] fun u =>
        u.modParcel (parcelOf fn) fun q => { q with pendGrant := some (BitVec.ofNat 32 (fld 0 4 b)) })) ∧
    (s.Asks fn 0x23 44 false true t b → allZero (cut 29 1 b) = true → allZero (cut 38 6 b) = true →
      s.mapOk (parcelOf fn) (parseMap b) = true →
      ∃ v, exec (.bounceMap fn) s = .next (s.served fn t [] fun _ => v) ∧ v = { s with fns := v.fns } ∧
        (∀ m ≠ fn, v.fn m = s.fn m) ∧
        (fn < s.fns.length → if (s.fn fn).bounce.live then
            (v.fn fn).bounce = { (s.fn fn).bounce with next := some (parseMap b) }
          else (v.fn fn).bounce.map = some (parseMap b) ∧ (v.fn fn).bounce.live = true ∧ (v.fn fn).bounce.inBase = (s.fn fn).bounce.inHead
            ∧ (v.fn fn).bounce.outBase = (s.fn fn).bounce.outTail))

/-- A parcel's life under its commands (R209, R214, R215, R249, R256): opening gives it the named units and empty contexts, attaching makes it
ATTACHED, a close makes it CLOSING, and a session has its four keys. Nothing but what is named changes.
It rests on choices of the model: log entries 4, 32 and 82. -/
def Obligations.ParcelLife : Prop :=
  ∀ (s : State) (fn p : Nat) (t : Taken) (b : Bytes),
    (s.Asks fn 0x10 72 true false t b → p = fld 0 1 b → p < s.parcels.length → fld 1 1 b < 2 → allZero (cut 2 6 b) = true →
      s.parcelBusy p = false → firstFail (s.openChecks p (bit 0 (fld 1 1 b)) (bitsOf 64 (fld 8 8 b)) (bitsOf 64 (fld 16 8 b))) = none →
      ∃ v, exec (.parcelOpen fn) s = .next (s.served fn t [] fun _ => v)
        ∧ v = { s with fns := v.fns, parcels := v.parcels, boot := { s.boot with earlyUsed := s.boot.earlyUsed || !s.boot.ready } }
        ∧ (∀ q ≠ p, v.parcel q = s.parcel q) ∧ (v.parcel p).state = 1 ∧ (v.parcel p).clusters = bitsOf 64 (fld 8 8 b)
        ∧ (v.parcel p).subchs = bitsOf 64 (fld 16 8 b) ∧ (v.parcel p).paired = bit 0 (fld 1 1 b)
        ∧ (v.parcel p).ownerDigest = BitVec.ofNat 384 (fld 24 48 b) ∧ (v.parcel p).hostShare = (s.fn (p + 1)).hostShare
        ∧ (v.parcel p).contexts = List.replicate 8 Context.reset ∧ (v.parcel p).mem = [] ∧ (v.parcel p).grant = 0) ∧
    (s.Asks fn 0x11 8 true true t b → p = fld 0 1 b → allZero (b.drop 1) = true → p < 16 → p < s.parcels.length → (fn ≠ 0 → p = parcelOf fn) →
      (s.parcel p).isOpen = true → s.parcelBusy p = false →
      ∃ v : State, exec (.parcelClose fn) s = .next (State.takeAll fn v) ∧ v = { s with fns := v.fns, parcels := v.parcels }
        ∧ (∀ q ≠ p, v.parcel q = s.parcel q) ∧ v.parcel p = { s.parcel p with state := 4, fillReq := some (fn, t) }) ∧
    (s.Asks fn 0x22 72 false true t b → p = parcelOf fn → p < s.parcels.length → fld 0 1 b < 2 → allZero (cut 1 7 b) = true →
      Config.sha384 (cut 40 32 b) = (s.parcel p).ownerDigest → bit 0 (fld 0 1 b) = (s.parcel p).everAttached →
      ((s.parcel p).everAttached = true → allZero (cut 8 32 b) = true) → ((s.parcel p).everAttached = false → s.canDraw = true) →
      ∃ v, exec (.parcelAttach fn) s = .next (s.served fn t [] fun _ => v)
        ∧ v = { s with fns := v.fns, parcels := v.parcels, chest := v.chest, draws := v.draws, entropy := v.entropy }
        ∧ (∀ q ≠ p, v.parcel q = s.parcel q) ∧ (v.parcel p).state = 2 ∧ (v.parcel p).everAttached = true
        ∧ ((s.parcel p).everAttached = true → v.chest = s.chest)
        ∧ ((s.parcel p).everAttached = false → v.slotVal (parcelSlot p 5) = BitVec.ofNat 1024 (leNat (cut 8 32 b)))) ∧
    (s.Asks fn 0x20 64 false true t b → p = parcelOf fn → fn < s.fns.length → s.canDraw = true → s.canSign = true → 4984 ≤ t.respMax →
      ∃ v body, exec (.sessionOpen fn) s = .next (s.served fn t body fun _ => v) ∧ (v.fn fn).session = true
        ∧ body.take 32 = le 32 (Config.x25519Pub ((s.endSession fn 1).fresh.setWidth 256)).toNat
        ∧ ∀ i < 4, v.slotVal (parcelSlot p (i + 1)) = BitVec.ofNat 1024 (fld (32 * i) 32
            (sessionKeys ((s.endSession fn 1).fresh.setWidth 256) (BitVec.ofNat 256 (leNat (b.take 32))) (b.drop 32) fn (s.fn fn).gen)))

/-- Loading and running a lot (R34, R236, R251): a lot image that passes every rule makes the context LOADED, and an image whose trailer fails is refused;
`lot.unload`, `context.start`, `context.stop` and `context.seed` are recorded and take effect at the next chain boundary.
It rests on choices of the model: log entries 12, 15 and 82. -/
def Obligations.LotsAndContexts : Prop :=
  ∀ (s : State) (fn p c : Nat) (t : Taken) (b : Bytes), p = parcelOf fn →
    (∀ (i : LotImage), s.front fn 0x30 = some t → t.payload = .lot b i → b.length = 8 → allZero (b.drop 1) = true → c = fld 0 1 b →
      s.gate fn 0x30 false true = none → (s.parcel p).refusing = false → s.sealedRound p = false → c < 8 → (s.ctx p c).state = 0 →
      s.slotUse (verifySlot p i.trailer) 5 = true → firstFail (s.imageChecks p c i) = none → s.shortfall p c i = none →
      exec (.lotLoad fn) s = .next (if s.trailerOk p i then s.served fn t [] fun u => u.modCtx p c fun _ => loadedContext i
        else ((s.popTaken fn).respond fn t stSignature []).takeAll fn)) ∧
    (s.Asks fn 0x31 8 false true t b → allZero (b.drop 1) = true → c = fld 0 1 b → c < 8 → s.sealedRound p = false → (s.ctx p c).state ≠ 0 →
      (s.ctx p c).state ≠ 2 → (s.ctx p c).pendStart = false → (s.ctx p c).pendUnload = false →
      exec (.lotUnload fn) s = .next (s.served fn t [] fun u => u.modCtx p c fun x => { x with pendUnload := true })) ∧
    (s.Asks fn 0x32 8 false true t b → allZero (cut 1 1 b) = true → allZero (b.drop 4) = true → c = fld 0 1 b → c < 8 → fld 2 2 b ≤ 1024 →
      (s.parcel p).refusing = false → (s.ctx p c).state = 1 → (s.ctx p c).pendUnload = false → (s.ctx p c).pendStart = false →
      ∀ i, (s.ctx p c).image = some i →
      exec (.contextStart fn) s = .next (s.served fn t [] fun u =>
        (u.modCtx p c fun x => { x with pendStart := true, lateLimit := if fld 2 2 b = 0 then 64 else fld 2 2 b }).allocStakes p c i.stakes)) ∧
    (s.Asks fn 0x33 8 false true t b → allZero (b.drop 1) = true → c = fld 0 1 b → c < 8 → (s.parcel p).refusing = false →
      (s.ctx p c).state = 2 → (s.ctx p c).pendStop = false →
      exec (.contextStop fn) s = .next (s.served fn t [] fun u => u.modCtx p c fun x => { x with pendStop := true })) ∧
    (s.Asks fn 0x34 40 false true t b → allZero (cut 1 7 b) = true → c = fld 0 1 b → c < 8 → (s.parcel p).refusing = false →
      ((s.ctx p c).state = 1 ∨ (s.ctx p c).state = 2) →
      exec (.contextSeed fn) s = .next (s.served fn t [] fun u =>
        u.modCtx p c fun x => { x with seedSet := true, pendSeed := some (BitVec.ofNat 256 (fld 8 32 b)) }))

/-- The commands of a round (R116, R119, R128): `round.open` opens the round that the descriptor states, an accepted `round.map` waits for the next
chain boundary, and `round.close` notes the chain in which it was first accepted.
It rests on choices of the model: log entries 72 and 82. -/
def Obligations.RoundCommands : Prop :=
  ∀ (s : State) (fn p c : Nat) (t : Taken) (b : Bytes), p = parcelOf fn → c = fld 0 1 b → c < 8 → (s.parcel p).refusing = false →
    (∀ (d : RoundDesc), s.front fn 0x40 = some t → t.payload = .bytes b → d = parseRound (b.drop 8) →
      b.length = 72 + 32 * d.mapCount + 4 * d.memberCount → allZero (cut 1 7 b) = true → s.gate fn 0x40 false true = none →
      s.roundFormatOk p d = true → s.mapFormatOk p (s.ctx p c) d = true → (s.ctx p c).state = 2 → (s.ctx p c).role = d.role →
      (s.ctx p c).roundOpen = false → (s.ctx p c).mode = d.mode → (d.mode = 3 → s.groupAttested p d = true) →
      exec (.roundOpen fn) s = .next (s.served fn t [] fun u => u.modCtx p c fun x => { x with round := some { Round.reset with desc := d } })) ∧
    (∀ (r : Round) (new : List SliceEntry), s.front fn 0x41 = some t → t.payload = .bytes b → new = parseEntries (fld 8 2 b) (b.drop 16) →
      b.length = 16 + 32 * fld 8 2 b → allZero (cut 1 3 b) = true → allZero (cut 10 6 b) = true → s.gate fn 0x41 false true = none →
      (s.ctx p c).round = some r → r.outcome = none → r.desc.roundId = fld 4 4 b → 0 < fld 8 2 b → fld 8 2 b ≤ 4096 →
      revisionOk r.desc.mode (r.pendMaps.getD r.desc.maps) new = true →
      exec (.roundMap fn) s = .next (s.served fn t [] fun u => u.modCtx p c fun x => { x with round := some { r with pendMaps := some new } })) ∧
    (∀ (r : Round), s.Asks fn 0x42 8 false true t b → allZero (cut 1 3 b) = true → (s.ctx p c).round = some r → r.outcome = none →
      r.desc.role = 2 → r.desc.roundId = fld 4 4 b →
      exec (.roundClose fn) s = .next (s.served fn t [] fun u =>
        u.modCtx p c fun x => { x with round := some { r with closeTaken := some (r.closeTaken.getD s.now) } }))

/-- Connections, easements and link retraining as commands (R141, R178, R182, R188, R192): a new connection is OPENING under the lowest free ID and has
sent `OPEN`; closing enters CLOSING or, from FAILED, CLOSED; a grant takes the lowest free easement with its next generation; a revocation and a
retraining run on and are answered later.
It rests on choices of the model: log entries 36, 39, 40 and 82. -/
def Obligations.PeerCommands : Prop :=
  ∀ (s : State) (fn p : Nat) (t : Taken) (b : Bytes), p = parcelOf fn →
    (∀ id, s.Asks fn 0x50 96 false true t b → (parseOpen b).flags < 4 → (parseOpen b).completeStake < 8192 → (parseOpen b).leafEase < 4096 →
      s.draining (parseOpen b).leafEase = false → s.openArgsBad p (parseOpen b) = false →
      (bit 0 (parseOpen b).flags = true ∨ groupOf (parseOpen b).peerModule = groupOf s.boot.moduleId) → s.freeConn p = some id →
      s.canReside p = true → ((s.liveConns p).filter s.isPinned).length < 256 → s.canDraw = true → s.slotUse 4 1 = true →
      exec (.connOpen fn) s = .next (s.served fn t (le 4 id ++ le 2 (((s.popTaken fn).makeRoom p).newConn id (parseOpen b)).gen ++ zeros 2)
        fun u => (((((u.makeRoom p).putConn id ((u.makeRoom p).newConn id (parseOpen b))).setConnState id 1 .command).drawOpen id).touchConn id).sendOpen id)) ∧
    (∀ id, s.Asks fn 0x51 8 false true t b → allZero (b.drop 4) = true → id = fld 0 4 b → id < 2 ^ 20 → connParcel id = p → s.connLive id = true →
      exec (.connClose fn) s = .next (s.served fn t [] fun u =>
        if (s.conn id).state = 5 then u.setConnState id 6 .command else if (s.conn id).state = 4 then u else u.beginClose id .command)) ∧
    (∀ e, s.Asks fn 0x60 32 false true t b → grantReserved b = false → grantOk (s.parcel p) b = true → s.freeEase p = some e →
      exec (.easementGrant fn) s = .next (s.served fn t (le 2 e ++ le 2 (nextGen (s.ease e).gen)) fun u =>
        u.putEase e (grantEntry (nextGen (s.ease e).gen) b))) ∧
    (∀ e, s.Asks fn 0x61 8 false true t b → e = fld 0 2 b → e < 4096 → allZero (b.drop 2) = true → s.draining e = false → e / 256 = p →
      (s.ease e).valid = true →
      ∃ v : State, exec (.easementRevoke fn) s = .next (v.takeAll fn) ∧ v = { s with fns := v.fns, fabric := v.fabric } ∧
        (v.ease e).revokeDue = true ∧ v.draining e = true ∧ v.fabric.conns = s.fabric.conns ∧ ∀ x ≠ e, v.ease x = s.ease x) ∧
    (∀ l, s.Asks fn 0x06 8 true false t b → l = fld 0 1 b → l < 48 → allZero (b.drop 1) = true → (s.longs.any fun x => x.link == l) = false →
      s.isTraining l = false →
      exec (.linkRetrain fn) s = .next (State.takeAll fn
        { (s.popTaken fn).enterTraining l .operator with longs := s.longs ++ [{ LongCmd.reset with fn := fn, req := t, link := l }] }))

/-- Update messages (R233, R234): the row of an update's `OP` makes the checks of R234 in order; the first that fails refuses with its status and changes
nothing, and an update that passes has its effect and is answered with `ST_OK`.
It rests on choices of the model: log entries 16 and 49. -/
def Obligations.UpdatesChecked : Prop :=
  ∀ (s : State) (src : UpdateSource) (b : Bytes) (u : Update), s.Offers src b → u = parseUpdate b → b.length = 192 + u.bodyBytes →
    let ans : Nat → State := fun op => if updateRow b = op then
      (match firstFail (s.updateChecks src.isVf src.parcel u) with
        | some st => src.answer s st [] (src.base s)
        | none => src.answer s stOk ((src.base s).updateEffect src.parcel u).1 ((src.base s).updateEffect src.parcel u).2) else s
    exec (.install src) s = .next (ans 1) ∧ exec (.destroy src) s = .next (ans 2) ∧ exec (.lifecycle src) s = .next (ans 3) ∧
    exec (.authority src) s = .next (ans 4) ∧ exec (.modelKey src) s = .next (ans 5) ∧ exec (.fieldChallenge src) s = .next (ans 6) ∧
    exec (.fieldOpen src) s = .next (ans 7)

/-- What each update does once it passes (R226, R232, R234, R235, R243, R245): the slot it fills or empties, the counter it stores, the window it opens, the
challenge it makes, the life cycle it sets with the cold reset that it orders.
It rests on choices of the model: log entries 49, 51 and 62. -/
def Obligations.UpdateEffects : Prop :=
  ∀ (s v : State) (p : Nat) (u : Update), v = (s.updateEffect p u).2 →
    (u.op = 1 → v.slotVal (u.abs p) = BitVec.ofNat 1024 (leNat ((s.unwrapped u).getD [])) ∧ v.slotAttrs (u.abs p) = BitVec.ofNat 32 u.attrs ∧
      (∀ i ≠ u.abs p, v.slotVal i = s.slotVal i ∧ v.slotAttrs i = s.slotAttrs i)) ∧
    (u.op = 2 → rising s.chest.slots = true → v.slotFilled (u.abs p) = false ∧ ∀ i ≠ u.abs p, v.slotVal i = s.slotVal i) ∧
    (u.op = 3 → v.flash.lifecycle = fld 0 1 u.body ∧ v.faults.order = some (s.now, true)) ∧
    (u.op = 4 → v.slotVal 10 = BitVec.ofNat 1024 (leNat ((s.unwrapped u).getD [])) ∧ 10 ∈ v.chest.blobs) ∧
    (u.op = 5 → p < s.parcels.length → v.slotVal (u.abs p) = BitVec.ofNat 1024 (leNat ((s.unwrapped u).getD [])) ∧
      (v.parcel p).window = some (fld 0 8 u.body, fld 8 8 u.body)) ∧
    (u.op = 6 → v.chest.challenge = some (s.fresh.setWidth 256, s.now) ∧ v.chest.counters = s.chest.counters ∧ v.chest.slots = s.chest.slots) ∧
    (u.op = 7 → v.flash.lifecycle = 4 ∧ v.chest.challenge = none ∧ v.faults.order = some (s.now, true)) ∧
    (u.op ≠ 6 → u.authority = 0 → p < s.parcels.length → (v.parcel p).tenantCounter = u.counter) ∧
    (u.op ≠ 6 → 0 < u.authority → u.authority < s.chest.counters.length → v.chest.counters.getD u.authority 0 = u.counter)

/-- `DRAWER_CTRL.ENABLE` (R198, R201): a write of 1 opens the drawer with empty rings, or is held until drawers are offered; a write of 0 closes it, with
a new generation (0 skipped), the requests not taken forgotten and the session over. No other function changes.
It rests on choices of the model: log entry 30. -/
def Obligations.DrawerOpensAndCloses : Prop :=
  ∀ (s : State) (fn ring : Nat) (irq : Bool), s.reachable fn = true → fn < s.fns.length → 6 ≤ ring → ring ≤ 12 →
    ((s.fn fn).enable = false →
      ∃ t, exec (.drawerOpen fn irq ring) s = .next t ∧ t = { s with fns := t.fns } ∧ (∀ m ≠ fn, t.fn m = s.fn m) ∧
        (t.fn fn).enable = true ∧ (t.fn fn).irqEn = irq ∧ (t.fn fn).ringLog2 = ring ∧ (t.fn fn).gen = (s.fn fn).gen ∧
        (s.offered = true → (t.fn fn).active = true ∧ (t.fn fn).reqHead = 0 ∧ (t.fn fn).reqTail = 0 ∧ (t.fn fn).respHead = 0 ∧ (t.fn fn).respTail = 0) ∧
        (s.offered = false → (t.fn fn).openHeld = true ∧ (t.fn fn).active = (s.fn fn).active)) ∧
    ((s.fn fn).enable = true →
      ∃ t, exec (.drawerClose fn irq ring) s = .next t ∧ (t.fn fn).enable = false ∧ (t.fn fn).active = false ∧
        (t.fn fn).gen = (if ((s.fn fn).gen + 1) % 2 ^ 16 = 0 then 1 else ((s.fn fn).gen + 1) % 2 ^ 16) ∧ (t.fn fn).unread = [] ∧
        (t.fn fn).session = false ∧ t.clusters = s.clusters ∧ t.fabric = s.fabric ∧ t.host = s.host ∧ t.power = s.power)

/-- BAR0 writes (R198): a base register takes a 64-bit write while the drawer is closed, and a read returns it; `CFG_ERR` is cleared by writing one to it;
an unaligned access, one of another size, and a write to a read-only register are ignored and set `CFG_ERR`.
The doorbells (R203, R207): a `REQ_TAIL` within the ring is stored, the slots written are read and as many are taken as may be; a `RESP_HEAD` that is
not beyond `RESP_TAIL` is stored and lets the next message be sent; any other value is ignored and sets `CFG_ERR`.
It rests on choices of the model: log entries 30 and 83. -/
def Obligations.RegistersAndDoorbells : Prop :=
  (∀ (s : State) (fn : Nat) (v : BitVec 64), s.reachable fn = true → fn < s.fns.length →
    ((s.fn fn).enable = false →
      (∃ t, exec (.registerWrite fn 0 8 v) s = .next t ∧ t = { s with fns := t.fns } ∧ (∀ m ≠ fn, t.fn m = s.fn m) ∧
        t.readReg fn 0 = v.toNat % 2 ^ 32 ∧ t.readReg fn 4 = v.toNat / 2 ^ 32 ∧ (t.fn fn).respBase = (s.fn fn).respBase) ∧
      (∃ t, exec (.registerWrite fn 8 8 v) s = .next t ∧ t = { s with fns := t.fns } ∧ (∀ m ≠ fn, t.fn m = s.fn m) ∧
        t.readReg fn 8 = v.toNat % 2 ^ 32 ∧ t.readReg fn 12 = v.toNat / 2 ^ 32 ∧ (t.fn fn).reqBase = (s.fn fn).reqBase)) ∧
    ((s.fn fn).enable = true → exec (.registerWrite fn 0 8 v) s = .next (s.modFn fn fun f => { f with cfgErr := true })) ∧
    (v.toNat.testBit 17 = true → exec (.registerWrite fn 0x14 4 v) s = .next (s.modFn fn fun f => { f with cfgErr := false })) ∧
    (∀ offset, offset % 4 ≠ 0 → exec (.registerWrite fn offset 4 v) s = .next (s.modFn fn fun f => { f with cfgErr := true })) ∧
    (∀ offset size, size ≠ 4 → size ≠ 8 → exec (.registerWrite fn offset size v) s = .next (s.modFn fn fun f => { f with cfgErr := true })) ∧
    (∀ offset, offset ∈ [0x20, 0x24, 0x100, 0x104, 0x108, 0x110, 0x118] →
      exec (.registerWrite fn offset 4 v) s = .next (s.modFn fn fun f => { f with cfgErr := true }))) ∧
  (∀ (s : State) (fn : Nat) (v : BitVec 32) (slots : List Slot), s.reachable fn = true → fn < s.fns.length →
    ((s.fn fn).active = true → (v - (s.fn fn).reqHead).toNat ≤ 2 ^ (s.fn fn).ringLog2 →
      exec (.reqTailDoorbell fn v slots) s = .next (State.takeAll fn (s.modFn fn fun f => { f with
        reqTail := v
        unread := f.unread ++ slots.take ((v - (s.fn fn).reqHead).toNat - (s.fn fn).unread.length) }))) ∧
    (((s.fn fn).active = false ∨ 2 ^ (s.fn fn).ringLog2 < (v - (s.fn fn).reqHead).toNat) →
      exec (.reqTailDoorbell fn v slots) s = .next (s.modFn fn fun f => { f with cfgErr := true })) ∧
    ((s.fn fn).active = true → (v - (s.fn fn).respHead).toNat ≤ ((s.fn fn).respTail - (s.fn fn).respHead).toNat →
      exec (.respHeadDoorbell fn v) s = .next (s.modFn fn fun f => { f with respHead := v, msixSent := false })) ∧
    (((s.fn fn).active = false ∨ ((s.fn fn).respTail - (s.fn fn).respHead).toNat < (v - (s.fn fn).respHead).toNat) →
      ∃ t, exec (.respHeadDoorbell fn v) s = .next t ∧ t = { s with fns := t.fns } ∧ (t.fn fn).cfgErr = true ∧ (t.fn fn).respHead = (s.fn fn).respHead))

/-- Writing to the response ring (R206): a slot is written only with room in the ring; then the oldest response of this generation is written at `RESP_TAIL`,
which advances by one, and only when there is none is an event written. Without room everything waits. A function queues up to 256 events; each further one
is counted in the tag and discarded. The slot that brings `RESP_TAIL` to zero also ends the session (R209), so the frame is said of the others. -/
def Obligations.ResponseWritten : Prop :=
  ∀ (s : State) (fn : Nat), fn < s.fns.length →
    ((s.fn fn).active = true → ((s.fn fn).respTail - (s.fn fn).respHead).toNat < 2 ^ (s.fn fn).ringLog2 →
      (∀ (r : RespSlot) (l : List RespSlot), (s.fn fn).responses.filter (fun r => r.gen == (s.fn fn).gen) = r :: l →
        ∃ t, exec (.responseWrite fn) s = .next t ∧ (t.fn fn).respTail = (s.fn fn).respTail + 1 ∧ (t.fn fn).responses = l ∧ t.clusters = s.clusters ∧
          (∃ fl ct tag, .ringSlot fn ((s.fn fn).respTail.toNat % 2 ^ (s.fn fn).ringLog2) r.opcode r.tag r.gen r.status fl ct tag ∈ t.outbox) ∧
          ((s.fn fn).respTail ≠ BitVec.allOnes 32 → (t.fn fn).events = (s.fn fn).events ∧ t.parcels = s.parcels ∧ t.chest = s.chest)) ∧
      (∀ (e : Event) (l : List Event), (s.fn fn).responses.filter (fun r => r.gen == (s.fn fn).gen) = [] → (s.fn fn).events = e :: l →
        s.holdsEvents fn = false →
        ∃ t, exec (.responseWrite fn) s = .next t ∧ (t.fn fn).respTail = (s.fn fn).respTail + 1 ∧ t.clusters = s.clusters ∧
          ((s.fn fn).respTail ≠ BitVec.allOnes 32 → (t.fn fn).events = l ∧ t.parcels = s.parcels ∧ t.chest = s.chest))) ∧
    (2 ^ (s.fn fn).ringLog2 ≤ ((s.fn fn).respTail - (s.fn fn).respHead).toNat → exec (.responseWrite fn) s = .next s) ∧
    (∀ code data, (fn = 0 ∨ (s.fn fn).present = true) → (s.evFn fn code data).fn fn = { s.fn fn with
      eventCount := ((s.fn fn).eventCount + 1) % 2 ^ 16
      events := (s.fn fn).events ++ (if (s.fn fn).events.length < 256 then [{ code := code, chain := s.now, tag := ((s.fn fn).eventCount + 1) % 2 ^ 16, data := data }] else []) })

/-- The PCIe port as a whole (R195, R197, R216): setting NumVFs enables VF1 to VFn and no other; a reset event closes the drawers of its scope;
training below the full bandwidth scales the shares and reports it, training at full bandwidth lets the set shares return.
It rests on choices of the model: log entry 31. -/
def Obligations.PortEvents : Prop :=
  ∀ (s : State), s.fns.length = 17 →
    (∀ n ≤ 16, ∃ t, exec (.vfEnable n) s = .next t ∧ t.host = { s.host with numVfs := n } ∧ (∀ i < 17, 0 < i → (t.fn i).present = decide (i ≤ n)) ∧
      (t.fn 0).present = (s.fn 0).present) ∧
    (∀ ev, ∃ t, exec (.functionReset ev) s = .next t ∧ (∀ n ∈ resetScope s ev, n < 17 → (s.fn n).enable = true →
        (t.fn n).enable = false ∧ (t.fn n).active = false ∧ (t.fn n).session = false ∧ (t.fn n).gen = nextGen (s.fn n).gen) ∧
      (∀ n < 17, n ∉ resetScope s ev → (t.fn n).enable = (s.fn n).enable ∧ (t.fn n).gen = (s.fn n).gen) ∧ t.clusters = s.clusters ∧ t.boot = s.boot ∧ t.clock = s.clock) ∧
    (∀ rate width, rate * width < 1024 → ∃ t, exec (.pcieLinkTrained rate width) s = .next t ∧
      t.host = { s.host with linkUp := true, rateGt := rate, width := width, scaled := true, scaledNext := false } ∧
      .mgmtEvent 0x0903 s.now [rate, width] ∈ t.outbox) ∧
    (∀ rate width, 1024 ≤ rate * width → exec (.pcieLinkTrained rate width) s = .next { s with
      host := { s.host with linkUp := true, rateGt := rate, width := width, scaledNext := s.host.scaled } })

/-- The bounce channels (R211 to R213): an IN record that is due is written to the area, good or marked discarded, and `IN_HEAD` and `IN_READY` rise by one;
an OUT record that is due is written to the host and `OUT_TAIL` rises, or is refused and counted; a later mapping takes effect at a chain boundary.
It rests on choices of the model: log entries 20, 34 and 83. -/
def Obligations.BounceMoves : Prop :=
  ∀ (s : State) (vf : Nat) (m : BounceMap) (b : Bounce), s.channel vf = some (m, b) → vf < s.fns.length →
    (∀ r, s.inDue (parcelOf vf) m b = true →
      ∃ t, exec (.bounceInRecord vf r) s = .next t ∧
        (t.fn vf).bounce = { (s.fn vf).bounce with inHead := b.inHead + 1, inBad := b.inBad + b2n (!s.inRecordOk (parcelOf vf) m b r), moved := true }) ∧
    (s.outDue (parcelOf vf) m b = true →
      ∃ t, exec (.bounceOutRecord vf) s = .next t ∧
        (let n := leNat (s.extRead (parcelOf vf) (m.areaOff + m.inSlots * m.stride + b.outTail % m.outSlots * m.stride + 16) 4)
         if m.stride - 80 < n then (t.fn vf).bounce = { (s.fn vf).bounce with outBad := b.outBad + 1, readyBase := b.readyBase + 1 }
         else (t.fn vf).bounce = { (s.fn vf).bounce with outTail := b.outTail + 1, moved := true } ∧
           ∃ r, r.seq = b.outTail ∧ r.channel = 1 ∧ r.payloadBytes = n ∧ .outRecord vf r ∈ t.outbox)) ∧
    (∀ m', b.next = some m' → s.clock.rod = 0 → b.moved = false →
      ∃ t, exec (.bounceMapEffect vf) s = .next t ∧ t = { s with fns := t.fns } ∧ (t.fn vf).bounce.map = some m' ∧ (t.fn vf).bounce.next = none ∧
        (t.fn vf).bounce.inBase = (s.fn vf).bounce.inHead)

/-- The chain timer (R23, R24, R26, R40): in rod 3 of a chain that runs, `CHAIN_BOUNDARY` opens rod 0 of the next chain; before rod 3, `ROD_BOUNDARY` opens
the next rod; `BOUNDARY_RESERVE` begins the last 128 cycles, and changes nothing else when no context has work left; a context with work left is stopped,
and counts an overrun.
An overrun (R40, R41): when the reserve begins and the running context of parcel `p` alone has work left, it is stopped for the rod and its overruns and
its run of overruns rise by one; in a chain that throttling lengthened no limit applies.
It rests on choices of the model: log entries 13, 14 and 57. -/
def Obligations.ChainsRodsAndOverruns : Prop :=
  (∀ (s : State) (late : List Nat) (mj : Nat) (idx : List (Nat × Nat × Nat)), s.clock.running = true →
    (s.clock.rod = 3 → ∃ t, exec (.chainBoundary late mj idx) s = .next t ∧ t.time = (s.clock.chain + 1, 0, true)) ∧
    (s.clock.rod < 3 → ∃ t, exec (.rodBoundary idx) s = .next t ∧ t.time = (s.clock.chain, s.clock.rod + 1, true)) ∧
    (s.clock.reserve = false →
      ((∀ p < 16, ∀ c x, s.holder p = some (c, x) → p ∉ late ∧ s.queuesLate p x = false) →
        exec (.boundaryReserve late) s = .next { s with clock := { s.clock with reserve := true } }) ∧
      ∃ t, exec (.boundaryReserve late) s = .next t ∧ t.time = s.time ∧ t.clock.reserve = true)) ∧
  (∀ (s : State) (late : List Nat) (p c : Nat) (x : Context), s.Sound → s.clock.running = true → s.clock.reserve = false → s.clock.throttle = true →
    p < 16 → c < 8 → s.holder p = some (c, x) → p ∈ late →
    (∀ q < 16, q ≠ p → s.holder q = none) →
    ∃ t, exec (.boundaryReserve late) s = .next t ∧ (t.ctx p c).overruns = (s.ctx p c).overruns + 1 ∧ (t.ctx p c).runLen = (s.ctx p c).runLen + 1 ∧
      (t.ctx p c).rodStopped = true ∧ (t.ctx p c).state = (s.ctx p c).state ∧ (∀ q ≠ p, t.parcel q = s.parcel q))

/-- Contexts in time (R28, R29, R251): the swap that is due in rod 3 gives the clusters to the next runnable context; a running context whose graph is
complete is to finish at the boundary, and nothing else changes.
A suspect's replay ends (R302): its engine state, stakes and place in the pattern return, and the next suspect's replay begins, alone on the clusters.
It rests on choices of the model: log entry 56. -/
def Obligations.SwapsAndReplays : Prop :=
  (∀ (s : State) (p c : Nat),
    (s.Sound → p < 16 → s.working = true → s.clock.rod = 3 → (s.parcel p).swapReady = true → (s.parcel p).swapWanted = true → (s.parcel p).swapTo = none →
      (s.parcel p).running = none → nextAfter (s.parcel p).lastRan (s.parcel p).runnable = some c →
      ∃ t, exec (.contextSwap p) s = .next t ∧ (t.parcel p).swapTo = some c ∧ (t.parcel p).swapReady = false ∧ t.time = s.time) ∧
    (∀ x, s.runner p = some (c, x) → x.pendFinish = false → (s.parcel p).replay = none → x.graphDone = true →
      exec (.contextFinish p c) s = .next (s.modCtx p c fun x => { x with pendFinish := true }))) ∧
  (∀ (s : State) (p c d : Nat) (rest : List Nat) (r : Replay), s.Sound → p < 16 → (s.parcel p).replay = some r → r.pending = c :: d :: rest →
    ((s.ctx p c).started = false ∨ r.started + (s.ctx p c).replayChains ≤ s.now) →
    ∃ t, exec (.hangReplayEnd p false) s = .next t ∧ (t.parcel p).running = some d ∧
      (t.parcel p).replay = some { r with pending := d :: rest, started := s.now })

/-- The trestle starts (R49, R50, R51): a tile step whose rows accept it puts its output rows in flight, with its weight set active; a weight load fills the
shadow set from scratch. Neither changes anything but the logical cluster.
It rests on choices of the model: log entry 13. -/
def Obligations.TrestleIssues : Prop :=
  ∀ (s : State) (p k c : Nat) (x : Context) (t : TileStep) (addr : Nat), s.acting p k = some (c, x) →
    (tileNames t = true → (s.lead p k).hasWeights t = true → (s.lead p k).accepts t c = true →
      exec (.tileStep p k t) s = .next (s.modLogical p k fun u =>
        { u.withWeights t with inflight := (u.withWeights t).inflight ++ (u.withWeights t).issue t c })) ∧
    (tileNames t = true → (s.lead p k).hasWeights t = false → exec (.tileStep p k t) s = .next s) ∧
    (addr + 65536 ≤ 2097152 → exec (.weightLoad p k addr) s = .next (s.modLogical p k fun u =>
        { u with shadow := some addr, shadowW := Memory.read0 addr 65536 u.scratch }))

/-- An output row lands (R52, R80, R81): on a logical cluster of one member the oldest row in flight is added to its target, every other row, cluster and byte
of memory stays, and in an `INT64` row each column is the sum, held at the bounds of a signed 64-bit number.
It rests on choices of the model: log entry 13. -/
def Obligations.OutputRowLands : Prop :=
  ∀ (s : State) (p k c m : Nat) (x : Context) (w : ShelfWrite) (rest : List ShelfWrite), m < s.clusters.length → s.landing p k = some (c, x) →
    s.live p k = [m] → (s.cluster m).inflight = w :: rest → w.ctx = c → rowRefuses c ((s.cluster m).row w.row) = false → s.replaying p = false →
    ∃ t, exec (.shelfWrite p k) s = .next t ∧ (t.cluster m).inflight = rest ∧ (∀ n ≠ m, t.cluster n = s.cluster n) ∧
      (t.cluster m).scratch = (s.cluster m).scratch ∧ (t.cluster m).benches = (s.cluster m).benches ∧ t.fabric = s.fabric ∧ t.chest = s.chest ∧
      (∀ q, (t.parcel q).mem = (s.parcel q).mem) ∧
      (let b := pairBase ((s.cluster m).row w.row) w.row
       let o := landRow (s.cluster m).moduli ((s.cluster m).row b) ((s.cluster m).row (b + 1)) w.kind w.scale w.values (w.fp.map (·.toNat))
       (t.cluster m).row b = o.row ∧ (∀ r, r ≠ b → r ≠ b + 1 → (t.cluster m).row r = (s.cluster m).row r)) ∧
      (rowMode ((s.cluster m).row w.row).ctrl = 3 → ∀ j < 128,
        (((t.cluster m).row w.row).at j).toInt = max (-2 ^ 63) (min (2 ^ 63 - 1) ((((s.cluster m).row w.row).at j).toInt + w.values.getD j 0)))

/-- A pair's vote (R312): a result of the spare that equals both members' lands and the pair goes on; a member whose output the spare's result does not equal
is faulted as outvoted, and the other's lands; each way the vote is reported and the pair no longer stalls.
It rests on choices of the model: log entry 13. -/
def Obligations.VoteDecides : Prop :=
  ∀ (s : State) (p k m0 m1 n : Nat) (w0 w1 : ShelfWrite), s.live p k = [m0, m1] → s.votePending p k = true → s.voteAhead (min m0 m1) = false →
    s.spareCluster (dieOf m0) = some n → (s.cluster m0).inflight.head? = some w0 → (s.cluster m1).inflight.head? = some w1 →
    (let calm := s.modLogical p k fun u => { u with pairStall := false }
     let done := fun (w : ShelfWrite) => ((calm.popLanding p k).landOne p k w).clearSpare m0
     exec (.pairVote p k true true true) s = .next ((done w0).evVote p (min m0 m1) 0) ∧
     exec (.pairVote p k true true false) s = .next (((done w0).clusterFault m1 fcPairOutvoted none).evVote p (min m0 m1) 2) ∧
     exec (.pairVote p k true false true) s = .next (((done w1).clusterFault m0 fcPairOutvoted none).evVote p (min m0 m1) 1)) ∧
    (∀ (c : Nat) (x : Context) (agree eq0 eq1 : Bool), s.runner p = some (c, x) → agree = false ∨ eq0 = false ∧ eq1 = false →
      exec (.pairVote p k agree eq0 eq1) s =
        .next ((((s.modLogical p k fun u => { u with pairStall := false }).faultCtx p c fcPairSplit).clearSpare m0).evVote p (min m0 m1) 3))

/-- The access port (R54, R55, R83, R90): a preload that the table allows sets its row to exactly the value of Table 4.5 and clears its saturation bit; a drain
puts the row's bytes into scratch and, when asked, empties the row.
It rests on choices of the model: log entry 26. -/
def Obligations.AccessPort : Prop :=
  ∀ (s : State) (p k c m : Nat) (x : Context), s.Sound → m < 64 → s.acting p k = some (c, x) → s.live p k = [m] → s.replaying p = false →
    (∀ pl : Preload, preloadOk (s.cluster m).moduli x.rows pl = true → twoRow pl.mode = false → pl.mode ≠ 5 → s.rowBusy p k pl.row = false →
      rowHeld ((s.cluster m).row pl.row).ctrl = false →
      ∃ t, exec (.preload p k pl) s = .next t ∧ (∀ n ≠ m, t.cluster n = s.cluster n) ∧ (t.cluster m).row pl.row = (preloadRows (s.cluster m).moduli c pl).row ∧
        (∀ r ≠ pl.row, (t.cluster m).row r = (s.cluster m).row r) ∧ (t.cluster m).scratch = (s.cluster m).scratch ∧
        (pl.row < 256 → (t.cluster m).satMap.getLsbD pl.row = false)) ∧
    (∀ (row dst : Nat) (reset : Bool), s.rowBusy p k row = false → dst + 1024 ≤ 2097152 → rowRefuses c ((s.cluster m).row row) = false →
      rowMode ((s.cluster m).row row).ctrl ≠ 7 →
      ∃ t, exec (.drain p k row true reset dst) s = .next t ∧ (∀ n ≠ m, t.cluster n = s.cluster n) ∧
        Memory.read0 dst 1024 (t.cluster m).scratch = bytesOf 8 ((List.range 128).map ((s.cluster m).row row).nat) ∧
        (∀ a, a < dst ∨ dst + 1024 ≤ a → Memory.get0 a (t.cluster m).scratch = Memory.get0 a (s.cluster m).scratch) ∧
        (t.cluster m).row row = (if reset then Row.reset else (s.cluster m).row row) ∧ (∀ r ≠ row, (t.cluster m).row r = (s.cluster m).row r))

/-- Nodes of the graph (R93, R96): a node starts when its turn has come and its wait is met; a worked node completes, and its signal is applied to a stake of
its context; a started `FOLD` node stands.
It rests on choices of the model: log entry 13. -/
def Obligations.NodesStartAndComplete : Prop :=
  ∀ (s : State) (p k c n : Nat) (x : Context) (nd : Node), x.node n = some nd → bit k nd.clusterMask = true →
    (s.acting p k = some (c, x) → x.nodeState k n = 0 → (x.on k).preloaded = true → x.turnOf k n = true → s.nodeWait p nd = true →
      exec (.nodeStart p k n) s = .next (s.modCtx p c fun y => (y.setNode k n 1).endFolds k nd)) ∧
    (s.acting p k = some (c, x) → s.nodeWait p nd = false → exec (.nodeStart p k n) s = .next s) ∧
    (s.landing p k = some (c, x) → x.nodeState k n = 2 → isFold nd = false → bit 1 nd.flags = false →
      exec (.nodeComplete p k n) s = .next (s.modCtx p c (Context.setNode k n 3))) ∧
    (s.landing p k = some (c, x) → x.nodeState k n = 2 → isFold nd = false → bit 1 nd.flags = true →
      exec (.nodeComplete p k n) s = .next ((s.modCtx p c (Context.setNode k n 3)).signalCtx p c nd.signalStake nd.signalAdd)) ∧
    (s.working? p k n 0x01 = some (c, x, nd) → exec (.fold p k n) s = .next (s.modCtx p c (Context.setNode k n 2)))

/-- Operations from operand to operand (R87, R92, R100 to R103, R109): each writes its destination with the words that its rule gives for the bytes of its
sources, leaves free values in the work rows and areas that it names, and its node's work is done.
It rests on choices of the model: log entries 5, 17 and 74. -/
def Obligations.OperandOperations : Prop :=
  ∀ (s : State) (p k c node : Nat) (x : Context) (nd : Node),
    (∀ ln l row work src dst m, s.working? p k node 0x10 = some (c, x, nd) → nd.params = .nttFwd ln l row work src dst m →
      exec (.nttFwd p k node) s = .next (((s.scribbleWork p k row work (4 * 2 ^ ln)).writeOp p k dst (bytesOf 4 ((List.range l).map fun i =>
        nttFwd ((s.primes p k m).getD i 1) (2 ^ ln) ((limbsOf (2 ^ ln) l (s.readOp p k src (4 * 2 ^ ln * l))).getD i [])).flatten)).modCtx p c (Context.setNode k node 2))) ∧
    (∀ ln l row work src dst m, s.working? p k node 0x11 = some (c, x, nd) → nd.params = .nttInv ln l row work src dst m →
      exec (.nttInv p k node) s = .next (((s.scribbleWork p k row work (4 * 2 ^ ln)).writeOp p k dst (bytesOf 4 ((List.range l).map fun i =>
        nttInv ((s.primes p k m).getD i 1) (2 ^ ln) ((limbsOf (2 ^ ln) l (s.readOp p k src (4 * 2 ^ ln * l))).getD i [])).flatten)).modCtx p c (Context.setNode k node 2))) ∧
    (∀ ln l kk dnum kid row work src dst key acc seed m res, s.working? p k node 0x12 = some (c, x, nd) →
      nd.params = .keyswitch ln l kk dnum kid row work src dst key acc seed m res →
      (let n := 2 ^ ln
       let b := s.readOp p k src (8 * n * l)
       let r := keyswitch n l kk dnum kid seed (s.primes p k m) (limbsOf n l b) (limbsOf n l (b.drop (4 * n * l)))
        fun i j => wordsOf 4 n (cut (4 * n * (i * (l + kk) + j)) (4 * n) (s.readOp p k key (4 * n * dnum * (l + kk))))
       let t := s.scribbleWork p k row work (ksWork n l dnum)
       exec (.keyswitch p k node) s = .next ((((t.writeOp p k acc ((List.range (8 * (l + kk) * n)).map (freeByte t.draws))).drawMany
        (ceilDiv (8 * (l + kk) * n) 128)).writeOp p k dst (bytesOf 4 (r.1.flatten ++ r.2.flatten))).modCtx p c (Context.setNode k node 2)))) ∧
    (∀ ln lo dr tl nl row kid work dOut src dst table key seed m, s.working? p k node 0x13 = some (c, x, nd) →
      nd.params = .refreshLut ln lo dr tl nl row kid work dOut src dst table key seed m →
      exec (.refreshLut p k node) s = .next (((s.scribbleWork p k row work (4 * 2 ^ ln * (2 * dr + 6))).writeOp p k dst (padTo (8 * 2 ^ ln * lo)
        (Config.refreshLut nd.params (s.primes p k m) (s.readOp p k src (8 * 2 ^ ln)) (s.readOp p k table (4 * 2 ^ tl))
          (s.readOp p k key (8 * 2 ^ ln * nl * dr))))).modCtx p c (Context.setNode k node 2))) ∧
    (∀ cnt step decay g w u dst res, s.working? p k node 0x25 = some (c, x, nd) → nd.params = .applyStep cnt 0 step decay g w u dst res →
      exec (.applyStep p k node) s = .next ((s.writeOp p k dst (bytesOf 4 (List.zipWith (fun a b =>
        fadd fp32 (fsub fp32 a (fmul fp32 decay.toNat a)) (fmul fp32 step.toNat b)) (s.words p k w cnt) (s.words p k u cnt)))).modCtx p c (Context.setNode k node 2)))

/-- Operations on rows (R98, R99, R104, R105, R106, R110): with the rows that it names taking its writes, each of them writes them in its order, and its
node's work is done; nothing else of the context changes but what its writes and discards count.
It rests on choices of the model: log entries 4, 5 and 17. -/
def Obligations.RowOperations : Prop :=
  ∀ (s : State) (p k c node : Nat) (x : Context) (nd : Node),
    (∀ round limb base rows g seeds cnt res, s.working? p k node 0x02 = some (c, x, nd) → nd.params = .maskExpand round limb base rows g seeds cnt res →
      s.rowsTake p c k [1, 2] (span base rows) →
      (let es := chunks 40 cnt (s.readOp p k seeds (40 * cnt))
       let good := es.filter seedEntryOk
       exec (.maskExpand p k node) s = .next (((List.range rows).foldl (fun t i => good.foldl (fun t e => t.maskRow p c k limb round (g + 128 * i) (base + i) e) t)
        (s.discard p c 6 (es.length - good.length))).modCtx p c (Context.setNode k node 2)))) ∧
    (∀ n pair g src dst res, s.working? p k node 0x21 = some (c, x, nd) → nd.params = .sumsq n pair g 0 src dst res →
      s.rowsTake p c k [6] ((List.range g).map fun i => pair + 2 * i) →
      exec (.sumsq p k node) s = .next ((s.addSamples p c k pair n g 6 (s.words p k src (128 * n * g))).modCtx p c (Context.setNode k node 2))) ∧
    (∀ n pair g src dst res, s.working? p k node 0x22 = some (c, x, nd) → nd.params = .meanvar n pair g 0 src dst res →
      s.rowsTake p c k [7] ((List.range g).map fun i => pair + 2 * i) →
      (let t := s.addSamples p c k pair n g 7 (s.words p k src (128 * n * g))
       exec (.meanvar p k node) s = .next ((t.writeOp p k dst ((List.range g).flatMap fun j => (List.range 128).flatMap fun col =>
        (t.partialAt p k (pair + 2 * j) col).record)).modCtx p c (Context.setNode k node 2)))) ∧
    (∀ base rows scale slot sigma delta dst res gen, s.working? p k node 0x23 = some (c, x, nd) →
      nd.params = .noiseGauss base rows scale 0 slot sigma delta dst res → (x.on k).generator = some gen →
      s.rowsTake p c k (if delta = 1 then [1, 2, 3, 4, 5, 6, 7] else [1, 2]) (span base rows) →
      exec (.noiseGauss p k node) s = .next ((((List.range rows).foldl (fun t i => State.noiseRow p c k (base + i) scale sigma delta (128 * i) s t) s).drawMany
        (128 * rows)).modCtx p c (Context.setNode k node 2))) ∧
    (∀ base rows scale slot sigma delta dst res, s.working? p k node 0x23 = some (c, x, nd) →
      nd.params = .noiseGauss base rows scale 0 slot sigma delta dst res → (x.on k).generator = none →
      exec (.noiseGauss p k node) s = .next (s.faultCtx p c 0x1201)) ∧
    (∀ format base m kk n oa ob res, s.working? p k node 0x30 = some (c, x, nd) → nd.params = .matmul format base m kk n oa ob res →
      s.matSlots p k base m (colGroups n) (matFormat format) = true → s.rowsTake p c k (formatModes (matFormat format)) (span base (m * colGroups n)) →
      exec (.matmul p k node) s = .next (((List.range (ceilDiv kk (formatK (matFormat format)))).foldl (fun t ch => (List.range (colGroups n)).foldl (fun t h =>
        (List.range m).foldl (fun t i => t.matRow p c k (matFormat format) (s.fresh.toNat % 256) (base + i * colGroups n + h) i h ch
          (matAt (elemBytes format) m kk (s.readOp p k oa (elemBytes format * m * kk)))
          (matAt (elemBytes format) kk n (s.readOp p k ob (elemBytes format * kk * n)))) t) t) (s.drawMany 1)).modCtx p c (Context.setNode k node 2))) ∧
    (∀ cnt mode pair bound reject g src dst res, s.working? p k node 0x20 = some (c, x, nd) → nd.params = .clipL2 cnt mode pair bound reject g src dst res →
      s.rowsTake p c k [6] [pair] →
      (let l := (s.words p k src cnt).map (sgn 32)
       (l.any tooLarge = true → exec (.clipL2 p k node) s = .next ((s.discard p c 5 1).modCtx p c (Context.setNode k node 2))) ∧
       (∀ y, clip mode bound reject (fun i => roundWord x.seed nd.stream nd.draw (g + i)) l = some y →
         exec (.clipL2 p k node) s = .next ((([pair, pair + 1].foldl (State.scribbleRow p k) s).writeOp p k dst (bytesOf 4 (y.map (trunc 32)))).modCtx p c
          (Context.setNode k node 2)))))

/-- `DECODE_CENTER` (R89, R108): each row that it drains is written to the destination in the format asked for, and with `RESET` it becomes empty; a busy row
makes the node wait.
It rests on choices of the model: log entry 13. -/
def Obligations.DecodeRuns : Prop :=
  ∀ (s : State) (p k c node : Nat) (x : Context) (nd : Node) (base rows format qs rs : Nat) (dst : Operand) (res : Nat),
    s.working? p k node 0x24 = some (c, x, nd) → nd.params = .decodeCenter base rows format qs rs dst res →
    (((x.nodeRows nd).any (s.rowBusy p k)) = true → exec (.decodeCenter p k node) s = .next s) ∧
    (((x.nodeRows nd).any (s.rowBusy p k)) = false → s.rowsTake p c k [1, 2] (span base rows) →
      exec (.decodeCenter p k node) s = .next (((List.range rows).foldl (fun t i =>
        t.decodeRow p c k (base + i) format qs (rs == 1) dst (512 * i)) s).modCtx p c (Context.setNode k node 2)))

/-- Seeds (R111, R112, R127): each set of shares or peer gives one seed entry at the destination, entries that are not rebuilt are counted as discards, and
the node's work is done; in a keep's image an entry that cannot be rebuilt ends the round.
It rests on choices of the model: log entries 4 and 17. -/
def Obligations.SeedsRebuilt : Prop :=
  ∀ (s : State) (p k c node : Nat) (x : Context) (nd : Node),
    (∀ cnt t kind sign fl shares dst res, s.working? p k node 0x40 = some (c, x, nd) → nd.params = .seedRecover cnt t kind sign fl shares dst res →
      (let one := 64 * t + 16 * fl
       let rs := (chunks one cnt (s.readOp p k shares (cnt * one))).map (recoverOne t (fl == 1))
       exec (.seedRecover p k node) s = .next ((((s.discard p c 7 (rs.filter fun r => r.1 != 0).length).writeOp p k dst
        (rs.flatMap fun r => seedEntry r.2 r.1 kind sign)).seedFailed p c (rs.map (·.1))).modCtx p c (Context.setNode k node 2)))) ∧
    (∀ self cnt tag sk peers dst, s.working? p k node 0x41 = some (c, x, nd) → nd.params = .pairSeed self cnt tag sk peers dst →
      (let rs := (chunks 40 cnt (s.readOp p k peers (40 * cnt))).map (pairOne self tag (BitVec.ofNat 256 (leNat (s.readOp p k sk 32))) (s.fresh.toNat % 2))
       exec (.pairSeed p k node) s = .next (((((s.drawMany 1).discard p c 7 (rs.filter fun r => r.1 != 0).length).writeOp p k dst
        (rs.flatMap (·.2))).seedFailed p c (rs.map (·.1))).modCtx p c (Context.setNode k node 2))))

/-- Leaves (R68, R69, R71): a record that the filling leaf can take is published at its end; one that it cannot take, or that comes behind a held one, is held
by the station; the oldest held record is delivered once there is room.
Folding (R69, R96, R114): the next record of the reading leaf, once a `FOLD` node stands, is consumed and folded by the node whose part it is, or is
discarded by the first reason that holds and counted; a record whose node does not stand yet stays.
It rests on choices of the model: log entry 18. -/
def Obligations.LeavesAndFolds : Prop :=
  (∀ (s : State) (p k m conn : Nat) (header data : Bytes), m < s.clusters.length → s.live p k = [m] → (s.parcel p).isOpen = true → header.length = 32 →
    data.length % 512 = 0 → data ≠ [] → data.length ≤ 8192 → (s.cluster m).leaves.length = 2 → (s.cluster m).filling < 2 →
    ((s.cluster m).heldRecs = [] → (s.cluster m).fill.granules + granulesOf data ≤ 8192 → (s.cluster m).fill.entries < 8192 →
      ∃ t, exec (.leafDeliver p k conn header data) s = .next t ∧ (∀ n ≠ m, t.cluster n = s.cluster n) ∧ (t.cluster m).reading = (s.cluster m).reading ∧
        (t.cluster m).fill.entries = (s.cluster m).fill.entries + 1 ∧ (t.cluster m).fill.granules = (s.cluster m).fill.granules + granulesOf data ∧
        ∃ r, (t.cluster m).fill.recs = (s.cluster m).fill.recs ++ [r] ∧ r.header = header ∧ r.data = data ∧ r.chain = s.now ∧ r.used = false) ∧
    ((s.cluster m).heldRecs ≠ [] ∨ 8192 < (s.cluster m).fill.granules + granulesOf data →
      ∃ t, exec (.leafDeliver p k conn header data) s = .next t ∧ (∀ n ≠ m, t.cluster n = s.cluster n) ∧
        t.cluster m = { s.cluster m with heldRecs := (s.cluster m).heldRecs ++ [(conn, header, data)] }) ∧
    (∀ h d rest, (s.cluster m).heldRecs = (conn, h, d) :: rest → (s.cluster m).fill.granules + granulesOf d ≤ 8192 → (s.cluster m).fill.entries < 8192 →
      ∃ t, exec (.leafDeliveryResume p k) s = .next t ∧ (t.cluster m).heldRecs = rest ∧ (t.cluster m).fill.entries = (s.cluster m).fill.entries + 1 ∧
        ∃ r, (t.cluster m).fill.recs = (s.cluster m).fill.recs ++ [r] ∧ r.header = h ∧ r.data = d)) ∧
  (∀ (s : State) (p k c i : Nat) (x : Context) (r : LeafRec), s.acting p k = some (c, x) → s.replaying p = false →
    (x.foldNodes k).any (fun f => 2 ≤ f.state && bit s.clock.rod f.node.rodMask) = true → (s.lead p k).nextRec false = some (i, r) →
    (x.roundOver r = true → exec (.foldRecord p k) s =
      .next (((s.modLogical p k (Cluster.consume false i)).discard p c 4 1).modCtx p c fun x => { x with lostWork := true })) ∧
    (∀ why, x.roundOver r = false → foldPlan (x.foldNodes k) r = .discard why → exec (.foldRecord p k) s =
      .next (((s.modLogical p k (Cluster.consume false i)).discard p c why 1).modCtx p c fun x => { x with lostWork := true })) ∧
    (x.roundOver r = false → foldPlan (x.foldNodes k) r = .wait → exec (.foldRecord p k) s = .next s) ∧
    (∀ f, x.roundOver r = false → foldPlan (x.foldNodes k) r = .fold f → x.holdsSum = false → bit 1 f.node.flags = false →
      (∀ q ∈ f.recRows r, rowRefuses c (s.rowOf p k q) = false) →
      ∃ t, exec (.foldRecord p k) s = .next t ∧ t = (State.foldWords p c k f r (s.modLogical p k (Cluster.consume false i))).modCtx p c (Context.folded k f r) ∧
        (t.ctx p c).started = true))

/-- Carries (R24, R58 to R61, R65, R358): the ready head of a queue that passes its checks has its effect and is then in flight; one that fails them faults
its context; a mark that nothing precedes in flight ends the rod's due work; a descriptor in flight completes with its signal.
It rests on choices of the model: log entries 9 and 13. -/
def Obligations.CarriesRun : Prop :=
  ∀ (s : State) (p k q c : Nat) (x : Context) (d : Descr),
    (s.ready p k q 1 = some (c, x, d) → s.headOk p x (x.queue k q) d = true →
      exec (.copy p k q) s = .next ((s.writeSpace (d.srcSpace == 4) p k d.dstSpace d.dstAddr (s.readSpace p k d.srcSpace d.srcAddr d.length)).modCtx p c
        (Context.modQueue k q (Queue.start d)))) ∧
    (s.ready p k q 2 = some (c, x, d) → s.headOk p x (x.queue k q) d = true →
      exec (.copy2d p k q) s = .next (((List.range d.rows).foldl (fun t i => t.writeSpace (d.srcSpace == 4) p k d.dstSpace (d.dstAddr + i * d.dstStride)
        (t.readSpace p k d.srcSpace (d.srcAddr + i * d.srcStride) d.length)) s).modCtx p c (Context.modQueue k q (Queue.start d)))) ∧
    (s.ready p k q 3 = some (c, x, d) → s.headOk p x (x.queue k q) d = true →
      exec (.fill p k q) s = .next ((s.writeSpace false p k d.dstSpace d.dstAddr (fillBytes d.fillValue d.length)).modCtx p c
        (Context.modQueue k q (Queue.start d)))) ∧
    (∀ op, s.ready p k q op = some (c, x, d) → s.headOk p x (x.queue k q) d = false →
      (op = 1 → exec (.copy p k q) s = .next (s.faultCtx p c fcCarryRange)) ∧ (op = 2 → exec (.copy2d p k q) s = .next (s.faultCtx p c fcCarryRange)) ∧
      (op = 3 → exec (.fill p k q) s = .next (s.faultCtx p c fcCarryRange)) ∧ (op = 4 → exec (.send p k q) s = .next (s.faultCtx p c fcCarryRange))) ∧
    (s.ready p k q 0 = some (c, x, d) → (x.queue k q).inflight = [] →
      exec (.rodMark p k q) s = .next (s.modCtx p c (Context.modQueue k q fun u => { u.pop with mark := u.mark + 1 }))) ∧
    (∀ i, s.landing p k = some (c, x) → (x.queue k q).inflight[i]? = some d →
      (dSignal d = false → exec (.carryComplete p k q i) s =
        .next (s.modCtx p c (Context.modQueue k q fun u => { u with inflight := u.inflight.eraseIdx i }))) ∧
      (dSignal d = true → exec (.carryComplete p k q i) s =
        .next ((s.modCtx p c (Context.modQueue k q fun u => { u with inflight := u.inflight.eraseIdx i })).signalCtx p c d.signalStake d.signalAdd))) ∧
    (s.acting p k = some (c, x) → exec (.descriptorPush p k q d) s =
      .next (s.modCtx p c (Context.modQueue k q fun u => { u with pushed := u.pushed ++ [d] }))) ∧
    (s.acting p k = some (c, x) → s.queueBlocked p (x.queue k q) = none → exec (.stakeWaitMet p k q) s =
      .next (s.modCtx p c fun y => { y with blockedOn := y.blockedOn.filter fun b => b.1 != 4 * k + q }))

/-- A copy within scratch (R58, Table 3.6): on a logical cluster of one member the destination holds the source's bytes as they were, every other byte of
scratch and every other cluster stays, and no other memory changes.
It rests on choices of the model: log entry 13. -/
def Obligations.CopyMovesBytes : Prop :=
  ∀ (s : State) (p k q c m : Nat) (x : Context) (d : Descr), s.Sound → m < 64 → s.live p k = [m] → s.ready p k q 1 = some (c, x, d) →
    s.headOk p x (x.queue k q) d = true → d.srcSpace = 1 → d.dstSpace = 1 →
    ∃ t, exec (.copy p k q) s = .next t ∧
      Memory.read0 d.dstAddr d.length (t.cluster m).scratch = Memory.read0 d.srcAddr d.length (s.cluster m).scratch ∧
      (∀ a, a < d.dstAddr ∨ d.dstAddr + d.length ≤ a → Memory.get0 a (t.cluster m).scratch = Memory.get0 a (s.cluster m).scratch) ∧
      (t.cluster m).rows = (s.cluster m).rows ∧ (t.cluster m).benches = (s.cluster m).benches ∧ (t.cluster m).stakes = (s.cluster m).stakes ∧
      (∀ n ≠ m, t.cluster n = s.cluster n) ∧ (∀ r, (t.parcel r).mem = (s.parcel r).mem) ∧ t.fabric = s.fabric ∧ t.chest = s.chest

/-- Sends (R184, R303, R360): on a connection that is not open nothing is sent, and the descriptor completes and is counted as dropped; on an open resident one
the pieces that the window allows go out, and once all have the descriptor is in flight; a number that would wrap fails the connection.
It rests on choices of the model: log entry 13. -/
def Obligations.SendsPieces : Prop :=
  ∀ (s : State) (p k q c : Nat) (x : Context) (d : Descr), s.ready p k q 4 = some (c, x, d) → s.headOk p x (x.queue k q) d = true → s.replaying p = false →
    ((s.conn d.connection).state ≠ 3 → dSignal d = false → exec (.send p k q) s =
      .next ((s.modConn d.connection fun k => { k with dropped := k.dropped + 1 }).modCtx p c (Context.modQueue k q Queue.pop))) ∧
    ((s.conn d.connection).state = 3 → s.resident d.connection = false → exec (.send p k q) s = .next s) ∧
    ((s.conn d.connection).state = 3 → s.resident d.connection = true → (s.conn d.connection).txNext = 2 ^ 32 - 1 →
      exec (.send p k q) s = .next (s.setConnState d.connection 5 .exhausted)) ∧
    ((s.conn d.connection).state = 3 → s.resident d.connection = true → (s.conn d.connection).txNext ≠ 2 ^ 32 - 1 →
      (let r := s.sendPieces p k d 2048 (x.queue k q).sent
       (r.2 = (x.queue k q).sent → r.2 < d.length → exec (.send p k q) s = .next (r.1.modCtx p c (Context.modQueue k q fun u => { u with sent := r.2 }))) ∧
       (r.2 ≠ (x.queue k q).sent → r.2 < d.length → exec (.send p k q) s =
        .next ((r.1.markLost p c).modCtx p c (Context.modQueue k q fun u => { u with sent := r.2 }))) ∧
       (r.2 ≠ (x.queue k q).sent → d.length ≤ r.2 → exec (.send p k q) s = .next ((r.1.markLost p c).modCtx p c (Context.modQueue k q (Queue.start d))))))

/-- The intake (R120 to R122): a fragment is discarded at the first check of Table 6.5 that it fails, and counted under that reason alone; one that passes all is
held, and what is complete is forwarded; at the deadline the fragments of incomplete clients are gone.
It rests on choices of the model: log entry 72. -/
def Obligations.IntakeMeetsFragments : Prop :=
  ∀ (s : State) (p c : Nat) (frag : Bytes) (x : Context),
    (s.clock.reserve = false → s.holder p = some (c, x) → x.role = 1 →
      (∀ why, s.fragFails p (match x.image with | some i => i.holdBytes | none => 0) x.round frag = some why → why < 9 → x.intakeCounts.length = 9 →
        ∃ t, exec (.clientFragment p c frag) s = .next t ∧ t = { s with parcels := t.parcels } ∧ (∀ q ≠ p, t.parcel q = s.parcel q) ∧
          (t.ctx p c).intakeCounts.getD why 0 = x.intakeCounts.getD why 0 + 1 ∧ (∀ j ≠ why, (t.ctx p c).intakeCounts.getD j 0 = x.intakeCounts.getD j 0) ∧
          (t.ctx p c).state = x.state) ∧
      (s.fragFails p (match x.image with | some i => i.holdBytes | none => 0) x.round frag = none →
        exec (.clientFragment p c frag) s = .next ((s.holdFrag p c frag).forwards p))) ∧
    (∀ r, (s.ctx p c).round = some r → r.outcome = none → r.desc.role = 1 → r.deadlinePassed = false → r.desc.intakeDeadline ≤ s.now →
      p < s.parcels.length → c < (s.parcel p).contexts.length →
      ∃ t r', exec (.intakeDeadline p c) s = .next t ∧ (t.ctx p c).round = some r' ∧ r'.deadlinePassed = true ∧ r'.forwardQ = r.forwardQ ∧ r'.desc = r.desc ∧
        ∀ u k, tget u r.clients = some k → tget u r'.clients = some (if k.complete then k else { k with frags := [] }))

/-- Receipts (R125): with every forward visible the `FINAL` receipt goes to each keep, and lists every assigned client that no receipt listed as dropped; at the
keep the first status of a client stands, and a receipt that is not of the round changes nothing.
It rests on choices of the model: log entry 72. -/
def Obligations.ReceiptsFixStatuses : Prop :=
  ∀ (s : State) (p c : Nat) (msg : Bytes) (r : Round),
    ((s.ctx p c).round = some r → r.outcome = none → r.deadlinePassed = true → r.finalSent = false → r.newStatus = [] → s.forwardsVisible p r = true →
      (let rest := ((List.range r.desc.clients).filter fun u => assigned (r.desc.intakeSeat s.boot.moduleId p) u && !r.listed.contains u).map fun u => (u, 1)
       exec (.finalReceipt p c) s = .next ((s.toKeeps r.desc (receiptMsgs r.desc.roundId s.boot.moduleId true rest)).modCtx p c
        (Context.modRound fun r => { r with finalSent := true, listed := r.listed ++ rest.map (·.1) })))) ∧
    (s.keepRound p c = some r → msg.length = 16 + 4 * fld 8 4 msg → fld 0 4 msg = r.desc.roundId →
      ((r.desc.ofRole 1).any fun x => memberModule x == fld 4 2 msg) = true →
      ∃ t r', exec (.receipt p c msg) s = .next t ∧ (t.ctx p c).round = some r' ∧ r'.desc = r.desc ∧ r'.statuses = (r.fix (wordsOf 4 (fld 8 4 msg) (msg.drop 16))).statuses ∧
        r'.finals = (if bit 0 (fld 6 2 msg) then r.finals ++ [fld 4 2 msg] else r.finals) ∧ ∀ u v, tget u r.statuses = some v → tget u r'.statuses = some v) ∧
    (s.keepRound p c = some r → fld 0 4 msg ≠ r.desc.roundId → exec (.receipt p c msg) s = .next s)

/-- The end of a round (R117, R128, R133, R134): the first result of a root entry is kept; once every record of before the close is consumed the close stake
rises by one; at the close deadline an open round ends with outcome 2.
It rests on choices of the model: log entry 72. -/
def Obligations.RoundsEnd : Prop :=
  ∀ (s : State) (p c : Nat) (msg : Bytes) (r : Round),
    (s.keepRound p c = some r → 64 ≤ msg.length → fld 0 4 msg = r.desc.roundId →
      (r.roots.any fun e => e.owner == fld 4 2 msg && e.limbFirst == fld 6 1 msg && e.coordFirst == fld 8 8 msg && (r.resultOf e).isNone) = true →
      ∃ t r', exec (.sliceResult p c msg) s = .next t ∧ (t.ctx p c).round = some r' ∧ r'.desc = r.desc ∧ r'.statuses = r.statuses ∧
        r'.results = r.results ++ [parseResult msg]) ∧
    (∀ i d, (s.ctx p c).round = some r → (s.ctx p c).image = some i → i.stakes.find? (·.close) = some d → r.outcome = none → r.closeTaken ≠ none →
      r.closeSignalled = false → s.clock.rod = 0 → (∀ k < (s.parcel p).logical, (s.lead p k).beforeClose r.desc.roundId = false) →
      exec (.closeStakeSignal p c) s = .next ((s.modCtx p c (Context.modRound fun r => { r with closeSignalled := true })).signalCtx p c d.stake 1)) ∧
    ((s.ctx p c).round = some r → r.outcome = none → r.desc.closeDeadline ≤ s.now → p < s.parcels.length → c < (s.parcel p).contexts.length →
      ∃ t r', exec (.closeDeadline p c) s = .next t ∧ (t.ctx p c).round = some r' ∧ r'.outcome = some 2 ∧ r'.desc = r.desc ∧ r'.statuses = r.statuses ∧
        t.fabric = s.fabric ∧ t.chest = s.chest ∧ t.clock = s.clock)

/-- Training (R138, R139, R141, R142, R149): what starts a training, on every way into it the same, and what it comes to: the third failure puts the link
`DOWN`; the identity is the partner's; the least of 64 round trips gives the delay; the good lanes give the width.
It rests on choices of the model: log entries 44 and 46. -/
def Obligations.LinksTrain : Prop :=
  ∀ (s : State) (l : Nat), s.units → l < 48 →
    (s.mayTrain l = true → ((s.link l).state = 4 ∨ ((s.link l).state = 5 ∧ (s.link l).attempts < 3)) →
      ∃ t, exec (.signalDetect l) s = .next t ∧ State.Trains l s t) ∧
    ((s.link l).state = 0 → (s.link l).trainChain + 7812 ≤ s.now →
      ∃ t, exec (.trainingTimeout l) s = .next t ∧ (t.link l).attempts = (s.link l).attempts + 1 ∧
        (if (s.link l).attempts < 2 then State.Trains l s t else (t.link l).state = 5)) ∧
    (s.mayTrain l = true → (s.link l).state = 5 → 3 ≤ (s.link l).attempts → (s.link l).trainChain + 32768 ≤ s.now →
      ∃ t, exec (.trainingRetry l) s = .next t ∧ State.Trains l s t) ∧
    (∀ lane < 4, ((s.link l).state = 1 ∨ (s.link l).state = 3) → (s.link l).lanesFailed.getLsbD lane = false →
      ∃ t, exec (.laneFail l lane) s = .next t ∧ State.Trains l s t ∧ ∀ j < 4, (t.link l).lanesFailed.getLsbD j = ((s.link l).lanesFailed.getLsbD j || j == lane)) ∧
    ((s.link l).state = 2 → (s.link l).relockChain + 4 ≤ s.now → ∃ t, exec (.relockTimeout l) s = .next t ∧ State.Trains l s t) ∧
    (∀ m q w digest, (s.link l).live = true →
      ∃ t, exec (.hello l m q w digest) s = .next t ∧ (t.link l).peer = m ∧ (t.link l).peerLink = q ∧
        (s.partnerOk l m q digest = false → (t.link l).state = 4) ∧
        (s.partnerOk l m q digest = true → ((s.link l).state = 4 → State.Trains l s t) ∧
          ((s.link l).state = 0 → (t.link l).state = 0 ∧ (t.link l).helloOk = true))) ∧
    (∀ sent turn now, (s.link l).state = 0 → (s.link l).echoes < 64 →
      ∃ t, exec (.echo l true sent turn now) s = .next t ∧ (t.link l).echoes = (s.link l).echoes + 1 ∧ (t.link l).minRtt ≤ now - sent - turn ∧
        (0 < (s.link l).echoes → (t.link l).minRtt ≤ (s.link l).minRtt) ∧
        ((s.link l).echoes = 63 → (t.link l).delayPs = (t.link l).minRtt / 2 ∧ (1200000 < (t.link l).delayPs → (t.link l).state = 5))) ∧
    (∀ sent turn now, exec (.echo l false sent turn now) s = .next (s.sendGrain l 0xF5 (cat [le 1 1, zeros 2, le 8 sent, le 8 turn]))) ∧
    (∀ good : BitVec 4, (s.link l).state = 0 →
      ∃ t, exec (.trainingComplete l good) s = .next t ∧ (t.link l).lanesFailed = ~~~(good &&& ~~~(s.plat.lanesRetired.getD l 0)) ∧
        (t.link l).width = widthOf (good &&& ~~~(s.plat.lanesRetired.getD l 0)) ∧
        ((t.link l).width = 0 → (t.link l).state = 5) ∧ ((t.link l).width ≠ 0 → (t.link l).state = 0 ∧ (t.link l).trained = true))

/-- Flits, replay and relock (R147 to R149, R153): a flit that decodes and passes its check advances the expected number, one that does not is discarded; a
`NAK` and the replay limit resume from the named flit; loss of lock and its end change the link's state; a `CREDIT` grants eight slices.
It rests on choices of the model: log entries 22, 44 and 45. -/
def Obligations.FlitsAndReplay : Prop :=
  ∀ (s : State) (l : Nat), s.units → l < 48 →
    (∀ symbols : List (BitVec 10), (s.link l).live = true → symbols.length = 544 → rsDecode (symbols.map (·.toNat)) = none →
      ∃ t, exec (.flit l symbols) s = .next t ∧ (t.link l).discarded = (s.link l).discarded + 1 ∧ (t.link l).nakPend = true ∧ (t.link l).rxNext = (s.link l).rxNext) ∧
    (∀ symbols w e, (s.link l).live = true → symbols.length = 544 → rsDecode (symbols.map (·.toNat)) = some (w, e) →
      (let f := parseFlit (descramble (symbolBits (w.take 514)) (s.link l).scrambler).1
       (f.checks (s.link l).rxNext = true → ∃ t, exec (.flit l symbols) s = .next (f.grains.foldl (fun t g => t.grainIn l g) t) ∧
         (t.link l).rxNext = ((s.link l).rxNext + 1) % 2 ^ 31 ∧ (t.link l).nakPend = false ∧ (t.link l).discarded = 0 ∧ (t.link l).state = (s.link l).state) ∧
       (f.checks (s.link l).rxNext = false → f.isNull = false → ∃ t, exec (.flit l symbols) s = .next t ∧
         (t.link l).discarded = (s.link l).discarded + 1 ∧ (t.link l).rxNext = (s.link l).rxNext))) ∧
    (∀ f w, (s.link l).live = true → (s.link l).window = f :: w → exec (.replayTimeout l) s = .next (s.replayFrom l f.seq)) ∧
    (∀ n, (s.link l).live = true →
      exec (.nak l n) s = .next (if (s.link l).window.any (fun f => f.seq == n) then s.replayFrom l n else s)) ∧
    ((s.link l).live = true → (s.link l).nakPend = true → exec (.nakRepeat l) s = .next (s.sendNak l)) ∧
    ((s.link l).state = 1 → ∃ t, exec (.flitLockLoss l) s = .next t ∧ (t.link l).state = 2 ∧ (t.link l).relockChain = s.now ∧ (t.link l).routable = true ∧
      (t.link l).window = (s.link l).window ∧ (t.link l).rxNext = (s.link l).rxNext) ∧
    ((s.link l).state = 2 → (s.link l).routeLost = false → (s.link l).relockChain + 1 ≤ s.now →
      ∃ t, exec (.relockRouteLoss l) s = .next t ∧ (t.link l).state = 2 ∧ (t.link l).routable = false) ∧
    ((s.link l).state = 2 → ∃ t, exec (.relockDone l) s = .next t ∧ (t.link l).state = 1 ∧ (t.link l).rxNext = (s.link l).rxNext ∧ (t.link l).txNext = (s.link l).txNext ∧
      (t.link l).window = (s.link l).window) ∧
    (∀ first chain rod grants, (s.link l).state = 1 → (first = 0 ∨ first = 8) → (rod = 0 ∨ rod = 2) →
      ∃ t, exec (.credit l first chain rod grants) s = .next t ∧ (t.link l).grantChain = chain ∧ (t.link l).grantRod = rod ∧
        (∀ q < 8, (t.link l).grants.getD (first + q) 0 = grants.getD q 0) ∧
        ((s.link l).grantChain = chain → (s.link l).grantRod = rod → ∀ q < 16, (q < first ∨ first + 8 ≤ q) →
          (t.link l).grants.getD q 0 = (s.link l).grants.getD q 0))

/-- Chain markers (R154 to R158): a marker is followed by the module's one source and sets master, stratum and the boundary's offset; a step adopts the source's
chain; holdover, free running and mastership follow their counts of chains.
It rests on choices of the model: log entry 48. -/
def Obligations.MarkersKeepTime : Prop :=
  ∀ (s : State) (l : Nat) (m : MarkerGrain), s.units → l < 48 →
    (((s.link l).state = 1 ∨ (s.link l).state = 3) →
      ∃ t, exec (.marker l m) s = .next t ∧ (t.link l).markerSeen = some m ∧ (t.link l).markerChain = s.now ∧
        (followable m = false → t.marker = s.marker ∧ t.time = s.time) ∧
        (followable m = true → s.marker.isMaster = false →
          (s.modLink l fun k => { k with markerSeen := some m, markerChain := s.now }).markerSource = some (l, m) →
          t.marker.source = some l ∧ t.marker.master = m.master ∧ t.marker.stratum = m.stratum + 1 ∧ t.marker.state = 0 ∧ t.marker.lastFollowed = s.now ∧
          (t.marker.stepTo = none ↔ -1000000 ≤ s.markerOffset l m ∧ s.markerOffset l m ≤ 1000000)) ∧
        (followable m = true → s.marker.isMaster = true → m.master < s.boot.moduleId → t.marker.masterNext = some m.master)) ∧
    (∀ n wait, s.marker.stepTo = some n → n ≠ 0 → s.clock.running = true → s.clock.rod = 3 →
      ∃ t, exec (.chainStep wait) s = .next t ∧ t.clock.chain + 1 = n ∧ t.clock.rod = 3 ∧ t.marker.stepTo = none ∧ t.marker.offsetPs = 0) ∧
    (s.marker.state = 1 → s.marker.holdRaised = false → s.marker.lastFollowed + 8 ≤ s.now →
      ∃ t, exec .markerHoldover s = .next t ∧ t.marker = { s.marker with holdRaised := true } ∧ t.time = s.time ∧ t.parcels = s.parcels ∧ t.clusters = s.clusters) ∧
    (s.marker.state = 1 → s.marker.lastFollowed + 1024 ≤ s.now →
      ∃ t, exec .markerLost s = .next t ∧ t.marker = { s.marker with state := 2 } ∧ t.time = s.time ∧ t.parcels = s.parcels ∧ t.clusters = s.clusters) ∧
    (∀ c, s.quietSince = some c → s.eligible = true → s.marker.isMaster = false → s.markerLinks = [] → c + 64 ≤ s.now →
      ∃ t, exec .masterTakeover s = .next t ∧ t.marker.isMaster = true ∧ t.marker.master = s.boot.moduleId ∧ t.marker.stratum = 0 ∧ t.marker.source = none ∧ t.time = s.time) ∧
    (s.eligible = false → exec .masterTakeover s = .next s)

/-- Admission and visibility (R183, R187, R189, R190): a sequenced message that fails a check of Table 8.8 is refused with that check's code; a number that has
been passed changes nothing; a wrong tag is refused, and the fourth in a row fails the connection; an admitted message is held in clear, and reaches memory,
its reader or its leaf at its turn and not before.
It rests on choices of the model: log entries 36 and 37. -/
def Obligations.MessagesAdmitted : Prop :=
  ∀ (s : State) (m : Msg) (i : Instr),
    ((i = .write m ∧ m.kind = kWrite) ∨ (i = .readReq m ∧ m.kind = kReadReq) ∨ (i = .leaf m ∧ m.kind = kLeaf) ∨ (i = .attest m ∧ m.kind = kAttest)) →
    m.dstModule = s.boot.moduleId →
    (∀ code, s.headFails m = some code → ∃ t, exec i s = .next t ∧ t = s.refuseArrived m code ∧ t.parcels = s.parcels ∧ t.clusters = s.clusters ∧
      (consuming code = false → t.fabric.conns = s.fabric.conns)) ∧
    (∀ k, s.headFails m = none → s.conn? m.conn = some k → k.state = 3 →
      (k.rxNext + k.window ≤ m.seq → exec i s = .next ((s.heard m.conn).refuseArrived m arWindow)) ∧
      (m.seq < k.rxNext + k.window → k.openSeq m.seq = false → exec i s = .next (s.heard m.conn)) ∧
      (k.openSeq m.seq = true →
        (∀ code, s.easeFails m = some code → exec i s = .next ((s.heard m.conn).refuseArrived m code)) ∧
        (s.easeFails m = none → m.enc = true → tagOk k.rxKey m = false → ∃ t, exec i s = .next t ∧
          (t.conn m.conn).tagFails = k.tagFails + 1 ∧ k.rxNext ≤ (t.conn m.conn).rxNext ∧ (3 ≤ k.tagFails → (t.conn m.conn).state = 5)) ∧
        (s.easeFails m = none → (m.enc = true → tagOk k.rxKey m = true) → (m.kind = kAttest → k.verified = true) →
          k.atTurn = none → m.seq ≠ k.rxNext → ∃ t, exec i s = .next t ∧ t.parcels = s.parcels ∧ t.clusters = s.clusters ∧
            (t.conn m.conn).rxNext = k.rxNext ∧
            ∃ h ∈ (t.conn m.conn).held, h.seq = m.seq ∧ h.msg = some { m with body := clearBodyOf k.rxKey m, enc := false })))

/-- At its turn (R183, R185, R187, R68, R71): a `WRITE` writes and signals, a `READ_REQ` is answered, a `LEAF` is published once its leaf has room, an `ATTEST`
passes; `RX_NEXT` rises with each.
It rests on choices of the model: log entry 37. -/
def Obligations.MessagesBecomeVisible : Prop :=
  ∀ (s : State) (id : Nat) (k : Conn) (h : HeldMsg) (m : Msg), s.conn? id = some k → (k.state = 2 ∨ k.state = 3 ∨ k.state = 4) → k.atTurn = some h → h.msg = some m →
    (m.kind = kWrite → ∃ t, exec (.messageVisible id) s = .next t ∧ k.rxNext < (t.conn id).rxNext ∧
      t.parcels = (s.writeMsg id h.base h.context m).parcels ∧ t.clusters = (s.writeMsg id h.base h.context m).clusters) ∧
    (m.kind = kReadReq → ∃ t, exec (.messageVisible id) s = .next t ∧ k.rxNext < (t.conn id).rxNext ∧ t.parcels = s.parcels ∧ t.clusters = s.clusters ∧
      t.links = (s.answerRead id h.base m).links) ∧
    (m.kind = kLeaf → (s.lead (connParcel id) m.arg).heldRecs = [] → s.leafRoom (connParcel id) m.arg (m.body.drop 32) = true →
      ∃ t, exec (.messageVisible id) s = .next t ∧ k.rxNext < (t.conn id).rxNext ∧ t.parcels = s.parcels ∧
        t.clusters = (s.publish (connParcel id) m.arg (m.body.take 32) (m.body.drop 32)).clusters) ∧
    (m.kind = kLeaf → s.leafRoom (connParcel id) m.arg (m.body.drop 32) = false → exec (.messageVisible id) s = .next s) ∧
    (m.kind = kAttest → ∃ t, exec (.messageVisible id) s = .next t ∧ k.rxNext < (t.conn id).rxNext ∧ t.parcels = s.parcels ∧ t.clusters = s.clusters)

/-- Answers and the opening and closing exchange (R174, R177, R179, R180, R182, R185, R191): `COMPLETE` moves `TX_DONE`; a response lands where its request
named and finishes it; a `REFUSE` is counted; open grains tell the peer's end; the right tag confirms the keys, a wrong one fails the end; `CLOSE` closes.
It rests on choices of the model: log entries 38 and 39. -/
def Obligations.ConnAnswers : Prop :=
  ∀ (s : State) (id : Nat) (k : Conn) (m : Msg), s.conn? id = some k → m.dstModule = s.boot.moduleId →
    (m.kind = kComplete → s.answerConn m = some id → k.carries kComplete = true → m.bodyGrains = 0 → k.txDone < m.seq → m.seq ≤ k.txNext →
      ((k.encrypt || m.viaGlobal) = true → m.enc = true) → (m.enc = true → tagOk k.rxKey m = true) →
      ∃ t, exec (.complete m) s = .next t ∧ (t.conn id).txDone = m.seq ∧ (t.conn id).txNext = k.txNext ∧
        ∀ o ∈ (t.conn id).outst, o.msg.seq < m.seq → o.msg.kind = kReadReq) ∧
    (∀ o, m.kind = kReadResp → s.answerConn m = some id → k.carries kReadResp = true →
      k.outst.find? (fun o => o.msg.kind == kReadReq && o.msg.seq == m.seq) = some o → o.stake = none → m.bodyGrains = ceilDiv o.respLen 32 → m.body.length = 32 * m.bodyGrains →
      ((k.encrypt || m.viaGlobal) = true → m.enc = true) → (m.enc = true → tagOk k.rxKey m = true) →
      ∃ t, exec (.readResp m) s = .next t ∧ (∀ x ∈ (t.conn id).outst, ¬(x.msg.kind = kReadReq ∧ x.msg.seq = m.seq)) ∧
        t.parcels = (s.writeSpace false (connParcel id) o.respCluster o.respSpace o.respAddr ((clearBodyOf k.rxKey m).take o.respLen)).parcels ∧
        t.clusters = (s.writeSpace false (connParcel id) o.respCluster o.respSpace o.respAddr ((clearBodyOf k.rxKey m).take o.respLen)).clusters) ∧
    (m.kind = kRefuse → s.refusedConn m = some id → k.carries kRefuse = true → m.bodyGrains = 0 → 0 < m.arg → m.arg < 16 →
      k.outst.any (fun o => o.msg.seq == m.seq && !o.covered) = true → m.enc = (consuming m.arg && k.encrypt) →
      (m.enc = true → tagOk k.rxKey m = true) →
      ∃ t, exec (.refuse m) s = .next t ∧ (t.conn id).refused = k.refused + 1 ∧ (t.conn id).txDone = k.txDone ∧ (t.conn id).refuseCounts = addAt m.arg 1 k.refuseCounts) ∧
    (m.kind = kOpen → s.fabric.stationFenced = false → openHeadOk m = true → s.openSigned m = true → k.ackSent = false →
      s.fabric.conns.find? (fun x => openMatches m x.2) = some (id, k) →
      ∃ t, exec (.msgOpen m) s = .next t ∧ (t.conn id).peerConn = fld 0 4 m.body ∧ (t.conn id).peerGen = fld 4 2 m.body ∧ (t.conn id).ephPriv = 0 ∧
        (t.conn id).ackSent = true ∧ (t.conn id).state = k.state) ∧
    (m.kind = kOpen → s.fabric.stationFenced = false → openHeadOk m = true → s.openSigned m = false → exec (.msgOpen m) s = .next (s.refuse m arNoConn)) ∧
    (m.kind = kOpenAck → m.conn = id → s.headFails m = none → openOk m.body = true → openMatches m k = true → s.openSigned m = true → k.ackSent = true →
      (ackTag k.rxKey m ≠ m.tag → ∃ t, exec (.openAck m) s = .next t ∧ (t.conn id).state = 5) ∧
      (ackTag k.rxKey m = m.tag → k.attested = false → ∃ t, exec (.openAck m) s = .next t ∧ (t.conn id).state = 3) ∧
      (ackTag k.rxKey m = m.tag → k.attested = true → ∃ t, exec (.openAck m) s = .next t ∧ (t.conn id).state = 2)) ∧
    (m.kind = kClose → m.conn = id → s.headFails m = none → (m.enc = true → tagOk k.rxKey m = true) →
      ∃ t, exec (.msgClose m) s = .next t ∧ (t.conn id).closeSeen = true ∧ ((t.conn id).state = 4 ∨ (t.conn id).state = 6))

/-- The timers of a connection and the fetch of a spilled record (R170 to R172, R177, R179, R182, R185).
It rests on choices of the model: log entries 41 and 42. -/
def Obligations.ConnTimers : Prop :=
  ∀ (s : State) (id : Nat) (k : Conn), s.conn? id = some k →
    (k.state = 1 → k.openSent + 64 ≤ s.now → ∃ t, exec (.openResend id) s = .next t ∧ t.conn id = { k with openSent := s.now } ∧ t.parcels = s.parcels) ∧
    (k.state = 1 → k.openedChain + 1024 ≤ s.now → ∃ t, exec (.openTimeout id) s = .next t ∧ t.conn id = { k with state := 5 }) ∧
    (k.state = 4 → k.closingChain + 64 ≤ s.now → ∃ t, exec (.closingTimeout id) s = .next t ∧ (t.conn id).state = 6 ∧ (k.peerKnown = true → (t.conn id).closeSent = true)) ∧
    ((k.state = 2 ∨ k.state = 3) → k.lastChain + k.timeoutChains ≤ s.now → (∃ o ∈ k.outst, o.sentChain + k.timeoutChains ≤ s.now) →
      ∃ t, exec (.connTimeout id) s = .next t ∧ t.conn id = { k with state := 5 }) ∧
    (∀ q o c, k.outst.find? (fun o => o.msg.seq == q) = some o → o.fetchChain = some c → c + 2 ≤ s.now → (k.state = 2 ∨ k.state = 3) →
      ∃ u : State, exec (.fetchResend id q) s = .next (u.toStation o.msg) ∧ u.conn id = { k with outst := (u.conn id).outst } ∧
        (∀ x ∈ (u.conn id).outst, x.msg.seq = q → x.fetchChain = none) ∧ u.links = s.links) ∧
    (∀ rc bg n b tag, s.resident id = false → s.host.linkUp = true →
      (s.spillOk id rc bg n b tag = false → ∃ t, exec (.spillFetchDone id rc bg n b tag) s = .next t ∧ t.resident id = true ∧ t.conn id = { k with state := 5 }) ∧
      (s.spillOk id rc bg n b tag = true → s.shareFull (connParcel id) = false →
        ∃ t, exec (.spillFetchDone id rc bg n b tag) s = .next t ∧ t.resident id = true ∧
          (t.conn id) = { parseConn (gcmOpen (s.slotKey 6) (spillNonce rc n) (spillHead rc bg n) b) k with lastUse := s.fabric.useCount + 1 }))

/-- Drains, fills and snapshots come to their end (R192, R256, R262): a drain with nothing left, or at its limit, is answered; a parcel whose fill is done is
CLOSED and its units are free; a snapshot's context is empty.
It rests on choices of the model: log entries 40, 52 and 80. -/
def Obligations.DrainsAndFillsEnd : Prop :=
  ∀ (s : State) (p : Nat), s.units → p < 16 →
    (∀ e d ns, s.drainOf e = some d → s.unfinished d = 0 → exec (.revokeDrainDone e ns) s = .next (s.drainPost d ns)) ∧
    (∀ e d ns, s.drainOf e = some d → s.unfinished d ≠ 0 → exec (.revokeDrainDone e ns) s = .next s) ∧
    (∀ e d, s.drainOf e = some d → d.startChain + 16 < s.now → s.unfinished d = 0 →
      exec (.revokeDrainLimit e) s = .next (s.drainPost d 512000)) ∧
    (∀ e d, s.drainOf e = some d → s.now < d.startChain + 16 → exec (.revokeDrainLimit e) s = .next s) ∧
    ((s.parcel p).state = 4 → (s.parcel p).closeKey ≠ none → (s.parcel p).fillLeft = 0 →
      ∃ t : State, exec (.closeFillDone p) s = .next (match (s.parcel p).fillReq with | some (fn, r) => (t.respond fn r stOk []).takeAll fn | none => t) ∧
        t.parcel p = Parcel.reset ∧ (∀ q ≠ p, t.parcel q = s.parcel q) ∧
        (∀ c ∉ (s.parcel p).clusters, t.cluster c = s.cluster c) ∧ ∀ c ∈ (s.parcel p).clusters, c < 64 → (t.cluster c).errored = false ∧ (t.cluster c).halted = false) ∧
    (∀ n, (s.parcel p).snap = some n → n.chain + snapshotChains (s.ctx p n.context).width (s.parcel p).subchs.length ≤ s.now →
      (s.parcel p).contexts.length = 8 → n.context < 8 →
      ∃ t, exec (.snapshotDone p) s = .next t ∧ (t.parcel p).snap = none ∧ (t.ctx p n.context).pendRelease = false ∧ (t.ctx p n.context).state = (s.ctx p n.context).state ∧ t.time = s.time) ∧
    (∀ n, (s.parcel p).snap = some n → s.now < n.chain + snapshotChains (s.ctx p n.context).width (s.parcel p).subchs.length →
      exec (.snapshotDone p) s = .next s)

/-- Faults are contained (R16, R251, R259, R294 to R296, R299, R313, R315): the word is raised at its level; a context fault stops that context and nothing else;
a cluster fault fences the cluster and, where it has no partner, faults every context on it; a subchannel's failure faults its parcel, whole.
It rests on choices of the model: log entries 52, 53 and 73. -/
def Obligations.FaultsContained : Prop :=
  ∀ (s : State), s.Sound →
    (∀ p c i cause, ((i = .contextFault p c cause ∧ cause ∈ contextCauses) ∨ (i = .memPoison p c ∧ cause = 0x1101)) → (s.ctx p c).started = true →
      ∃ t, exec i s = .next t ∧ (t.ctx p c).state = 5 ∧ (t.ctx p c).fault = faultWord 1 (p * 8 + c) cause ∧ (t.fn 0).lastFault = faultWord 1 (p * 8 + c) cause ∧
        (∀ q d, (q ≠ p ∨ d ≠ c) → t.ctx q d = s.ctx q d) ∧ t.clusters = s.clusters ∧ t.time = s.time) ∧
    (∀ c err p, c < 64 → (s.cluster c).awake = true → (s.cluster c).fenced = false → (∀ b, err = .bench b → b < 64) → s.ownerOf c = some p →
      ∃ t, exec (.clusterError c err) s = .next t ∧ (t.cluster c).fenced = true ∧ (t.cluster c).errored = true ∧ (t.cluster c).inflight = [] ∧
        (t.fn 0).lastFault = faultWord 2 c (match err with | .bench _ => 0x1403 | .trestle => 0x1404 | .scratch => 0x1405) ∧
        (∀ d ∉ (s.parcel p).members ((s.parcel p).logicalOf c), d ≠ c → t.cluster d = s.cluster d) ∧
        ((∃ d ∈ s.live p ((s.parcel p).logicalOf c), d ≠ c ∧ d < 64) → ∀ q x, t.ctx q x = s.ctx q x) ∧
        ((∀ d ∈ s.live p ((s.parcel p).logicalOf c), d = c) → ∀ x < 8, (s.ctx p x).started = true → (s.parcel p).logicalOf c < (s.ctx p x).width →
          (t.ctx p x).state = 5 ∧ (t.ctx p x).fault = (t.fn 0).lastFault)) ∧
    (∀ x p, s.subchInUse x = true → s.faults.subchFailed.contains x = false → s.clock.running = true → s.subchOwner x = some p →
      ∃ t, exec (.subchFail x) s = .next t ∧ x ∈ t.faults.subchFailed ∧ (t.parcel p).refusing = true ∧ (t.fn 0).lastFault = faultWord 3 p 0x1102 ∧
        (∀ c < 8, (s.ctx p c).state ≠ 0 → (t.ctx p c).state = 5) ∧ (∀ q ≠ p, t.parcel q = s.parcel q) ∧
        (∀ k ∈ (s.parcel p).clusters, k < 64 → (t.cluster k).fenced = true)) ∧
    (∀ x, s.subchInUse x = true → s.faults.subchFailed.contains x = false → s.clock.running = true → s.subchOwner x = none →
      exec (.subchFail x) s = .next (s.subchGone x none)) ∧
    (∀ x n, 4096 < n → x < 64 → s.faults.eccCounts.getD x 0 ≤ 4096 →
      ∃ t, exec (.subchDegraded x n) s = .next t ∧ t.faults.eccCounts = s.faults.eccCounts.set x n ∧ t.parcels = s.parcels ∧ t.clusters = s.clusters ∧
        (s.enduring = false → t.faults.migrate = s.faults.migrate) ∧
        (∀ y, s.enduring = true → s.subchInUse x = true → s.faults.migrate.any (fun m => m.1 == x) = false → s.spareSubch (dieOf x) = some y →
          t.faults.migrate = s.faults.migrate ++ [(x, y, 0)])) ∧
    (∀ x y n, s.faults.migrate.find? (fun m => m.1 == x) = some (x, y, n) →
      exec (.migrationDone x) s = .next (if subchLines ≤ n then s.subchGone x (some y) else s))

/-- Module causes (R9, R232, R261, R304 to R306): a hub error, a missed watchdog, a mismatch of the last pair and a fence that does not complete order the reset and
push the word; the reset begins at a chain boundary; the debug port reads and halts what it reaches and nothing else.
It rests on choices of the model: log entries 53, 55 and 60. -/
def Obligations.ModuleFaults : Prop :=
  ∀ (s : State), s.units →
    (∀ i u w, ((i = .d2dError ∧ u = 5 ∧ w = 0x1409) ∨ (i = .watchdogMiss ∧ u = 4 ∧ w = 0x140B) ∨
        (∃ a b, i = .lockstepMismatch a ∧ a < 2 ∧ s.faults.pairStopped = some b ∧ b ≠ a ∧ u = 4 ∧ w = 0x140A)) → s.clock.running = true →
      ∃ t, exec i s = .next t ∧ t.faults.mgmtWord = faultWord 4 u w ∧ t.faults.order = some (s.faults.order.getD (s.now, false)) ∧
        (t.fn 0).lastFault = faultWord 4 u w ∧ t.parcels = s.parcels ∧ t.clusters = s.clusters) ∧
    (∀ a, a < 2 → s.clock.running = true → s.faults.pairStopped = none →
      ∃ t, exec (.lockstepMismatch a) s = .next t ∧ t.faults = { s.faults with pairStopped := some a, takeover := a == s.faults.activePair } ∧ t.parcels = s.parcels ∧ t.clusters = s.clusters) ∧
    (∀ p c k, (s.ctx p c).state = 5 → k ∈ (s.parcel p).clusters → exec (.fenceTimeout (.context p c k)) s = .next (s.clusterFault k 0x1408 none)) ∧
    (∀ c p, (s.cluster c).errored = true → s.ownerOf c = some p → (s.parcel p).refusing = false →
      exec (.fenceTimeout (.cluster c)) s = .next (s.parcelFault p 0x1408)) ∧
    (∀ p, (s.parcel p).refusing = true → ∃ t, exec (.fenceTimeout (.parcel p)) s = .next t ∧ t.faults.mgmtWord = faultWord 4 0xFF 0x1408 ∧ t.faults.order ≠ none) ∧
    ((s.boot.stage = 0 ∨ s.boot.stage = 1) → ∃ t, exec (.fenceTimeout .module) s = .next t ∧ t.faults.mgmtWord = faultWord 5 0 0x140C ∧
      (s.faults.trayCycles < 2 → t.faults.trayCycles = s.faults.trayCycles + 1 ∧ t.power = s.power) ∧ (2 ≤ s.faults.trayCycles → t.power.off = true)) ∧
    (∀ n cold ok, s.faults.order = some (n, cold) → s.power.off = false → s.power.fail = false →
      ((s.clock.running = true → n < s.now ∧ s.clock.rod = 0) → exec (.moduleReset ok) s = .next (s.flushRings.reboot cold ok)) ∧
      (s.clock.running = true → (s.now ≤ n ∨ s.clock.rod ≠ 0) → exec (.moduleReset ok) s = .next s)) ∧
    (s.faults.order = none → ∀ ok, exec (.moduleReset ok) s = .next s) ∧
    (∀ c, s.debugReaches c = true → c < 64 →
      (∃ t, exec (.fieldDebugAccess (.halt c)) s = .next t ∧ (t.cluster c).halted = true ∧ ∀ d ≠ c, t.cluster d = s.cluster d) ∧
      (∃ t, exec (.fieldDebugAccess (.resume c)) s = .next t ∧ (t.cluster c).halted = false ∧ ∀ d ≠ c, t.cluster d = s.cluster d) ∧
      (∀ a, exec (.fieldDebugAccess (.readScratch c a)) s = .next (s.emit (.debugPort (leNat (Memory.read0 a 8 (s.cluster c).scratch))))) ∧
      (∀ a, exec (.fieldDebugAccess (.readStake c a)) s = .next (s.emit (.debugPort (stakeWord (tget a (s.cluster c).stakes) 0)))) ∧
      (∀ r, exec (.fieldDebugAccess (.readControl c r)) s = .next (s.emit (.debugPort ((s.cluster c).row r).ctrl.toNat)))) ∧
    (∀ c, s.debugReaches c = false → ∀ x, exec (.fieldDebugAccess (.halt c)) s = .next s ∧ exec (.fieldDebugAccess (.resume c)) s = .next s ∧
      exec (.fieldDebugAccess (.readScratch c x)) s = .next s ∧ exec (.fieldDebugAccess (.readStake c x)) s = .next s ∧ exec (.fieldDebugAccess (.readControl c x)) s = .next s)

/-- Input power (R336, R338, R341, R347, R350): a warning, a droop of 10 us, an overvoltage, `PWR_CYCLE#` and a broken contact begin power-fail handling; it ends
after 32 clear chains, or in an orderly stop that saves the meter; above 80 V for more than 100 us nothing is defined.
It rests on choices of the model: log entry 63. -/
def Obligations.InputPower : Prop :=
  ∀ (s : State),
    (∃ t, exec (.pwrWarn true) s = .next t ∧ t.power.warn = true ∧ (s.power.off = false → t.power.fail = true) ∧
      (s.power.off = false → s.power.fail = false → t.power.failDue = true) ∧ t.parcels = s.parcels ∧ t.clusters = s.clusters ∧ t.time = s.time) ∧
    (exec (.pwrWarn false) s = .next { s with power := { s.power with warn := false } }) ∧
    (∀ mv us, mv < 40000 → 10 ≤ us → s.power.off = false → ∃ t, exec (.inputUndervoltage mv us) s = .next t ∧ t.power.fail = true ∧ t.power.sensors.j1Mv = mv ∧
      t.parcels = s.parcels ∧ t.clusters = s.clusters ∧ t.time = s.time) ∧
    (∀ mv us, mv < 40000 → us < 10 → exec (.inputUndervoltage mv us) s = .next s) ∧
    (∀ mv us, 40000 ≤ mv → ∃ t, exec (.inputUndervoltage mv us) s = .next t ∧ t.power.fail = s.power.fail ∧ t.power.sensors.j1Mv = mv ∧ (t.power.uv = true ↔ mv < 42000 ∨ 60000 < mv)) ∧
    (s.power.fail = true → 32 ≤ s.power.clearRun → s.clock.rod = 0 →
      ∃ t, exec .powerFailRecovered s = .next t ∧ t.power.fail = false ∧ t.clock.forced = s.power.thermal ∧ t.time = s.time ∧ t.parcels = s.parcels) ∧
    (∀ mj, mj ≤ 250 → s.power.fail = true → s.power.off = false →
      ∃ t, exec (.powerFailStop mj) s = .next t ∧ t.power.off = true ∧ t.faults.mgmtWord = faultWord 4 6 0x1501 ∧ t.flash.meterSaved = s.power.meter) ∧
    (∀ mv us, 80000 < mv → 100 < us → exec (.inputOvervoltage mv us) s = .fault .surgeUndefined) ∧
    (∀ mv us, 62000 < mv → 10 ≤ us → ¬(80000 < mv ∧ 100 < us) →
      ∃ t, exec (.inputOvervoltage mv us) s = .next t ∧ t.power.switch = false ∧ t.power.ovOpen = true ∧ (s.power.off = false → t.power.fail = true)) ∧
    (∀ mv us, ¬(62000 < mv ∧ 10 ≤ us) → ¬(80000 < mv ∧ 100 < us) → ∃ t, exec (.inputOvervoltage mv us) s = .next t ∧ t.power.switch = s.power.switch ∧ t.power.fail = s.power.fail) ∧
    (∀ mv, s.power.ovOpen = true → mv < 60000 →
      ∃ t, exec (.overvoltageRecovery mv) s = .next t ∧ t.power.ovOpen = false ∧ t.power.switch = (s.power.present && !s.power.cycleLow)) ∧
    (∀ ms, 10 ≤ ms → ∃ t, exec (.pwrCycle true ms) s = .next t ∧ t.power.switch = false ∧ t.power.cycleLow = true ∧ (s.power.off = false → t.power.fail = true)) ∧
    (∀ ms, ms < 10 → exec (.pwrCycle true ms) s = .next s) ∧
    (∀ ms, exec (.pwrCycle false ms) s = .next { s with power := { s.power with cycleLow := false } }) ∧
    (s.power.present = true → ∃ t, exec .presentJ1Break s = .next t ∧ t.power.present = false ∧ t.power.switch = false ∧ (s.power.off = false → t.power.fail = true)) ∧
    (s.clock.running = true → exec .meterSave s = .next { s with flash := { s.flash with meterSaved := s.power.meter }, power := { s.power with savedRec := s.power.openRec } })

/-- Starts and stops (R277, R341, R349, R350, R352): an input within 40 to 60 V takes the cold path, which raises the boot generation and leaves nothing running;
a rail that does not come up ends bring-up; a junction at 115 C or a memory device at 100 C powers the module down.
It rests on choices of the model: log entries 10 and 60. -/
def Obligations.StartsAndStops : Prop :=
  ∀ (s : State) (mv : Nat) (ok : Bool), 40000 ≤ mv → mv ≤ 60000 →
    (∀ i, ((i = .powerOn mv ok ∧ s.power.off = true) ∨ (i = .inputSwitchClose mv ok ∧ s.power.present = true ∧ s.power.switch = false)) →
      s.power.cycleLow = false → s.power.ovOpen = false →
      ∃ t, exec i s = .next t ∧ t.time = (0, 0, false) ∧ t.power.off = false ∧ t.power.switch = true ∧ t.power.fail = false ∧ t.parcels = State.reset.parcels ∧ t.longs = []) ∧
    (∀ rail us, (if rail ≤ 4 then s.boot.stage ≤ 1 else rail ≤ 8 ∧ s.boot.diesUp = rail - 5 ∧ s.clock.running = true) → s.power.off = false → s.boot.ready = false → s.boot.railFailed = false →
      ∃ t, exec (.railFail rail us) s = .next t ∧ t.boot.railFailed = true ∧ t.boot.stage = 0 ∧ t.clock = Clock.reset ∧ t.boot.stopWord = faultWord 4 6 0x1602 ∧
        t.boot.recovery = s.boot.recovery ++ [(us, 0x1602, rail)]) ∧
    (∀ dram u dc, s.power.off = false → (if dram then u < 16 ∧ 1000 ≤ dc else u < 5 ∧ 1150 ≤ dc) →
      ∃ t, exec (.thermalShutdown dram u dc) s = .next t ∧ t.power.off = true ∧ t.flash.meterSaved = s.power.meter ∧
        t.faults.mgmtWord = faultWord 4 (if dram then u / 4 else u) 0x1601) ∧
    (∀ (dram : Bool) u dc, ¬(if dram then u < 16 ∧ 1000 ≤ dc else u < 5 ∧ 1150 ≤ dc) → exec (.thermalShutdown dram u dc) s = .next s)

/-- Heat and caps (R42, R331, R332, R334, R335, R344, R351, R352): what a reading sets and what it forces; the idle ratio is the smallest that meets the cap.
It rests on choices of the model: log entry 64. -/
def Obligations.HeatAndCaps : Prop :=
  ∀ (s : State),
    (∀ die dc oc, die < 5 → ∃ t, exec (.throttleTrigger die dc oc) s = .next t ∧ t.power.sensors.junctionDc = s.power.sensors.junctionDc.set die dc ∧
      t.power.sensors.overcurrent = oc ∧ (t.clock.throttleDue = true ↔ s.clock.throttleDue = true ∨ ((1050 ≤ dc ∨ oc = true) ∧ s.boot.ready = true ∧ s.clock.throttle = false)) ∧ t.time = s.time) ∧
    (∀ d dc, d < 16 → ∃ t, exec (.thermalIdle d dc) s = .next t ∧ t.power.sensors.dramDc = s.power.sensors.dramDc.set d dc ∧
      (t.power.thermal = true ↔ s.power.thermal = true ∨ 950 ≤ dc) ∧ (900 ≤ dc → t.power.coolRun = 0) ∧ (dc < 900 → t.power.coolRun = s.power.coolRun)) ∧
    (s.power.thermal = true → 32 ≤ s.power.coolRun → s.clock.rod = 0 → ∃ t, exec .thermalIdleClear s = .next t ∧ t.power.thermal = false ∧ t.clock.forced = s.power.fail ∧ t.time = s.time) ∧
    (∀ i o, ∃ t, exec (.coolantLimit i o) s = .next t ∧ t.power.sensors.inletDc = i ∧ t.power.sensors.outletDc = o ∧ t.time = s.time ∧
      (1024 ≤ s.power.hotOutlet → i + 150 < o → t.power.hotOutlet = 0) ∧
      ((i < 200 ∨ 450 < i) → s.power.coolantChain = none → t.power.coolantChain = some s.now) ∧ (200 ≤ i → i ≤ 450 → t.power.coolantChain = s.power.coolantChain)) ∧
    (∀ l, l < s.links.length → ∃ t, exec (.cableOverdraw l) s = .next t ∧ (t.link l).supply = false ∧ (t.link l).state = 5 ∧ ∀ n ≠ l, (t.link n).state = (s.link n).state) ∧
    (∀ dc, ∃ t r, exec (.inletReading dc) s = .next t ∧ t.clock.pendRatio = some r ∧ r ≤ 63 ∧ t.power.tHeld = holdInlet s.power.tHeld (ceilDiv dc 10) ∧ t.time = s.time ∧
      (∀ i < r, ratioMeets (wFull s.flash.variant t.power.tHeld) (wIdle s.flash.variant) s.nextCap i = false) ∧
      (t.power.capUnmet = false → ratioMeets (wFull s.flash.variant t.power.tHeld) (wIdle s.flash.variant) s.nextCap r = true)) ∧
    (∀ e l, s.power.schedule = e :: l → e.startChain = s.now + 1 → s.power.acked = none →
      ∃ t, exec .scheduleAck s = .next t ∧ t.power.schedule = l ∧ t.power.acked = some e ∧ t.clock.pendRatio = some (ratioFor s.flash.variant s.power.tHeld (s.capWith e.capW)) ∧ t.time = s.time) ∧
    (∀ r, s.power.off = false → ∃ t, exec (.telemetryRefresh r) s = .next t ∧ t.power.sensors.j1Mv = r.inputMv ∧ t.power.sensors.j1Ma = r.inputMa ∧ t.power.sensors.powerMw = r.powerMw ∧
      t.power.sensors.outletDc = r.outletDc ∧ t.power.sensors.inletDc = s.power.sensors.inletDc ∧ t.mgmt.reports = 0 ∧ s.power.openRec.peakW ≤ t.power.openRec.peakW ∧
      ceilDiv r.powerMw 1000 ≤ t.power.openRec.peakW ∧ t.power.meter = s.power.meter ∧ t.time = s.time)

/-- Management answers (R261, R267, R268, R269, R277, R324, R331, R334, R338): what each operation on a heard message answers, and what it changes;
refusals answer with their status and change nothing else.
It rests on choices of the model: log entries 66, 68 and 69. -/
def Obligations.ManagementAnswers : Prop :=
  ∀ (s : State) (m : MgmtMsg), s.Hears m →
    let n := m.body.length
    let f := fun a k => fld a k m.body
    (n = 0 → exec (.mgmtTelemetry m) s = .next (s.answerMgmt m 0x01 stOk (if s.power.telemetry = [] then s.telemetryBytes else s.power.telemetry))) ∧
    (n = 0 → exec (.mgmtEntropy m) s = .next (((s.estimate false).estimate true).answerMgmt m 0x02 stOk
      (sourceBytes false ((s.estimate false).estimate true).entropy.primary ++ sourceBytes true ((s.estimate false).estimate true).entropy.fallback))) ∧
    (n = 8 → allZero (m.body.drop 1) = true → f 0 1 < 16 → exec (.mgmtProfile m) s = .next (if (s.parcel (f 0 1)).grant.toNat.testBit 1 = true
      then (s.drawMany 1).answerMgmt m 0x03 stOk (le 128 s.fresh.toNat) else s.answerMgmt m 0x03 stNotPermitted [])) ∧
    (∀ l, l = ((chunks 16 64 (m.body.drop 8)).map readEntry).map (·.1) → 8 ≤ n → f 0 4 ≤ 64 → n = 8 + 16 * f 0 4 → allZero (cut 4 4 m.body) = true →
      (∀ e ∈ (chunks 16 64 (m.body.drop 8)).map readEntry, e.2 = false ∧ e.1.tariff < 8) → exec (.mgmtSchedule m) s = .next (
      if ascending l = false ∨ (∃ e ∈ l.head?, e.startChain < s.now + 2) then s.answerMgmt m 0x11 stSchedule []
      else if l.any (fun e => s.capBad e.capW) = true then s.answerMgmt m 0x11 stCapRange []
      else { s with power := { s.power with schedule := l } }.answerMgmt m 0x11 stOk [])) ∧
    (n = 8 → exec (.mgmtMeter m) s = .next (if f 4 4 = 0 ∨ 64 < f 4 4 then s.answerMgmt m 0x12 stArg [] else
      s.answerMgmt m 0x12 stOk (((s.power.records.filter fun r => f 0 4 ≤ r.index && r.index < f 0 4 + f 4 4).take (mgmtMost m.path / 240)).flatMap meterBytes))) ∧
    (n = 8 → allZero (m.body.drop 1) = true →
      exec (.moduleResetWarm m) s = .next (if f 0 1 = 0 then (s.orderReset false).answerMgmt m 0x40 stOk [] else if f 0 1 = 1 then s else s.answerMgmt m 0x40 stArg []) ∧
      exec (.moduleResetCold m) s = .next (if f 0 1 = 1 then (s.orderReset true).answerMgmt m 0x40 stOk [] else s)) ∧
    (n = 0 → exec (.drbgReseed m) s = .next ({ s with entropy := { s.entropy with reseedDue := true } }.answerMgmt m 0x41 stOk [])) ∧
    (n = 32 → exec (.entropyPattern m) s = .next (if s.flash.lifecycle = 1 ∧ s.flash.provisioned = false
      then { s with entropy := { s.entropy with pendPattern := some (BitVec.ofNat 256 (leNat m.body)) } }.answerMgmt m 0x42 stOk [] else s.answerMgmt m 0x42 stLifecycle [])) ∧
    (n = 8 → allZero (m.body.drop 1) = true → exec (.mgmtLinkRetrain m) s = .next (
      if 48 ≤ f 0 1 then s.answerMgmt m 0x43 stArg [] else if (s.link (f 0 1)).state = 0 then s.answerMgmt m 0x43 stBusy []
      else { s.enterTraining (f 0 1) .operator with longs := s.longs ++ [{ LongCmd.reset with link := f 0 1, mgmt := some m }] })) ∧
    (n = 0 → exec (.mgmtLinkStatus m) s = .next (s.answerMgmt m 0x44 stOk s.linkStatus))

/-- Staging and signed records (R275, R287, R289, R324, R339): staging opens, is written and is verified;
a signed settings record, survey or TLS chain is stored, and one that fails its check is refused with that check's status.
It rests on choices of the model: log entries 6 and 69. -/
def Obligations.StagingAndRecords : Prop :=
  ∀ (s : State) (m : MgmtMsg), s.Hears m →
    let n := m.body.length
    let f := fun a k => fld a k m.body
    (n = 8 → allZero (m.body.drop 4) = true → exec (.fwBegin m) s = .next (
      if s.mgmt.staging.isSome = true then s.answerMgmt m 0x20 stBusy []
      else if f 0 4 = 0 ∨ 33554432 < f 0 4 then s.answerMgmt m 0x20 stArg []
      else ((s.modCopy s.stagingTarget fun _ => { FwCopy.reset with bytes := f 0 4 }).setStaging (some s.stagingTarget)).answerMgmt m 0x20 stOk (le 1 (b2n s.stagingTarget) ++ zeros 7))) ∧
    (8 < n → allZero (cut 4 4 m.body) = true → exec (.fwData m) s = .next (match s.mgmt.staging with
      | none => s.answerMgmt m 0x21 stFwState []
      | some x => if (s.copy x).bytes < f 0 4 + (n - 8) then s.answerMgmt m 0x21 stArg []
        else (s.modCopy x fun c => { c with image := Memory.write0 (f 0 4) (m.body.drop 8) c.image }).answerMgmt m 0x21 stOk [])) ∧
    (n = 0 → s.mgmt.staging = none → exec (.fwEnd m) s = .next (s.answerMgmt m 0x22 stFwState [])) ∧
    (∀ x img k d, n = 0 → s.mgmt.staging = some x → img = fwBytes (s.copy x) → k = Config.fwCounter img → d = Config.sha384 img → exec (.fwEnd m) s = .next (
      if ¬(s.slotFilled 8 = true ∧ Config.fwVerifies (s.slotBytes 8 97) img = true) then (s.setStaging none).answerMgmt m 0x22 stSignature []
      else if s.boot.stage ≠ 0x02 ∧ (k < s.boot.fwCounter ∨ k = s.boot.fwCounter ∧ d ≠ s.boot.fwDigest) then (s.setStaging none).answerMgmt m 0x22 stCounter []
      else ((((s.setStaging none).modCopy x fun c => { c with valid := true, counter := k, digest := d, version := Config.fwVersion img }).evPf 0x1504 [b2n x, k, (d.setWidth 128).toNat]).evMgmt
        0x1504 [b2n x, k, (d.setWidth 128).toNat]).answerMgmt m 0x22 stOk (cat [le 1 (b2n x), zeros 3, le 4 k, le 48 d.toNat]))) ∧
    (n = 128 → allZero (cut 7 1 m.body ++ cut 12 4 m.body ++ cut 24 8 m.body) = true → f 0 4 = 0x0A5EB5E7 → f 4 1 = 1 → f 5 1 ≤ 1 → f 6 1 ≤ 1 → 31250 ≤ f 8 4 → f 8 4 ≤ 1048576 →
      exec (.settingsWrite m) s = .next (
      if ¬(s.slotFilled 10 = true ∧ Config.ecdsaVerify (s.slotBytes 10 97) (m.body.take 32) (m.body.drop 32) = true) then s.answerMgmt m 0x30 stSignature []
      else if f 16 8 ≤ s.flash.settingsCounter then s.answerMgmt m 0x30 stCounter []
      else { s with flash := { s.flash with
        settings := { profile := f 5 1, early := f 6 1 = 1, surveyWait := f 8 4, counter := f 16 8 }
        settingsCounter := f 16 8
        settingsBad := false } }.answerMgmt m 0x30 stOk [])) ∧
    (∀ v, v = parseSurvey m.body → n = 64 + 112 * f 12 4 + 96 → surveyReserved m.body v = false → f 0 4 = 0x0A5E5E70 → f 4 2 = 1 → f 6 2 = 64 → 0 < v.groups → v.groups ≤ 512 →
      0 < f 12 4 → f 12 4 ≤ 16384 → v.wellFormed = true → exec (.surveyWrite m) s = .next (
      if s.surveySigned m.body = false then s.answerMgmt m 0x31 stSignature []
      else if v.counter ≤ s.flash.surveyCounter then s.answerMgmt m 0x31 stCounter []
      else (if s.surveyWaits v = true then { s with flash := { s.flash with survey := some v, surveyCounter := v.counter, surveyBad := false } }
        else { s with flash := { s.flash with survey := some v, surveyCounter := v.counter, surveyBad := false }, boot := { s.boot with pendSurvey := some v } }).answerMgmt m 0x31 stOk [])) ∧
    (∀ l, certList 65536 m.body = some l → l ≠ [] → exec (.tlsCert m) s = .next (
      if s.slotFilled 11 = true ∧ s.slotFilled 10 = true ∧ Config.certLeafKey l = s.tlsPub ∧ Config.certSignedBy l (s.slotBytes 10 97) = true
      then { s with chest := { s.chest with tlsChain := m.body } }.answerMgmt m 0x33 stOk [] else s.answerMgmt m 0x33 stSignature []))

/-- MCTP control (R325, R327, R330): a message that reaches an open port ends the no-partner state and is answered; the endpoint ID and the partner's
address are set. The bodies follow DSP0236 (PRESUMED, log entry 24).
SPDM (R229, R326): version 1.2 with ECDSA P-384 and SHA-384 only; the two chains' digests and portions; a challenge signed under slot 3 or 4 and the
measurements of Table 15.3 signed under slot 3, each over the request and the answer with a drawn nonce. The bodies follow DSP0274 (PRESUMED, log entry 24).
It rests on choices of the model: log entries 6 and 24. -/
def Obligations.SmbusAnswers : Prop :=
  (∀ (s : State), s.busOn = true →
    let v := s.partnerBack
    let ans : Bytes → State → Host.Outcome State Fault Refusal := fun b t => .next (t.sendSmbus (.mctp 0x00 b) (0 :: b))
    (∀ src eid, exec (.setEndpointId src eid) s =
      if 8 ≤ eid ∧ eid ≤ 254 then ans [0x01, 0x00, 0x00, BitVec.ofNat 8 eid, 0x00] { v with smbus := { v.smbus with partner := src, eid := eid } }
      else ans [0x01, 0x02] { v with smbus := { v.smbus with partner := src } }) ∧
    (exec .getEndpointId s = ans [0x02, 0x00, BitVec.ofNat 8 v.smbus.eid, 0x00, 0x00] v) ∧
    (exec .getEndpointUuid s = ans ([0x03, 0x00] ++ be 16 Config.endpointUuid.toNat) v) ∧
    (∀ t, exec (.getMctpVersionSupport t) s =
      if t = 0xFF ∨ t = 0x00 then ans [0x04, 0x00, 0x01, 0xF1, 0xF3, 0xFF, 0x00] v
      else if t = 0x05 ∨ t = 0x7F then ans ([0x04, 0x00, 0x01] ++ be 4 (Config.mctpVersion t).toNat) v
      else ans [0x04, 0x80] v) ∧
    (exec .getMessageTypeSupport s = ans [0x05, 0x00, 0x02, 0x05, 0x7F] v) ∧
    (∀ n, exec (.getVendorMessageSupport n) s =
      if n = 0 then ans ([0x06, 0x00, 0xFF, 0x01] ++ be 4 Config.enterpriseNumber ++ be 2 Config.vendorSet.toNat) v else ans [0x06, 0x02] v) ∧
    (∀ c, exec (.mctpUnsupportedCmd c) s = ans [BitVec.ofNat 8 c, 0x05] v)) ∧
  (∀ (s : State), s.busOn = true →
    let v := s.partnerBack
    let ans : Bytes → State → Host.Outcome State Fault Refusal := fun b t => .next (t.sendSmbus (.mctp 0x05 b) (5 :: b))
    let dig := fun k => le 48 (Config.sha384 (v.spdmChain k)).toNat
    let own := le 32 (v.fresh.setWidth 256).toNat
    let sig := fun key (b : Bytes) => signature ((v.drawn.slotVal key).setWidth 384) b v.drawn.draws
    (exec .getVersion s = ans [0x10, 0x04, 0x00, 0x00, 0x00, 0x01, 0x00, 0x12] v) ∧
    (exec .getCapabilities s = ans ([0x12, 0x61, 0x00, 0x00, 0x00, Config.spdmTiming, 0x00, 0x00, 0x16, 0x00, 0x00, 0x00] ++ le 8 Config.spdmSizes.toNat) v) ∧
    (exec (.negotiateAlgorithms true) s = ans ([0x12, 0x63, 0x00, 0x00, 36, 0, 1, 0, 4, 0, 0, 0, 0x80, 0, 0, 0, 2, 0, 0, 0] ++ zeros 16) { v with mgmt := { v.mgmt with spdmNegotiated := true } }) ∧
    (exec (.negotiateAlgorithms false) s = ans [0x12, 0x7F, 0x01, 0x00] v) ∧
    (exec .getDigests s = ans ([0x12, 0x01, 0x00, 0x03] ++ dig 0 ++ dig 1) v) ∧
    (∀ k o l, exec (.getCertificate k o l) s = if 2 ≤ k ∨ (v.spdmChain k).length ≤ o then ans [0x12, 0x7F, 0x01, 0x00] v
      else ans ([0x12, 0x02, BitVec.ofNat 8 k, 0x00] ++ le 2 (cut o l (v.spdmChain k)).length ++ le 2 ((v.spdmChain k).length - o - (cut o l (v.spdmChain k)).length) ++ cut o l (v.spdmChain k)) v) ∧
    (∀ k (nonce : BitVec 256) b, k < 2 → v.slotUse (3 + k) 1 = true → v.canDraw = true → b = [0x12, 0x03, BitVec.ofNat 8 k, BitVec.ofNat 8 (2 ^ k)] ++ dig k ++ own ++ [0, 0] →
      exec (.challenge k nonce) s = ans (b ++ sig (3 + k) ([0x12, 0x83, BitVec.ofNat 8 k, 0] ++ le 32 nonce.toNat ++ b)) v.drawn.drawn) ∧
    (∀ k nonce, exec (.challenge k nonce) s = ans [0x12, 0x7F, if 2 ≤ k then 0x01 else 0x05, 0x00] v ∨ (k < 2 ∧ v.slotUse (3 + k) 1 = true ∧ v.canDraw = true)) ∧
    (∀ i (nonce : BitVec 256) l r b, (i = 0 ∧ l = [] ∨ (1 ≤ i ∧ i ≤ 5) ∧ l = [i] ∨ i = 0xFF ∧ l = [1, 2, 3, 4, 5]) → r = l.flatMap (fun i => v.blockBytes i) → v.slotUse 3 1 = true → v.canDraw = true →
      b = [0x12, 0x60, if i = 0 then 5 else 0, 0, BitVec.ofNat 8 l.length] ++ le 3 r.length ++ r ++ own ++ [0, 0] →
      exec (.getMeasurements i nonce) s = ans (b ++ sig 3 ([0x12, 0xE0, 1, BitVec.ofNat 8 i] ++ le 32 nonce.toNat ++ b)) v.drawn.drawn) ∧
    (∀ i nonce, 5 < i → i ≠ 0xFF → exec (.getMeasurements i nonce) s = ans [0x12, 0x7F, 0x01, 0x00] v) ∧
    (∀ c, exec (.spdmUnsupportedRequest c) s = ans [0x12, 0x7F, 0x07, BitVec.ofNat 8 c] v))

/-- The SMBus port (R327 to R330): a low line is clocked free and the transfer retried; a line low too long fences the port and discards what waits; a
transfer unacknowledged three times is given up, and until a probe is acknowledged there is no partner; what waited is then sent, oldest first.
It rests on choices of the model: log entry 71. -/
def Obligations.BusRecovers : Prop :=
  ∀ (s : State), s.power.off = false →
    let k := s.smbus
    (∀ n, k.fenced = false → n ≤ 9 → ∃ t, exec (.smbusLineRecovery (some n)) s = .next t ∧ t.smbus = { k with recovering := false } ∧
      t.outbox = s.outbox ++ (.smbus 2 [BitVec.ofNat 8 n] :: k.transfer.toList.map (.smbus 1 ·))) ∧
    (∀ h, k.fenced = false → (h = none ∨ ∃ n ∈ h, 9 < n) → ∃ t, exec (.smbusLineRecovery h) s = .next t ∧ t.smbus = { k with recovering := true } ∧ t.outbox = s.outbox ++ [.smbus 2 [9]]) ∧
    (∀ a b, k.fenced = false → exec (.smbusTargetTimeout a b) s = .next (if 25000 < a ∨ 35000 ≤ b then s.emit (.smbus 4 []) else s)) ∧
    (∀ sda n, k.fenced = false → 32768 ≤ n → ∃ t, exec (.smbusFence sda n) s = .next t ∧ t.smbus = { k with fenced := true, recovering := false, discards := k.discards + k.queue.length, queue := [], transfer := none, retries := 0, probeChain := s.now } ∧ t.time = s.time) ∧
    (∀ n, k.fenced = true → k.probeChain + 32768 ≤ s.now → ∃ t, exec (.smbusUnfence n) s = .next t ∧ t.smbus = { k with probeChain := s.now, fenced := decide (n < 35000) }) ∧
    (∀ b, k.fenced = false → k.noPartner = false → k.transfer = some b →
      (∃ t, exec (.smbusRetry true) s = .next t ∧ t.smbus = { k with transfer := none, retries := 0 } ∧ t.outbox = s.outbox ++ [.smbus 1 b]) ∧
      (k.retries < 2 → ∃ t, exec (.smbusRetry false) s = .next t ∧ t.smbus = { k with retries := k.retries + 1 } ∧ t.outbox = s.outbox ++ [.smbus 1 b]) ∧
      (2 ≤ k.retries → ∃ t, exec (.smbusRetry false) s = .next t ∧ t.smbus = { k with transfer := none, retries := 0, discards := k.discards + 1, noPartner := true, probeChain := s.now })) ∧
    (∀ b l, k.fenced = false → k.noPartner = true → k.queue = b :: l → k.probeChain + 32768 ≤ s.now →
      (∃ t, exec (.smbusProbe false) s = .next t ∧ t.smbus = { k with probeChain := s.now } ∧ t.outbox = s.outbox ++ [.smbus 3 b]) ∧
      (∃ t e, exec (.smbusProbe true) s = .next t ∧ t.smbus = { k with probeChain := s.now, noPartner := false, queue := [], retries := 0, transfer := l.getLast? } ∧
        t.outbox = s.outbox ++ .smbus 3 b :: l.map (.smbus 0 ·) ++ [e])) ∧
    (∀ n, k.fenced = false → k.transfer.isSome = true → 35 ≤ n → exec (.transferAbandon n) s = .next { s with smbus := { k with recovering := true } }) ∧
    (∀ p, k.fenced = false → p.pecOk = false → exec (.smbusPacket p) s = .next { s with smbus := { k with pecErrors := k.pecErrors + 1 } }) ∧
    (∀ p, k.fenced = false → p.pecOk = true → ∃ t, exec (.smbusPacket p) s = .next t ∧ t.smbus.noPartner = false ∧
      t.smbus.discards = k.discards + (if p.msgType = 0x00 ∨ p.msgType = 0x05 ∨ p.msgType = 0x7F then 0 else 1))

/-- The management port (R320, R321): a hello that keeps the rules opens the lowest free session of four; echoes, solicitations and addresses are taken.
It rests on choices of the model: log entries 6 and 70. -/
def Obligations.PortTalks : Prop :=
  ∀ (s : State), s.power.off = false →
    (∀ h k, k < 4 → s.mgmt.tls.contains k = false → (∀ i < k, s.mgmt.tls.contains i = true) → exec (.tlsHandshake h) s = .next (
      if (s.slotUse 11 1 = true ∧ s.slotFilled 10 = true ∧ s.chest.tlsChain ≠ []) ∧ h.tls13 = true ∧ h.aes256GcmSha384 = true ∧ h.groupOk = true ∧ h.p384Sha384 = true ∧
        Config.tlsChainVerifies (s.slotBytes 10 97) (h.clientChain ++ h.chainSig) = true
      then { s with mgmt := { s.mgmt with tls := s.mgmt.tls ++ [k] } }.emit (.tls (some k)) else s.emit (.tls none))) ∧
    (∀ h, (∀ i < 4, s.mgmt.tls.contains i = true) → exec (.tlsHandshake h) s = .next (s.emit (.tls none))) ∧
    (∀ d, exec (.ethPacket (.icmpEcho d)) s = .next (s.emit (.eth 0 d))) ∧
    (∀ a, exec (.ethPacket (.neighbourSolicit a)) s = .next (if a = Config.linkLocal ∨ a ∈ s.mgmt.ipv6 then s.emit (.eth 1 (le 6 Config.macAddress.toNat)) else s)) ∧
    (∀ a, exec (.ethPacket (.dhcpOffer a)) s = .next ({ s with mgmt := { s.mgmt with ipv4 := some a } }.emit (.eth 2 (le 4 a.toNat)))) ∧
    (∀ a, ∃ t, exec (.ethPacket (.raPrefix a)) s = .next t ∧ a ∈ t.mgmt.ipv6 ∧ (∀ b ∈ s.mgmt.ipv6, b ∈ t.mgmt.ipv6) ∧ t.time = s.time) ∧
    exec (.ethPacket .tcp6416) s = .next s ∧ exec (.ethPacket .other) s = .next s

/-- Noise and draws (R231, R245, R264 to R270): a failed health test marks its source failed and selects the fallback; a start-up test puts a source in use and
instantiates the DRBG; reseeds, retests and an expired challenge; the factory's fuses take the module to MANUFACTURED.
It rests on choices of the model: log entries 4, 61, 62 and 66. -/
def Obligations.NoiseSources : Prop :=
  ∀ (s : State),
    let e := s.entropy
    (∀ rct, e.primary.state ≠ 0 → e.primary.state ≠ 4 → ∃ t, exec (.healthTestFail true rct) s = .next t ∧
      t.entropy.primary.rctFails = e.primary.rctFails + b2n rct ∧ t.entropy.primary.aptFails = e.primary.aptFails + b2n (!rct) ∧ t.time = s.time ∧
      (e.pattern = none → t.entropy.primary.state = 4 ∧ t.entropy.retestChain = s.now ∧ t.entropy.fallback.state = if e.fallback.state = 4 then 4 else 1) ∧
      (e.pattern.isSome = true → t.entropy.primary.state = e.primary.state ∧ t.entropy.fallback = e.fallback)) ∧
    (∀ rct, e.fallback.state ≠ 0 → e.fallback.state ≠ 4 → ∃ t, exec (.healthTestFail false rct) s = .next t ∧
      t.entropy.fallback.state = (if e.pattern = none then 4 else e.fallback.state) ∧ t.entropy.primary = e.primary) ∧
    (∀ pass, e.primary.state = 4 → e.retestChain + 32768 ≤ s.now → exec (.primaryRetest pass) s = .next { s with entropy := { e with
        retestChain := s.now
        primary := if pass then { e.primary with state := 3 } else e.primary
        selectNext := pass } }) ∧
    (e.primary.state = 1 → ∃ t, exec (.startUpTestEnd true true) s = .next t ∧ t.entropy.primary.state = 2 ∧ t.entropy.fallback = e.fallback ∧ t.entropy.instantiated = true ∧
      (e.instantiated = false → t.slotFilled 6 = true ∧ t.entropy.lastReseed = s.now)) ∧
    (e.fallback.state = 1 → ∃ t, exec (.startUpTestEnd false true) s = .next t ∧ t.entropy.fallback.state = (if e.primary.state = 4 then 2 else 3) ∧ t.entropy.primary = e.primary) ∧
    (∀ p, (if p then e.primary else e.fallback).state = 1 → ∃ t, exec (.startUpTestEnd p false) s = .next t ∧ (if p then t.entropy.primary else t.entropy.fallback).state = 4 ∧
      (s.boot.stage = 1 → (if p then e.fallback else e.primary).state = 4 → t.boot.stage = 0xF0)) ∧
    (∀ ok, e.instantiated = true → (e.reseedDue = true ∨ e.stalled = true ∨ e.lastReseed + 1024 ≤ s.now ∨ 2 ^ 20 ≤ e.requests) → exec (.hubReseed ok) s = .next { s with entropy :=
      if ok = true ∧ (e.pattern.isSome = true ∨ e.primary.state = 2 ∨ e.fallback.state = 2) then { e with lastReseed := s.now, requests := 0, reseedDue := false, stalled := false } else { e with stalled := true } }) ∧
    (∀ p k c x n ok, s.runner p = some (c, x) → (x.on k).generator = some n → k < x.width → n + 1024 ≤ s.now → p < s.parcels.length → c < (s.parcel p).contexts.length →
      k < (s.ctx p c).clusters.length → ∃ t, exec (.clusterGeneratorReseed p k ok) s = .next t ∧
      ((t.ctx p c).on k).generator = (if ok = true ∧ s.canDraw = true then some s.now else none) ∧ t.draws = s.draws + b2n (ok && s.canDraw)) ∧
    (s.flash.lifecycle = 0 → s.canDraw = true → e.live = true → e.pattern = none → ∃ t, exec .factoryFuseProgramming s = .next t ∧ t.flash.lifecycle = 1 ∧ t.faults.order = some (s.now, true) ∧
      t.slotFilled 0 = true ∧ t.slotFilled 8 = true ∧ t.slotFilled 9 = true ∧ t.time = s.time) ∧
    (∀ c n, s.chest.challenge = some (c, n) → n + 67108864 ≤ s.now → exec .fieldChallengeExpiry s = .next { s with chest := { s.chest with challenge := none } })

/-- Bring-up (R277 to R282, R285, R290, R291, R349): Ebxel, the dies, the waves and their tests, the memory devices, early service; agreement makes the module
ready, and disagreement does not.
It rests on choices of the model: log entries 9 and 65. -/
def Obligations.BringUp : Prop :=
  ∀ (s : State),
    (s.power.off = false → s.boot.stage = 1 → s.entropy.instantiated = true → s.boot.railFailed = false →
      ∃ t, exec .ebxelStart s = .next t ∧ t.boot.stage = 0x10 ∧ t.time = (0, 0, true) ∧ t.power.recOpen = true) ∧
    (∀ d, s.bringing = true → d = s.boot.diesUp → d < 4 → s.links.length = 48 → ∃ t, exec (.diePowerUp d) s = .next t ∧ t.boot.diesUp = d + 1 ∧ t.time = s.time ∧
      ∀ l < 48, (t.link l).state = if s.power.off = false ∧ l / 12 = d ∧ (s.link l).cable = true ∧ (s.link l).supply = true then 0 else (s.link l).state) ∧
    (∀ w, s.bringing = true → s.boot.diesUp = 4 → w = s.boot.wavesAwake + 1 → w ≤ 8 → s.clusters.length = 64 → ∃ t, exec (.waveWake w) s = .next t ∧ t.boot.wavesAwake = w ∧ t.time = s.time ∧
      t.boot.waves = (if s.boot.cold = true then s.boot.waves else w) ∧ t.boot.stage = (if s.boot.stage = 0x10 then 0x20 else s.boot.stage) ∧
      ∀ c < 64, (t.cluster c).awake = if waveOf c = w ∧ (s.platCluster c).state ∈ [0, 1, 4] then true else (s.cluster c).awake) ∧
    (∀ w f b, s.bringing = true → s.boot.cold = true → w = s.boot.waves + 1 → w ≤ s.boot.wavesAwake → ∃ t, exec (.waveTestDone w f b) s = .next t ∧ t.boot.waves = w ∧ t.time = s.time ∧
      ∀ c < 64, waveOf c = w → (s.platCluster c).state = 4 → (0, c, if c ∈ f then 2 else 0) ∈ t.plat.pending) ∧
    (∀ d f, s.bringing = true → 0 < s.boot.wavesAwake → d < 16 → d ∉ s.boot.devicesReady → ∃ t, exec (.deviceReady d f) s = .next t ∧ t.boot.devicesReady = s.boot.devicesReady ++ [d] ∧
      (t.boot.stage = s.boot.stage ∨ t.boot.stage = 0x40) ∧ t.time = s.time) ∧
    (s.bringing = true → s.boot.early = true → s.boot.stage = 0x20 → 1 ≤ s.boot.waves → (∀ d ∈ [0, 4, 8, 12], d ∈ s.boot.devicesReady) → ∃ t, exec .earlyService s = .next t ∧
      t.boot.stage = (if s.unitsReady = true then 0x40 else 0x30) ∧ t.time = s.time) ∧
    (s.clock.running = true → s.boot.stage = 0x40 → s.clock.rod = 0 → s.boot.stage40 ≠ s.now →
      (s.boot.judged = true ∨ (∀ l ∈ s.linkMask, (s.link l).state ∈ [1, 3, 4, 5]) ∨ s.boot.stage40 + s.boot.surveyWait ≤ s.now) → ∃ t, exec .topologyJudge s = .next t ∧ t.time = s.time ∧
      (s.disagreement = 0 → t.boot.stage = 0x50 ∧ t.boot.ready = true ∧ t.flash.warmRow = 0 ∧ t.faults.trayCycles = 0) ∧
      (s.disagreement ≠ 0 → t.boot.stage = 0x40 ∧ t.boot.judged = true ∧ t.boot.ready = s.boot.ready))

/-- A step runs the command at the front of the queue, with the queue's rest, and an empty queue idles (the model's own queue: log entry 7).
It rests on choices of the model: log entries 2 and 7. -/
def Obligations.StepRunsFront : Prop :=
  ∀ (s : State) (c : Instr) (l : List Instr), step { s with pending := c :: l } = exec c { s with pending := l } ∧
    step { s with pending := [] } = .next { s with pending := [] }

/-- The state after reset: sound, powered off, nothing running; every drawer, parcel and context is closed or empty (R198, R251, R277).
It rests on choices of the model: log entries 1 and 10. -/
def Obligations.ResetIsSound : Prop :=
  State.reset.Sound ∧ State.reset.pending = [] ∧ State.reset.power.off = true ∧ State.reset.time = (0, 0, false) ∧ State.reset.boot.stage = 0 ∧
    (∀ f ∈ State.reset.fns, f.enable = false ∧ f.ringLog2 = 6 ∧ f.taken = [] ∧ f.events = []) ∧
    (∀ q ∈ State.reset.parcels, q.state = 0 ∧ ∀ x ∈ q.contexts, x.state = 0) ∧ State.reset.flash.lifecycle = 0 ∧ State.reset.chest.slots = []

/-- Every step keeps the units, the queues' bounds (R203, R206, R321, R330, R338), and the canonical form of every memory and table.
It rests on choices of the model: log entry 2. -/
def Obligations.StepKeepsSound : Prop :=
  ∀ (s t : State), s.Sound → step s = .next t → t.Sound

/-- The life cycle moves only along the transitions of Table 10.3 (R231), and only by an update message or by the factory's fuse programming.
It rests on choices of the model: log entry 62. -/
def Obligations.LifeCycleByTable : Prop :=
  ∀ (i : Instr) (s t : State), s.Sound → exec i s = .next t → t.flash.lifecycle = s.flash.lifecycle ∨
    (lifeMay s.flash.lifecycle t.flash.lifecycle ∧ (i = .factoryFuseProgramming ∨ ∃ src, i = .install src ∨ i = .destroy src ∨ i = .lifecycle src ∨ i = .authority src ∨
      i = .modelKey src ∨ i = .fieldChallenge src ∨ i = .fieldOpen src))

/-- A memory whose unlisted bytes read as zero, and a parcel's external memory outside its model window (R47, R48, R250, R256): bytes written are read back,
every other byte reads as before, and the canonical form stays.
It rests on choices of the model: log entry 11. -/
def Obligations.BytesReadBack : Prop :=
  (∀ (m : Memory) (a : Nat) (b : Bytes), Memory.wf true m = true → Memory.wf true (Memory.write0 a b m) = true ∧ Memory.read0 a b.length (Memory.write0 a b m) = b ∧
    ∀ k n, (k + n ≤ a ∨ a + b.length ≤ k) → Memory.read0 k n (Memory.write0 a b m) = Memory.read0 k n m) ∧
  (∀ (s : State) (raw : Bool) (p a : Nat) (b : Bytes), p < s.parcels.length → (∀ i < b.length, s.inWindow p (a + i) = false) → rising (s.parcel p).mem = true →
    (s.extWrite raw p a b).extRead p a b.length = b ∧ (∀ k, (k < a ∨ a + b.length ≤ k) → (s.extWrite raw p a b).extRaw p k = s.extRaw p k) ∧
    (∀ q ≠ p, (s.extWrite raw p a b).parcel q = s.parcel q) ∧ rising ((s.extWrite raw p a b).parcel p).mem = true ∧
    s.extWrite raw p a b = { s with parcels := (s.extWrite raw p a b).parcels })

/-- The idle ratio (R43): with a ratio `i` of 0 to 63, exactly `i` of any 64 consecutive chains are idle. -/
def Obligations.IdlePattern : Prop :=
  ∀ (n i : Nat), i ≤ 63 → (List.range 64).countP (fun d => idleChain (n + d) i) = i ∧ ∀ m, idleChain m i = true ↔ (m % 64 * i) % 64 < i

/-- `fw.commit` (R340): it raises the floor to the running copy's counter in stage 0x50 when that counter is above the floor, and is refused otherwise with
`ST_FW_STATE`, with nothing changed. -/
def Obligations.CommitRaisesFloor : Prop :=
  ∀ (s : State) (m : MgmtMsg), s.Hears m → m.body = [] →
    (s.boot.stage = 0x50 ∧ s.flash.fwFloor < s.boot.fwCounter → exec (.fwCommit m) s =
      .next ({ s with flash := { s.flash with fwFloor := s.boot.fwCounter } }.answerMgmt m 0x23 stOk (le 4 s.boot.fwCounter ++ zeros 4))) ∧
    (¬(s.boot.stage = 0x50 ∧ s.flash.fwFloor < s.boot.fwCounter) → exec (.fwCommit m) s = .next (s.answerMgmt m 0x23 stFwState []))

/-- The effective cap (R333): the lowest of the provisioned limit, the standing cap and the schedule cap in force, of which a zero imposes nothing; a cap
outside the limits is refused and changes nothing; a `mgmt.cap` that is taken is answered with the first chain under the new ratio, and under power-fail
handling it is void. -/
def Obligations.LowestCapBinds : Prop :=
  ∀ (s : State) (m : MgmtMsg),
    (s.effectiveCap ≤ limitWOf s.flash.variant ∧ (s.power.standingCap ≠ 0 → s.effectiveCap ≤ s.power.standingCap) ∧ (s.power.schedCap ≠ 0 → s.effectiveCap ≤ s.power.schedCap) ∧
      (s.effectiveCap = limitWOf s.flash.variant ∨ (s.power.standingCap ≠ 0 ∧ s.effectiveCap = s.power.standingCap) ∨ (s.power.schedCap ≠ 0 ∧ s.effectiveCap = s.power.schedCap))) ∧
    (∀ cap, cap = fld 0 2 m.body → s.Hears m → m.body.length = 8 → allZero (m.body.drop 2) = true →
      (s.power.fail = true → exec (.mgmtCap m) s = .next (s.answerMgmt m 0x10 stPowerFail [])) ∧
      (s.power.fail = false → cap ≠ 0 ∧ (limitWOf s.flash.variant < cap ∨ cap < capFloor s.flash.variant) → exec (.mgmtCap m) s = .next (s.answerMgmt m 0x10 stCapRange [])) ∧
      (s.power.fail = false → ¬(cap ≠ 0 ∧ (limitWOf s.flash.variant < cap ∨ cap < capFloor s.flash.variant)) → ∃ (v : State) (r : Nat), exec (.mgmtCap m) s = .next (v.answerMgmt m 0x10 stOk (cat [le 8 (s.now + 1), le 1 r, zeros 7])) ∧
        v.power.standingCap = cap ∧ v.clock.pendRatio = some r ∧ v.time = s.time ∧ v.power.schedule = s.power.schedule)) ∧
    (∀ l, l = ((chunks 16 64 (m.body.drop 8)).map readEntry).map (·.1) → s.Hears m → 8 ≤ m.body.length → fld 0 4 m.body ≤ 64 → m.body.length = 8 + 16 * fld 0 4 m.body → allZero (cut 4 4 m.body) = true →
      (∀ e ∈ (chunks 16 64 (m.body.drop 8)).map readEntry, e.2 = false ∧ e.1.tariff < 8) → ascending l = true → (∀ e ∈ l.head?, s.now + 2 ≤ e.startChain) →
      ((∃ e ∈ l, e.capW ≠ 0 ∧ (limitWOf s.flash.variant < e.capW ∨ e.capW < capFloor s.flash.variant)) → exec (.mgmtSchedule m) s = .next (s.answerMgmt m 0x11 stCapRange [])) ∧
      ((∀ e ∈ l, e.capW = 0 ∨ (capFloor s.flash.variant ≤ e.capW ∧ e.capW ≤ limitWOf s.flash.variant)) → exec (.mgmtSchedule m) s =
        .next ({ s with power := { s.power with schedule := l } }.answerMgmt m 0x11 stOk [])))

/-- The chain timer (R23, R26): no command moves it but those that the spec gives that effect: the boundaries of chains and rods, the correction of the chain
number, the start and the stop of the power stage, and a module reset.
It rests on choices of the model: log entries 13 and 14. -/
def Obligations.TimerMoves : Prop :=
  ∀ (i : Instr) (s t : State), i.movesTimer = false → exec i s = .next t → t.time = s.time
end

