-- ==== Sys2Proof/Laws/State.lean ====
section
/-! SUPPORT. What each update of the state leaves alone: one lemma per update and per field or reading, true by definition, so that no proof
unfolds a record update. -/

set_option linter.unusedTactic false
set_option linter.unreachableTactic false
set_option linter.unusedVariables false
set_option linter.unusedSimpArgs false
set_option Elab.async false

namespace Sys2Proof.Machine

/-! `State.modFn`. -/

@[simp] theorem State.modFn_pending (m : Nat) (g : Fn → Fn) (s : State) : (s.modFn m g).pending = s.pending := rfl
@[simp] theorem State.modFn_draws (m : Nat) (g : Fn → Fn) (s : State) : (s.modFn m g).draws = s.draws := rfl
@[simp] theorem State.modFn_outbox (m : Nat) (g : Fn → Fn) (s : State) : (s.modFn m g).outbox = s.outbox := rfl
@[simp] theorem State.modFn_clock (m : Nat) (g : Fn → Fn) (s : State) : (s.modFn m g).clock = s.clock := rfl
@[simp] theorem State.modFn_boot (m : Nat) (g : Fn → Fn) (s : State) : (s.modFn m g).boot = s.boot := rfl
@[simp] theorem State.modFn_flash (m : Nat) (g : Fn → Fn) (s : State) : (s.modFn m g).flash = s.flash := rfl
@[simp] theorem State.modFn_plat (m : Nat) (g : Fn → Fn) (s : State) : (s.modFn m g).plat = s.plat := rfl
@[simp] theorem State.modFn_host (m : Nat) (g : Fn → Fn) (s : State) : (s.modFn m g).host = s.host := rfl
@[simp] theorem State.modFn_parcels (m : Nat) (g : Fn → Fn) (s : State) : (s.modFn m g).parcels = s.parcels := rfl
@[simp] theorem State.modFn_clusters (m : Nat) (g : Fn → Fn) (s : State) : (s.modFn m g).clusters = s.clusters := rfl
@[simp] theorem State.modFn_links (m : Nat) (g : Fn → Fn) (s : State) : (s.modFn m g).links = s.links := rfl
@[simp] theorem State.modFn_fabric (m : Nat) (g : Fn → Fn) (s : State) : (s.modFn m g).fabric = s.fabric := rfl
@[simp] theorem State.modFn_marker (m : Nat) (g : Fn → Fn) (s : State) : (s.modFn m g).marker = s.marker := rfl
@[simp] theorem State.modFn_chest (m : Nat) (g : Fn → Fn) (s : State) : (s.modFn m g).chest = s.chest := rfl
@[simp] theorem State.modFn_entropy (m : Nat) (g : Fn → Fn) (s : State) : (s.modFn m g).entropy = s.entropy := rfl
@[simp] theorem State.modFn_power (m : Nat) (g : Fn → Fn) (s : State) : (s.modFn m g).power = s.power := rfl
@[simp] theorem State.modFn_smbus (m : Nat) (g : Fn → Fn) (s : State) : (s.modFn m g).smbus = s.smbus := rfl
@[simp] theorem State.modFn_mgmt (m : Nat) (g : Fn → Fn) (s : State) : (s.modFn m g).mgmt = s.mgmt := rfl
@[simp] theorem State.modFn_faults (m : Nat) (g : Fn → Fn) (s : State) : (s.modFn m g).faults = s.faults := rfl
@[simp] theorem State.modFn_longs (m : Nat) (g : Fn → Fn) (s : State) : (s.modFn m g).longs = s.longs := rfl
@[simp] theorem State.modFn_parcel (m : Nat) (g : Fn → Fn) (n : Nat) (s : State) : (s.modFn m g).parcel n = s.parcel n := rfl
@[simp] theorem State.modFn_ctx (m : Nat) (g : Fn → Fn) (n c : Nat) (s : State) : (s.modFn m g).ctx n c = s.ctx n c := rfl
@[simp] theorem State.modFn_cluster (m : Nat) (g : Fn → Fn) (n : Nat) (s : State) : (s.modFn m g).cluster n = s.cluster n := rfl
@[simp] theorem State.modFn_link (m : Nat) (g : Fn → Fn) (n : Nat) (s : State) : (s.modFn m g).link n = s.link n := rfl
@[simp] theorem State.modFn_conn (m : Nat) (g : Fn → Fn) (n : Nat) (s : State) : (s.modFn m g).conn n = s.conn n := rfl
@[simp] theorem State.modFn_connOpt (m : Nat) (g : Fn → Fn) (n : Nat) (s : State) : (s.modFn m g).conn? n = s.conn? n := rfl
@[simp] theorem State.modFn_ease (m : Nat) (g : Fn → Fn) (n : Nat) (s : State) : (s.modFn m g).ease n = s.ease n := rfl
@[simp] theorem State.modFn_slotVal (m : Nat) (g : Fn → Fn) (n : Nat) (s : State) : (s.modFn m g).slotVal n = s.slotVal n := rfl
@[simp] theorem State.modFn_slotAttrs (m : Nat) (g : Fn → Fn) (n : Nat) (s : State) : (s.modFn m g).slotAttrs n = s.slotAttrs n := rfl
@[simp] theorem State.modFn_slotFilled (m : Nat) (g : Fn → Fn) (n : Nat) (s : State) : (s.modFn m g).slotFilled n = s.slotFilled n := rfl
@[simp] theorem State.modFn_platCluster (m : Nat) (g : Fn → Fn) (n : Nat) (s : State) : (s.modFn m g).platCluster n = s.platCluster n := rfl
@[simp] theorem State.modFn_now (m : Nat) (g : Fn → Fn) (s : State) : (s.modFn m g).now = s.now := rfl
@[simp] theorem State.modFn_openParcels (m : Nat) (g : Fn → Fn) (s : State) : (s.modFn m g).openParcels = s.openParcels := rfl
@[simp] theorem State.modFn_ownerOf (m : Nat) (g : Fn → Fn) (n : Nat) (s : State) : (s.modFn m g).ownerOf n = s.ownerOf n := rfl
@[simp] theorem State.modFn_subchOwner (m : Nat) (g : Fn → Fn) (n : Nat) (s : State) : (s.modFn m g).subchOwner n = s.subchOwner n := rfl
@[simp] theorem State.modFn_parcelsMax (m : Nat) (g : Fn → Fn) (s : State) : (s.modFn m g).parcelsMax = s.parcelsMax := rfl
@[simp] theorem State.modFn_enduring (m : Nat) (g : Fn → Fn) (s : State) : (s.modFn m g).enduring = s.enduring := rfl
@[simp] theorem State.modFn_clustersInUse (m : Nat) (g : Fn → Fn) (s : State) : (s.modFn m g).clustersInUse = s.clustersInUse := rfl
@[simp] theorem State.modFn_subchsInUse (m : Nat) (g : Fn → Fn) (s : State) : (s.modFn m g).subchsInUse = s.subchsInUse := rfl
@[simp] theorem State.modFn_fresh (m : Nat) (g : Fn → Fn) (s : State) : (s.modFn m g).fresh = s.fresh := rfl
@[simp] theorem State.modFn_stake (m : Nat) (g : Fn → Fn) (n c i : Nat) (s : State) : (s.modFn m g).stake n c i = s.stake n c i := rfl
@[simp] theorem State.modFn_stakeVal (m : Nat) (g : Fn → Fn) (n i : Nat) (s : State) : (s.modFn m g).stakeVal n i = s.stakeVal n i := rfl
@[simp] theorem State.modFn_lead (m : Nat) (g : Fn → Fn) (n c : Nat) (s : State) : (s.modFn m g).lead n c = s.lead n c := rfl
@[simp] theorem State.modFn_live (m : Nat) (g : Fn → Fn) (n c : Nat) (s : State) : (s.modFn m g).live n c = s.live n c := rfl

/-! `State.modParcel`. -/

@[simp] theorem State.modParcel_pending (m : Nat) (g : Parcel → Parcel) (s : State) : (s.modParcel m g).pending = s.pending := rfl
@[simp] theorem State.modParcel_draws (m : Nat) (g : Parcel → Parcel) (s : State) : (s.modParcel m g).draws = s.draws := rfl
@[simp] theorem State.modParcel_outbox (m : Nat) (g : Parcel → Parcel) (s : State) : (s.modParcel m g).outbox = s.outbox := rfl
@[simp] theorem State.modParcel_clock (m : Nat) (g : Parcel → Parcel) (s : State) : (s.modParcel m g).clock = s.clock := rfl
@[simp] theorem State.modParcel_boot (m : Nat) (g : Parcel → Parcel) (s : State) : (s.modParcel m g).boot = s.boot := rfl
@[simp] theorem State.modParcel_flash (m : Nat) (g : Parcel → Parcel) (s : State) : (s.modParcel m g).flash = s.flash := rfl
@[simp] theorem State.modParcel_plat (m : Nat) (g : Parcel → Parcel) (s : State) : (s.modParcel m g).plat = s.plat := rfl
@[simp] theorem State.modParcel_fns (m : Nat) (g : Parcel → Parcel) (s : State) : (s.modParcel m g).fns = s.fns := rfl
@[simp] theorem State.modParcel_host (m : Nat) (g : Parcel → Parcel) (s : State) : (s.modParcel m g).host = s.host := rfl
@[simp] theorem State.modParcel_clusters (m : Nat) (g : Parcel → Parcel) (s : State) : (s.modParcel m g).clusters = s.clusters := rfl
@[simp] theorem State.modParcel_links (m : Nat) (g : Parcel → Parcel) (s : State) : (s.modParcel m g).links = s.links := rfl
@[simp] theorem State.modParcel_fabric (m : Nat) (g : Parcel → Parcel) (s : State) : (s.modParcel m g).fabric = s.fabric := rfl
@[simp] theorem State.modParcel_marker (m : Nat) (g : Parcel → Parcel) (s : State) : (s.modParcel m g).marker = s.marker := rfl
@[simp] theorem State.modParcel_chest (m : Nat) (g : Parcel → Parcel) (s : State) : (s.modParcel m g).chest = s.chest := rfl
@[simp] theorem State.modParcel_entropy (m : Nat) (g : Parcel → Parcel) (s : State) : (s.modParcel m g).entropy = s.entropy := rfl
@[simp] theorem State.modParcel_power (m : Nat) (g : Parcel → Parcel) (s : State) : (s.modParcel m g).power = s.power := rfl
@[simp] theorem State.modParcel_smbus (m : Nat) (g : Parcel → Parcel) (s : State) : (s.modParcel m g).smbus = s.smbus := rfl
@[simp] theorem State.modParcel_mgmt (m : Nat) (g : Parcel → Parcel) (s : State) : (s.modParcel m g).mgmt = s.mgmt := rfl
@[simp] theorem State.modParcel_faults (m : Nat) (g : Parcel → Parcel) (s : State) : (s.modParcel m g).faults = s.faults := rfl
@[simp] theorem State.modParcel_longs (m : Nat) (g : Parcel → Parcel) (s : State) : (s.modParcel m g).longs = s.longs := rfl
@[simp] theorem State.modParcel_fn (m : Nat) (g : Parcel → Parcel) (n : Nat) (s : State) : (s.modParcel m g).fn n = s.fn n := rfl
@[simp] theorem State.modParcel_cluster (m : Nat) (g : Parcel → Parcel) (n : Nat) (s : State) : (s.modParcel m g).cluster n = s.cluster n := rfl
@[simp] theorem State.modParcel_link (m : Nat) (g : Parcel → Parcel) (n : Nat) (s : State) : (s.modParcel m g).link n = s.link n := rfl
@[simp] theorem State.modParcel_conn (m : Nat) (g : Parcel → Parcel) (n : Nat) (s : State) : (s.modParcel m g).conn n = s.conn n := rfl
@[simp] theorem State.modParcel_connOpt (m : Nat) (g : Parcel → Parcel) (n : Nat) (s : State) : (s.modParcel m g).conn? n = s.conn? n := rfl
@[simp] theorem State.modParcel_ease (m : Nat) (g : Parcel → Parcel) (n : Nat) (s : State) : (s.modParcel m g).ease n = s.ease n := rfl
@[simp] theorem State.modParcel_slotVal (m : Nat) (g : Parcel → Parcel) (n : Nat) (s : State) : (s.modParcel m g).slotVal n = s.slotVal n := rfl
@[simp] theorem State.modParcel_slotAttrs (m : Nat) (g : Parcel → Parcel) (n : Nat) (s : State) : (s.modParcel m g).slotAttrs n = s.slotAttrs n := rfl
@[simp] theorem State.modParcel_slotFilled (m : Nat) (g : Parcel → Parcel) (n : Nat) (s : State) : (s.modParcel m g).slotFilled n = s.slotFilled n := rfl
@[simp] theorem State.modParcel_platCluster (m : Nat) (g : Parcel → Parcel) (n : Nat) (s : State) : (s.modParcel m g).platCluster n = s.platCluster n := rfl
@[simp] theorem State.modParcel_now (m : Nat) (g : Parcel → Parcel) (s : State) : (s.modParcel m g).now = s.now := rfl
@[simp] theorem State.modParcel_parcelsMax (m : Nat) (g : Parcel → Parcel) (s : State) : (s.modParcel m g).parcelsMax = s.parcelsMax := rfl
@[simp] theorem State.modParcel_enduring (m : Nat) (g : Parcel → Parcel) (s : State) : (s.modParcel m g).enduring = s.enduring := rfl
@[simp] theorem State.modParcel_clustersInUse (m : Nat) (g : Parcel → Parcel) (s : State) : (s.modParcel m g).clustersInUse = s.clustersInUse := rfl
@[simp] theorem State.modParcel_subchsInUse (m : Nat) (g : Parcel → Parcel) (s : State) : (s.modParcel m g).subchsInUse = s.subchsInUse := rfl
@[simp] theorem State.modParcel_fresh (m : Nat) (g : Parcel → Parcel) (s : State) : (s.modParcel m g).fresh = s.fresh := rfl

/-! `State.modCtx`. -/

@[simp] theorem State.modCtx_pending (m x : Nat) (g : Context → Context) (s : State) : (s.modCtx m x g).pending = s.pending := rfl
@[simp] theorem State.modCtx_draws (m x : Nat) (g : Context → Context) (s : State) : (s.modCtx m x g).draws = s.draws := rfl
@[simp] theorem State.modCtx_outbox (m x : Nat) (g : Context → Context) (s : State) : (s.modCtx m x g).outbox = s.outbox := rfl
@[simp] theorem State.modCtx_clock (m x : Nat) (g : Context → Context) (s : State) : (s.modCtx m x g).clock = s.clock := rfl
@[simp] theorem State.modCtx_boot (m x : Nat) (g : Context → Context) (s : State) : (s.modCtx m x g).boot = s.boot := rfl
@[simp] theorem State.modCtx_flash (m x : Nat) (g : Context → Context) (s : State) : (s.modCtx m x g).flash = s.flash := rfl
@[simp] theorem State.modCtx_plat (m x : Nat) (g : Context → Context) (s : State) : (s.modCtx m x g).plat = s.plat := rfl
@[simp] theorem State.modCtx_fns (m x : Nat) (g : Context → Context) (s : State) : (s.modCtx m x g).fns = s.fns := rfl
@[simp] theorem State.modCtx_host (m x : Nat) (g : Context → Context) (s : State) : (s.modCtx m x g).host = s.host := rfl
@[simp] theorem State.modCtx_clusters (m x : Nat) (g : Context → Context) (s : State) : (s.modCtx m x g).clusters = s.clusters := rfl
@[simp] theorem State.modCtx_links (m x : Nat) (g : Context → Context) (s : State) : (s.modCtx m x g).links = s.links := rfl
@[simp] theorem State.modCtx_fabric (m x : Nat) (g : Context → Context) (s : State) : (s.modCtx m x g).fabric = s.fabric := rfl
@[simp] theorem State.modCtx_marker (m x : Nat) (g : Context → Context) (s : State) : (s.modCtx m x g).marker = s.marker := rfl
@[simp] theorem State.modCtx_chest (m x : Nat) (g : Context → Context) (s : State) : (s.modCtx m x g).chest = s.chest := rfl
@[simp] theorem State.modCtx_entropy (m x : Nat) (g : Context → Context) (s : State) : (s.modCtx m x g).entropy = s.entropy := rfl
@[simp] theorem State.modCtx_power (m x : Nat) (g : Context → Context) (s : State) : (s.modCtx m x g).power = s.power := rfl
@[simp] theorem State.modCtx_smbus (m x : Nat) (g : Context → Context) (s : State) : (s.modCtx m x g).smbus = s.smbus := rfl
@[simp] theorem State.modCtx_mgmt (m x : Nat) (g : Context → Context) (s : State) : (s.modCtx m x g).mgmt = s.mgmt := rfl
@[simp] theorem State.modCtx_faults (m x : Nat) (g : Context → Context) (s : State) : (s.modCtx m x g).faults = s.faults := rfl
@[simp] theorem State.modCtx_longs (m x : Nat) (g : Context → Context) (s : State) : (s.modCtx m x g).longs = s.longs := rfl
@[simp] theorem State.modCtx_fn (m x : Nat) (g : Context → Context) (n : Nat) (s : State) : (s.modCtx m x g).fn n = s.fn n := rfl
@[simp] theorem State.modCtx_cluster (m x : Nat) (g : Context → Context) (n : Nat) (s : State) : (s.modCtx m x g).cluster n = s.cluster n := rfl
@[simp] theorem State.modCtx_link (m x : Nat) (g : Context → Context) (n : Nat) (s : State) : (s.modCtx m x g).link n = s.link n := rfl
@[simp] theorem State.modCtx_conn (m x : Nat) (g : Context → Context) (n : Nat) (s : State) : (s.modCtx m x g).conn n = s.conn n := rfl
@[simp] theorem State.modCtx_connOpt (m x : Nat) (g : Context → Context) (n : Nat) (s : State) : (s.modCtx m x g).conn? n = s.conn? n := rfl
@[simp] theorem State.modCtx_ease (m x : Nat) (g : Context → Context) (n : Nat) (s : State) : (s.modCtx m x g).ease n = s.ease n := rfl
@[simp] theorem State.modCtx_slotVal (m x : Nat) (g : Context → Context) (n : Nat) (s : State) : (s.modCtx m x g).slotVal n = s.slotVal n := rfl
@[simp] theorem State.modCtx_slotAttrs (m x : Nat) (g : Context → Context) (n : Nat) (s : State) : (s.modCtx m x g).slotAttrs n = s.slotAttrs n := rfl
@[simp] theorem State.modCtx_slotFilled (m x : Nat) (g : Context → Context) (n : Nat) (s : State) : (s.modCtx m x g).slotFilled n = s.slotFilled n := rfl
@[simp] theorem State.modCtx_platCluster (m x : Nat) (g : Context → Context) (n : Nat) (s : State) : (s.modCtx m x g).platCluster n = s.platCluster n := rfl
@[simp] theorem State.modCtx_now (m x : Nat) (g : Context → Context) (s : State) : (s.modCtx m x g).now = s.now := rfl
@[simp] theorem State.modCtx_parcelsMax (m x : Nat) (g : Context → Context) (s : State) : (s.modCtx m x g).parcelsMax = s.parcelsMax := rfl
@[simp] theorem State.modCtx_enduring (m x : Nat) (g : Context → Context) (s : State) : (s.modCtx m x g).enduring = s.enduring := rfl
@[simp] theorem State.modCtx_clustersInUse (m x : Nat) (g : Context → Context) (s : State) : (s.modCtx m x g).clustersInUse = s.clustersInUse := rfl
@[simp] theorem State.modCtx_subchsInUse (m x : Nat) (g : Context → Context) (s : State) : (s.modCtx m x g).subchsInUse = s.subchsInUse := rfl
@[simp] theorem State.modCtx_fresh (m x : Nat) (g : Context → Context) (s : State) : (s.modCtx m x g).fresh = s.fresh := rfl

/-! `State.modCluster`. -/

@[simp] theorem State.modCluster_pending (m : Nat) (g : Cluster → Cluster) (s : State) : (s.modCluster m g).pending = s.pending := rfl
@[simp] theorem State.modCluster_draws (m : Nat) (g : Cluster → Cluster) (s : State) : (s.modCluster m g).draws = s.draws := rfl
@[simp] theorem State.modCluster_outbox (m : Nat) (g : Cluster → Cluster) (s : State) : (s.modCluster m g).outbox = s.outbox := rfl
@[simp] theorem State.modCluster_clock (m : Nat) (g : Cluster → Cluster) (s : State) : (s.modCluster m g).clock = s.clock := rfl
@[simp] theorem State.modCluster_boot (m : Nat) (g : Cluster → Cluster) (s : State) : (s.modCluster m g).boot = s.boot := rfl
@[simp] theorem State.modCluster_flash (m : Nat) (g : Cluster → Cluster) (s : State) : (s.modCluster m g).flash = s.flash := rfl
@[simp] theorem State.modCluster_plat (m : Nat) (g : Cluster → Cluster) (s : State) : (s.modCluster m g).plat = s.plat := rfl
@[simp] theorem State.modCluster_fns (m : Nat) (g : Cluster → Cluster) (s : State) : (s.modCluster m g).fns = s.fns := rfl
@[simp] theorem State.modCluster_host (m : Nat) (g : Cluster → Cluster) (s : State) : (s.modCluster m g).host = s.host := rfl
@[simp] theorem State.modCluster_parcels (m : Nat) (g : Cluster → Cluster) (s : State) : (s.modCluster m g).parcels = s.parcels := rfl
@[simp] theorem State.modCluster_links (m : Nat) (g : Cluster → Cluster) (s : State) : (s.modCluster m g).links = s.links := rfl
@[simp] theorem State.modCluster_fabric (m : Nat) (g : Cluster → Cluster) (s : State) : (s.modCluster m g).fabric = s.fabric := rfl
@[simp] theorem State.modCluster_marker (m : Nat) (g : Cluster → Cluster) (s : State) : (s.modCluster m g).marker = s.marker := rfl
@[simp] theorem State.modCluster_chest (m : Nat) (g : Cluster → Cluster) (s : State) : (s.modCluster m g).chest = s.chest := rfl
@[simp] theorem State.modCluster_entropy (m : Nat) (g : Cluster → Cluster) (s : State) : (s.modCluster m g).entropy = s.entropy := rfl
@[simp] theorem State.modCluster_power (m : Nat) (g : Cluster → Cluster) (s : State) : (s.modCluster m g).power = s.power := rfl
@[simp] theorem State.modCluster_smbus (m : Nat) (g : Cluster → Cluster) (s : State) : (s.modCluster m g).smbus = s.smbus := rfl
@[simp] theorem State.modCluster_mgmt (m : Nat) (g : Cluster → Cluster) (s : State) : (s.modCluster m g).mgmt = s.mgmt := rfl
@[simp] theorem State.modCluster_faults (m : Nat) (g : Cluster → Cluster) (s : State) : (s.modCluster m g).faults = s.faults := rfl
@[simp] theorem State.modCluster_longs (m : Nat) (g : Cluster → Cluster) (s : State) : (s.modCluster m g).longs = s.longs := rfl
@[simp] theorem State.modCluster_fn (m : Nat) (g : Cluster → Cluster) (n : Nat) (s : State) : (s.modCluster m g).fn n = s.fn n := rfl
@[simp] theorem State.modCluster_parcel (m : Nat) (g : Cluster → Cluster) (n : Nat) (s : State) : (s.modCluster m g).parcel n = s.parcel n := rfl
@[simp] theorem State.modCluster_ctx (m : Nat) (g : Cluster → Cluster) (n c : Nat) (s : State) : (s.modCluster m g).ctx n c = s.ctx n c := rfl
@[simp] theorem State.modCluster_link (m : Nat) (g : Cluster → Cluster) (n : Nat) (s : State) : (s.modCluster m g).link n = s.link n := rfl
@[simp] theorem State.modCluster_conn (m : Nat) (g : Cluster → Cluster) (n : Nat) (s : State) : (s.modCluster m g).conn n = s.conn n := rfl
@[simp] theorem State.modCluster_connOpt (m : Nat) (g : Cluster → Cluster) (n : Nat) (s : State) : (s.modCluster m g).conn? n = s.conn? n := rfl
@[simp] theorem State.modCluster_ease (m : Nat) (g : Cluster → Cluster) (n : Nat) (s : State) : (s.modCluster m g).ease n = s.ease n := rfl
@[simp] theorem State.modCluster_slotVal (m : Nat) (g : Cluster → Cluster) (n : Nat) (s : State) : (s.modCluster m g).slotVal n = s.slotVal n := rfl
@[simp] theorem State.modCluster_slotAttrs (m : Nat) (g : Cluster → Cluster) (n : Nat) (s : State) : (s.modCluster m g).slotAttrs n = s.slotAttrs n := rfl
@[simp] theorem State.modCluster_slotFilled (m : Nat) (g : Cluster → Cluster) (n : Nat) (s : State) : (s.modCluster m g).slotFilled n = s.slotFilled n := rfl
@[simp] theorem State.modCluster_platCluster (m : Nat) (g : Cluster → Cluster) (n : Nat) (s : State) : (s.modCluster m g).platCluster n = s.platCluster n := rfl
@[simp] theorem State.modCluster_now (m : Nat) (g : Cluster → Cluster) (s : State) : (s.modCluster m g).now = s.now := rfl
@[simp] theorem State.modCluster_openParcels (m : Nat) (g : Cluster → Cluster) (s : State) : (s.modCluster m g).openParcels = s.openParcels := rfl
@[simp] theorem State.modCluster_ownerOf (m : Nat) (g : Cluster → Cluster) (n : Nat) (s : State) : (s.modCluster m g).ownerOf n = s.ownerOf n := rfl
@[simp] theorem State.modCluster_subchOwner (m : Nat) (g : Cluster → Cluster) (n : Nat) (s : State) : (s.modCluster m g).subchOwner n = s.subchOwner n := rfl
@[simp] theorem State.modCluster_parcelsMax (m : Nat) (g : Cluster → Cluster) (s : State) : (s.modCluster m g).parcelsMax = s.parcelsMax := rfl
@[simp] theorem State.modCluster_enduring (m : Nat) (g : Cluster → Cluster) (s : State) : (s.modCluster m g).enduring = s.enduring := rfl
@[simp] theorem State.modCluster_clustersInUse (m : Nat) (g : Cluster → Cluster) (s : State) : (s.modCluster m g).clustersInUse = s.clustersInUse := rfl
@[simp] theorem State.modCluster_subchsInUse (m : Nat) (g : Cluster → Cluster) (s : State) : (s.modCluster m g).subchsInUse = s.subchsInUse := rfl
@[simp] theorem State.modCluster_fresh (m : Nat) (g : Cluster → Cluster) (s : State) : (s.modCluster m g).fresh = s.fresh := rfl

/-! `State.modLink`. -/

@[simp] theorem State.modLink_pending (m : Nat) (g : Link → Link) (s : State) : (s.modLink m g).pending = s.pending := rfl
@[simp] theorem State.modLink_draws (m : Nat) (g : Link → Link) (s : State) : (s.modLink m g).draws = s.draws := rfl
@[simp] theorem State.modLink_outbox (m : Nat) (g : Link → Link) (s : State) : (s.modLink m g).outbox = s.outbox := rfl
@[simp] theorem State.modLink_clock (m : Nat) (g : Link → Link) (s : State) : (s.modLink m g).clock = s.clock := rfl
@[simp] theorem State.modLink_boot (m : Nat) (g : Link → Link) (s : State) : (s.modLink m g).boot = s.boot := rfl
@[simp] theorem State.modLink_flash (m : Nat) (g : Link → Link) (s : State) : (s.modLink m g).flash = s.flash := rfl
@[simp] theorem State.modLink_plat (m : Nat) (g : Link → Link) (s : State) : (s.modLink m g).plat = s.plat := rfl
@[simp] theorem State.modLink_fns (m : Nat) (g : Link → Link) (s : State) : (s.modLink m g).fns = s.fns := rfl
@[simp] theorem State.modLink_host (m : Nat) (g : Link → Link) (s : State) : (s.modLink m g).host = s.host := rfl
@[simp] theorem State.modLink_parcels (m : Nat) (g : Link → Link) (s : State) : (s.modLink m g).parcels = s.parcels := rfl
@[simp] theorem State.modLink_clusters (m : Nat) (g : Link → Link) (s : State) : (s.modLink m g).clusters = s.clusters := rfl
@[simp] theorem State.modLink_fabric (m : Nat) (g : Link → Link) (s : State) : (s.modLink m g).fabric = s.fabric := rfl
@[simp] theorem State.modLink_marker (m : Nat) (g : Link → Link) (s : State) : (s.modLink m g).marker = s.marker := rfl
@[simp] theorem State.modLink_chest (m : Nat) (g : Link → Link) (s : State) : (s.modLink m g).chest = s.chest := rfl
@[simp] theorem State.modLink_entropy (m : Nat) (g : Link → Link) (s : State) : (s.modLink m g).entropy = s.entropy := rfl
@[simp] theorem State.modLink_power (m : Nat) (g : Link → Link) (s : State) : (s.modLink m g).power = s.power := rfl
@[simp] theorem State.modLink_smbus (m : Nat) (g : Link → Link) (s : State) : (s.modLink m g).smbus = s.smbus := rfl
@[simp] theorem State.modLink_mgmt (m : Nat) (g : Link → Link) (s : State) : (s.modLink m g).mgmt = s.mgmt := rfl
@[simp] theorem State.modLink_faults (m : Nat) (g : Link → Link) (s : State) : (s.modLink m g).faults = s.faults := rfl
@[simp] theorem State.modLink_longs (m : Nat) (g : Link → Link) (s : State) : (s.modLink m g).longs = s.longs := rfl
@[simp] theorem State.modLink_fn (m : Nat) (g : Link → Link) (n : Nat) (s : State) : (s.modLink m g).fn n = s.fn n := rfl
@[simp] theorem State.modLink_parcel (m : Nat) (g : Link → Link) (n : Nat) (s : State) : (s.modLink m g).parcel n = s.parcel n := rfl
@[simp] theorem State.modLink_ctx (m : Nat) (g : Link → Link) (n c : Nat) (s : State) : (s.modLink m g).ctx n c = s.ctx n c := rfl
@[simp] theorem State.modLink_cluster (m : Nat) (g : Link → Link) (n : Nat) (s : State) : (s.modLink m g).cluster n = s.cluster n := rfl
@[simp] theorem State.modLink_conn (m : Nat) (g : Link → Link) (n : Nat) (s : State) : (s.modLink m g).conn n = s.conn n := rfl
@[simp] theorem State.modLink_connOpt (m : Nat) (g : Link → Link) (n : Nat) (s : State) : (s.modLink m g).conn? n = s.conn? n := rfl
@[simp] theorem State.modLink_ease (m : Nat) (g : Link → Link) (n : Nat) (s : State) : (s.modLink m g).ease n = s.ease n := rfl
@[simp] theorem State.modLink_slotVal (m : Nat) (g : Link → Link) (n : Nat) (s : State) : (s.modLink m g).slotVal n = s.slotVal n := rfl
@[simp] theorem State.modLink_slotAttrs (m : Nat) (g : Link → Link) (n : Nat) (s : State) : (s.modLink m g).slotAttrs n = s.slotAttrs n := rfl
@[simp] theorem State.modLink_slotFilled (m : Nat) (g : Link → Link) (n : Nat) (s : State) : (s.modLink m g).slotFilled n = s.slotFilled n := rfl
@[simp] theorem State.modLink_platCluster (m : Nat) (g : Link → Link) (n : Nat) (s : State) : (s.modLink m g).platCluster n = s.platCluster n := rfl
@[simp] theorem State.modLink_now (m : Nat) (g : Link → Link) (s : State) : (s.modLink m g).now = s.now := rfl
@[simp] theorem State.modLink_openParcels (m : Nat) (g : Link → Link) (s : State) : (s.modLink m g).openParcels = s.openParcels := rfl
@[simp] theorem State.modLink_ownerOf (m : Nat) (g : Link → Link) (n : Nat) (s : State) : (s.modLink m g).ownerOf n = s.ownerOf n := rfl
@[simp] theorem State.modLink_subchOwner (m : Nat) (g : Link → Link) (n : Nat) (s : State) : (s.modLink m g).subchOwner n = s.subchOwner n := rfl
@[simp] theorem State.modLink_parcelsMax (m : Nat) (g : Link → Link) (s : State) : (s.modLink m g).parcelsMax = s.parcelsMax := rfl
@[simp] theorem State.modLink_enduring (m : Nat) (g : Link → Link) (s : State) : (s.modLink m g).enduring = s.enduring := rfl
@[simp] theorem State.modLink_clustersInUse (m : Nat) (g : Link → Link) (s : State) : (s.modLink m g).clustersInUse = s.clustersInUse := rfl
@[simp] theorem State.modLink_subchsInUse (m : Nat) (g : Link → Link) (s : State) : (s.modLink m g).subchsInUse = s.subchsInUse := rfl
@[simp] theorem State.modLink_fresh (m : Nat) (g : Link → Link) (s : State) : (s.modLink m g).fresh = s.fresh := rfl
@[simp] theorem State.modLink_stake (m : Nat) (g : Link → Link) (n c i : Nat) (s : State) : (s.modLink m g).stake n c i = s.stake n c i := rfl
@[simp] theorem State.modLink_stakeVal (m : Nat) (g : Link → Link) (n i : Nat) (s : State) : (s.modLink m g).stakeVal n i = s.stakeVal n i := rfl
@[simp] theorem State.modLink_lead (m : Nat) (g : Link → Link) (n c : Nat) (s : State) : (s.modLink m g).lead n c = s.lead n c := rfl
@[simp] theorem State.modLink_live (m : Nat) (g : Link → Link) (n c : Nat) (s : State) : (s.modLink m g).live n c = s.live n c := rfl

/-! `State.putConn`. -/

@[simp] theorem State.putConn_pending (m : Nat) (k : Conn) (s : State) : (s.putConn m k).pending = s.pending := rfl
@[simp] theorem State.putConn_draws (m : Nat) (k : Conn) (s : State) : (s.putConn m k).draws = s.draws := rfl
@[simp] theorem State.putConn_outbox (m : Nat) (k : Conn) (s : State) : (s.putConn m k).outbox = s.outbox := rfl
@[simp] theorem State.putConn_clock (m : Nat) (k : Conn) (s : State) : (s.putConn m k).clock = s.clock := rfl
@[simp] theorem State.putConn_boot (m : Nat) (k : Conn) (s : State) : (s.putConn m k).boot = s.boot := rfl
@[simp] theorem State.putConn_flash (m : Nat) (k : Conn) (s : State) : (s.putConn m k).flash = s.flash := rfl
@[simp] theorem State.putConn_plat (m : Nat) (k : Conn) (s : State) : (s.putConn m k).plat = s.plat := rfl
@[simp] theorem State.putConn_fns (m : Nat) (k : Conn) (s : State) : (s.putConn m k).fns = s.fns := rfl
@[simp] theorem State.putConn_host (m : Nat) (k : Conn) (s : State) : (s.putConn m k).host = s.host := rfl
@[simp] theorem State.putConn_parcels (m : Nat) (k : Conn) (s : State) : (s.putConn m k).parcels = s.parcels := rfl
@[simp] theorem State.putConn_clusters (m : Nat) (k : Conn) (s : State) : (s.putConn m k).clusters = s.clusters := rfl
@[simp] theorem State.putConn_links (m : Nat) (k : Conn) (s : State) : (s.putConn m k).links = s.links := rfl
@[simp] theorem State.putConn_marker (m : Nat) (k : Conn) (s : State) : (s.putConn m k).marker = s.marker := rfl
@[simp] theorem State.putConn_chest (m : Nat) (k : Conn) (s : State) : (s.putConn m k).chest = s.chest := rfl
@[simp] theorem State.putConn_entropy (m : Nat) (k : Conn) (s : State) : (s.putConn m k).entropy = s.entropy := rfl
@[simp] theorem State.putConn_power (m : Nat) (k : Conn) (s : State) : (s.putConn m k).power = s.power := rfl
@[simp] theorem State.putConn_smbus (m : Nat) (k : Conn) (s : State) : (s.putConn m k).smbus = s.smbus := rfl
@[simp] theorem State.putConn_mgmt (m : Nat) (k : Conn) (s : State) : (s.putConn m k).mgmt = s.mgmt := rfl
@[simp] theorem State.putConn_faults (m : Nat) (k : Conn) (s : State) : (s.putConn m k).faults = s.faults := rfl
@[simp] theorem State.putConn_longs (m : Nat) (k : Conn) (s : State) : (s.putConn m k).longs = s.longs := rfl
@[simp] theorem State.putConn_fn (m : Nat) (k : Conn) (n : Nat) (s : State) : (s.putConn m k).fn n = s.fn n := rfl
@[simp] theorem State.putConn_parcel (m : Nat) (k : Conn) (n : Nat) (s : State) : (s.putConn m k).parcel n = s.parcel n := rfl
@[simp] theorem State.putConn_ctx (m : Nat) (k : Conn) (n c : Nat) (s : State) : (s.putConn m k).ctx n c = s.ctx n c := rfl
@[simp] theorem State.putConn_cluster (m : Nat) (k : Conn) (n : Nat) (s : State) : (s.putConn m k).cluster n = s.cluster n := rfl
@[simp] theorem State.putConn_link (m : Nat) (k : Conn) (n : Nat) (s : State) : (s.putConn m k).link n = s.link n := rfl
@[simp] theorem State.putConn_slotVal (m : Nat) (k : Conn) (n : Nat) (s : State) : (s.putConn m k).slotVal n = s.slotVal n := rfl
@[simp] theorem State.putConn_slotAttrs (m : Nat) (k : Conn) (n : Nat) (s : State) : (s.putConn m k).slotAttrs n = s.slotAttrs n := rfl
@[simp] theorem State.putConn_slotFilled (m : Nat) (k : Conn) (n : Nat) (s : State) : (s.putConn m k).slotFilled n = s.slotFilled n := rfl
@[simp] theorem State.putConn_platCluster (m : Nat) (k : Conn) (n : Nat) (s : State) : (s.putConn m k).platCluster n = s.platCluster n := rfl
@[simp] theorem State.putConn_now (m : Nat) (k : Conn) (s : State) : (s.putConn m k).now = s.now := rfl
@[simp] theorem State.putConn_openParcels (m : Nat) (k : Conn) (s : State) : (s.putConn m k).openParcels = s.openParcels := rfl
@[simp] theorem State.putConn_ownerOf (m : Nat) (k : Conn) (n : Nat) (s : State) : (s.putConn m k).ownerOf n = s.ownerOf n := rfl
@[simp] theorem State.putConn_subchOwner (m : Nat) (k : Conn) (n : Nat) (s : State) : (s.putConn m k).subchOwner n = s.subchOwner n := rfl
@[simp] theorem State.putConn_parcelsMax (m : Nat) (k : Conn) (s : State) : (s.putConn m k).parcelsMax = s.parcelsMax := rfl
@[simp] theorem State.putConn_enduring (m : Nat) (k : Conn) (s : State) : (s.putConn m k).enduring = s.enduring := rfl
@[simp] theorem State.putConn_clustersInUse (m : Nat) (k : Conn) (s : State) : (s.putConn m k).clustersInUse = s.clustersInUse := rfl
@[simp] theorem State.putConn_subchsInUse (m : Nat) (k : Conn) (s : State) : (s.putConn m k).subchsInUse = s.subchsInUse := rfl
@[simp] theorem State.putConn_fresh (m : Nat) (k : Conn) (s : State) : (s.putConn m k).fresh = s.fresh := rfl
@[simp] theorem State.putConn_stake (m : Nat) (k : Conn) (n c i : Nat) (s : State) : (s.putConn m k).stake n c i = s.stake n c i := rfl
@[simp] theorem State.putConn_stakeVal (m : Nat) (k : Conn) (n i : Nat) (s : State) : (s.putConn m k).stakeVal n i = s.stakeVal n i := rfl
@[simp] theorem State.putConn_lead (m : Nat) (k : Conn) (n c : Nat) (s : State) : (s.putConn m k).lead n c = s.lead n c := rfl
@[simp] theorem State.putConn_live (m : Nat) (k : Conn) (n c : Nat) (s : State) : (s.putConn m k).live n c = s.live n c := rfl

/-! `State.putEase`. -/

@[simp] theorem State.putEase_pending (m : Nat) (k : Ease) (s : State) : (s.putEase m k).pending = s.pending := rfl
@[simp] theorem State.putEase_draws (m : Nat) (k : Ease) (s : State) : (s.putEase m k).draws = s.draws := rfl
@[simp] theorem State.putEase_outbox (m : Nat) (k : Ease) (s : State) : (s.putEase m k).outbox = s.outbox := rfl
@[simp] theorem State.putEase_clock (m : Nat) (k : Ease) (s : State) : (s.putEase m k).clock = s.clock := rfl
@[simp] theorem State.putEase_boot (m : Nat) (k : Ease) (s : State) : (s.putEase m k).boot = s.boot := rfl
@[simp] theorem State.putEase_flash (m : Nat) (k : Ease) (s : State) : (s.putEase m k).flash = s.flash := rfl
@[simp] theorem State.putEase_plat (m : Nat) (k : Ease) (s : State) : (s.putEase m k).plat = s.plat := rfl
@[simp] theorem State.putEase_fns (m : Nat) (k : Ease) (s : State) : (s.putEase m k).fns = s.fns := rfl
@[simp] theorem State.putEase_host (m : Nat) (k : Ease) (s : State) : (s.putEase m k).host = s.host := rfl
@[simp] theorem State.putEase_parcels (m : Nat) (k : Ease) (s : State) : (s.putEase m k).parcels = s.parcels := rfl
@[simp] theorem State.putEase_clusters (m : Nat) (k : Ease) (s : State) : (s.putEase m k).clusters = s.clusters := rfl
@[simp] theorem State.putEase_links (m : Nat) (k : Ease) (s : State) : (s.putEase m k).links = s.links := rfl
@[simp] theorem State.putEase_marker (m : Nat) (k : Ease) (s : State) : (s.putEase m k).marker = s.marker := rfl
@[simp] theorem State.putEase_chest (m : Nat) (k : Ease) (s : State) : (s.putEase m k).chest = s.chest := rfl
@[simp] theorem State.putEase_entropy (m : Nat) (k : Ease) (s : State) : (s.putEase m k).entropy = s.entropy := rfl
@[simp] theorem State.putEase_power (m : Nat) (k : Ease) (s : State) : (s.putEase m k).power = s.power := rfl
@[simp] theorem State.putEase_smbus (m : Nat) (k : Ease) (s : State) : (s.putEase m k).smbus = s.smbus := rfl
@[simp] theorem State.putEase_mgmt (m : Nat) (k : Ease) (s : State) : (s.putEase m k).mgmt = s.mgmt := rfl
@[simp] theorem State.putEase_faults (m : Nat) (k : Ease) (s : State) : (s.putEase m k).faults = s.faults := rfl
@[simp] theorem State.putEase_longs (m : Nat) (k : Ease) (s : State) : (s.putEase m k).longs = s.longs := rfl
@[simp] theorem State.putEase_fn (m : Nat) (k : Ease) (n : Nat) (s : State) : (s.putEase m k).fn n = s.fn n := rfl
@[simp] theorem State.putEase_parcel (m : Nat) (k : Ease) (n : Nat) (s : State) : (s.putEase m k).parcel n = s.parcel n := rfl
@[simp] theorem State.putEase_ctx (m : Nat) (k : Ease) (n c : Nat) (s : State) : (s.putEase m k).ctx n c = s.ctx n c := rfl
@[simp] theorem State.putEase_cluster (m : Nat) (k : Ease) (n : Nat) (s : State) : (s.putEase m k).cluster n = s.cluster n := rfl
@[simp] theorem State.putEase_link (m : Nat) (k : Ease) (n : Nat) (s : State) : (s.putEase m k).link n = s.link n := rfl
@[simp] theorem State.putEase_slotVal (m : Nat) (k : Ease) (n : Nat) (s : State) : (s.putEase m k).slotVal n = s.slotVal n := rfl
@[simp] theorem State.putEase_slotAttrs (m : Nat) (k : Ease) (n : Nat) (s : State) : (s.putEase m k).slotAttrs n = s.slotAttrs n := rfl
@[simp] theorem State.putEase_slotFilled (m : Nat) (k : Ease) (n : Nat) (s : State) : (s.putEase m k).slotFilled n = s.slotFilled n := rfl
@[simp] theorem State.putEase_platCluster (m : Nat) (k : Ease) (n : Nat) (s : State) : (s.putEase m k).platCluster n = s.platCluster n := rfl
@[simp] theorem State.putEase_now (m : Nat) (k : Ease) (s : State) : (s.putEase m k).now = s.now := rfl
@[simp] theorem State.putEase_openParcels (m : Nat) (k : Ease) (s : State) : (s.putEase m k).openParcels = s.openParcels := rfl
@[simp] theorem State.putEase_ownerOf (m : Nat) (k : Ease) (n : Nat) (s : State) : (s.putEase m k).ownerOf n = s.ownerOf n := rfl
@[simp] theorem State.putEase_subchOwner (m : Nat) (k : Ease) (n : Nat) (s : State) : (s.putEase m k).subchOwner n = s.subchOwner n := rfl
@[simp] theorem State.putEase_parcelsMax (m : Nat) (k : Ease) (s : State) : (s.putEase m k).parcelsMax = s.parcelsMax := rfl
@[simp] theorem State.putEase_enduring (m : Nat) (k : Ease) (s : State) : (s.putEase m k).enduring = s.enduring := rfl
@[simp] theorem State.putEase_clustersInUse (m : Nat) (k : Ease) (s : State) : (s.putEase m k).clustersInUse = s.clustersInUse := rfl
@[simp] theorem State.putEase_subchsInUse (m : Nat) (k : Ease) (s : State) : (s.putEase m k).subchsInUse = s.subchsInUse := rfl
@[simp] theorem State.putEase_fresh (m : Nat) (k : Ease) (s : State) : (s.putEase m k).fresh = s.fresh := rfl
@[simp] theorem State.putEase_stake (m : Nat) (k : Ease) (n c i : Nat) (s : State) : (s.putEase m k).stake n c i = s.stake n c i := rfl
@[simp] theorem State.putEase_stakeVal (m : Nat) (k : Ease) (n i : Nat) (s : State) : (s.putEase m k).stakeVal n i = s.stakeVal n i := rfl
@[simp] theorem State.putEase_lead (m : Nat) (k : Ease) (n c : Nat) (s : State) : (s.putEase m k).lead n c = s.lead n c := rfl
@[simp] theorem State.putEase_live (m : Nat) (k : Ease) (n c : Nat) (s : State) : (s.putEase m k).live n c = s.live n c := rfl

/-! `State.emit`. -/

@[simp] theorem State.emit_pending (o : Output) (s : State) : (s.emit o).pending = s.pending := rfl
@[simp] theorem State.emit_draws (o : Output) (s : State) : (s.emit o).draws = s.draws := rfl
@[simp] theorem State.emit_clock (o : Output) (s : State) : (s.emit o).clock = s.clock := rfl
@[simp] theorem State.emit_boot (o : Output) (s : State) : (s.emit o).boot = s.boot := rfl
@[simp] theorem State.emit_flash (o : Output) (s : State) : (s.emit o).flash = s.flash := rfl
@[simp] theorem State.emit_plat (o : Output) (s : State) : (s.emit o).plat = s.plat := rfl
@[simp] theorem State.emit_fns (o : Output) (s : State) : (s.emit o).fns = s.fns := rfl
@[simp] theorem State.emit_host (o : Output) (s : State) : (s.emit o).host = s.host := rfl
@[simp] theorem State.emit_parcels (o : Output) (s : State) : (s.emit o).parcels = s.parcels := rfl
@[simp] theorem State.emit_clusters (o : Output) (s : State) : (s.emit o).clusters = s.clusters := rfl
@[simp] theorem State.emit_links (o : Output) (s : State) : (s.emit o).links = s.links := rfl
@[simp] theorem State.emit_fabric (o : Output) (s : State) : (s.emit o).fabric = s.fabric := rfl
@[simp] theorem State.emit_marker (o : Output) (s : State) : (s.emit o).marker = s.marker := rfl
@[simp] theorem State.emit_chest (o : Output) (s : State) : (s.emit o).chest = s.chest := rfl
@[simp] theorem State.emit_entropy (o : Output) (s : State) : (s.emit o).entropy = s.entropy := rfl
@[simp] theorem State.emit_power (o : Output) (s : State) : (s.emit o).power = s.power := rfl
@[simp] theorem State.emit_smbus (o : Output) (s : State) : (s.emit o).smbus = s.smbus := rfl
@[simp] theorem State.emit_mgmt (o : Output) (s : State) : (s.emit o).mgmt = s.mgmt := rfl
@[simp] theorem State.emit_faults (o : Output) (s : State) : (s.emit o).faults = s.faults := rfl
@[simp] theorem State.emit_longs (o : Output) (s : State) : (s.emit o).longs = s.longs := rfl
@[simp] theorem State.emit_fn (o : Output) (n : Nat) (s : State) : (s.emit o).fn n = s.fn n := rfl
@[simp] theorem State.emit_parcel (o : Output) (n : Nat) (s : State) : (s.emit o).parcel n = s.parcel n := rfl
@[simp] theorem State.emit_ctx (o : Output) (n c : Nat) (s : State) : (s.emit o).ctx n c = s.ctx n c := rfl
@[simp] theorem State.emit_cluster (o : Output) (n : Nat) (s : State) : (s.emit o).cluster n = s.cluster n := rfl
@[simp] theorem State.emit_link (o : Output) (n : Nat) (s : State) : (s.emit o).link n = s.link n := rfl
@[simp] theorem State.emit_conn (o : Output) (n : Nat) (s : State) : (s.emit o).conn n = s.conn n := rfl
@[simp] theorem State.emit_connOpt (o : Output) (n : Nat) (s : State) : (s.emit o).conn? n = s.conn? n := rfl
@[simp] theorem State.emit_ease (o : Output) (n : Nat) (s : State) : (s.emit o).ease n = s.ease n := rfl
@[simp] theorem State.emit_slotVal (o : Output) (n : Nat) (s : State) : (s.emit o).slotVal n = s.slotVal n := rfl
@[simp] theorem State.emit_slotAttrs (o : Output) (n : Nat) (s : State) : (s.emit o).slotAttrs n = s.slotAttrs n := rfl
@[simp] theorem State.emit_slotFilled (o : Output) (n : Nat) (s : State) : (s.emit o).slotFilled n = s.slotFilled n := rfl
@[simp] theorem State.emit_platCluster (o : Output) (n : Nat) (s : State) : (s.emit o).platCluster n = s.platCluster n := rfl
@[simp] theorem State.emit_now (o : Output) (s : State) : (s.emit o).now = s.now := rfl
@[simp] theorem State.emit_openParcels (o : Output) (s : State) : (s.emit o).openParcels = s.openParcels := rfl
@[simp] theorem State.emit_ownerOf (o : Output) (n : Nat) (s : State) : (s.emit o).ownerOf n = s.ownerOf n := rfl
@[simp] theorem State.emit_subchOwner (o : Output) (n : Nat) (s : State) : (s.emit o).subchOwner n = s.subchOwner n := rfl
@[simp] theorem State.emit_parcelsMax (o : Output) (s : State) : (s.emit o).parcelsMax = s.parcelsMax := rfl
@[simp] theorem State.emit_enduring (o : Output) (s : State) : (s.emit o).enduring = s.enduring := rfl
@[simp] theorem State.emit_clustersInUse (o : Output) (s : State) : (s.emit o).clustersInUse = s.clustersInUse := rfl
@[simp] theorem State.emit_subchsInUse (o : Output) (s : State) : (s.emit o).subchsInUse = s.subchsInUse := rfl
@[simp] theorem State.emit_fresh (o : Output) (s : State) : (s.emit o).fresh = s.fresh := rfl
@[simp] theorem State.emit_stake (o : Output) (n c i : Nat) (s : State) : (s.emit o).stake n c i = s.stake n c i := rfl
@[simp] theorem State.emit_stakeVal (o : Output) (n i : Nat) (s : State) : (s.emit o).stakeVal n i = s.stakeVal n i := rfl
@[simp] theorem State.emit_lead (o : Output) (n c : Nat) (s : State) : (s.emit o).lead n c = s.lead n c := rfl
@[simp] theorem State.emit_live (o : Output) (n c : Nat) (s : State) : (s.emit o).live n c = s.live n c := rfl

/-! `State.drawn`. -/

@[simp] theorem State.drawn_pending (s : State) : (s.drawn).pending = s.pending := rfl
@[simp] theorem State.drawn_outbox (s : State) : (s.drawn).outbox = s.outbox := rfl
@[simp] theorem State.drawn_clock (s : State) : (s.drawn).clock = s.clock := rfl
@[simp] theorem State.drawn_boot (s : State) : (s.drawn).boot = s.boot := rfl
@[simp] theorem State.drawn_flash (s : State) : (s.drawn).flash = s.flash := rfl
@[simp] theorem State.drawn_plat (s : State) : (s.drawn).plat = s.plat := rfl
@[simp] theorem State.drawn_fns (s : State) : (s.drawn).fns = s.fns := rfl
@[simp] theorem State.drawn_host (s : State) : (s.drawn).host = s.host := rfl
@[simp] theorem State.drawn_parcels (s : State) : (s.drawn).parcels = s.parcels := rfl
@[simp] theorem State.drawn_clusters (s : State) : (s.drawn).clusters = s.clusters := rfl
@[simp] theorem State.drawn_links (s : State) : (s.drawn).links = s.links := rfl
@[simp] theorem State.drawn_fabric (s : State) : (s.drawn).fabric = s.fabric := rfl
@[simp] theorem State.drawn_marker (s : State) : (s.drawn).marker = s.marker := rfl
@[simp] theorem State.drawn_chest (s : State) : (s.drawn).chest = s.chest := rfl
@[simp] theorem State.drawn_power (s : State) : (s.drawn).power = s.power := rfl
@[simp] theorem State.drawn_smbus (s : State) : (s.drawn).smbus = s.smbus := rfl
@[simp] theorem State.drawn_mgmt (s : State) : (s.drawn).mgmt = s.mgmt := rfl
@[simp] theorem State.drawn_faults (s : State) : (s.drawn).faults = s.faults := rfl
@[simp] theorem State.drawn_longs (s : State) : (s.drawn).longs = s.longs := rfl
@[simp] theorem State.drawn_fn (n : Nat) (s : State) : (s.drawn).fn n = s.fn n := rfl
@[simp] theorem State.drawn_parcel (n : Nat) (s : State) : (s.drawn).parcel n = s.parcel n := rfl
@[simp] theorem State.drawn_ctx (n c : Nat) (s : State) : (s.drawn).ctx n c = s.ctx n c := rfl
@[simp] theorem State.drawn_cluster (n : Nat) (s : State) : (s.drawn).cluster n = s.cluster n := rfl
@[simp] theorem State.drawn_link (n : Nat) (s : State) : (s.drawn).link n = s.link n := rfl
@[simp] theorem State.drawn_conn (n : Nat) (s : State) : (s.drawn).conn n = s.conn n := rfl
@[simp] theorem State.drawn_connOpt (n : Nat) (s : State) : (s.drawn).conn? n = s.conn? n := rfl
@[simp] theorem State.drawn_ease (n : Nat) (s : State) : (s.drawn).ease n = s.ease n := rfl
@[simp] theorem State.drawn_slotVal (n : Nat) (s : State) : (s.drawn).slotVal n = s.slotVal n := rfl
@[simp] theorem State.drawn_slotAttrs (n : Nat) (s : State) : (s.drawn).slotAttrs n = s.slotAttrs n := rfl
@[simp] theorem State.drawn_slotFilled (n : Nat) (s : State) : (s.drawn).slotFilled n = s.slotFilled n := rfl
@[simp] theorem State.drawn_platCluster (n : Nat) (s : State) : (s.drawn).platCluster n = s.platCluster n := rfl
@[simp] theorem State.drawn_now (s : State) : (s.drawn).now = s.now := rfl
@[simp] theorem State.drawn_openParcels (s : State) : (s.drawn).openParcels = s.openParcels := rfl
@[simp] theorem State.drawn_ownerOf (n : Nat) (s : State) : (s.drawn).ownerOf n = s.ownerOf n := rfl
@[simp] theorem State.drawn_subchOwner (n : Nat) (s : State) : (s.drawn).subchOwner n = s.subchOwner n := rfl
@[simp] theorem State.drawn_parcelsMax (s : State) : (s.drawn).parcelsMax = s.parcelsMax := rfl
@[simp] theorem State.drawn_enduring (s : State) : (s.drawn).enduring = s.enduring := rfl
@[simp] theorem State.drawn_clustersInUse (s : State) : (s.drawn).clustersInUse = s.clustersInUse := rfl
@[simp] theorem State.drawn_subchsInUse (s : State) : (s.drawn).subchsInUse = s.subchsInUse := rfl
@[simp] theorem State.drawn_stake (n c i : Nat) (s : State) : (s.drawn).stake n c i = s.stake n c i := rfl
@[simp] theorem State.drawn_stakeVal (n i : Nat) (s : State) : (s.drawn).stakeVal n i = s.stakeVal n i := rfl
@[simp] theorem State.drawn_lead (n c : Nat) (s : State) : (s.drawn).lead n c = s.lead n c := rfl
@[simp] theorem State.drawn_live (n c : Nat) (s : State) : (s.drawn).live n c = s.live n c := rfl

/-! `State.drawMany`. -/

@[simp] theorem State.drawMany_pending (m : Nat) (s : State) : (s.drawMany m).pending = s.pending := rfl
@[simp] theorem State.drawMany_outbox (m : Nat) (s : State) : (s.drawMany m).outbox = s.outbox := rfl
@[simp] theorem State.drawMany_clock (m : Nat) (s : State) : (s.drawMany m).clock = s.clock := rfl
@[simp] theorem State.drawMany_boot (m : Nat) (s : State) : (s.drawMany m).boot = s.boot := rfl
@[simp] theorem State.drawMany_flash (m : Nat) (s : State) : (s.drawMany m).flash = s.flash := rfl
@[simp] theorem State.drawMany_plat (m : Nat) (s : State) : (s.drawMany m).plat = s.plat := rfl
@[simp] theorem State.drawMany_fns (m : Nat) (s : State) : (s.drawMany m).fns = s.fns := rfl
@[simp] theorem State.drawMany_host (m : Nat) (s : State) : (s.drawMany m).host = s.host := rfl
@[simp] theorem State.drawMany_parcels (m : Nat) (s : State) : (s.drawMany m).parcels = s.parcels := rfl
@[simp] theorem State.drawMany_clusters (m : Nat) (s : State) : (s.drawMany m).clusters = s.clusters := rfl
@[simp] theorem State.drawMany_links (m : Nat) (s : State) : (s.drawMany m).links = s.links := rfl
@[simp] theorem State.drawMany_fabric (m : Nat) (s : State) : (s.drawMany m).fabric = s.fabric := rfl
@[simp] theorem State.drawMany_marker (m : Nat) (s : State) : (s.drawMany m).marker = s.marker := rfl
@[simp] theorem State.drawMany_chest (m : Nat) (s : State) : (s.drawMany m).chest = s.chest := rfl
@[simp] theorem State.drawMany_entropy (m : Nat) (s : State) : (s.drawMany m).entropy = s.entropy := rfl
@[simp] theorem State.drawMany_power (m : Nat) (s : State) : (s.drawMany m).power = s.power := rfl
@[simp] theorem State.drawMany_smbus (m : Nat) (s : State) : (s.drawMany m).smbus = s.smbus := rfl
@[simp] theorem State.drawMany_mgmt (m : Nat) (s : State) : (s.drawMany m).mgmt = s.mgmt := rfl
@[simp] theorem State.drawMany_faults (m : Nat) (s : State) : (s.drawMany m).faults = s.faults := rfl
@[simp] theorem State.drawMany_longs (m : Nat) (s : State) : (s.drawMany m).longs = s.longs := rfl
@[simp] theorem State.drawMany_fn (m : Nat) (n : Nat) (s : State) : (s.drawMany m).fn n = s.fn n := rfl
@[simp] theorem State.drawMany_parcel (m : Nat) (n : Nat) (s : State) : (s.drawMany m).parcel n = s.parcel n := rfl
@[simp] theorem State.drawMany_ctx (m : Nat) (n c : Nat) (s : State) : (s.drawMany m).ctx n c = s.ctx n c := rfl
@[simp] theorem State.drawMany_cluster (m : Nat) (n : Nat) (s : State) : (s.drawMany m).cluster n = s.cluster n := rfl
@[simp] theorem State.drawMany_link (m : Nat) (n : Nat) (s : State) : (s.drawMany m).link n = s.link n := rfl
@[simp] theorem State.drawMany_conn (m : Nat) (n : Nat) (s : State) : (s.drawMany m).conn n = s.conn n := rfl
@[simp] theorem State.drawMany_connOpt (m : Nat) (n : Nat) (s : State) : (s.drawMany m).conn? n = s.conn? n := rfl
@[simp] theorem State.drawMany_ease (m : Nat) (n : Nat) (s : State) : (s.drawMany m).ease n = s.ease n := rfl
@[simp] theorem State.drawMany_slotVal (m : Nat) (n : Nat) (s : State) : (s.drawMany m).slotVal n = s.slotVal n := rfl
@[simp] theorem State.drawMany_slotAttrs (m : Nat) (n : Nat) (s : State) : (s.drawMany m).slotAttrs n = s.slotAttrs n := rfl
@[simp] theorem State.drawMany_slotFilled (m : Nat) (n : Nat) (s : State) : (s.drawMany m).slotFilled n = s.slotFilled n := rfl
@[simp] theorem State.drawMany_platCluster (m : Nat) (n : Nat) (s : State) : (s.drawMany m).platCluster n = s.platCluster n := rfl
@[simp] theorem State.drawMany_now (m : Nat) (s : State) : (s.drawMany m).now = s.now := rfl
@[simp] theorem State.drawMany_openParcels (m : Nat) (s : State) : (s.drawMany m).openParcels = s.openParcels := rfl
@[simp] theorem State.drawMany_ownerOf (m : Nat) (n : Nat) (s : State) : (s.drawMany m).ownerOf n = s.ownerOf n := rfl
@[simp] theorem State.drawMany_subchOwner (m : Nat) (n : Nat) (s : State) : (s.drawMany m).subchOwner n = s.subchOwner n := rfl
@[simp] theorem State.drawMany_parcelsMax (m : Nat) (s : State) : (s.drawMany m).parcelsMax = s.parcelsMax := rfl
@[simp] theorem State.drawMany_enduring (m : Nat) (s : State) : (s.drawMany m).enduring = s.enduring := rfl
@[simp] theorem State.drawMany_clustersInUse (m : Nat) (s : State) : (s.drawMany m).clustersInUse = s.clustersInUse := rfl
@[simp] theorem State.drawMany_subchsInUse (m : Nat) (s : State) : (s.drawMany m).subchsInUse = s.subchsInUse := rfl
@[simp] theorem State.drawMany_stake (m : Nat) (n c i : Nat) (s : State) : (s.drawMany m).stake n c i = s.stake n c i := rfl
@[simp] theorem State.drawMany_stakeVal (m : Nat) (n i : Nat) (s : State) : (s.drawMany m).stakeVal n i = s.stakeVal n i := rfl
@[simp] theorem State.drawMany_lead (m : Nat) (n c : Nat) (s : State) : (s.drawMany m).lead n c = s.lead n c := rfl
@[simp] theorem State.drawMany_live (m : Nat) (n c : Nat) (s : State) : (s.drawMany m).live n c = s.live n c := rfl

/-! `State.drawnMany`. -/

@[simp] theorem State.drawnMany_pending (m : Nat) (s : State) : (s.drawnMany m).pending = s.pending := rfl
@[simp] theorem State.drawnMany_outbox (m : Nat) (s : State) : (s.drawnMany m).outbox = s.outbox := rfl
@[simp] theorem State.drawnMany_clock (m : Nat) (s : State) : (s.drawnMany m).clock = s.clock := rfl
@[simp] theorem State.drawnMany_boot (m : Nat) (s : State) : (s.drawnMany m).boot = s.boot := rfl
@[simp] theorem State.drawnMany_flash (m : Nat) (s : State) : (s.drawnMany m).flash = s.flash := rfl
@[simp] theorem State.drawnMany_plat (m : Nat) (s : State) : (s.drawnMany m).plat = s.plat := rfl
@[simp] theorem State.drawnMany_fns (m : Nat) (s : State) : (s.drawnMany m).fns = s.fns := rfl
@[simp] theorem State.drawnMany_host (m : Nat) (s : State) : (s.drawnMany m).host = s.host := rfl
@[simp] theorem State.drawnMany_parcels (m : Nat) (s : State) : (s.drawnMany m).parcels = s.parcels := rfl
@[simp] theorem State.drawnMany_clusters (m : Nat) (s : State) : (s.drawnMany m).clusters = s.clusters := rfl
@[simp] theorem State.drawnMany_links (m : Nat) (s : State) : (s.drawnMany m).links = s.links := rfl
@[simp] theorem State.drawnMany_fabric (m : Nat) (s : State) : (s.drawnMany m).fabric = s.fabric := rfl
@[simp] theorem State.drawnMany_marker (m : Nat) (s : State) : (s.drawnMany m).marker = s.marker := rfl
@[simp] theorem State.drawnMany_chest (m : Nat) (s : State) : (s.drawnMany m).chest = s.chest := rfl
@[simp] theorem State.drawnMany_power (m : Nat) (s : State) : (s.drawnMany m).power = s.power := rfl
@[simp] theorem State.drawnMany_smbus (m : Nat) (s : State) : (s.drawnMany m).smbus = s.smbus := rfl
@[simp] theorem State.drawnMany_mgmt (m : Nat) (s : State) : (s.drawnMany m).mgmt = s.mgmt := rfl
@[simp] theorem State.drawnMany_faults (m : Nat) (s : State) : (s.drawnMany m).faults = s.faults := rfl
@[simp] theorem State.drawnMany_longs (m : Nat) (s : State) : (s.drawnMany m).longs = s.longs := rfl
@[simp] theorem State.drawnMany_fn (m : Nat) (n : Nat) (s : State) : (s.drawnMany m).fn n = s.fn n := rfl
@[simp] theorem State.drawnMany_parcel (m : Nat) (n : Nat) (s : State) : (s.drawnMany m).parcel n = s.parcel n := rfl
@[simp] theorem State.drawnMany_ctx (m : Nat) (n c : Nat) (s : State) : (s.drawnMany m).ctx n c = s.ctx n c := rfl
@[simp] theorem State.drawnMany_cluster (m : Nat) (n : Nat) (s : State) : (s.drawnMany m).cluster n = s.cluster n := rfl
@[simp] theorem State.drawnMany_link (m : Nat) (n : Nat) (s : State) : (s.drawnMany m).link n = s.link n := rfl
@[simp] theorem State.drawnMany_conn (m : Nat) (n : Nat) (s : State) : (s.drawnMany m).conn n = s.conn n := rfl
@[simp] theorem State.drawnMany_connOpt (m : Nat) (n : Nat) (s : State) : (s.drawnMany m).conn? n = s.conn? n := rfl
@[simp] theorem State.drawnMany_ease (m : Nat) (n : Nat) (s : State) : (s.drawnMany m).ease n = s.ease n := rfl
@[simp] theorem State.drawnMany_slotVal (m : Nat) (n : Nat) (s : State) : (s.drawnMany m).slotVal n = s.slotVal n := rfl
@[simp] theorem State.drawnMany_slotAttrs (m : Nat) (n : Nat) (s : State) : (s.drawnMany m).slotAttrs n = s.slotAttrs n := rfl
@[simp] theorem State.drawnMany_slotFilled (m : Nat) (n : Nat) (s : State) : (s.drawnMany m).slotFilled n = s.slotFilled n := rfl
@[simp] theorem State.drawnMany_platCluster (m : Nat) (n : Nat) (s : State) : (s.drawnMany m).platCluster n = s.platCluster n := rfl
@[simp] theorem State.drawnMany_now (m : Nat) (s : State) : (s.drawnMany m).now = s.now := rfl
@[simp] theorem State.drawnMany_openParcels (m : Nat) (s : State) : (s.drawnMany m).openParcels = s.openParcels := rfl
@[simp] theorem State.drawnMany_ownerOf (m : Nat) (n : Nat) (s : State) : (s.drawnMany m).ownerOf n = s.ownerOf n := rfl
@[simp] theorem State.drawnMany_subchOwner (m : Nat) (n : Nat) (s : State) : (s.drawnMany m).subchOwner n = s.subchOwner n := rfl
@[simp] theorem State.drawnMany_parcelsMax (m : Nat) (s : State) : (s.drawnMany m).parcelsMax = s.parcelsMax := rfl
@[simp] theorem State.drawnMany_enduring (m : Nat) (s : State) : (s.drawnMany m).enduring = s.enduring := rfl
@[simp] theorem State.drawnMany_clustersInUse (m : Nat) (s : State) : (s.drawnMany m).clustersInUse = s.clustersInUse := rfl
@[simp] theorem State.drawnMany_subchsInUse (m : Nat) (s : State) : (s.drawnMany m).subchsInUse = s.subchsInUse := rfl
@[simp] theorem State.drawnMany_stake (m : Nat) (n c i : Nat) (s : State) : (s.drawnMany m).stake n c i = s.stake n c i := rfl
@[simp] theorem State.drawnMany_stakeVal (m : Nat) (n i : Nat) (s : State) : (s.drawnMany m).stakeVal n i = s.stakeVal n i := rfl
@[simp] theorem State.drawnMany_lead (m : Nat) (n c : Nat) (s : State) : (s.drawnMany m).lead n c = s.lead n c := rfl
@[simp] theorem State.drawnMany_live (m : Nat) (n c : Nat) (s : State) : (s.drawnMany m).live n c = s.live n c := rfl

/-! `State.platPend`. -/

@[simp] theorem State.platPend_pending (k u v : Nat) (s : State) : (s.platPend k u v).pending = s.pending := rfl
@[simp] theorem State.platPend_draws (k u v : Nat) (s : State) : (s.platPend k u v).draws = s.draws := rfl
@[simp] theorem State.platPend_outbox (k u v : Nat) (s : State) : (s.platPend k u v).outbox = s.outbox := rfl
@[simp] theorem State.platPend_clock (k u v : Nat) (s : State) : (s.platPend k u v).clock = s.clock := rfl
@[simp] theorem State.platPend_boot (k u v : Nat) (s : State) : (s.platPend k u v).boot = s.boot := rfl
@[simp] theorem State.platPend_flash (k u v : Nat) (s : State) : (s.platPend k u v).flash = s.flash := rfl
@[simp] theorem State.platPend_fns (k u v : Nat) (s : State) : (s.platPend k u v).fns = s.fns := rfl
@[simp] theorem State.platPend_host (k u v : Nat) (s : State) : (s.platPend k u v).host = s.host := rfl
@[simp] theorem State.platPend_parcels (k u v : Nat) (s : State) : (s.platPend k u v).parcels = s.parcels := rfl
@[simp] theorem State.platPend_clusters (k u v : Nat) (s : State) : (s.platPend k u v).clusters = s.clusters := rfl
@[simp] theorem State.platPend_links (k u v : Nat) (s : State) : (s.platPend k u v).links = s.links := rfl
@[simp] theorem State.platPend_fabric (k u v : Nat) (s : State) : (s.platPend k u v).fabric = s.fabric := rfl
@[simp] theorem State.platPend_marker (k u v : Nat) (s : State) : (s.platPend k u v).marker = s.marker := rfl
@[simp] theorem State.platPend_chest (k u v : Nat) (s : State) : (s.platPend k u v).chest = s.chest := rfl
@[simp] theorem State.platPend_entropy (k u v : Nat) (s : State) : (s.platPend k u v).entropy = s.entropy := rfl
@[simp] theorem State.platPend_power (k u v : Nat) (s : State) : (s.platPend k u v).power = s.power := rfl
@[simp] theorem State.platPend_smbus (k u v : Nat) (s : State) : (s.platPend k u v).smbus = s.smbus := rfl
@[simp] theorem State.platPend_mgmt (k u v : Nat) (s : State) : (s.platPend k u v).mgmt = s.mgmt := rfl
@[simp] theorem State.platPend_faults (k u v : Nat) (s : State) : (s.platPend k u v).faults = s.faults := rfl
@[simp] theorem State.platPend_longs (k u v : Nat) (s : State) : (s.platPend k u v).longs = s.longs := rfl
@[simp] theorem State.platPend_fn (k u v : Nat) (n : Nat) (s : State) : (s.platPend k u v).fn n = s.fn n := rfl
@[simp] theorem State.platPend_parcel (k u v : Nat) (n : Nat) (s : State) : (s.platPend k u v).parcel n = s.parcel n := rfl
@[simp] theorem State.platPend_ctx (k u v : Nat) (n c : Nat) (s : State) : (s.platPend k u v).ctx n c = s.ctx n c := rfl
@[simp] theorem State.platPend_cluster (k u v : Nat) (n : Nat) (s : State) : (s.platPend k u v).cluster n = s.cluster n := rfl
@[simp] theorem State.platPend_link (k u v : Nat) (n : Nat) (s : State) : (s.platPend k u v).link n = s.link n := rfl
@[simp] theorem State.platPend_conn (k u v : Nat) (n : Nat) (s : State) : (s.platPend k u v).conn n = s.conn n := rfl
@[simp] theorem State.platPend_connOpt (k u v : Nat) (n : Nat) (s : State) : (s.platPend k u v).conn? n = s.conn? n := rfl
@[simp] theorem State.platPend_ease (k u v : Nat) (n : Nat) (s : State) : (s.platPend k u v).ease n = s.ease n := rfl
@[simp] theorem State.platPend_slotVal (k u v : Nat) (n : Nat) (s : State) : (s.platPend k u v).slotVal n = s.slotVal n := rfl
@[simp] theorem State.platPend_slotAttrs (k u v : Nat) (n : Nat) (s : State) : (s.platPend k u v).slotAttrs n = s.slotAttrs n := rfl
@[simp] theorem State.platPend_slotFilled (k u v : Nat) (n : Nat) (s : State) : (s.platPend k u v).slotFilled n = s.slotFilled n := rfl
@[simp] theorem State.platPend_now (k u v : Nat) (s : State) : (s.platPend k u v).now = s.now := rfl
@[simp] theorem State.platPend_openParcels (k u v : Nat) (s : State) : (s.platPend k u v).openParcels = s.openParcels := rfl
@[simp] theorem State.platPend_ownerOf (k u v : Nat) (n : Nat) (s : State) : (s.platPend k u v).ownerOf n = s.ownerOf n := rfl
@[simp] theorem State.platPend_subchOwner (k u v : Nat) (n : Nat) (s : State) : (s.platPend k u v).subchOwner n = s.subchOwner n := rfl
@[simp] theorem State.platPend_enduring (k u v : Nat) (s : State) : (s.platPend k u v).enduring = s.enduring := rfl
@[simp] theorem State.platPend_fresh (k u v : Nat) (s : State) : (s.platPend k u v).fresh = s.fresh := rfl
@[simp] theorem State.platPend_stake (k u v : Nat) (n c i : Nat) (s : State) : (s.platPend k u v).stake n c i = s.stake n c i := rfl
@[simp] theorem State.platPend_stakeVal (k u v : Nat) (n i : Nat) (s : State) : (s.platPend k u v).stakeVal n i = s.stakeVal n i := rfl
@[simp] theorem State.platPend_lead (k u v : Nat) (n c : Nat) (s : State) : (s.platPend k u v).lead n c = s.lead n c := rfl
@[simp] theorem State.platPend_live (k u v : Nat) (n c : Nat) (s : State) : (s.platPend k u v).live n c = s.live n c := rfl

/-! `State.emptySlot`. -/

@[simp] theorem State.emptySlot_pending (m : Nat) (s : State) : (s.emptySlot m).pending = s.pending := rfl
@[simp] theorem State.emptySlot_draws (m : Nat) (s : State) : (s.emptySlot m).draws = s.draws := rfl
@[simp] theorem State.emptySlot_outbox (m : Nat) (s : State) : (s.emptySlot m).outbox = s.outbox := rfl
@[simp] theorem State.emptySlot_clock (m : Nat) (s : State) : (s.emptySlot m).clock = s.clock := rfl
@[simp] theorem State.emptySlot_boot (m : Nat) (s : State) : (s.emptySlot m).boot = s.boot := rfl
@[simp] theorem State.emptySlot_flash (m : Nat) (s : State) : (s.emptySlot m).flash = s.flash := rfl
@[simp] theorem State.emptySlot_plat (m : Nat) (s : State) : (s.emptySlot m).plat = s.plat := rfl
@[simp] theorem State.emptySlot_fns (m : Nat) (s : State) : (s.emptySlot m).fns = s.fns := rfl
@[simp] theorem State.emptySlot_host (m : Nat) (s : State) : (s.emptySlot m).host = s.host := rfl
@[simp] theorem State.emptySlot_parcels (m : Nat) (s : State) : (s.emptySlot m).parcels = s.parcels := rfl
@[simp] theorem State.emptySlot_clusters (m : Nat) (s : State) : (s.emptySlot m).clusters = s.clusters := rfl
@[simp] theorem State.emptySlot_links (m : Nat) (s : State) : (s.emptySlot m).links = s.links := rfl
@[simp] theorem State.emptySlot_fabric (m : Nat) (s : State) : (s.emptySlot m).fabric = s.fabric := rfl
@[simp] theorem State.emptySlot_marker (m : Nat) (s : State) : (s.emptySlot m).marker = s.marker := rfl
@[simp] theorem State.emptySlot_entropy (m : Nat) (s : State) : (s.emptySlot m).entropy = s.entropy := rfl
@[simp] theorem State.emptySlot_power (m : Nat) (s : State) : (s.emptySlot m).power = s.power := rfl
@[simp] theorem State.emptySlot_smbus (m : Nat) (s : State) : (s.emptySlot m).smbus = s.smbus := rfl
@[simp] theorem State.emptySlot_mgmt (m : Nat) (s : State) : (s.emptySlot m).mgmt = s.mgmt := rfl
@[simp] theorem State.emptySlot_faults (m : Nat) (s : State) : (s.emptySlot m).faults = s.faults := rfl
@[simp] theorem State.emptySlot_longs (m : Nat) (s : State) : (s.emptySlot m).longs = s.longs := rfl
@[simp] theorem State.emptySlot_fn (m : Nat) (n : Nat) (s : State) : (s.emptySlot m).fn n = s.fn n := rfl
@[simp] theorem State.emptySlot_parcel (m : Nat) (n : Nat) (s : State) : (s.emptySlot m).parcel n = s.parcel n := rfl
@[simp] theorem State.emptySlot_ctx (m : Nat) (n c : Nat) (s : State) : (s.emptySlot m).ctx n c = s.ctx n c := rfl
@[simp] theorem State.emptySlot_cluster (m : Nat) (n : Nat) (s : State) : (s.emptySlot m).cluster n = s.cluster n := rfl
@[simp] theorem State.emptySlot_link (m : Nat) (n : Nat) (s : State) : (s.emptySlot m).link n = s.link n := rfl
@[simp] theorem State.emptySlot_conn (m : Nat) (n : Nat) (s : State) : (s.emptySlot m).conn n = s.conn n := rfl
@[simp] theorem State.emptySlot_connOpt (m : Nat) (n : Nat) (s : State) : (s.emptySlot m).conn? n = s.conn? n := rfl
@[simp] theorem State.emptySlot_ease (m : Nat) (n : Nat) (s : State) : (s.emptySlot m).ease n = s.ease n := rfl
@[simp] theorem State.emptySlot_platCluster (m : Nat) (n : Nat) (s : State) : (s.emptySlot m).platCluster n = s.platCluster n := rfl
@[simp] theorem State.emptySlot_now (m : Nat) (s : State) : (s.emptySlot m).now = s.now := rfl
@[simp] theorem State.emptySlot_openParcels (m : Nat) (s : State) : (s.emptySlot m).openParcels = s.openParcels := rfl
@[simp] theorem State.emptySlot_ownerOf (m : Nat) (n : Nat) (s : State) : (s.emptySlot m).ownerOf n = s.ownerOf n := rfl
@[simp] theorem State.emptySlot_subchOwner (m : Nat) (n : Nat) (s : State) : (s.emptySlot m).subchOwner n = s.subchOwner n := rfl
@[simp] theorem State.emptySlot_parcelsMax (m : Nat) (s : State) : (s.emptySlot m).parcelsMax = s.parcelsMax := rfl
@[simp] theorem State.emptySlot_enduring (m : Nat) (s : State) : (s.emptySlot m).enduring = s.enduring := rfl
@[simp] theorem State.emptySlot_clustersInUse (m : Nat) (s : State) : (s.emptySlot m).clustersInUse = s.clustersInUse := rfl
@[simp] theorem State.emptySlot_subchsInUse (m : Nat) (s : State) : (s.emptySlot m).subchsInUse = s.subchsInUse := rfl
@[simp] theorem State.emptySlot_fresh (m : Nat) (s : State) : (s.emptySlot m).fresh = s.fresh := rfl
@[simp] theorem State.emptySlot_stake (m : Nat) (n c i : Nat) (s : State) : (s.emptySlot m).stake n c i = s.stake n c i := rfl
@[simp] theorem State.emptySlot_stakeVal (m : Nat) (n i : Nat) (s : State) : (s.emptySlot m).stakeVal n i = s.stakeVal n i := rfl
@[simp] theorem State.emptySlot_lead (m : Nat) (n c : Nat) (s : State) : (s.emptySlot m).lead n c = s.lead n c := rfl
@[simp] theorem State.emptySlot_live (m : Nat) (n c : Nat) (s : State) : (s.emptySlot m).live n c = s.live n c := rfl

/-! `State.fillSlot`. -/

@[simp] theorem State.fillSlot_pending (m : Nat) (a : BitVec 32) (v : BitVec 1024) (s : State) : (s.fillSlot m a v).pending = s.pending := rfl
@[simp] theorem State.fillSlot_outbox (m : Nat) (a : BitVec 32) (v : BitVec 1024) (s : State) : (s.fillSlot m a v).outbox = s.outbox := rfl
@[simp] theorem State.fillSlot_clock (m : Nat) (a : BitVec 32) (v : BitVec 1024) (s : State) : (s.fillSlot m a v).clock = s.clock := rfl
@[simp] theorem State.fillSlot_boot (m : Nat) (a : BitVec 32) (v : BitVec 1024) (s : State) : (s.fillSlot m a v).boot = s.boot := rfl
@[simp] theorem State.fillSlot_flash (m : Nat) (a : BitVec 32) (v : BitVec 1024) (s : State) : (s.fillSlot m a v).flash = s.flash := rfl
@[simp] theorem State.fillSlot_plat (m : Nat) (a : BitVec 32) (v : BitVec 1024) (s : State) : (s.fillSlot m a v).plat = s.plat := rfl
@[simp] theorem State.fillSlot_fns (m : Nat) (a : BitVec 32) (v : BitVec 1024) (s : State) : (s.fillSlot m a v).fns = s.fns := rfl
@[simp] theorem State.fillSlot_host (m : Nat) (a : BitVec 32) (v : BitVec 1024) (s : State) : (s.fillSlot m a v).host = s.host := rfl
@[simp] theorem State.fillSlot_parcels (m : Nat) (a : BitVec 32) (v : BitVec 1024) (s : State) : (s.fillSlot m a v).parcels = s.parcels := rfl
@[simp] theorem State.fillSlot_clusters (m : Nat) (a : BitVec 32) (v : BitVec 1024) (s : State) : (s.fillSlot m a v).clusters = s.clusters := rfl
@[simp] theorem State.fillSlot_links (m : Nat) (a : BitVec 32) (v : BitVec 1024) (s : State) : (s.fillSlot m a v).links = s.links := rfl
@[simp] theorem State.fillSlot_fabric (m : Nat) (a : BitVec 32) (v : BitVec 1024) (s : State) : (s.fillSlot m a v).fabric = s.fabric := rfl
@[simp] theorem State.fillSlot_marker (m : Nat) (a : BitVec 32) (v : BitVec 1024) (s : State) : (s.fillSlot m a v).marker = s.marker := rfl
@[simp] theorem State.fillSlot_power (m : Nat) (a : BitVec 32) (v : BitVec 1024) (s : State) : (s.fillSlot m a v).power = s.power := rfl
@[simp] theorem State.fillSlot_smbus (m : Nat) (a : BitVec 32) (v : BitVec 1024) (s : State) : (s.fillSlot m a v).smbus = s.smbus := rfl
@[simp] theorem State.fillSlot_mgmt (m : Nat) (a : BitVec 32) (v : BitVec 1024) (s : State) : (s.fillSlot m a v).mgmt = s.mgmt := rfl
@[simp] theorem State.fillSlot_faults (m : Nat) (a : BitVec 32) (v : BitVec 1024) (s : State) : (s.fillSlot m a v).faults = s.faults := rfl
@[simp] theorem State.fillSlot_longs (m : Nat) (a : BitVec 32) (v : BitVec 1024) (s : State) : (s.fillSlot m a v).longs = s.longs := rfl
@[simp] theorem State.fillSlot_fn (m : Nat) (a : BitVec 32) (v : BitVec 1024) (n : Nat) (s : State) : (s.fillSlot m a v).fn n = s.fn n := rfl
@[simp] theorem State.fillSlot_parcel (m : Nat) (a : BitVec 32) (v : BitVec 1024) (n : Nat) (s : State) : (s.fillSlot m a v).parcel n = s.parcel n := rfl
@[simp] theorem State.fillSlot_ctx (m : Nat) (a : BitVec 32) (v : BitVec 1024) (n c : Nat) (s : State) : (s.fillSlot m a v).ctx n c = s.ctx n c := rfl
@[simp] theorem State.fillSlot_cluster (m : Nat) (a : BitVec 32) (v : BitVec 1024) (n : Nat) (s : State) : (s.fillSlot m a v).cluster n = s.cluster n := rfl
@[simp] theorem State.fillSlot_link (m : Nat) (a : BitVec 32) (v : BitVec 1024) (n : Nat) (s : State) : (s.fillSlot m a v).link n = s.link n := rfl
@[simp] theorem State.fillSlot_conn (m : Nat) (a : BitVec 32) (v : BitVec 1024) (n : Nat) (s : State) : (s.fillSlot m a v).conn n = s.conn n := rfl
@[simp] theorem State.fillSlot_connOpt (m : Nat) (a : BitVec 32) (v : BitVec 1024) (n : Nat) (s : State) : (s.fillSlot m a v).conn? n = s.conn? n := rfl
@[simp] theorem State.fillSlot_ease (m : Nat) (a : BitVec 32) (v : BitVec 1024) (n : Nat) (s : State) : (s.fillSlot m a v).ease n = s.ease n := rfl
@[simp] theorem State.fillSlot_platCluster (m : Nat) (a : BitVec 32) (v : BitVec 1024) (n : Nat) (s : State) : (s.fillSlot m a v).platCluster n = s.platCluster n := rfl
@[simp] theorem State.fillSlot_now (m : Nat) (a : BitVec 32) (v : BitVec 1024) (s : State) : (s.fillSlot m a v).now = s.now := rfl
@[simp] theorem State.fillSlot_openParcels (m : Nat) (a : BitVec 32) (v : BitVec 1024) (s : State) : (s.fillSlot m a v).openParcels = s.openParcels := rfl
@[simp] theorem State.fillSlot_ownerOf (m : Nat) (a : BitVec 32) (v : BitVec 1024) (n : Nat) (s : State) : (s.fillSlot m a v).ownerOf n = s.ownerOf n := rfl
@[simp] theorem State.fillSlot_subchOwner (m : Nat) (a : BitVec 32) (v : BitVec 1024) (n : Nat) (s : State) : (s.fillSlot m a v).subchOwner n = s.subchOwner n := rfl
@[simp] theorem State.fillSlot_parcelsMax (m : Nat) (a : BitVec 32) (v : BitVec 1024) (s : State) : (s.fillSlot m a v).parcelsMax = s.parcelsMax := rfl
@[simp] theorem State.fillSlot_enduring (m : Nat) (a : BitVec 32) (v : BitVec 1024) (s : State) : (s.fillSlot m a v).enduring = s.enduring := rfl
@[simp] theorem State.fillSlot_clustersInUse (m : Nat) (a : BitVec 32) (v : BitVec 1024) (s : State) : (s.fillSlot m a v).clustersInUse = s.clustersInUse := rfl
@[simp] theorem State.fillSlot_subchsInUse (m : Nat) (a : BitVec 32) (v : BitVec 1024) (s : State) : (s.fillSlot m a v).subchsInUse = s.subchsInUse := rfl
@[simp] theorem State.fillSlot_stake (m : Nat) (a : BitVec 32) (v : BitVec 1024) (n c i : Nat) (s : State) : (s.fillSlot m a v).stake n c i = s.stake n c i := rfl
@[simp] theorem State.fillSlot_stakeVal (m : Nat) (a : BitVec 32) (v : BitVec 1024) (n i : Nat) (s : State) : (s.fillSlot m a v).stakeVal n i = s.stakeVal n i := rfl
@[simp] theorem State.fillSlot_lead (m : Nat) (a : BitVec 32) (v : BitVec 1024) (n c : Nat) (s : State) : (s.fillSlot m a v).lead n c = s.lead n c := rfl
@[simp] theorem State.fillSlot_live (m : Nat) (a : BitVec 32) (v : BitVec 1024) (n c : Nat) (s : State) : (s.fillSlot m a v).live n c = s.live n c := rfl

/-! `State.popTaken`. -/

@[simp] theorem State.popTaken_pending (m : Nat) (s : State) : (s.popTaken m).pending = s.pending := rfl
@[simp] theorem State.popTaken_draws (m : Nat) (s : State) : (s.popTaken m).draws = s.draws := rfl
@[simp] theorem State.popTaken_outbox (m : Nat) (s : State) : (s.popTaken m).outbox = s.outbox := rfl
@[simp] theorem State.popTaken_clock (m : Nat) (s : State) : (s.popTaken m).clock = s.clock := rfl
@[simp] theorem State.popTaken_boot (m : Nat) (s : State) : (s.popTaken m).boot = s.boot := rfl
@[simp] theorem State.popTaken_flash (m : Nat) (s : State) : (s.popTaken m).flash = s.flash := rfl
@[simp] theorem State.popTaken_plat (m : Nat) (s : State) : (s.popTaken m).plat = s.plat := rfl
@[simp] theorem State.popTaken_host (m : Nat) (s : State) : (s.popTaken m).host = s.host := rfl
@[simp] theorem State.popTaken_parcels (m : Nat) (s : State) : (s.popTaken m).parcels = s.parcels := rfl
@[simp] theorem State.popTaken_clusters (m : Nat) (s : State) : (s.popTaken m).clusters = s.clusters := rfl
@[simp] theorem State.popTaken_links (m : Nat) (s : State) : (s.popTaken m).links = s.links := rfl
@[simp] theorem State.popTaken_fabric (m : Nat) (s : State) : (s.popTaken m).fabric = s.fabric := rfl
@[simp] theorem State.popTaken_marker (m : Nat) (s : State) : (s.popTaken m).marker = s.marker := rfl
@[simp] theorem State.popTaken_chest (m : Nat) (s : State) : (s.popTaken m).chest = s.chest := rfl
@[simp] theorem State.popTaken_entropy (m : Nat) (s : State) : (s.popTaken m).entropy = s.entropy := rfl
@[simp] theorem State.popTaken_power (m : Nat) (s : State) : (s.popTaken m).power = s.power := rfl
@[simp] theorem State.popTaken_smbus (m : Nat) (s : State) : (s.popTaken m).smbus = s.smbus := rfl
@[simp] theorem State.popTaken_mgmt (m : Nat) (s : State) : (s.popTaken m).mgmt = s.mgmt := rfl
@[simp] theorem State.popTaken_faults (m : Nat) (s : State) : (s.popTaken m).faults = s.faults := rfl
@[simp] theorem State.popTaken_longs (m : Nat) (s : State) : (s.popTaken m).longs = s.longs := rfl
@[simp] theorem State.popTaken_parcel (m : Nat) (n : Nat) (s : State) : (s.popTaken m).parcel n = s.parcel n := rfl
@[simp] theorem State.popTaken_ctx (m : Nat) (n c : Nat) (s : State) : (s.popTaken m).ctx n c = s.ctx n c := rfl
@[simp] theorem State.popTaken_cluster (m : Nat) (n : Nat) (s : State) : (s.popTaken m).cluster n = s.cluster n := rfl
@[simp] theorem State.popTaken_link (m : Nat) (n : Nat) (s : State) : (s.popTaken m).link n = s.link n := rfl
@[simp] theorem State.popTaken_conn (m : Nat) (n : Nat) (s : State) : (s.popTaken m).conn n = s.conn n := rfl
@[simp] theorem State.popTaken_connOpt (m : Nat) (n : Nat) (s : State) : (s.popTaken m).conn? n = s.conn? n := rfl
@[simp] theorem State.popTaken_ease (m : Nat) (n : Nat) (s : State) : (s.popTaken m).ease n = s.ease n := rfl
@[simp] theorem State.popTaken_slotVal (m : Nat) (n : Nat) (s : State) : (s.popTaken m).slotVal n = s.slotVal n := rfl
@[simp] theorem State.popTaken_slotAttrs (m : Nat) (n : Nat) (s : State) : (s.popTaken m).slotAttrs n = s.slotAttrs n := rfl
@[simp] theorem State.popTaken_slotFilled (m : Nat) (n : Nat) (s : State) : (s.popTaken m).slotFilled n = s.slotFilled n := rfl
@[simp] theorem State.popTaken_platCluster (m : Nat) (n : Nat) (s : State) : (s.popTaken m).platCluster n = s.platCluster n := rfl
@[simp] theorem State.popTaken_now (m : Nat) (s : State) : (s.popTaken m).now = s.now := rfl
@[simp] theorem State.popTaken_openParcels (m : Nat) (s : State) : (s.popTaken m).openParcels = s.openParcels := rfl
@[simp] theorem State.popTaken_ownerOf (m : Nat) (n : Nat) (s : State) : (s.popTaken m).ownerOf n = s.ownerOf n := rfl
@[simp] theorem State.popTaken_subchOwner (m : Nat) (n : Nat) (s : State) : (s.popTaken m).subchOwner n = s.subchOwner n := rfl
@[simp] theorem State.popTaken_parcelsMax (m : Nat) (s : State) : (s.popTaken m).parcelsMax = s.parcelsMax := rfl
@[simp] theorem State.popTaken_enduring (m : Nat) (s : State) : (s.popTaken m).enduring = s.enduring := rfl
@[simp] theorem State.popTaken_clustersInUse (m : Nat) (s : State) : (s.popTaken m).clustersInUse = s.clustersInUse := rfl
@[simp] theorem State.popTaken_subchsInUse (m : Nat) (s : State) : (s.popTaken m).subchsInUse = s.subchsInUse := rfl
@[simp] theorem State.popTaken_fresh (m : Nat) (s : State) : (s.popTaken m).fresh = s.fresh := rfl
@[simp] theorem State.popTaken_stake (m : Nat) (n c i : Nat) (s : State) : (s.popTaken m).stake n c i = s.stake n c i := rfl
@[simp] theorem State.popTaken_stakeVal (m : Nat) (n i : Nat) (s : State) : (s.popTaken m).stakeVal n i = s.stakeVal n i := rfl
@[simp] theorem State.popTaken_lead (m : Nat) (n c : Nat) (s : State) : (s.popTaken m).lead n c = s.lead n c := rfl
@[simp] theorem State.popTaken_live (m : Nat) (n c : Nat) (s : State) : (s.popTaken m).live n c = s.live n c := rfl

/-! `State.respond`. -/

@[simp] theorem State.respond_pending (m : Nat) (t : Taken) (st : Nat) (b : Bytes) (s : State) : (s.respond m t st b).pending = s.pending := rfl
@[simp] theorem State.respond_draws (m : Nat) (t : Taken) (st : Nat) (b : Bytes) (s : State) : (s.respond m t st b).draws = s.draws := rfl
@[simp] theorem State.respond_outbox (m : Nat) (t : Taken) (st : Nat) (b : Bytes) (s : State) : (s.respond m t st b).outbox = s.outbox := rfl
@[simp] theorem State.respond_clock (m : Nat) (t : Taken) (st : Nat) (b : Bytes) (s : State) : (s.respond m t st b).clock = s.clock := rfl
@[simp] theorem State.respond_boot (m : Nat) (t : Taken) (st : Nat) (b : Bytes) (s : State) : (s.respond m t st b).boot = s.boot := rfl
@[simp] theorem State.respond_flash (m : Nat) (t : Taken) (st : Nat) (b : Bytes) (s : State) : (s.respond m t st b).flash = s.flash := rfl
@[simp] theorem State.respond_plat (m : Nat) (t : Taken) (st : Nat) (b : Bytes) (s : State) : (s.respond m t st b).plat = s.plat := rfl
@[simp] theorem State.respond_host (m : Nat) (t : Taken) (st : Nat) (b : Bytes) (s : State) : (s.respond m t st b).host = s.host := rfl
@[simp] theorem State.respond_parcels (m : Nat) (t : Taken) (st : Nat) (b : Bytes) (s : State) : (s.respond m t st b).parcels = s.parcels := rfl
@[simp] theorem State.respond_clusters (m : Nat) (t : Taken) (st : Nat) (b : Bytes) (s : State) : (s.respond m t st b).clusters = s.clusters := rfl
@[simp] theorem State.respond_links (m : Nat) (t : Taken) (st : Nat) (b : Bytes) (s : State) : (s.respond m t st b).links = s.links := rfl
@[simp] theorem State.respond_fabric (m : Nat) (t : Taken) (st : Nat) (b : Bytes) (s : State) : (s.respond m t st b).fabric = s.fabric := rfl
@[simp] theorem State.respond_marker (m : Nat) (t : Taken) (st : Nat) (b : Bytes) (s : State) : (s.respond m t st b).marker = s.marker := rfl
@[simp] theorem State.respond_chest (m : Nat) (t : Taken) (st : Nat) (b : Bytes) (s : State) : (s.respond m t st b).chest = s.chest := rfl
@[simp] theorem State.respond_entropy (m : Nat) (t : Taken) (st : Nat) (b : Bytes) (s : State) : (s.respond m t st b).entropy = s.entropy := rfl
@[simp] theorem State.respond_power (m : Nat) (t : Taken) (st : Nat) (b : Bytes) (s : State) : (s.respond m t st b).power = s.power := rfl
@[simp] theorem State.respond_smbus (m : Nat) (t : Taken) (st : Nat) (b : Bytes) (s : State) : (s.respond m t st b).smbus = s.smbus := rfl
@[simp] theorem State.respond_mgmt (m : Nat) (t : Taken) (st : Nat) (b : Bytes) (s : State) : (s.respond m t st b).mgmt = s.mgmt := rfl
@[simp] theorem State.respond_faults (m : Nat) (t : Taken) (st : Nat) (b : Bytes) (s : State) : (s.respond m t st b).faults = s.faults := rfl
@[simp] theorem State.respond_longs (m : Nat) (t : Taken) (st : Nat) (b : Bytes) (s : State) : (s.respond m t st b).longs = s.longs := rfl
@[simp] theorem State.respond_parcel (m : Nat) (t : Taken) (st : Nat) (b : Bytes) (n : Nat) (s : State) : (s.respond m t st b).parcel n = s.parcel n := rfl
@[simp] theorem State.respond_ctx (m : Nat) (t : Taken) (st : Nat) (b : Bytes) (n c : Nat) (s : State) : (s.respond m t st b).ctx n c = s.ctx n c := rfl
@[simp] theorem State.respond_cluster (m : Nat) (t : Taken) (st : Nat) (b : Bytes) (n : Nat) (s : State) : (s.respond m t st b).cluster n = s.cluster n := rfl
@[simp] theorem State.respond_link (m : Nat) (t : Taken) (st : Nat) (b : Bytes) (n : Nat) (s : State) : (s.respond m t st b).link n = s.link n := rfl
@[simp] theorem State.respond_conn (m : Nat) (t : Taken) (st : Nat) (b : Bytes) (n : Nat) (s : State) : (s.respond m t st b).conn n = s.conn n := rfl
@[simp] theorem State.respond_connOpt (m : Nat) (t : Taken) (st : Nat) (b : Bytes) (n : Nat) (s : State) : (s.respond m t st b).conn? n = s.conn? n := rfl
@[simp] theorem State.respond_ease (m : Nat) (t : Taken) (st : Nat) (b : Bytes) (n : Nat) (s : State) : (s.respond m t st b).ease n = s.ease n := rfl
@[simp] theorem State.respond_slotVal (m : Nat) (t : Taken) (st : Nat) (b : Bytes) (n : Nat) (s : State) : (s.respond m t st b).slotVal n = s.slotVal n := rfl
@[simp] theorem State.respond_slotAttrs (m : Nat) (t : Taken) (st : Nat) (b : Bytes) (n : Nat) (s : State) : (s.respond m t st b).slotAttrs n = s.slotAttrs n := rfl
@[simp] theorem State.respond_slotFilled (m : Nat) (t : Taken) (st : Nat) (b : Bytes) (n : Nat) (s : State) : (s.respond m t st b).slotFilled n = s.slotFilled n := rfl
@[simp] theorem State.respond_platCluster (m : Nat) (t : Taken) (st : Nat) (b : Bytes) (n : Nat) (s : State) : (s.respond m t st b).platCluster n = s.platCluster n := rfl
@[simp] theorem State.respond_now (m : Nat) (t : Taken) (st : Nat) (b : Bytes) (s : State) : (s.respond m t st b).now = s.now := rfl
@[simp] theorem State.respond_openParcels (m : Nat) (t : Taken) (st : Nat) (b : Bytes) (s : State) : (s.respond m t st b).openParcels = s.openParcels := rfl
@[simp] theorem State.respond_ownerOf (m : Nat) (t : Taken) (st : Nat) (b : Bytes) (n : Nat) (s : State) : (s.respond m t st b).ownerOf n = s.ownerOf n := rfl
@[simp] theorem State.respond_subchOwner (m : Nat) (t : Taken) (st : Nat) (b : Bytes) (n : Nat) (s : State) : (s.respond m t st b).subchOwner n = s.subchOwner n := rfl
@[simp] theorem State.respond_parcelsMax (m : Nat) (t : Taken) (st : Nat) (b : Bytes) (s : State) : (s.respond m t st b).parcelsMax = s.parcelsMax := rfl
@[simp] theorem State.respond_enduring (m : Nat) (t : Taken) (st : Nat) (b : Bytes) (s : State) : (s.respond m t st b).enduring = s.enduring := rfl
@[simp] theorem State.respond_clustersInUse (m : Nat) (t : Taken) (st : Nat) (b : Bytes) (s : State) : (s.respond m t st b).clustersInUse = s.clustersInUse := rfl
@[simp] theorem State.respond_subchsInUse (m : Nat) (t : Taken) (st : Nat) (b : Bytes) (s : State) : (s.respond m t st b).subchsInUse = s.subchsInUse := rfl
@[simp] theorem State.respond_fresh (m : Nat) (t : Taken) (st : Nat) (b : Bytes) (s : State) : (s.respond m t st b).fresh = s.fresh := rfl
@[simp] theorem State.respond_stake (m : Nat) (t : Taken) (st : Nat) (b : Bytes) (n c i : Nat) (s : State) : (s.respond m t st b).stake n c i = s.stake n c i := rfl
@[simp] theorem State.respond_stakeVal (m : Nat) (t : Taken) (st : Nat) (b : Bytes) (n i : Nat) (s : State) : (s.respond m t st b).stakeVal n i = s.stakeVal n i := rfl
@[simp] theorem State.respond_lead (m : Nat) (t : Taken) (st : Nat) (b : Bytes) (n c : Nat) (s : State) : (s.respond m t st b).lead n c = s.lead n c := rfl
@[simp] theorem State.respond_live (m : Nat) (t : Taken) (st : Nat) (b : Bytes) (n c : Nat) (s : State) : (s.respond m t st b).live n c = s.live n c := rfl

/-! Shared operations that are not a single update: what each leaves alone. -/

/-- A fold keeps what each of its steps keeps. -/
theorem foldl_keeps {α β γ : Type} (g : β → γ) (f : β → α → β) (h : ∀ b a, g (f b a) = g b) (l : List α) (b : β) : g (l.foldl f b) = g b := by
  induction l generalizing b with
  | nil => rfl
  | cons a l ih => exact (ih (f b a)).trans (h b a)

/-! `State.evFn`. -/

@[simp] theorem State.evFn_pending (m c : Nat) (d : List Nat) (s : State) : (s.evFn m c d).pending = s.pending := by
  unfold State.evFn; split <;> rfl
@[simp] theorem State.evFn_draws (m c : Nat) (d : List Nat) (s : State) : (s.evFn m c d).draws = s.draws := by
  unfold State.evFn; split <;> rfl
@[simp] theorem State.evFn_outbox (m c : Nat) (d : List Nat) (s : State) : (s.evFn m c d).outbox = s.outbox := by
  unfold State.evFn; split <;> rfl
@[simp] theorem State.evFn_clock (m c : Nat) (d : List Nat) (s : State) : (s.evFn m c d).clock = s.clock := by
  unfold State.evFn; split <;> rfl
@[simp] theorem State.evFn_boot (m c : Nat) (d : List Nat) (s : State) : (s.evFn m c d).boot = s.boot := by
  unfold State.evFn; split <;> rfl
@[simp] theorem State.evFn_flash (m c : Nat) (d : List Nat) (s : State) : (s.evFn m c d).flash = s.flash := by
  unfold State.evFn; split <;> rfl
@[simp] theorem State.evFn_plat (m c : Nat) (d : List Nat) (s : State) : (s.evFn m c d).plat = s.plat := by
  unfold State.evFn; split <;> rfl
@[simp] theorem State.evFn_host (m c : Nat) (d : List Nat) (s : State) : (s.evFn m c d).host = s.host := by
  unfold State.evFn; split <;> rfl
@[simp] theorem State.evFn_parcels (m c : Nat) (d : List Nat) (s : State) : (s.evFn m c d).parcels = s.parcels := by
  unfold State.evFn; split <;> rfl
@[simp] theorem State.evFn_clusters (m c : Nat) (d : List Nat) (s : State) : (s.evFn m c d).clusters = s.clusters := by
  unfold State.evFn; split <;> rfl
@[simp] theorem State.evFn_links (m c : Nat) (d : List Nat) (s : State) : (s.evFn m c d).links = s.links := by
  unfold State.evFn; split <;> rfl
@[simp] theorem State.evFn_fabric (m c : Nat) (d : List Nat) (s : State) : (s.evFn m c d).fabric = s.fabric := by
  unfold State.evFn; split <;> rfl
@[simp] theorem State.evFn_marker (m c : Nat) (d : List Nat) (s : State) : (s.evFn m c d).marker = s.marker := by
  unfold State.evFn; split <;> rfl
@[simp] theorem State.evFn_chest (m c : Nat) (d : List Nat) (s : State) : (s.evFn m c d).chest = s.chest := by
  unfold State.evFn; split <;> rfl
@[simp] theorem State.evFn_entropy (m c : Nat) (d : List Nat) (s : State) : (s.evFn m c d).entropy = s.entropy := by
  unfold State.evFn; split <;> rfl
@[simp] theorem State.evFn_power (m c : Nat) (d : List Nat) (s : State) : (s.evFn m c d).power = s.power := by
  unfold State.evFn; split <;> rfl
@[simp] theorem State.evFn_smbus (m c : Nat) (d : List Nat) (s : State) : (s.evFn m c d).smbus = s.smbus := by
  unfold State.evFn; split <;> rfl
@[simp] theorem State.evFn_mgmt (m c : Nat) (d : List Nat) (s : State) : (s.evFn m c d).mgmt = s.mgmt := by
  unfold State.evFn; split <;> rfl
@[simp] theorem State.evFn_faults (m c : Nat) (d : List Nat) (s : State) : (s.evFn m c d).faults = s.faults := by
  unfold State.evFn; split <;> rfl
@[simp] theorem State.evFn_longs (m c : Nat) (d : List Nat) (s : State) : (s.evFn m c d).longs = s.longs := by
  unfold State.evFn; split <;> rfl
@[simp] theorem State.evFn_parcel (m c : Nat) (d : List Nat) (j : Nat) (s : State) : (s.evFn m c d).parcel j = s.parcel j := by
  simp [State.parcel]
@[simp] theorem State.evFn_ctx (m c : Nat) (d : List Nat) (j k : Nat) (s : State) : (s.evFn m c d).ctx j k = s.ctx j k := by
  simp [State.ctx, State.parcel]
@[simp] theorem State.evFn_cluster (m c : Nat) (d : List Nat) (j : Nat) (s : State) : (s.evFn m c d).cluster j = s.cluster j := by
  simp [State.cluster]
@[simp] theorem State.evFn_link (m c : Nat) (d : List Nat) (j : Nat) (s : State) : (s.evFn m c d).link j = s.link j := by
  simp [State.link]
@[simp] theorem State.evFn_conn (m c : Nat) (d : List Nat) (j : Nat) (s : State) : (s.evFn m c d).conn j = s.conn j := by
  simp [State.conn]
@[simp] theorem State.evFn_ease (m c : Nat) (d : List Nat) (j : Nat) (s : State) : (s.evFn m c d).ease j = s.ease j := by
  simp [State.ease]
@[simp] theorem State.evFn_slotVal (m c : Nat) (d : List Nat) (j : Nat) (s : State) : (s.evFn m c d).slotVal j = s.slotVal j := by
  simp [State.slotVal]
@[simp] theorem State.evFn_slotAttrs (m c : Nat) (d : List Nat) (j : Nat) (s : State) : (s.evFn m c d).slotAttrs j = s.slotAttrs j := by
  simp [State.slotAttrs]
@[simp] theorem State.evFn_slotFilled (m c : Nat) (d : List Nat) (j : Nat) (s : State) : (s.evFn m c d).slotFilled j = s.slotFilled j := by
  simp [State.slotFilled]
@[simp] theorem State.evFn_now (m c : Nat) (d : List Nat) (s : State) : (s.evFn m c d).now = s.now := by
  simp [State.now]

/-! `State.evPf`. -/

@[simp] theorem State.evPf_pending (c : Nat) (d : List Nat) (s : State) : (s.evPf c d).pending = s.pending := by
  simp [State.evPf]
@[simp] theorem State.evPf_draws (c : Nat) (d : List Nat) (s : State) : (s.evPf c d).draws = s.draws := by
  simp [State.evPf]
@[simp] theorem State.evPf_outbox (c : Nat) (d : List Nat) (s : State) : (s.evPf c d).outbox = s.outbox := by
  simp [State.evPf]
@[simp] theorem State.evPf_clock (c : Nat) (d : List Nat) (s : State) : (s.evPf c d).clock = s.clock := by
  simp [State.evPf]
@[simp] theorem State.evPf_boot (c : Nat) (d : List Nat) (s : State) : (s.evPf c d).boot = s.boot := by
  simp [State.evPf]
@[simp] theorem State.evPf_flash (c : Nat) (d : List Nat) (s : State) : (s.evPf c d).flash = s.flash := by
  simp [State.evPf]
@[simp] theorem State.evPf_plat (c : Nat) (d : List Nat) (s : State) : (s.evPf c d).plat = s.plat := by
  simp [State.evPf]
@[simp] theorem State.evPf_host (c : Nat) (d : List Nat) (s : State) : (s.evPf c d).host = s.host := by
  simp [State.evPf]
@[simp] theorem State.evPf_parcels (c : Nat) (d : List Nat) (s : State) : (s.evPf c d).parcels = s.parcels := by
  simp [State.evPf]
@[simp] theorem State.evPf_clusters (c : Nat) (d : List Nat) (s : State) : (s.evPf c d).clusters = s.clusters := by
  simp [State.evPf]
@[simp] theorem State.evPf_links (c : Nat) (d : List Nat) (s : State) : (s.evPf c d).links = s.links := by
  simp [State.evPf]
@[simp] theorem State.evPf_fabric (c : Nat) (d : List Nat) (s : State) : (s.evPf c d).fabric = s.fabric := by
  simp [State.evPf]
@[simp] theorem State.evPf_marker (c : Nat) (d : List Nat) (s : State) : (s.evPf c d).marker = s.marker := by
  simp [State.evPf]
@[simp] theorem State.evPf_chest (c : Nat) (d : List Nat) (s : State) : (s.evPf c d).chest = s.chest := by
  simp [State.evPf]
@[simp] theorem State.evPf_entropy (c : Nat) (d : List Nat) (s : State) : (s.evPf c d).entropy = s.entropy := by
  simp [State.evPf]
@[simp] theorem State.evPf_power (c : Nat) (d : List Nat) (s : State) : (s.evPf c d).power = s.power := by
  simp [State.evPf]
@[simp] theorem State.evPf_smbus (c : Nat) (d : List Nat) (s : State) : (s.evPf c d).smbus = s.smbus := by
  simp [State.evPf]
@[simp] theorem State.evPf_mgmt (c : Nat) (d : List Nat) (s : State) : (s.evPf c d).mgmt = s.mgmt := by
  simp [State.evPf]
@[simp] theorem State.evPf_faults (c : Nat) (d : List Nat) (s : State) : (s.evPf c d).faults = s.faults := by
  simp [State.evPf]
@[simp] theorem State.evPf_longs (c : Nat) (d : List Nat) (s : State) : (s.evPf c d).longs = s.longs := by
  simp [State.evPf]
@[simp] theorem State.evPf_parcel (c : Nat) (d : List Nat) (j : Nat) (s : State) : (s.evPf c d).parcel j = s.parcel j := by
  simp [State.parcel]
@[simp] theorem State.evPf_ctx (c : Nat) (d : List Nat) (j k : Nat) (s : State) : (s.evPf c d).ctx j k = s.ctx j k := by
  simp [State.ctx, State.parcel]
@[simp] theorem State.evPf_cluster (c : Nat) (d : List Nat) (j : Nat) (s : State) : (s.evPf c d).cluster j = s.cluster j := by
  simp [State.cluster]
@[simp] theorem State.evPf_link (c : Nat) (d : List Nat) (j : Nat) (s : State) : (s.evPf c d).link j = s.link j := by
  simp [State.link]
@[simp] theorem State.evPf_conn (c : Nat) (d : List Nat) (j : Nat) (s : State) : (s.evPf c d).conn j = s.conn j := by
  simp [State.conn]
@[simp] theorem State.evPf_ease (c : Nat) (d : List Nat) (j : Nat) (s : State) : (s.evPf c d).ease j = s.ease j := by
  simp [State.ease]
@[simp] theorem State.evPf_slotVal (c : Nat) (d : List Nat) (j : Nat) (s : State) : (s.evPf c d).slotVal j = s.slotVal j := by
  simp [State.slotVal]
@[simp] theorem State.evPf_slotAttrs (c : Nat) (d : List Nat) (j : Nat) (s : State) : (s.evPf c d).slotAttrs j = s.slotAttrs j := by
  simp [State.slotAttrs]
@[simp] theorem State.evPf_slotFilled (c : Nat) (d : List Nat) (j : Nat) (s : State) : (s.evPf c d).slotFilled j = s.slotFilled j := by
  simp [State.slotFilled]
@[simp] theorem State.evPf_now (c : Nat) (d : List Nat) (s : State) : (s.evPf c d).now = s.now := by
  simp [State.now]

/-! `State.evVf`. -/

@[simp] theorem State.evVf_pending (m c : Nat) (d : List Nat) (s : State) : (s.evVf m c d).pending = s.pending := by
  unfold State.evVf; dsimp only; split <;> simp
@[simp] theorem State.evVf_draws (m c : Nat) (d : List Nat) (s : State) : (s.evVf m c d).draws = s.draws := by
  unfold State.evVf; dsimp only; split <;> simp
@[simp] theorem State.evVf_outbox (m c : Nat) (d : List Nat) (s : State) : (s.evVf m c d).outbox = s.outbox := by
  unfold State.evVf; dsimp only; split <;> simp
@[simp] theorem State.evVf_clock (m c : Nat) (d : List Nat) (s : State) : (s.evVf m c d).clock = s.clock := by
  unfold State.evVf; dsimp only; split <;> simp
@[simp] theorem State.evVf_boot (m c : Nat) (d : List Nat) (s : State) : (s.evVf m c d).boot = s.boot := by
  unfold State.evVf; dsimp only; split <;> simp
@[simp] theorem State.evVf_flash (m c : Nat) (d : List Nat) (s : State) : (s.evVf m c d).flash = s.flash := by
  unfold State.evVf; dsimp only; split <;> simp
@[simp] theorem State.evVf_plat (m c : Nat) (d : List Nat) (s : State) : (s.evVf m c d).plat = s.plat := by
  unfold State.evVf; dsimp only; split <;> simp
@[simp] theorem State.evVf_host (m c : Nat) (d : List Nat) (s : State) : (s.evVf m c d).host = s.host := by
  unfold State.evVf; dsimp only; split <;> simp
@[simp] theorem State.evVf_parcels (m c : Nat) (d : List Nat) (s : State) : (s.evVf m c d).parcels = s.parcels := by
  unfold State.evVf; dsimp only; split <;> simp
@[simp] theorem State.evVf_clusters (m c : Nat) (d : List Nat) (s : State) : (s.evVf m c d).clusters = s.clusters := by
  unfold State.evVf; dsimp only; split <;> simp
@[simp] theorem State.evVf_links (m c : Nat) (d : List Nat) (s : State) : (s.evVf m c d).links = s.links := by
  unfold State.evVf; dsimp only; split <;> simp
@[simp] theorem State.evVf_fabric (m c : Nat) (d : List Nat) (s : State) : (s.evVf m c d).fabric = s.fabric := by
  unfold State.evVf; dsimp only; split <;> simp
@[simp] theorem State.evVf_marker (m c : Nat) (d : List Nat) (s : State) : (s.evVf m c d).marker = s.marker := by
  unfold State.evVf; dsimp only; split <;> simp
@[simp] theorem State.evVf_chest (m c : Nat) (d : List Nat) (s : State) : (s.evVf m c d).chest = s.chest := by
  unfold State.evVf; dsimp only; split <;> simp
@[simp] theorem State.evVf_entropy (m c : Nat) (d : List Nat) (s : State) : (s.evVf m c d).entropy = s.entropy := by
  unfold State.evVf; dsimp only; split <;> simp
@[simp] theorem State.evVf_power (m c : Nat) (d : List Nat) (s : State) : (s.evVf m c d).power = s.power := by
  unfold State.evVf; dsimp only; split <;> simp
@[simp] theorem State.evVf_smbus (m c : Nat) (d : List Nat) (s : State) : (s.evVf m c d).smbus = s.smbus := by
  unfold State.evVf; dsimp only; split <;> simp
@[simp] theorem State.evVf_mgmt (m c : Nat) (d : List Nat) (s : State) : (s.evVf m c d).mgmt = s.mgmt := by
  unfold State.evVf; dsimp only; split <;> simp
@[simp] theorem State.evVf_faults (m c : Nat) (d : List Nat) (s : State) : (s.evVf m c d).faults = s.faults := by
  unfold State.evVf; dsimp only; split <;> simp
@[simp] theorem State.evVf_longs (m c : Nat) (d : List Nat) (s : State) : (s.evVf m c d).longs = s.longs := by
  unfold State.evVf; dsimp only; split <;> simp
@[simp] theorem State.evVf_parcel (m c : Nat) (d : List Nat) (j : Nat) (s : State) : (s.evVf m c d).parcel j = s.parcel j := by
  simp [State.parcel]
@[simp] theorem State.evVf_ctx (m c : Nat) (d : List Nat) (j k : Nat) (s : State) : (s.evVf m c d).ctx j k = s.ctx j k := by
  simp [State.ctx, State.parcel]
@[simp] theorem State.evVf_cluster (m c : Nat) (d : List Nat) (j : Nat) (s : State) : (s.evVf m c d).cluster j = s.cluster j := by
  simp [State.cluster]
@[simp] theorem State.evVf_link (m c : Nat) (d : List Nat) (j : Nat) (s : State) : (s.evVf m c d).link j = s.link j := by
  simp [State.link]
@[simp] theorem State.evVf_conn (m c : Nat) (d : List Nat) (j : Nat) (s : State) : (s.evVf m c d).conn j = s.conn j := by
  simp [State.conn]
@[simp] theorem State.evVf_ease (m c : Nat) (d : List Nat) (j : Nat) (s : State) : (s.evVf m c d).ease j = s.ease j := by
  simp [State.ease]
@[simp] theorem State.evVf_slotVal (m c : Nat) (d : List Nat) (j : Nat) (s : State) : (s.evVf m c d).slotVal j = s.slotVal j := by
  simp [State.slotVal]
@[simp] theorem State.evVf_slotAttrs (m c : Nat) (d : List Nat) (j : Nat) (s : State) : (s.evVf m c d).slotAttrs j = s.slotAttrs j := by
  simp [State.slotAttrs]
@[simp] theorem State.evVf_slotFilled (m c : Nat) (d : List Nat) (j : Nat) (s : State) : (s.evVf m c d).slotFilled j = s.slotFilled j := by
  simp [State.slotFilled]
@[simp] theorem State.evVf_now (m c : Nat) (d : List Nat) (s : State) : (s.evVf m c d).now = s.now := by
  simp [State.now]

/-! `State.evBoth`. -/

@[simp] theorem State.evBoth_pending (m c : Nat) (d : List Nat) (s : State) : (s.evBoth m c d).pending = s.pending := by
  simp [State.evBoth]
@[simp] theorem State.evBoth_draws (m c : Nat) (d : List Nat) (s : State) : (s.evBoth m c d).draws = s.draws := by
  simp [State.evBoth]
@[simp] theorem State.evBoth_outbox (m c : Nat) (d : List Nat) (s : State) : (s.evBoth m c d).outbox = s.outbox := by
  simp [State.evBoth]
@[simp] theorem State.evBoth_clock (m c : Nat) (d : List Nat) (s : State) : (s.evBoth m c d).clock = s.clock := by
  simp [State.evBoth]
@[simp] theorem State.evBoth_boot (m c : Nat) (d : List Nat) (s : State) : (s.evBoth m c d).boot = s.boot := by
  simp [State.evBoth]
@[simp] theorem State.evBoth_flash (m c : Nat) (d : List Nat) (s : State) : (s.evBoth m c d).flash = s.flash := by
  simp [State.evBoth]
@[simp] theorem State.evBoth_plat (m c : Nat) (d : List Nat) (s : State) : (s.evBoth m c d).plat = s.plat := by
  simp [State.evBoth]
@[simp] theorem State.evBoth_host (m c : Nat) (d : List Nat) (s : State) : (s.evBoth m c d).host = s.host := by
  simp [State.evBoth]
@[simp] theorem State.evBoth_parcels (m c : Nat) (d : List Nat) (s : State) : (s.evBoth m c d).parcels = s.parcels := by
  simp [State.evBoth]
@[simp] theorem State.evBoth_clusters (m c : Nat) (d : List Nat) (s : State) : (s.evBoth m c d).clusters = s.clusters := by
  simp [State.evBoth]
@[simp] theorem State.evBoth_links (m c : Nat) (d : List Nat) (s : State) : (s.evBoth m c d).links = s.links := by
  simp [State.evBoth]
@[simp] theorem State.evBoth_fabric (m c : Nat) (d : List Nat) (s : State) : (s.evBoth m c d).fabric = s.fabric := by
  simp [State.evBoth]
@[simp] theorem State.evBoth_marker (m c : Nat) (d : List Nat) (s : State) : (s.evBoth m c d).marker = s.marker := by
  simp [State.evBoth]
@[simp] theorem State.evBoth_chest (m c : Nat) (d : List Nat) (s : State) : (s.evBoth m c d).chest = s.chest := by
  simp [State.evBoth]
@[simp] theorem State.evBoth_entropy (m c : Nat) (d : List Nat) (s : State) : (s.evBoth m c d).entropy = s.entropy := by
  simp [State.evBoth]
@[simp] theorem State.evBoth_power (m c : Nat) (d : List Nat) (s : State) : (s.evBoth m c d).power = s.power := by
  simp [State.evBoth]
@[simp] theorem State.evBoth_smbus (m c : Nat) (d : List Nat) (s : State) : (s.evBoth m c d).smbus = s.smbus := by
  simp [State.evBoth]
@[simp] theorem State.evBoth_mgmt (m c : Nat) (d : List Nat) (s : State) : (s.evBoth m c d).mgmt = s.mgmt := by
  simp [State.evBoth]
@[simp] theorem State.evBoth_faults (m c : Nat) (d : List Nat) (s : State) : (s.evBoth m c d).faults = s.faults := by
  simp [State.evBoth]
@[simp] theorem State.evBoth_longs (m c : Nat) (d : List Nat) (s : State) : (s.evBoth m c d).longs = s.longs := by
  simp [State.evBoth]
@[simp] theorem State.evBoth_parcel (m c : Nat) (d : List Nat) (j : Nat) (s : State) : (s.evBoth m c d).parcel j = s.parcel j := by
  simp [State.parcel]
@[simp] theorem State.evBoth_ctx (m c : Nat) (d : List Nat) (j k : Nat) (s : State) : (s.evBoth m c d).ctx j k = s.ctx j k := by
  simp [State.ctx, State.parcel]
@[simp] theorem State.evBoth_cluster (m c : Nat) (d : List Nat) (j : Nat) (s : State) : (s.evBoth m c d).cluster j = s.cluster j := by
  simp [State.cluster]
@[simp] theorem State.evBoth_link (m c : Nat) (d : List Nat) (j : Nat) (s : State) : (s.evBoth m c d).link j = s.link j := by
  simp [State.link]
@[simp] theorem State.evBoth_conn (m c : Nat) (d : List Nat) (j : Nat) (s : State) : (s.evBoth m c d).conn j = s.conn j := by
  simp [State.conn]
@[simp] theorem State.evBoth_ease (m c : Nat) (d : List Nat) (j : Nat) (s : State) : (s.evBoth m c d).ease j = s.ease j := by
  simp [State.ease]
@[simp] theorem State.evBoth_slotVal (m c : Nat) (d : List Nat) (j : Nat) (s : State) : (s.evBoth m c d).slotVal j = s.slotVal j := by
  simp [State.slotVal]
@[simp] theorem State.evBoth_slotAttrs (m c : Nat) (d : List Nat) (j : Nat) (s : State) : (s.evBoth m c d).slotAttrs j = s.slotAttrs j := by
  simp [State.slotAttrs]
@[simp] theorem State.evBoth_slotFilled (m c : Nat) (d : List Nat) (j : Nat) (s : State) : (s.evBoth m c d).slotFilled j = s.slotFilled j := by
  simp [State.slotFilled]
@[simp] theorem State.evBoth_now (m c : Nat) (d : List Nat) (s : State) : (s.evBoth m c d).now = s.now := by
  simp [State.now]

/-! `State.evOpen`. -/

@[simp] theorem State.evOpen_pending (c : Nat) (d : List Nat) (s : State) : (s.evOpen c d).pending = s.pending := by
  unfold State.evOpen
  exact foldl_keeps State.pending _ (fun t n => by split <;> simp) _ _
@[simp] theorem State.evOpen_draws (c : Nat) (d : List Nat) (s : State) : (s.evOpen c d).draws = s.draws := by
  unfold State.evOpen
  exact foldl_keeps State.draws _ (fun t n => by split <;> simp) _ _
@[simp] theorem State.evOpen_outbox (c : Nat) (d : List Nat) (s : State) : (s.evOpen c d).outbox = s.outbox := by
  unfold State.evOpen
  exact foldl_keeps State.outbox _ (fun t n => by split <;> simp) _ _
@[simp] theorem State.evOpen_clock (c : Nat) (d : List Nat) (s : State) : (s.evOpen c d).clock = s.clock := by
  unfold State.evOpen
  exact foldl_keeps State.clock _ (fun t n => by split <;> simp) _ _
@[simp] theorem State.evOpen_boot (c : Nat) (d : List Nat) (s : State) : (s.evOpen c d).boot = s.boot := by
  unfold State.evOpen
  exact foldl_keeps State.boot _ (fun t n => by split <;> simp) _ _
@[simp] theorem State.evOpen_flash (c : Nat) (d : List Nat) (s : State) : (s.evOpen c d).flash = s.flash := by
  unfold State.evOpen
  exact foldl_keeps State.flash _ (fun t n => by split <;> simp) _ _
@[simp] theorem State.evOpen_plat (c : Nat) (d : List Nat) (s : State) : (s.evOpen c d).plat = s.plat := by
  unfold State.evOpen
  exact foldl_keeps State.plat _ (fun t n => by split <;> simp) _ _
@[simp] theorem State.evOpen_host (c : Nat) (d : List Nat) (s : State) : (s.evOpen c d).host = s.host := by
  unfold State.evOpen
  exact foldl_keeps State.host _ (fun t n => by split <;> simp) _ _
@[simp] theorem State.evOpen_parcels (c : Nat) (d : List Nat) (s : State) : (s.evOpen c d).parcels = s.parcels := by
  unfold State.evOpen
  exact foldl_keeps State.parcels _ (fun t n => by split <;> simp) _ _
@[simp] theorem State.evOpen_clusters (c : Nat) (d : List Nat) (s : State) : (s.evOpen c d).clusters = s.clusters := by
  unfold State.evOpen
  exact foldl_keeps State.clusters _ (fun t n => by split <;> simp) _ _
@[simp] theorem State.evOpen_links (c : Nat) (d : List Nat) (s : State) : (s.evOpen c d).links = s.links := by
  unfold State.evOpen
  exact foldl_keeps State.links _ (fun t n => by split <;> simp) _ _
@[simp] theorem State.evOpen_fabric (c : Nat) (d : List Nat) (s : State) : (s.evOpen c d).fabric = s.fabric := by
  unfold State.evOpen
  exact foldl_keeps State.fabric _ (fun t n => by split <;> simp) _ _
@[simp] theorem State.evOpen_marker (c : Nat) (d : List Nat) (s : State) : (s.evOpen c d).marker = s.marker := by
  unfold State.evOpen
  exact foldl_keeps State.marker _ (fun t n => by split <;> simp) _ _
@[simp] theorem State.evOpen_chest (c : Nat) (d : List Nat) (s : State) : (s.evOpen c d).chest = s.chest := by
  unfold State.evOpen
  exact foldl_keeps State.chest _ (fun t n => by split <;> simp) _ _
@[simp] theorem State.evOpen_entropy (c : Nat) (d : List Nat) (s : State) : (s.evOpen c d).entropy = s.entropy := by
  unfold State.evOpen
  exact foldl_keeps State.entropy _ (fun t n => by split <;> simp) _ _
@[simp] theorem State.evOpen_power (c : Nat) (d : List Nat) (s : State) : (s.evOpen c d).power = s.power := by
  unfold State.evOpen
  exact foldl_keeps State.power _ (fun t n => by split <;> simp) _ _
@[simp] theorem State.evOpen_smbus (c : Nat) (d : List Nat) (s : State) : (s.evOpen c d).smbus = s.smbus := by
  unfold State.evOpen
  exact foldl_keeps State.smbus _ (fun t n => by split <;> simp) _ _
@[simp] theorem State.evOpen_mgmt (c : Nat) (d : List Nat) (s : State) : (s.evOpen c d).mgmt = s.mgmt := by
  unfold State.evOpen
  exact foldl_keeps State.mgmt _ (fun t n => by split <;> simp) _ _
@[simp] theorem State.evOpen_faults (c : Nat) (d : List Nat) (s : State) : (s.evOpen c d).faults = s.faults := by
  unfold State.evOpen
  exact foldl_keeps State.faults _ (fun t n => by split <;> simp) _ _
@[simp] theorem State.evOpen_longs (c : Nat) (d : List Nat) (s : State) : (s.evOpen c d).longs = s.longs := by
  unfold State.evOpen
  exact foldl_keeps State.longs _ (fun t n => by split <;> simp) _ _
@[simp] theorem State.evOpen_parcel (c : Nat) (d : List Nat) (j : Nat) (s : State) : (s.evOpen c d).parcel j = s.parcel j := by
  simp [State.parcel]
@[simp] theorem State.evOpen_ctx (c : Nat) (d : List Nat) (j k : Nat) (s : State) : (s.evOpen c d).ctx j k = s.ctx j k := by
  simp [State.ctx, State.parcel]
@[simp] theorem State.evOpen_cluster (c : Nat) (d : List Nat) (j : Nat) (s : State) : (s.evOpen c d).cluster j = s.cluster j := by
  simp [State.cluster]
@[simp] theorem State.evOpen_link (c : Nat) (d : List Nat) (j : Nat) (s : State) : (s.evOpen c d).link j = s.link j := by
  simp [State.link]
@[simp] theorem State.evOpen_conn (c : Nat) (d : List Nat) (j : Nat) (s : State) : (s.evOpen c d).conn j = s.conn j := by
  simp [State.conn]
@[simp] theorem State.evOpen_ease (c : Nat) (d : List Nat) (j : Nat) (s : State) : (s.evOpen c d).ease j = s.ease j := by
  simp [State.ease]
@[simp] theorem State.evOpen_slotVal (c : Nat) (d : List Nat) (j : Nat) (s : State) : (s.evOpen c d).slotVal j = s.slotVal j := by
  simp [State.slotVal]
@[simp] theorem State.evOpen_slotAttrs (c : Nat) (d : List Nat) (j : Nat) (s : State) : (s.evOpen c d).slotAttrs j = s.slotAttrs j := by
  simp [State.slotAttrs]
@[simp] theorem State.evOpen_slotFilled (c : Nat) (d : List Nat) (j : Nat) (s : State) : (s.evOpen c d).slotFilled j = s.slotFilled j := by
  simp [State.slotFilled]
@[simp] theorem State.evOpen_now (c : Nat) (d : List Nat) (s : State) : (s.evOpen c d).now = s.now := by
  simp [State.now]

/-! `State.sendEvent`. -/

@[simp] theorem State.sendEvent_pending (c : Nat) (d : List Nat) (s : State) : (s.sendEvent c d).pending = s.pending := by
  unfold State.sendEvent; dsimp only; split <;> rfl
@[simp] theorem State.sendEvent_draws (c : Nat) (d : List Nat) (s : State) : (s.sendEvent c d).draws = s.draws := by
  unfold State.sendEvent; dsimp only; split <;> rfl
@[simp] theorem State.sendEvent_clock (c : Nat) (d : List Nat) (s : State) : (s.sendEvent c d).clock = s.clock := by
  unfold State.sendEvent; dsimp only; split <;> rfl
@[simp] theorem State.sendEvent_boot (c : Nat) (d : List Nat) (s : State) : (s.sendEvent c d).boot = s.boot := by
  unfold State.sendEvent; dsimp only; split <;> rfl
@[simp] theorem State.sendEvent_flash (c : Nat) (d : List Nat) (s : State) : (s.sendEvent c d).flash = s.flash := by
  unfold State.sendEvent; dsimp only; split <;> rfl
@[simp] theorem State.sendEvent_plat (c : Nat) (d : List Nat) (s : State) : (s.sendEvent c d).plat = s.plat := by
  unfold State.sendEvent; dsimp only; split <;> rfl
@[simp] theorem State.sendEvent_fns (c : Nat) (d : List Nat) (s : State) : (s.sendEvent c d).fns = s.fns := by
  unfold State.sendEvent; dsimp only; split <;> rfl
@[simp] theorem State.sendEvent_host (c : Nat) (d : List Nat) (s : State) : (s.sendEvent c d).host = s.host := by
  unfold State.sendEvent; dsimp only; split <;> rfl
@[simp] theorem State.sendEvent_parcels (c : Nat) (d : List Nat) (s : State) : (s.sendEvent c d).parcels = s.parcels := by
  unfold State.sendEvent; dsimp only; split <;> rfl
@[simp] theorem State.sendEvent_clusters (c : Nat) (d : List Nat) (s : State) : (s.sendEvent c d).clusters = s.clusters := by
  unfold State.sendEvent; dsimp only; split <;> rfl
@[simp] theorem State.sendEvent_links (c : Nat) (d : List Nat) (s : State) : (s.sendEvent c d).links = s.links := by
  unfold State.sendEvent; dsimp only; split <;> rfl
@[simp] theorem State.sendEvent_fabric (c : Nat) (d : List Nat) (s : State) : (s.sendEvent c d).fabric = s.fabric := by
  unfold State.sendEvent; dsimp only; split <;> rfl
@[simp] theorem State.sendEvent_marker (c : Nat) (d : List Nat) (s : State) : (s.sendEvent c d).marker = s.marker := by
  unfold State.sendEvent; dsimp only; split <;> rfl
@[simp] theorem State.sendEvent_chest (c : Nat) (d : List Nat) (s : State) : (s.sendEvent c d).chest = s.chest := by
  unfold State.sendEvent; dsimp only; split <;> rfl
@[simp] theorem State.sendEvent_entropy (c : Nat) (d : List Nat) (s : State) : (s.sendEvent c d).entropy = s.entropy := by
  unfold State.sendEvent; dsimp only; split <;> rfl
@[simp] theorem State.sendEvent_power (c : Nat) (d : List Nat) (s : State) : (s.sendEvent c d).power = s.power := by
  unfold State.sendEvent; dsimp only; split <;> rfl
@[simp] theorem State.sendEvent_mgmt (c : Nat) (d : List Nat) (s : State) : (s.sendEvent c d).mgmt = s.mgmt := by
  unfold State.sendEvent; dsimp only; split <;> rfl
@[simp] theorem State.sendEvent_faults (c : Nat) (d : List Nat) (s : State) : (s.sendEvent c d).faults = s.faults := by
  unfold State.sendEvent; dsimp only; split <;> rfl
@[simp] theorem State.sendEvent_longs (c : Nat) (d : List Nat) (s : State) : (s.sendEvent c d).longs = s.longs := by
  unfold State.sendEvent; dsimp only; split <;> rfl
@[simp] theorem State.sendEvent_fn (c : Nat) (d : List Nat) (j : Nat) (s : State) : (s.sendEvent c d).fn j = s.fn j := by
  simp [State.fn]
@[simp] theorem State.sendEvent_parcel (c : Nat) (d : List Nat) (j : Nat) (s : State) : (s.sendEvent c d).parcel j = s.parcel j := by
  simp [State.parcel]
@[simp] theorem State.sendEvent_ctx (c : Nat) (d : List Nat) (j k : Nat) (s : State) : (s.sendEvent c d).ctx j k = s.ctx j k := by
  simp [State.ctx, State.parcel]
@[simp] theorem State.sendEvent_cluster (c : Nat) (d : List Nat) (j : Nat) (s : State) : (s.sendEvent c d).cluster j = s.cluster j := by
  simp [State.cluster]
@[simp] theorem State.sendEvent_link (c : Nat) (d : List Nat) (j : Nat) (s : State) : (s.sendEvent c d).link j = s.link j := by
  simp [State.link]
@[simp] theorem State.sendEvent_conn (c : Nat) (d : List Nat) (j : Nat) (s : State) : (s.sendEvent c d).conn j = s.conn j := by
  simp [State.conn]
@[simp] theorem State.sendEvent_ease (c : Nat) (d : List Nat) (j : Nat) (s : State) : (s.sendEvent c d).ease j = s.ease j := by
  simp [State.ease]
@[simp] theorem State.sendEvent_slotVal (c : Nat) (d : List Nat) (j : Nat) (s : State) : (s.sendEvent c d).slotVal j = s.slotVal j := by
  simp [State.slotVal]
@[simp] theorem State.sendEvent_slotAttrs (c : Nat) (d : List Nat) (j : Nat) (s : State) : (s.sendEvent c d).slotAttrs j = s.slotAttrs j := by
  simp [State.slotAttrs]
@[simp] theorem State.sendEvent_slotFilled (c : Nat) (d : List Nat) (j : Nat) (s : State) : (s.sendEvent c d).slotFilled j = s.slotFilled j := by
  simp [State.slotFilled]
@[simp] theorem State.sendEvent_now (c : Nat) (d : List Nat) (s : State) : (s.sendEvent c d).now = s.now := by
  simp [State.now]

/-! `State.evMgmt`. -/

@[simp] theorem State.evMgmt_pending (c : Nat) (d : List Nat) (s : State) : (s.evMgmt c d).pending = s.pending := by
  unfold State.evMgmt; repeat' split
  all_goals simp
@[simp] theorem State.evMgmt_draws (c : Nat) (d : List Nat) (s : State) : (s.evMgmt c d).draws = s.draws := by
  unfold State.evMgmt; repeat' split
  all_goals simp
@[simp] theorem State.evMgmt_clock (c : Nat) (d : List Nat) (s : State) : (s.evMgmt c d).clock = s.clock := by
  unfold State.evMgmt; repeat' split
  all_goals simp
@[simp] theorem State.evMgmt_boot (c : Nat) (d : List Nat) (s : State) : (s.evMgmt c d).boot = s.boot := by
  unfold State.evMgmt; repeat' split
  all_goals simp
@[simp] theorem State.evMgmt_flash (c : Nat) (d : List Nat) (s : State) : (s.evMgmt c d).flash = s.flash := by
  unfold State.evMgmt; repeat' split
  all_goals simp
@[simp] theorem State.evMgmt_plat (c : Nat) (d : List Nat) (s : State) : (s.evMgmt c d).plat = s.plat := by
  unfold State.evMgmt; repeat' split
  all_goals simp
@[simp] theorem State.evMgmt_fns (c : Nat) (d : List Nat) (s : State) : (s.evMgmt c d).fns = s.fns := by
  unfold State.evMgmt; repeat' split
  all_goals simp
@[simp] theorem State.evMgmt_host (c : Nat) (d : List Nat) (s : State) : (s.evMgmt c d).host = s.host := by
  unfold State.evMgmt; repeat' split
  all_goals simp
@[simp] theorem State.evMgmt_parcels (c : Nat) (d : List Nat) (s : State) : (s.evMgmt c d).parcels = s.parcels := by
  unfold State.evMgmt; repeat' split
  all_goals simp
@[simp] theorem State.evMgmt_clusters (c : Nat) (d : List Nat) (s : State) : (s.evMgmt c d).clusters = s.clusters := by
  unfold State.evMgmt; repeat' split
  all_goals simp
@[simp] theorem State.evMgmt_links (c : Nat) (d : List Nat) (s : State) : (s.evMgmt c d).links = s.links := by
  unfold State.evMgmt; repeat' split
  all_goals simp
@[simp] theorem State.evMgmt_fabric (c : Nat) (d : List Nat) (s : State) : (s.evMgmt c d).fabric = s.fabric := by
  unfold State.evMgmt; repeat' split
  all_goals simp
@[simp] theorem State.evMgmt_marker (c : Nat) (d : List Nat) (s : State) : (s.evMgmt c d).marker = s.marker := by
  unfold State.evMgmt; repeat' split
  all_goals simp
@[simp] theorem State.evMgmt_chest (c : Nat) (d : List Nat) (s : State) : (s.evMgmt c d).chest = s.chest := by
  unfold State.evMgmt; repeat' split
  all_goals simp
@[simp] theorem State.evMgmt_entropy (c : Nat) (d : List Nat) (s : State) : (s.evMgmt c d).entropy = s.entropy := by
  unfold State.evMgmt; repeat' split
  all_goals simp
@[simp] theorem State.evMgmt_power (c : Nat) (d : List Nat) (s : State) : (s.evMgmt c d).power = s.power := by
  unfold State.evMgmt; repeat' split
  all_goals simp
@[simp] theorem State.evMgmt_faults (c : Nat) (d : List Nat) (s : State) : (s.evMgmt c d).faults = s.faults := by
  unfold State.evMgmt; repeat' split
  all_goals simp
@[simp] theorem State.evMgmt_longs (c : Nat) (d : List Nat) (s : State) : (s.evMgmt c d).longs = s.longs := by
  unfold State.evMgmt; repeat' split
  all_goals simp
@[simp] theorem State.evMgmt_fn (c : Nat) (d : List Nat) (j : Nat) (s : State) : (s.evMgmt c d).fn j = s.fn j := by
  simp [State.fn]
@[simp] theorem State.evMgmt_parcel (c : Nat) (d : List Nat) (j : Nat) (s : State) : (s.evMgmt c d).parcel j = s.parcel j := by
  simp [State.parcel]
@[simp] theorem State.evMgmt_ctx (c : Nat) (d : List Nat) (j k : Nat) (s : State) : (s.evMgmt c d).ctx j k = s.ctx j k := by
  simp [State.ctx, State.parcel]
@[simp] theorem State.evMgmt_cluster (c : Nat) (d : List Nat) (j : Nat) (s : State) : (s.evMgmt c d).cluster j = s.cluster j := by
  simp [State.cluster]
@[simp] theorem State.evMgmt_link (c : Nat) (d : List Nat) (j : Nat) (s : State) : (s.evMgmt c d).link j = s.link j := by
  simp [State.link]
@[simp] theorem State.evMgmt_conn (c : Nat) (d : List Nat) (j : Nat) (s : State) : (s.evMgmt c d).conn j = s.conn j := by
  simp [State.conn]
@[simp] theorem State.evMgmt_ease (c : Nat) (d : List Nat) (j : Nat) (s : State) : (s.evMgmt c d).ease j = s.ease j := by
  simp [State.ease]
@[simp] theorem State.evMgmt_slotVal (c : Nat) (d : List Nat) (j : Nat) (s : State) : (s.evMgmt c d).slotVal j = s.slotVal j := by
  simp [State.slotVal]
@[simp] theorem State.evMgmt_slotAttrs (c : Nat) (d : List Nat) (j : Nat) (s : State) : (s.evMgmt c d).slotAttrs j = s.slotAttrs j := by
  simp [State.slotAttrs]
@[simp] theorem State.evMgmt_slotFilled (c : Nat) (d : List Nat) (j : Nat) (s : State) : (s.evMgmt c d).slotFilled j = s.slotFilled j := by
  simp [State.slotFilled]
@[simp] theorem State.evMgmt_now (c : Nat) (d : List Nat) (s : State) : (s.evMgmt c d).now = s.now := by
  simp [State.now]

/-! `State.raiseFault`. -/

@[simp] theorem State.raiseFault_pending (w : BitVec 32) (s : State) : (s.raiseFault w).pending = s.pending := by
  simp only [State.raiseFault, State.evMgmt_pending]
  exact (foldl_keeps State.pending _ (fun t n => by split <;> simp) _ _).trans (by simp)
@[simp] theorem State.raiseFault_draws (w : BitVec 32) (s : State) : (s.raiseFault w).draws = s.draws := by
  simp only [State.raiseFault, State.evMgmt_draws]
  exact (foldl_keeps State.draws _ (fun t n => by split <;> simp) _ _).trans (by simp)
@[simp] theorem State.raiseFault_clock (w : BitVec 32) (s : State) : (s.raiseFault w).clock = s.clock := by
  simp only [State.raiseFault, State.evMgmt_clock]
  exact (foldl_keeps State.clock _ (fun t n => by split <;> simp) _ _).trans (by simp)
@[simp] theorem State.raiseFault_boot (w : BitVec 32) (s : State) : (s.raiseFault w).boot = s.boot := by
  simp only [State.raiseFault, State.evMgmt_boot]
  exact (foldl_keeps State.boot _ (fun t n => by split <;> simp) _ _).trans (by simp)
@[simp] theorem State.raiseFault_flash (w : BitVec 32) (s : State) : (s.raiseFault w).flash = s.flash := by
  simp only [State.raiseFault, State.evMgmt_flash]
  exact (foldl_keeps State.flash _ (fun t n => by split <;> simp) _ _).trans (by simp)
@[simp] theorem State.raiseFault_plat (w : BitVec 32) (s : State) : (s.raiseFault w).plat = s.plat := by
  simp only [State.raiseFault, State.evMgmt_plat]
  exact (foldl_keeps State.plat _ (fun t n => by split <;> simp) _ _).trans (by simp)
@[simp] theorem State.raiseFault_host (w : BitVec 32) (s : State) : (s.raiseFault w).host = s.host := by
  simp only [State.raiseFault, State.evMgmt_host]
  exact (foldl_keeps State.host _ (fun t n => by split <;> simp) _ _).trans (by simp)
@[simp] theorem State.raiseFault_parcels (w : BitVec 32) (s : State) : (s.raiseFault w).parcels = s.parcels := by
  simp only [State.raiseFault, State.evMgmt_parcels]
  exact (foldl_keeps State.parcels _ (fun t n => by split <;> simp) _ _).trans (by simp)
@[simp] theorem State.raiseFault_clusters (w : BitVec 32) (s : State) : (s.raiseFault w).clusters = s.clusters := by
  simp only [State.raiseFault, State.evMgmt_clusters]
  exact (foldl_keeps State.clusters _ (fun t n => by split <;> simp) _ _).trans (by simp)
@[simp] theorem State.raiseFault_links (w : BitVec 32) (s : State) : (s.raiseFault w).links = s.links := by
  simp only [State.raiseFault, State.evMgmt_links]
  exact (foldl_keeps State.links _ (fun t n => by split <;> simp) _ _).trans (by simp)
@[simp] theorem State.raiseFault_fabric (w : BitVec 32) (s : State) : (s.raiseFault w).fabric = s.fabric := by
  simp only [State.raiseFault, State.evMgmt_fabric]
  exact (foldl_keeps State.fabric _ (fun t n => by split <;> simp) _ _).trans (by simp)
@[simp] theorem State.raiseFault_marker (w : BitVec 32) (s : State) : (s.raiseFault w).marker = s.marker := by
  simp only [State.raiseFault, State.evMgmt_marker]
  exact (foldl_keeps State.marker _ (fun t n => by split <;> simp) _ _).trans (by simp)
@[simp] theorem State.raiseFault_chest (w : BitVec 32) (s : State) : (s.raiseFault w).chest = s.chest := by
  simp only [State.raiseFault, State.evMgmt_chest]
  exact (foldl_keeps State.chest _ (fun t n => by split <;> simp) _ _).trans (by simp)
@[simp] theorem State.raiseFault_entropy (w : BitVec 32) (s : State) : (s.raiseFault w).entropy = s.entropy := by
  simp only [State.raiseFault, State.evMgmt_entropy]
  exact (foldl_keeps State.entropy _ (fun t n => by split <;> simp) _ _).trans (by simp)
@[simp] theorem State.raiseFault_power (w : BitVec 32) (s : State) : (s.raiseFault w).power = s.power := by
  simp only [State.raiseFault, State.evMgmt_power]
  exact (foldl_keeps State.power _ (fun t n => by split <;> simp) _ _).trans (by simp)
@[simp] theorem State.raiseFault_faults (w : BitVec 32) (s : State) : (s.raiseFault w).faults = s.faults := by
  simp only [State.raiseFault, State.evMgmt_faults]
  exact (foldl_keeps State.faults _ (fun t n => by split <;> simp) _ _).trans (by simp)
@[simp] theorem State.raiseFault_longs (w : BitVec 32) (s : State) : (s.raiseFault w).longs = s.longs := by
  simp only [State.raiseFault, State.evMgmt_longs]
  exact (foldl_keeps State.longs _ (fun t n => by split <;> simp) _ _).trans (by simp)
@[simp] theorem State.raiseFault_parcel (w : BitVec 32) (j : Nat) (s : State) : (s.raiseFault w).parcel j = s.parcel j := by
  simp [State.parcel]
@[simp] theorem State.raiseFault_ctx (w : BitVec 32) (j k : Nat) (s : State) : (s.raiseFault w).ctx j k = s.ctx j k := by
  simp [State.ctx, State.parcel]
@[simp] theorem State.raiseFault_cluster (w : BitVec 32) (j : Nat) (s : State) : (s.raiseFault w).cluster j = s.cluster j := by
  simp [State.cluster]
@[simp] theorem State.raiseFault_link (w : BitVec 32) (j : Nat) (s : State) : (s.raiseFault w).link j = s.link j := by
  simp [State.link]
@[simp] theorem State.raiseFault_conn (w : BitVec 32) (j : Nat) (s : State) : (s.raiseFault w).conn j = s.conn j := by
  simp [State.conn]
@[simp] theorem State.raiseFault_ease (w : BitVec 32) (j : Nat) (s : State) : (s.raiseFault w).ease j = s.ease j := by
  simp [State.ease]
@[simp] theorem State.raiseFault_slotVal (w : BitVec 32) (j : Nat) (s : State) : (s.raiseFault w).slotVal j = s.slotVal j := by
  simp [State.slotVal]
@[simp] theorem State.raiseFault_slotAttrs (w : BitVec 32) (j : Nat) (s : State) : (s.raiseFault w).slotAttrs j = s.slotAttrs j := by
  simp [State.slotAttrs]
@[simp] theorem State.raiseFault_slotFilled (w : BitVec 32) (j : Nat) (s : State) : (s.raiseFault w).slotFilled j = s.slotFilled j := by
  simp [State.slotFilled]
@[simp] theorem State.raiseFault_now (w : BitVec 32) (s : State) : (s.raiseFault w).now = s.now := by
  simp [State.now]

/-! `State.modClusters`. -/

@[simp] theorem State.modClusters_pending (l : List Nat) (g : Cluster → Cluster) (s : State) : (s.modClusters l g).pending = s.pending := by
  unfold State.modClusters
  exact foldl_keeps State.pending _ (fun t n => by simp) _ _
@[simp] theorem State.modClusters_draws (l : List Nat) (g : Cluster → Cluster) (s : State) : (s.modClusters l g).draws = s.draws := by
  unfold State.modClusters
  exact foldl_keeps State.draws _ (fun t n => by simp) _ _
@[simp] theorem State.modClusters_outbox (l : List Nat) (g : Cluster → Cluster) (s : State) : (s.modClusters l g).outbox = s.outbox := by
  unfold State.modClusters
  exact foldl_keeps State.outbox _ (fun t n => by simp) _ _
@[simp] theorem State.modClusters_clock (l : List Nat) (g : Cluster → Cluster) (s : State) : (s.modClusters l g).clock = s.clock := by
  unfold State.modClusters
  exact foldl_keeps State.clock _ (fun t n => by simp) _ _
@[simp] theorem State.modClusters_boot (l : List Nat) (g : Cluster → Cluster) (s : State) : (s.modClusters l g).boot = s.boot := by
  unfold State.modClusters
  exact foldl_keeps State.boot _ (fun t n => by simp) _ _
@[simp] theorem State.modClusters_flash (l : List Nat) (g : Cluster → Cluster) (s : State) : (s.modClusters l g).flash = s.flash := by
  unfold State.modClusters
  exact foldl_keeps State.flash _ (fun t n => by simp) _ _
@[simp] theorem State.modClusters_plat (l : List Nat) (g : Cluster → Cluster) (s : State) : (s.modClusters l g).plat = s.plat := by
  unfold State.modClusters
  exact foldl_keeps State.plat _ (fun t n => by simp) _ _
@[simp] theorem State.modClusters_fns (l : List Nat) (g : Cluster → Cluster) (s : State) : (s.modClusters l g).fns = s.fns := by
  unfold State.modClusters
  exact foldl_keeps State.fns _ (fun t n => by simp) _ _
@[simp] theorem State.modClusters_host (l : List Nat) (g : Cluster → Cluster) (s : State) : (s.modClusters l g).host = s.host := by
  unfold State.modClusters
  exact foldl_keeps State.host _ (fun t n => by simp) _ _
@[simp] theorem State.modClusters_parcels (l : List Nat) (g : Cluster → Cluster) (s : State) : (s.modClusters l g).parcels = s.parcels := by
  unfold State.modClusters
  exact foldl_keeps State.parcels _ (fun t n => by simp) _ _
@[simp] theorem State.modClusters_links (l : List Nat) (g : Cluster → Cluster) (s : State) : (s.modClusters l g).links = s.links := by
  unfold State.modClusters
  exact foldl_keeps State.links _ (fun t n => by simp) _ _
@[simp] theorem State.modClusters_fabric (l : List Nat) (g : Cluster → Cluster) (s : State) : (s.modClusters l g).fabric = s.fabric := by
  unfold State.modClusters
  exact foldl_keeps State.fabric _ (fun t n => by simp) _ _
@[simp] theorem State.modClusters_marker (l : List Nat) (g : Cluster → Cluster) (s : State) : (s.modClusters l g).marker = s.marker := by
  unfold State.modClusters
  exact foldl_keeps State.marker _ (fun t n => by simp) _ _
@[simp] theorem State.modClusters_chest (l : List Nat) (g : Cluster → Cluster) (s : State) : (s.modClusters l g).chest = s.chest := by
  unfold State.modClusters
  exact foldl_keeps State.chest _ (fun t n => by simp) _ _
@[simp] theorem State.modClusters_entropy (l : List Nat) (g : Cluster → Cluster) (s : State) : (s.modClusters l g).entropy = s.entropy := by
  unfold State.modClusters
  exact foldl_keeps State.entropy _ (fun t n => by simp) _ _
@[simp] theorem State.modClusters_power (l : List Nat) (g : Cluster → Cluster) (s : State) : (s.modClusters l g).power = s.power := by
  unfold State.modClusters
  exact foldl_keeps State.power _ (fun t n => by simp) _ _
@[simp] theorem State.modClusters_smbus (l : List Nat) (g : Cluster → Cluster) (s : State) : (s.modClusters l g).smbus = s.smbus := by
  unfold State.modClusters
  exact foldl_keeps State.smbus _ (fun t n => by simp) _ _
@[simp] theorem State.modClusters_mgmt (l : List Nat) (g : Cluster → Cluster) (s : State) : (s.modClusters l g).mgmt = s.mgmt := by
  unfold State.modClusters
  exact foldl_keeps State.mgmt _ (fun t n => by simp) _ _
@[simp] theorem State.modClusters_faults (l : List Nat) (g : Cluster → Cluster) (s : State) : (s.modClusters l g).faults = s.faults := by
  unfold State.modClusters
  exact foldl_keeps State.faults _ (fun t n => by simp) _ _
@[simp] theorem State.modClusters_longs (l : List Nat) (g : Cluster → Cluster) (s : State) : (s.modClusters l g).longs = s.longs := by
  unfold State.modClusters
  exact foldl_keeps State.longs _ (fun t n => by simp) _ _
@[simp] theorem State.modClusters_fn (l : List Nat) (g : Cluster → Cluster) (j : Nat) (s : State) : (s.modClusters l g).fn j = s.fn j := by
  simp [State.fn]
@[simp] theorem State.modClusters_parcel (l : List Nat) (g : Cluster → Cluster) (j : Nat) (s : State) : (s.modClusters l g).parcel j = s.parcel j := by
  simp [State.parcel]
@[simp] theorem State.modClusters_ctx (l : List Nat) (g : Cluster → Cluster) (j k : Nat) (s : State) : (s.modClusters l g).ctx j k = s.ctx j k := by
  simp [State.ctx, State.parcel]
@[simp] theorem State.modClusters_link (l : List Nat) (g : Cluster → Cluster) (j : Nat) (s : State) : (s.modClusters l g).link j = s.link j := by
  simp [State.link]
@[simp] theorem State.modClusters_conn (l : List Nat) (g : Cluster → Cluster) (j : Nat) (s : State) : (s.modClusters l g).conn j = s.conn j := by
  simp [State.conn]
@[simp] theorem State.modClusters_ease (l : List Nat) (g : Cluster → Cluster) (j : Nat) (s : State) : (s.modClusters l g).ease j = s.ease j := by
  simp [State.ease]
@[simp] theorem State.modClusters_slotVal (l : List Nat) (g : Cluster → Cluster) (j : Nat) (s : State) : (s.modClusters l g).slotVal j = s.slotVal j := by
  simp [State.slotVal]
@[simp] theorem State.modClusters_slotAttrs (l : List Nat) (g : Cluster → Cluster) (j : Nat) (s : State) : (s.modClusters l g).slotAttrs j = s.slotAttrs j := by
  simp [State.slotAttrs]
@[simp] theorem State.modClusters_slotFilled (l : List Nat) (g : Cluster → Cluster) (j : Nat) (s : State) : (s.modClusters l g).slotFilled j = s.slotFilled j := by
  simp [State.slotFilled]
@[simp] theorem State.modClusters_now (l : List Nat) (g : Cluster → Cluster) (s : State) : (s.modClusters l g).now = s.now := by
  simp [State.now]

/-! `State.modLogical`. -/

@[simp] theorem State.modLogical_pending (m x : Nat) (g : Cluster → Cluster) (s : State) : (s.modLogical m x g).pending = s.pending := by
  simp [State.modLogical]
@[simp] theorem State.modLogical_draws (m x : Nat) (g : Cluster → Cluster) (s : State) : (s.modLogical m x g).draws = s.draws := by
  simp [State.modLogical]
@[simp] theorem State.modLogical_outbox (m x : Nat) (g : Cluster → Cluster) (s : State) : (s.modLogical m x g).outbox = s.outbox := by
  simp [State.modLogical]
@[simp] theorem State.modLogical_clock (m x : Nat) (g : Cluster → Cluster) (s : State) : (s.modLogical m x g).clock = s.clock := by
  simp [State.modLogical]
@[simp] theorem State.modLogical_boot (m x : Nat) (g : Cluster → Cluster) (s : State) : (s.modLogical m x g).boot = s.boot := by
  simp [State.modLogical]
@[simp] theorem State.modLogical_flash (m x : Nat) (g : Cluster → Cluster) (s : State) : (s.modLogical m x g).flash = s.flash := by
  simp [State.modLogical]
@[simp] theorem State.modLogical_plat (m x : Nat) (g : Cluster → Cluster) (s : State) : (s.modLogical m x g).plat = s.plat := by
  simp [State.modLogical]
@[simp] theorem State.modLogical_fns (m x : Nat) (g : Cluster → Cluster) (s : State) : (s.modLogical m x g).fns = s.fns := by
  simp [State.modLogical]
@[simp] theorem State.modLogical_host (m x : Nat) (g : Cluster → Cluster) (s : State) : (s.modLogical m x g).host = s.host := by
  simp [State.modLogical]
@[simp] theorem State.modLogical_parcels (m x : Nat) (g : Cluster → Cluster) (s : State) : (s.modLogical m x g).parcels = s.parcels := by
  simp [State.modLogical]
@[simp] theorem State.modLogical_links (m x : Nat) (g : Cluster → Cluster) (s : State) : (s.modLogical m x g).links = s.links := by
  simp [State.modLogical]
@[simp] theorem State.modLogical_fabric (m x : Nat) (g : Cluster → Cluster) (s : State) : (s.modLogical m x g).fabric = s.fabric := by
  simp [State.modLogical]
@[simp] theorem State.modLogical_marker (m x : Nat) (g : Cluster → Cluster) (s : State) : (s.modLogical m x g).marker = s.marker := by
  simp [State.modLogical]
@[simp] theorem State.modLogical_chest (m x : Nat) (g : Cluster → Cluster) (s : State) : (s.modLogical m x g).chest = s.chest := by
  simp [State.modLogical]
@[simp] theorem State.modLogical_entropy (m x : Nat) (g : Cluster → Cluster) (s : State) : (s.modLogical m x g).entropy = s.entropy := by
  simp [State.modLogical]
@[simp] theorem State.modLogical_power (m x : Nat) (g : Cluster → Cluster) (s : State) : (s.modLogical m x g).power = s.power := by
  simp [State.modLogical]
@[simp] theorem State.modLogical_smbus (m x : Nat) (g : Cluster → Cluster) (s : State) : (s.modLogical m x g).smbus = s.smbus := by
  simp [State.modLogical]
@[simp] theorem State.modLogical_mgmt (m x : Nat) (g : Cluster → Cluster) (s : State) : (s.modLogical m x g).mgmt = s.mgmt := by
  simp [State.modLogical]
@[simp] theorem State.modLogical_faults (m x : Nat) (g : Cluster → Cluster) (s : State) : (s.modLogical m x g).faults = s.faults := by
  simp [State.modLogical]
@[simp] theorem State.modLogical_longs (m x : Nat) (g : Cluster → Cluster) (s : State) : (s.modLogical m x g).longs = s.longs := by
  simp [State.modLogical]
@[simp] theorem State.modLogical_fn (m x : Nat) (g : Cluster → Cluster) (j : Nat) (s : State) : (s.modLogical m x g).fn j = s.fn j := by
  simp [State.fn]
@[simp] theorem State.modLogical_parcel (m x : Nat) (g : Cluster → Cluster) (j : Nat) (s : State) : (s.modLogical m x g).parcel j = s.parcel j := by
  simp [State.parcel]
@[simp] theorem State.modLogical_ctx (m x : Nat) (g : Cluster → Cluster) (j k : Nat) (s : State) : (s.modLogical m x g).ctx j k = s.ctx j k := by
  simp [State.ctx, State.parcel]
@[simp] theorem State.modLogical_link (m x : Nat) (g : Cluster → Cluster) (j : Nat) (s : State) : (s.modLogical m x g).link j = s.link j := by
  simp [State.link]
@[simp] theorem State.modLogical_conn (m x : Nat) (g : Cluster → Cluster) (j : Nat) (s : State) : (s.modLogical m x g).conn j = s.conn j := by
  simp [State.conn]
@[simp] theorem State.modLogical_ease (m x : Nat) (g : Cluster → Cluster) (j : Nat) (s : State) : (s.modLogical m x g).ease j = s.ease j := by
  simp [State.ease]
@[simp] theorem State.modLogical_slotVal (m x : Nat) (g : Cluster → Cluster) (j : Nat) (s : State) : (s.modLogical m x g).slotVal j = s.slotVal j := by
  simp [State.slotVal]
@[simp] theorem State.modLogical_slotAttrs (m x : Nat) (g : Cluster → Cluster) (j : Nat) (s : State) : (s.modLogical m x g).slotAttrs j = s.slotAttrs j := by
  simp [State.slotAttrs]
@[simp] theorem State.modLogical_slotFilled (m x : Nat) (g : Cluster → Cluster) (j : Nat) (s : State) : (s.modLogical m x g).slotFilled j = s.slotFilled j := by
  simp [State.slotFilled]
@[simp] theorem State.modLogical_now (m x : Nat) (g : Cluster → Cluster) (s : State) : (s.modLogical m x g).now = s.now := by
  simp [State.now]

/-! `State.signal`. -/

@[simp] theorem State.signal_pending (m i a : Nat) (s : State) : (s.signal m i a).pending = s.pending := by
  simp [State.signal]
@[simp] theorem State.signal_draws (m i a : Nat) (s : State) : (s.signal m i a).draws = s.draws := by
  simp [State.signal]
@[simp] theorem State.signal_outbox (m i a : Nat) (s : State) : (s.signal m i a).outbox = s.outbox := by
  simp [State.signal]
@[simp] theorem State.signal_clock (m i a : Nat) (s : State) : (s.signal m i a).clock = s.clock := by
  simp [State.signal]
@[simp] theorem State.signal_boot (m i a : Nat) (s : State) : (s.signal m i a).boot = s.boot := by
  simp [State.signal]
@[simp] theorem State.signal_flash (m i a : Nat) (s : State) : (s.signal m i a).flash = s.flash := by
  simp [State.signal]
@[simp] theorem State.signal_plat (m i a : Nat) (s : State) : (s.signal m i a).plat = s.plat := by
  simp [State.signal]
@[simp] theorem State.signal_fns (m i a : Nat) (s : State) : (s.signal m i a).fns = s.fns := by
  simp [State.signal]
@[simp] theorem State.signal_host (m i a : Nat) (s : State) : (s.signal m i a).host = s.host := by
  simp [State.signal]
@[simp] theorem State.signal_parcels (m i a : Nat) (s : State) : (s.signal m i a).parcels = s.parcels := by
  simp [State.signal]
@[simp] theorem State.signal_links (m i a : Nat) (s : State) : (s.signal m i a).links = s.links := by
  simp [State.signal]
@[simp] theorem State.signal_fabric (m i a : Nat) (s : State) : (s.signal m i a).fabric = s.fabric := by
  simp [State.signal]
@[simp] theorem State.signal_marker (m i a : Nat) (s : State) : (s.signal m i a).marker = s.marker := by
  simp [State.signal]
@[simp] theorem State.signal_chest (m i a : Nat) (s : State) : (s.signal m i a).chest = s.chest := by
  simp [State.signal]
@[simp] theorem State.signal_entropy (m i a : Nat) (s : State) : (s.signal m i a).entropy = s.entropy := by
  simp [State.signal]
@[simp] theorem State.signal_power (m i a : Nat) (s : State) : (s.signal m i a).power = s.power := by
  simp [State.signal]
@[simp] theorem State.signal_smbus (m i a : Nat) (s : State) : (s.signal m i a).smbus = s.smbus := by
  simp [State.signal]
@[simp] theorem State.signal_mgmt (m i a : Nat) (s : State) : (s.signal m i a).mgmt = s.mgmt := by
  simp [State.signal]
@[simp] theorem State.signal_faults (m i a : Nat) (s : State) : (s.signal m i a).faults = s.faults := by
  simp [State.signal]
@[simp] theorem State.signal_longs (m i a : Nat) (s : State) : (s.signal m i a).longs = s.longs := by
  simp [State.signal]
@[simp] theorem State.signal_fn (m i a : Nat) (j : Nat) (s : State) : (s.signal m i a).fn j = s.fn j := by
  simp [State.fn]
@[simp] theorem State.signal_parcel (m i a : Nat) (j : Nat) (s : State) : (s.signal m i a).parcel j = s.parcel j := by
  simp [State.parcel]
@[simp] theorem State.signal_ctx (m i a : Nat) (j k : Nat) (s : State) : (s.signal m i a).ctx j k = s.ctx j k := by
  simp [State.ctx, State.parcel]
@[simp] theorem State.signal_link (m i a : Nat) (j : Nat) (s : State) : (s.signal m i a).link j = s.link j := by
  simp [State.link]
@[simp] theorem State.signal_conn (m i a : Nat) (j : Nat) (s : State) : (s.signal m i a).conn j = s.conn j := by
  simp [State.conn]
@[simp] theorem State.signal_ease (m i a : Nat) (j : Nat) (s : State) : (s.signal m i a).ease j = s.ease j := by
  simp [State.ease]
@[simp] theorem State.signal_slotVal (m i a : Nat) (j : Nat) (s : State) : (s.signal m i a).slotVal j = s.slotVal j := by
  simp [State.slotVal]
@[simp] theorem State.signal_slotAttrs (m i a : Nat) (j : Nat) (s : State) : (s.signal m i a).slotAttrs j = s.slotAttrs j := by
  simp [State.slotAttrs]
@[simp] theorem State.signal_slotFilled (m i a : Nat) (j : Nat) (s : State) : (s.signal m i a).slotFilled j = s.slotFilled j := by
  simp [State.slotFilled]
@[simp] theorem State.signal_now (m i a : Nat) (s : State) : (s.signal m i a).now = s.now := by
  simp [State.now]

/-! `State.signalCtx`. -/

@[simp] theorem State.signalCtx_pending (m x i a : Nat) (s : State) : (s.signalCtx m x i a).pending = s.pending := by
  unfold State.signalCtx; repeat' split
  all_goals simp
@[simp] theorem State.signalCtx_draws (m x i a : Nat) (s : State) : (s.signalCtx m x i a).draws = s.draws := by
  unfold State.signalCtx; repeat' split
  all_goals simp
@[simp] theorem State.signalCtx_outbox (m x i a : Nat) (s : State) : (s.signalCtx m x i a).outbox = s.outbox := by
  unfold State.signalCtx; repeat' split
  all_goals simp
@[simp] theorem State.signalCtx_clock (m x i a : Nat) (s : State) : (s.signalCtx m x i a).clock = s.clock := by
  unfold State.signalCtx; repeat' split
  all_goals simp
@[simp] theorem State.signalCtx_boot (m x i a : Nat) (s : State) : (s.signalCtx m x i a).boot = s.boot := by
  unfold State.signalCtx; repeat' split
  all_goals simp
@[simp] theorem State.signalCtx_flash (m x i a : Nat) (s : State) : (s.signalCtx m x i a).flash = s.flash := by
  unfold State.signalCtx; repeat' split
  all_goals simp
@[simp] theorem State.signalCtx_plat (m x i a : Nat) (s : State) : (s.signalCtx m x i a).plat = s.plat := by
  unfold State.signalCtx; repeat' split
  all_goals simp
@[simp] theorem State.signalCtx_fns (m x i a : Nat) (s : State) : (s.signalCtx m x i a).fns = s.fns := by
  unfold State.signalCtx; repeat' split
  all_goals simp
@[simp] theorem State.signalCtx_host (m x i a : Nat) (s : State) : (s.signalCtx m x i a).host = s.host := by
  unfold State.signalCtx; repeat' split
  all_goals simp
@[simp] theorem State.signalCtx_parcels (m x i a : Nat) (s : State) : (s.signalCtx m x i a).parcels = s.parcels := by
  unfold State.signalCtx; repeat' split
  all_goals simp
@[simp] theorem State.signalCtx_links (m x i a : Nat) (s : State) : (s.signalCtx m x i a).links = s.links := by
  unfold State.signalCtx; repeat' split
  all_goals simp
@[simp] theorem State.signalCtx_fabric (m x i a : Nat) (s : State) : (s.signalCtx m x i a).fabric = s.fabric := by
  unfold State.signalCtx; repeat' split
  all_goals simp
@[simp] theorem State.signalCtx_marker (m x i a : Nat) (s : State) : (s.signalCtx m x i a).marker = s.marker := by
  unfold State.signalCtx; repeat' split
  all_goals simp
@[simp] theorem State.signalCtx_chest (m x i a : Nat) (s : State) : (s.signalCtx m x i a).chest = s.chest := by
  unfold State.signalCtx; repeat' split
  all_goals simp
@[simp] theorem State.signalCtx_entropy (m x i a : Nat) (s : State) : (s.signalCtx m x i a).entropy = s.entropy := by
  unfold State.signalCtx; repeat' split
  all_goals simp
@[simp] theorem State.signalCtx_power (m x i a : Nat) (s : State) : (s.signalCtx m x i a).power = s.power := by
  unfold State.signalCtx; repeat' split
  all_goals simp
@[simp] theorem State.signalCtx_smbus (m x i a : Nat) (s : State) : (s.signalCtx m x i a).smbus = s.smbus := by
  unfold State.signalCtx; repeat' split
  all_goals simp
@[simp] theorem State.signalCtx_mgmt (m x i a : Nat) (s : State) : (s.signalCtx m x i a).mgmt = s.mgmt := by
  unfold State.signalCtx; repeat' split
  all_goals simp
@[simp] theorem State.signalCtx_faults (m x i a : Nat) (s : State) : (s.signalCtx m x i a).faults = s.faults := by
  unfold State.signalCtx; repeat' split
  all_goals simp
@[simp] theorem State.signalCtx_longs (m x i a : Nat) (s : State) : (s.signalCtx m x i a).longs = s.longs := by
  unfold State.signalCtx; repeat' split
  all_goals simp
@[simp] theorem State.signalCtx_fn (m x i a : Nat) (j : Nat) (s : State) : (s.signalCtx m x i a).fn j = s.fn j := by
  simp [State.fn]
@[simp] theorem State.signalCtx_parcel (m x i a : Nat) (j : Nat) (s : State) : (s.signalCtx m x i a).parcel j = s.parcel j := by
  simp [State.parcel]
@[simp] theorem State.signalCtx_ctx (m x i a : Nat) (j k : Nat) (s : State) : (s.signalCtx m x i a).ctx j k = s.ctx j k := by
  simp [State.ctx, State.parcel]
@[simp] theorem State.signalCtx_link (m x i a : Nat) (j : Nat) (s : State) : (s.signalCtx m x i a).link j = s.link j := by
  simp [State.link]
@[simp] theorem State.signalCtx_conn (m x i a : Nat) (j : Nat) (s : State) : (s.signalCtx m x i a).conn j = s.conn j := by
  simp [State.conn]
@[simp] theorem State.signalCtx_ease (m x i a : Nat) (j : Nat) (s : State) : (s.signalCtx m x i a).ease j = s.ease j := by
  simp [State.ease]
@[simp] theorem State.signalCtx_slotVal (m x i a : Nat) (j : Nat) (s : State) : (s.signalCtx m x i a).slotVal j = s.slotVal j := by
  simp [State.slotVal]
@[simp] theorem State.signalCtx_slotAttrs (m x i a : Nat) (j : Nat) (s : State) : (s.signalCtx m x i a).slotAttrs j = s.slotAttrs j := by
  simp [State.slotAttrs]
@[simp] theorem State.signalCtx_slotFilled (m x i a : Nat) (j : Nat) (s : State) : (s.signalCtx m x i a).slotFilled j = s.slotFilled j := by
  simp [State.slotFilled]
@[simp] theorem State.signalCtx_now (m x i a : Nat) (s : State) : (s.signalCtx m x i a).now = s.now := by
  simp [State.now]

/-! `State.allocStakes`. -/

@[simp] theorem State.allocStakes_pending (m x : Nat) (l : List StakeDecl) (s : State) : (s.allocStakes m x l).pending = s.pending := by
  unfold State.allocStakes
  exact foldl_keeps State.pending _ (fun t n => by simp) _ _
@[simp] theorem State.allocStakes_draws (m x : Nat) (l : List StakeDecl) (s : State) : (s.allocStakes m x l).draws = s.draws := by
  unfold State.allocStakes
  exact foldl_keeps State.draws _ (fun t n => by simp) _ _
@[simp] theorem State.allocStakes_outbox (m x : Nat) (l : List StakeDecl) (s : State) : (s.allocStakes m x l).outbox = s.outbox := by
  unfold State.allocStakes
  exact foldl_keeps State.outbox _ (fun t n => by simp) _ _
@[simp] theorem State.allocStakes_clock (m x : Nat) (l : List StakeDecl) (s : State) : (s.allocStakes m x l).clock = s.clock := by
  unfold State.allocStakes
  exact foldl_keeps State.clock _ (fun t n => by simp) _ _
@[simp] theorem State.allocStakes_boot (m x : Nat) (l : List StakeDecl) (s : State) : (s.allocStakes m x l).boot = s.boot := by
  unfold State.allocStakes
  exact foldl_keeps State.boot _ (fun t n => by simp) _ _
@[simp] theorem State.allocStakes_flash (m x : Nat) (l : List StakeDecl) (s : State) : (s.allocStakes m x l).flash = s.flash := by
  unfold State.allocStakes
  exact foldl_keeps State.flash _ (fun t n => by simp) _ _
@[simp] theorem State.allocStakes_plat (m x : Nat) (l : List StakeDecl) (s : State) : (s.allocStakes m x l).plat = s.plat := by
  unfold State.allocStakes
  exact foldl_keeps State.plat _ (fun t n => by simp) _ _
@[simp] theorem State.allocStakes_fns (m x : Nat) (l : List StakeDecl) (s : State) : (s.allocStakes m x l).fns = s.fns := by
  unfold State.allocStakes
  exact foldl_keeps State.fns _ (fun t n => by simp) _ _
@[simp] theorem State.allocStakes_host (m x : Nat) (l : List StakeDecl) (s : State) : (s.allocStakes m x l).host = s.host := by
  unfold State.allocStakes
  exact foldl_keeps State.host _ (fun t n => by simp) _ _
@[simp] theorem State.allocStakes_parcels (m x : Nat) (l : List StakeDecl) (s : State) : (s.allocStakes m x l).parcels = s.parcels := by
  unfold State.allocStakes
  exact foldl_keeps State.parcels _ (fun t n => by simp) _ _
@[simp] theorem State.allocStakes_links (m x : Nat) (l : List StakeDecl) (s : State) : (s.allocStakes m x l).links = s.links := by
  unfold State.allocStakes
  exact foldl_keeps State.links _ (fun t n => by simp) _ _
@[simp] theorem State.allocStakes_fabric (m x : Nat) (l : List StakeDecl) (s : State) : (s.allocStakes m x l).fabric = s.fabric := by
  unfold State.allocStakes
  exact foldl_keeps State.fabric _ (fun t n => by simp) _ _
@[simp] theorem State.allocStakes_marker (m x : Nat) (l : List StakeDecl) (s : State) : (s.allocStakes m x l).marker = s.marker := by
  unfold State.allocStakes
  exact foldl_keeps State.marker _ (fun t n => by simp) _ _
@[simp] theorem State.allocStakes_chest (m x : Nat) (l : List StakeDecl) (s : State) : (s.allocStakes m x l).chest = s.chest := by
  unfold State.allocStakes
  exact foldl_keeps State.chest _ (fun t n => by simp) _ _
@[simp] theorem State.allocStakes_entropy (m x : Nat) (l : List StakeDecl) (s : State) : (s.allocStakes m x l).entropy = s.entropy := by
  unfold State.allocStakes
  exact foldl_keeps State.entropy _ (fun t n => by simp) _ _
@[simp] theorem State.allocStakes_power (m x : Nat) (l : List StakeDecl) (s : State) : (s.allocStakes m x l).power = s.power := by
  unfold State.allocStakes
  exact foldl_keeps State.power _ (fun t n => by simp) _ _
@[simp] theorem State.allocStakes_smbus (m x : Nat) (l : List StakeDecl) (s : State) : (s.allocStakes m x l).smbus = s.smbus := by
  unfold State.allocStakes
  exact foldl_keeps State.smbus _ (fun t n => by simp) _ _
@[simp] theorem State.allocStakes_mgmt (m x : Nat) (l : List StakeDecl) (s : State) : (s.allocStakes m x l).mgmt = s.mgmt := by
  unfold State.allocStakes
  exact foldl_keeps State.mgmt _ (fun t n => by simp) _ _
@[simp] theorem State.allocStakes_faults (m x : Nat) (l : List StakeDecl) (s : State) : (s.allocStakes m x l).faults = s.faults := by
  unfold State.allocStakes
  exact foldl_keeps State.faults _ (fun t n => by simp) _ _
@[simp] theorem State.allocStakes_longs (m x : Nat) (l : List StakeDecl) (s : State) : (s.allocStakes m x l).longs = s.longs := by
  unfold State.allocStakes
  exact foldl_keeps State.longs _ (fun t n => by simp) _ _
@[simp] theorem State.allocStakes_fn (m x : Nat) (l : List StakeDecl) (j : Nat) (s : State) : (s.allocStakes m x l).fn j = s.fn j := by
  simp [State.fn]
@[simp] theorem State.allocStakes_parcel (m x : Nat) (l : List StakeDecl) (j : Nat) (s : State) : (s.allocStakes m x l).parcel j = s.parcel j := by
  simp [State.parcel]
@[simp] theorem State.allocStakes_ctx (m x : Nat) (l : List StakeDecl) (j k : Nat) (s : State) : (s.allocStakes m x l).ctx j k = s.ctx j k := by
  simp [State.ctx, State.parcel]
@[simp] theorem State.allocStakes_link (m x : Nat) (l : List StakeDecl) (j : Nat) (s : State) : (s.allocStakes m x l).link j = s.link j := by
  simp [State.link]
@[simp] theorem State.allocStakes_conn (m x : Nat) (l : List StakeDecl) (j : Nat) (s : State) : (s.allocStakes m x l).conn j = s.conn j := by
  simp [State.conn]
@[simp] theorem State.allocStakes_ease (m x : Nat) (l : List StakeDecl) (j : Nat) (s : State) : (s.allocStakes m x l).ease j = s.ease j := by
  simp [State.ease]
@[simp] theorem State.allocStakes_slotVal (m x : Nat) (l : List StakeDecl) (j : Nat) (s : State) : (s.allocStakes m x l).slotVal j = s.slotVal j := by
  simp [State.slotVal]
@[simp] theorem State.allocStakes_slotAttrs (m x : Nat) (l : List StakeDecl) (j : Nat) (s : State) : (s.allocStakes m x l).slotAttrs j = s.slotAttrs j := by
  simp [State.slotAttrs]
@[simp] theorem State.allocStakes_slotFilled (m x : Nat) (l : List StakeDecl) (j : Nat) (s : State) : (s.allocStakes m x l).slotFilled j = s.slotFilled j := by
  simp [State.slotFilled]
@[simp] theorem State.allocStakes_now (m x : Nat) (l : List StakeDecl) (s : State) : (s.allocStakes m x l).now = s.now := by
  simp [State.now]

/-! `State.freeStakes`. -/

@[simp] theorem State.freeStakes_pending (m x : Nat) (s : State) : (s.freeStakes m x).pending = s.pending := by
  simp [State.freeStakes]
@[simp] theorem State.freeStakes_draws (m x : Nat) (s : State) : (s.freeStakes m x).draws = s.draws := by
  simp [State.freeStakes]
@[simp] theorem State.freeStakes_outbox (m x : Nat) (s : State) : (s.freeStakes m x).outbox = s.outbox := by
  simp [State.freeStakes]
@[simp] theorem State.freeStakes_clock (m x : Nat) (s : State) : (s.freeStakes m x).clock = s.clock := by
  simp [State.freeStakes]
@[simp] theorem State.freeStakes_boot (m x : Nat) (s : State) : (s.freeStakes m x).boot = s.boot := by
  simp [State.freeStakes]
@[simp] theorem State.freeStakes_flash (m x : Nat) (s : State) : (s.freeStakes m x).flash = s.flash := by
  simp [State.freeStakes]
@[simp] theorem State.freeStakes_plat (m x : Nat) (s : State) : (s.freeStakes m x).plat = s.plat := by
  simp [State.freeStakes]
@[simp] theorem State.freeStakes_fns (m x : Nat) (s : State) : (s.freeStakes m x).fns = s.fns := by
  simp [State.freeStakes]
@[simp] theorem State.freeStakes_host (m x : Nat) (s : State) : (s.freeStakes m x).host = s.host := by
  simp [State.freeStakes]
@[simp] theorem State.freeStakes_parcels (m x : Nat) (s : State) : (s.freeStakes m x).parcels = s.parcels := by
  simp [State.freeStakes]
@[simp] theorem State.freeStakes_links (m x : Nat) (s : State) : (s.freeStakes m x).links = s.links := by
  simp [State.freeStakes]
@[simp] theorem State.freeStakes_fabric (m x : Nat) (s : State) : (s.freeStakes m x).fabric = s.fabric := by
  simp [State.freeStakes]
@[simp] theorem State.freeStakes_marker (m x : Nat) (s : State) : (s.freeStakes m x).marker = s.marker := by
  simp [State.freeStakes]
@[simp] theorem State.freeStakes_chest (m x : Nat) (s : State) : (s.freeStakes m x).chest = s.chest := by
  simp [State.freeStakes]
@[simp] theorem State.freeStakes_entropy (m x : Nat) (s : State) : (s.freeStakes m x).entropy = s.entropy := by
  simp [State.freeStakes]
@[simp] theorem State.freeStakes_power (m x : Nat) (s : State) : (s.freeStakes m x).power = s.power := by
  simp [State.freeStakes]
@[simp] theorem State.freeStakes_smbus (m x : Nat) (s : State) : (s.freeStakes m x).smbus = s.smbus := by
  simp [State.freeStakes]
@[simp] theorem State.freeStakes_mgmt (m x : Nat) (s : State) : (s.freeStakes m x).mgmt = s.mgmt := by
  simp [State.freeStakes]
@[simp] theorem State.freeStakes_faults (m x : Nat) (s : State) : (s.freeStakes m x).faults = s.faults := by
  simp [State.freeStakes]
@[simp] theorem State.freeStakes_longs (m x : Nat) (s : State) : (s.freeStakes m x).longs = s.longs := by
  simp [State.freeStakes]
@[simp] theorem State.freeStakes_fn (m x : Nat) (j : Nat) (s : State) : (s.freeStakes m x).fn j = s.fn j := by
  simp [State.fn]
@[simp] theorem State.freeStakes_parcel (m x : Nat) (j : Nat) (s : State) : (s.freeStakes m x).parcel j = s.parcel j := by
  simp [State.parcel]
@[simp] theorem State.freeStakes_ctx (m x : Nat) (j k : Nat) (s : State) : (s.freeStakes m x).ctx j k = s.ctx j k := by
  simp [State.ctx, State.parcel]
@[simp] theorem State.freeStakes_link (m x : Nat) (j : Nat) (s : State) : (s.freeStakes m x).link j = s.link j := by
  simp [State.link]
@[simp] theorem State.freeStakes_conn (m x : Nat) (j : Nat) (s : State) : (s.freeStakes m x).conn j = s.conn j := by
  simp [State.conn]
@[simp] theorem State.freeStakes_ease (m x : Nat) (j : Nat) (s : State) : (s.freeStakes m x).ease j = s.ease j := by
  simp [State.ease]
@[simp] theorem State.freeStakes_slotVal (m x : Nat) (j : Nat) (s : State) : (s.freeStakes m x).slotVal j = s.slotVal j := by
  simp [State.slotVal]
@[simp] theorem State.freeStakes_slotAttrs (m x : Nat) (j : Nat) (s : State) : (s.freeStakes m x).slotAttrs j = s.slotAttrs j := by
  simp [State.slotAttrs]
@[simp] theorem State.freeStakes_slotFilled (m x : Nat) (j : Nat) (s : State) : (s.freeStakes m x).slotFilled j = s.slotFilled j := by
  simp [State.slotFilled]
@[simp] theorem State.freeStakes_now (m x : Nat) (s : State) : (s.freeStakes m x).now = s.now := by
  simp [State.now]

/-! `State.faultCtxWith`. -/

@[simp] theorem State.faultCtxWith_pending (m x : Nat) (w : BitVec 32) (s : State) : (s.faultCtxWith m x w).pending = s.pending := by
  simp [State.faultCtxWith]
@[simp] theorem State.faultCtxWith_draws (m x : Nat) (w : BitVec 32) (s : State) : (s.faultCtxWith m x w).draws = s.draws := by
  simp [State.faultCtxWith]
@[simp] theorem State.faultCtxWith_outbox (m x : Nat) (w : BitVec 32) (s : State) : (s.faultCtxWith m x w).outbox = s.outbox := by
  simp [State.faultCtxWith]
@[simp] theorem State.faultCtxWith_clock (m x : Nat) (w : BitVec 32) (s : State) : (s.faultCtxWith m x w).clock = s.clock := by
  simp [State.faultCtxWith]
@[simp] theorem State.faultCtxWith_boot (m x : Nat) (w : BitVec 32) (s : State) : (s.faultCtxWith m x w).boot = s.boot := by
  simp [State.faultCtxWith]
@[simp] theorem State.faultCtxWith_flash (m x : Nat) (w : BitVec 32) (s : State) : (s.faultCtxWith m x w).flash = s.flash := by
  simp [State.faultCtxWith]
@[simp] theorem State.faultCtxWith_plat (m x : Nat) (w : BitVec 32) (s : State) : (s.faultCtxWith m x w).plat = s.plat := by
  simp [State.faultCtxWith]
@[simp] theorem State.faultCtxWith_fns (m x : Nat) (w : BitVec 32) (s : State) : (s.faultCtxWith m x w).fns = s.fns := by
  simp [State.faultCtxWith]
@[simp] theorem State.faultCtxWith_host (m x : Nat) (w : BitVec 32) (s : State) : (s.faultCtxWith m x w).host = s.host := by
  simp [State.faultCtxWith]
@[simp] theorem State.faultCtxWith_clusters (m x : Nat) (w : BitVec 32) (s : State) : (s.faultCtxWith m x w).clusters = s.clusters := by
  simp [State.faultCtxWith]
@[simp] theorem State.faultCtxWith_links (m x : Nat) (w : BitVec 32) (s : State) : (s.faultCtxWith m x w).links = s.links := by
  simp [State.faultCtxWith]
@[simp] theorem State.faultCtxWith_fabric (m x : Nat) (w : BitVec 32) (s : State) : (s.faultCtxWith m x w).fabric = s.fabric := by
  simp [State.faultCtxWith]
@[simp] theorem State.faultCtxWith_marker (m x : Nat) (w : BitVec 32) (s : State) : (s.faultCtxWith m x w).marker = s.marker := by
  simp [State.faultCtxWith]
@[simp] theorem State.faultCtxWith_chest (m x : Nat) (w : BitVec 32) (s : State) : (s.faultCtxWith m x w).chest = s.chest := by
  simp [State.faultCtxWith]
@[simp] theorem State.faultCtxWith_entropy (m x : Nat) (w : BitVec 32) (s : State) : (s.faultCtxWith m x w).entropy = s.entropy := by
  simp [State.faultCtxWith]
@[simp] theorem State.faultCtxWith_power (m x : Nat) (w : BitVec 32) (s : State) : (s.faultCtxWith m x w).power = s.power := by
  simp [State.faultCtxWith]
@[simp] theorem State.faultCtxWith_smbus (m x : Nat) (w : BitVec 32) (s : State) : (s.faultCtxWith m x w).smbus = s.smbus := by
  simp [State.faultCtxWith]
@[simp] theorem State.faultCtxWith_mgmt (m x : Nat) (w : BitVec 32) (s : State) : (s.faultCtxWith m x w).mgmt = s.mgmt := by
  simp [State.faultCtxWith]
@[simp] theorem State.faultCtxWith_faults (m x : Nat) (w : BitVec 32) (s : State) : (s.faultCtxWith m x w).faults = s.faults := by
  simp [State.faultCtxWith]
@[simp] theorem State.faultCtxWith_longs (m x : Nat) (w : BitVec 32) (s : State) : (s.faultCtxWith m x w).longs = s.longs := by
  simp [State.faultCtxWith]
@[simp] theorem State.faultCtxWith_fn (m x : Nat) (w : BitVec 32) (j : Nat) (s : State) : (s.faultCtxWith m x w).fn j = s.fn j := by
  simp [State.fn]
@[simp] theorem State.faultCtxWith_cluster (m x : Nat) (w : BitVec 32) (j : Nat) (s : State) : (s.faultCtxWith m x w).cluster j = s.cluster j := by
  simp [State.cluster]
@[simp] theorem State.faultCtxWith_link (m x : Nat) (w : BitVec 32) (j : Nat) (s : State) : (s.faultCtxWith m x w).link j = s.link j := by
  simp [State.link]
@[simp] theorem State.faultCtxWith_conn (m x : Nat) (w : BitVec 32) (j : Nat) (s : State) : (s.faultCtxWith m x w).conn j = s.conn j := by
  simp [State.conn]
@[simp] theorem State.faultCtxWith_ease (m x : Nat) (w : BitVec 32) (j : Nat) (s : State) : (s.faultCtxWith m x w).ease j = s.ease j := by
  simp [State.ease]
@[simp] theorem State.faultCtxWith_slotVal (m x : Nat) (w : BitVec 32) (j : Nat) (s : State) : (s.faultCtxWith m x w).slotVal j = s.slotVal j := by
  simp [State.slotVal]
@[simp] theorem State.faultCtxWith_slotAttrs (m x : Nat) (w : BitVec 32) (j : Nat) (s : State) : (s.faultCtxWith m x w).slotAttrs j = s.slotAttrs j := by
  simp [State.slotAttrs]
@[simp] theorem State.faultCtxWith_slotFilled (m x : Nat) (w : BitVec 32) (j : Nat) (s : State) : (s.faultCtxWith m x w).slotFilled j = s.slotFilled j := by
  simp [State.slotFilled]
@[simp] theorem State.faultCtxWith_now (m x : Nat) (w : BitVec 32) (s : State) : (s.faultCtxWith m x w).now = s.now := by
  simp [State.now]

/-! `State.faultCtx`. -/

@[simp] theorem State.faultCtx_pending (m x w : Nat) (s : State) : (s.faultCtx m x w).pending = s.pending := by
  unfold State.faultCtx; split <;> simp
@[simp] theorem State.faultCtx_draws (m x w : Nat) (s : State) : (s.faultCtx m x w).draws = s.draws := by
  unfold State.faultCtx; split <;> simp
@[simp] theorem State.faultCtx_clock (m x w : Nat) (s : State) : (s.faultCtx m x w).clock = s.clock := by
  unfold State.faultCtx; split <;> simp
@[simp] theorem State.faultCtx_boot (m x w : Nat) (s : State) : (s.faultCtx m x w).boot = s.boot := by
  unfold State.faultCtx; split <;> simp
@[simp] theorem State.faultCtx_flash (m x w : Nat) (s : State) : (s.faultCtx m x w).flash = s.flash := by
  unfold State.faultCtx; split <;> simp
@[simp] theorem State.faultCtx_plat (m x w : Nat) (s : State) : (s.faultCtx m x w).plat = s.plat := by
  unfold State.faultCtx; split <;> simp
@[simp] theorem State.faultCtx_host (m x w : Nat) (s : State) : (s.faultCtx m x w).host = s.host := by
  unfold State.faultCtx; split <;> simp
@[simp] theorem State.faultCtx_clusters (m x w : Nat) (s : State) : (s.faultCtx m x w).clusters = s.clusters := by
  unfold State.faultCtx; split <;> simp
@[simp] theorem State.faultCtx_links (m x w : Nat) (s : State) : (s.faultCtx m x w).links = s.links := by
  unfold State.faultCtx; split <;> simp
@[simp] theorem State.faultCtx_fabric (m x w : Nat) (s : State) : (s.faultCtx m x w).fabric = s.fabric := by
  unfold State.faultCtx; split <;> simp
@[simp] theorem State.faultCtx_marker (m x w : Nat) (s : State) : (s.faultCtx m x w).marker = s.marker := by
  unfold State.faultCtx; split <;> simp
@[simp] theorem State.faultCtx_chest (m x w : Nat) (s : State) : (s.faultCtx m x w).chest = s.chest := by
  unfold State.faultCtx; split <;> simp
@[simp] theorem State.faultCtx_entropy (m x w : Nat) (s : State) : (s.faultCtx m x w).entropy = s.entropy := by
  unfold State.faultCtx; split <;> simp
@[simp] theorem State.faultCtx_power (m x w : Nat) (s : State) : (s.faultCtx m x w).power = s.power := by
  unfold State.faultCtx; split <;> simp
@[simp] theorem State.faultCtx_faults (m x w : Nat) (s : State) : (s.faultCtx m x w).faults = s.faults := by
  unfold State.faultCtx; split <;> simp
@[simp] theorem State.faultCtx_longs (m x w : Nat) (s : State) : (s.faultCtx m x w).longs = s.longs := by
  unfold State.faultCtx; split <;> simp
@[simp] theorem State.faultCtx_cluster (m x w : Nat) (j : Nat) (s : State) : (s.faultCtx m x w).cluster j = s.cluster j := by
  simp [State.cluster]
@[simp] theorem State.faultCtx_link (m x w : Nat) (j : Nat) (s : State) : (s.faultCtx m x w).link j = s.link j := by
  simp [State.link]
@[simp] theorem State.faultCtx_conn (m x w : Nat) (j : Nat) (s : State) : (s.faultCtx m x w).conn j = s.conn j := by
  simp [State.conn]
@[simp] theorem State.faultCtx_ease (m x w : Nat) (j : Nat) (s : State) : (s.faultCtx m x w).ease j = s.ease j := by
  simp [State.ease]
@[simp] theorem State.faultCtx_slotVal (m x w : Nat) (j : Nat) (s : State) : (s.faultCtx m x w).slotVal j = s.slotVal j := by
  simp [State.slotVal]
@[simp] theorem State.faultCtx_slotAttrs (m x w : Nat) (j : Nat) (s : State) : (s.faultCtx m x w).slotAttrs j = s.slotAttrs j := by
  simp [State.slotAttrs]
@[simp] theorem State.faultCtx_slotFilled (m x w : Nat) (j : Nat) (s : State) : (s.faultCtx m x w).slotFilled j = s.slotFilled j := by
  simp [State.slotFilled]
@[simp] theorem State.faultCtx_now (m x w : Nat) (s : State) : (s.faultCtx m x w).now = s.now := by
  simp [State.now]

/-! `State.modConn`. -/

@[simp] theorem State.modConn_pending (m : Nat) (g : Conn → Conn) (s : State) : (s.modConn m g).pending = s.pending := by
  unfold State.modConn; split <;> simp
@[simp] theorem State.modConn_draws (m : Nat) (g : Conn → Conn) (s : State) : (s.modConn m g).draws = s.draws := by
  unfold State.modConn; split <;> simp
@[simp] theorem State.modConn_outbox (m : Nat) (g : Conn → Conn) (s : State) : (s.modConn m g).outbox = s.outbox := by
  unfold State.modConn; split <;> simp
@[simp] theorem State.modConn_clock (m : Nat) (g : Conn → Conn) (s : State) : (s.modConn m g).clock = s.clock := by
  unfold State.modConn; split <;> simp
@[simp] theorem State.modConn_boot (m : Nat) (g : Conn → Conn) (s : State) : (s.modConn m g).boot = s.boot := by
  unfold State.modConn; split <;> simp
@[simp] theorem State.modConn_flash (m : Nat) (g : Conn → Conn) (s : State) : (s.modConn m g).flash = s.flash := by
  unfold State.modConn; split <;> simp
@[simp] theorem State.modConn_plat (m : Nat) (g : Conn → Conn) (s : State) : (s.modConn m g).plat = s.plat := by
  unfold State.modConn; split <;> simp
@[simp] theorem State.modConn_fns (m : Nat) (g : Conn → Conn) (s : State) : (s.modConn m g).fns = s.fns := by
  unfold State.modConn; split <;> simp
@[simp] theorem State.modConn_host (m : Nat) (g : Conn → Conn) (s : State) : (s.modConn m g).host = s.host := by
  unfold State.modConn; split <;> simp
@[simp] theorem State.modConn_parcels (m : Nat) (g : Conn → Conn) (s : State) : (s.modConn m g).parcels = s.parcels := by
  unfold State.modConn; split <;> simp
@[simp] theorem State.modConn_clusters (m : Nat) (g : Conn → Conn) (s : State) : (s.modConn m g).clusters = s.clusters := by
  unfold State.modConn; split <;> simp
@[simp] theorem State.modConn_links (m : Nat) (g : Conn → Conn) (s : State) : (s.modConn m g).links = s.links := by
  unfold State.modConn; split <;> simp
@[simp] theorem State.modConn_marker (m : Nat) (g : Conn → Conn) (s : State) : (s.modConn m g).marker = s.marker := by
  unfold State.modConn; split <;> simp
@[simp] theorem State.modConn_chest (m : Nat) (g : Conn → Conn) (s : State) : (s.modConn m g).chest = s.chest := by
  unfold State.modConn; split <;> simp
@[simp] theorem State.modConn_entropy (m : Nat) (g : Conn → Conn) (s : State) : (s.modConn m g).entropy = s.entropy := by
  unfold State.modConn; split <;> simp
@[simp] theorem State.modConn_power (m : Nat) (g : Conn → Conn) (s : State) : (s.modConn m g).power = s.power := by
  unfold State.modConn; split <;> simp
@[simp] theorem State.modConn_smbus (m : Nat) (g : Conn → Conn) (s : State) : (s.modConn m g).smbus = s.smbus := by
  unfold State.modConn; split <;> simp
@[simp] theorem State.modConn_mgmt (m : Nat) (g : Conn → Conn) (s : State) : (s.modConn m g).mgmt = s.mgmt := by
  unfold State.modConn; split <;> simp
@[simp] theorem State.modConn_faults (m : Nat) (g : Conn → Conn) (s : State) : (s.modConn m g).faults = s.faults := by
  unfold State.modConn; split <;> simp
@[simp] theorem State.modConn_longs (m : Nat) (g : Conn → Conn) (s : State) : (s.modConn m g).longs = s.longs := by
  unfold State.modConn; split <;> simp
@[simp] theorem State.modConn_fn (m : Nat) (g : Conn → Conn) (j : Nat) (s : State) : (s.modConn m g).fn j = s.fn j := by
  simp [State.fn]
@[simp] theorem State.modConn_parcel (m : Nat) (g : Conn → Conn) (j : Nat) (s : State) : (s.modConn m g).parcel j = s.parcel j := by
  simp [State.parcel]
@[simp] theorem State.modConn_ctx (m : Nat) (g : Conn → Conn) (j k : Nat) (s : State) : (s.modConn m g).ctx j k = s.ctx j k := by
  simp [State.ctx, State.parcel]
@[simp] theorem State.modConn_cluster (m : Nat) (g : Conn → Conn) (j : Nat) (s : State) : (s.modConn m g).cluster j = s.cluster j := by
  simp [State.cluster]
@[simp] theorem State.modConn_link (m : Nat) (g : Conn → Conn) (j : Nat) (s : State) : (s.modConn m g).link j = s.link j := by
  simp [State.link]
@[simp] theorem State.modConn_slotVal (m : Nat) (g : Conn → Conn) (j : Nat) (s : State) : (s.modConn m g).slotVal j = s.slotVal j := by
  simp [State.slotVal]
@[simp] theorem State.modConn_slotAttrs (m : Nat) (g : Conn → Conn) (j : Nat) (s : State) : (s.modConn m g).slotAttrs j = s.slotAttrs j := by
  simp [State.slotAttrs]
@[simp] theorem State.modConn_slotFilled (m : Nat) (g : Conn → Conn) (j : Nat) (s : State) : (s.modConn m g).slotFilled j = s.slotFilled j := by
  simp [State.slotFilled]
@[simp] theorem State.modConn_now (m : Nat) (g : Conn → Conn) (s : State) : (s.modConn m g).now = s.now := by
  simp [State.now]

/-! `State.setParcelState`. -/

@[simp] theorem State.setParcelState_pending (m v w : Nat) (s : State) : (s.setParcelState m v w).pending = s.pending := by
  simp [State.setParcelState]
@[simp] theorem State.setParcelState_draws (m v w : Nat) (s : State) : (s.setParcelState m v w).draws = s.draws := by
  simp [State.setParcelState]
@[simp] theorem State.setParcelState_outbox (m v w : Nat) (s : State) : (s.setParcelState m v w).outbox = s.outbox := by
  simp [State.setParcelState]
@[simp] theorem State.setParcelState_clock (m v w : Nat) (s : State) : (s.setParcelState m v w).clock = s.clock := by
  simp [State.setParcelState]
@[simp] theorem State.setParcelState_boot (m v w : Nat) (s : State) : (s.setParcelState m v w).boot = s.boot := by
  simp [State.setParcelState]
@[simp] theorem State.setParcelState_flash (m v w : Nat) (s : State) : (s.setParcelState m v w).flash = s.flash := by
  simp [State.setParcelState]
@[simp] theorem State.setParcelState_plat (m v w : Nat) (s : State) : (s.setParcelState m v w).plat = s.plat := by
  simp [State.setParcelState]
@[simp] theorem State.setParcelState_host (m v w : Nat) (s : State) : (s.setParcelState m v w).host = s.host := by
  simp [State.setParcelState]
@[simp] theorem State.setParcelState_clusters (m v w : Nat) (s : State) : (s.setParcelState m v w).clusters = s.clusters := by
  simp [State.setParcelState]
@[simp] theorem State.setParcelState_links (m v w : Nat) (s : State) : (s.setParcelState m v w).links = s.links := by
  simp [State.setParcelState]
@[simp] theorem State.setParcelState_fabric (m v w : Nat) (s : State) : (s.setParcelState m v w).fabric = s.fabric := by
  simp [State.setParcelState]
@[simp] theorem State.setParcelState_marker (m v w : Nat) (s : State) : (s.setParcelState m v w).marker = s.marker := by
  simp [State.setParcelState]
@[simp] theorem State.setParcelState_chest (m v w : Nat) (s : State) : (s.setParcelState m v w).chest = s.chest := by
  simp [State.setParcelState]
@[simp] theorem State.setParcelState_entropy (m v w : Nat) (s : State) : (s.setParcelState m v w).entropy = s.entropy := by
  simp [State.setParcelState]
@[simp] theorem State.setParcelState_power (m v w : Nat) (s : State) : (s.setParcelState m v w).power = s.power := by
  simp [State.setParcelState]
@[simp] theorem State.setParcelState_smbus (m v w : Nat) (s : State) : (s.setParcelState m v w).smbus = s.smbus := by
  simp [State.setParcelState]
@[simp] theorem State.setParcelState_mgmt (m v w : Nat) (s : State) : (s.setParcelState m v w).mgmt = s.mgmt := by
  simp [State.setParcelState]
@[simp] theorem State.setParcelState_faults (m v w : Nat) (s : State) : (s.setParcelState m v w).faults = s.faults := by
  simp [State.setParcelState]
@[simp] theorem State.setParcelState_longs (m v w : Nat) (s : State) : (s.setParcelState m v w).longs = s.longs := by
  simp [State.setParcelState]
@[simp] theorem State.setParcelState_cluster (m v w : Nat) (j : Nat) (s : State) : (s.setParcelState m v w).cluster j = s.cluster j := by
  simp [State.cluster]
@[simp] theorem State.setParcelState_link (m v w : Nat) (j : Nat) (s : State) : (s.setParcelState m v w).link j = s.link j := by
  simp [State.link]
@[simp] theorem State.setParcelState_conn (m v w : Nat) (j : Nat) (s : State) : (s.setParcelState m v w).conn j = s.conn j := by
  simp [State.conn]
@[simp] theorem State.setParcelState_ease (m v w : Nat) (j : Nat) (s : State) : (s.setParcelState m v w).ease j = s.ease j := by
  simp [State.ease]
@[simp] theorem State.setParcelState_slotVal (m v w : Nat) (j : Nat) (s : State) : (s.setParcelState m v w).slotVal j = s.slotVal j := by
  simp [State.slotVal]
@[simp] theorem State.setParcelState_slotAttrs (m v w : Nat) (j : Nat) (s : State) : (s.setParcelState m v w).slotAttrs j = s.slotAttrs j := by
  simp [State.slotAttrs]
@[simp] theorem State.setParcelState_slotFilled (m v w : Nat) (j : Nat) (s : State) : (s.setParcelState m v w).slotFilled j = s.slotFilled j := by
  simp [State.slotFilled]
@[simp] theorem State.setParcelState_now (m v w : Nat) (s : State) : (s.setParcelState m v w).now = s.now := by
  simp [State.now]

/-! `State.destroySlot`. -/

@[simp] theorem State.destroySlot_pending (m : Nat) (w : KeyCause) (s : State) : (s.destroySlot m w).pending = s.pending := by
  unfold State.destroySlot; dsimp only; repeat' split
  all_goals simp
@[simp] theorem State.destroySlot_draws (m : Nat) (w : KeyCause) (s : State) : (s.destroySlot m w).draws = s.draws := by
  unfold State.destroySlot; dsimp only; repeat' split
  all_goals simp
@[simp] theorem State.destroySlot_clock (m : Nat) (w : KeyCause) (s : State) : (s.destroySlot m w).clock = s.clock := by
  unfold State.destroySlot; dsimp only; repeat' split
  all_goals simp
@[simp] theorem State.destroySlot_boot (m : Nat) (w : KeyCause) (s : State) : (s.destroySlot m w).boot = s.boot := by
  unfold State.destroySlot; dsimp only; repeat' split
  all_goals simp
@[simp] theorem State.destroySlot_flash (m : Nat) (w : KeyCause) (s : State) : (s.destroySlot m w).flash = s.flash := by
  unfold State.destroySlot; dsimp only; repeat' split
  all_goals simp
@[simp] theorem State.destroySlot_plat (m : Nat) (w : KeyCause) (s : State) : (s.destroySlot m w).plat = s.plat := by
  unfold State.destroySlot; dsimp only; repeat' split
  all_goals simp
@[simp] theorem State.destroySlot_host (m : Nat) (w : KeyCause) (s : State) : (s.destroySlot m w).host = s.host := by
  unfold State.destroySlot; dsimp only; repeat' split
  all_goals simp
@[simp] theorem State.destroySlot_parcels (m : Nat) (w : KeyCause) (s : State) : (s.destroySlot m w).parcels = s.parcels := by
  unfold State.destroySlot; dsimp only; repeat' split
  all_goals simp
@[simp] theorem State.destroySlot_clusters (m : Nat) (w : KeyCause) (s : State) : (s.destroySlot m w).clusters = s.clusters := by
  unfold State.destroySlot; dsimp only; repeat' split
  all_goals simp
@[simp] theorem State.destroySlot_links (m : Nat) (w : KeyCause) (s : State) : (s.destroySlot m w).links = s.links := by
  unfold State.destroySlot; dsimp only; repeat' split
  all_goals simp
@[simp] theorem State.destroySlot_fabric (m : Nat) (w : KeyCause) (s : State) : (s.destroySlot m w).fabric = s.fabric := by
  unfold State.destroySlot; dsimp only; repeat' split
  all_goals simp
@[simp] theorem State.destroySlot_marker (m : Nat) (w : KeyCause) (s : State) : (s.destroySlot m w).marker = s.marker := by
  unfold State.destroySlot; dsimp only; repeat' split
  all_goals simp
@[simp] theorem State.destroySlot_entropy (m : Nat) (w : KeyCause) (s : State) : (s.destroySlot m w).entropy = s.entropy := by
  unfold State.destroySlot; dsimp only; repeat' split
  all_goals simp
@[simp] theorem State.destroySlot_power (m : Nat) (w : KeyCause) (s : State) : (s.destroySlot m w).power = s.power := by
  unfold State.destroySlot; dsimp only; repeat' split
  all_goals simp
@[simp] theorem State.destroySlot_faults (m : Nat) (w : KeyCause) (s : State) : (s.destroySlot m w).faults = s.faults := by
  unfold State.destroySlot; dsimp only; repeat' split
  all_goals simp
@[simp] theorem State.destroySlot_longs (m : Nat) (w : KeyCause) (s : State) : (s.destroySlot m w).longs = s.longs := by
  unfold State.destroySlot; dsimp only; repeat' split
  all_goals simp
@[simp] theorem State.destroySlot_parcel (m : Nat) (w : KeyCause) (j : Nat) (s : State) : (s.destroySlot m w).parcel j = s.parcel j := by
  simp [State.parcel]
@[simp] theorem State.destroySlot_ctx (m : Nat) (w : KeyCause) (j k : Nat) (s : State) : (s.destroySlot m w).ctx j k = s.ctx j k := by
  simp [State.ctx, State.parcel]
@[simp] theorem State.destroySlot_cluster (m : Nat) (w : KeyCause) (j : Nat) (s : State) : (s.destroySlot m w).cluster j = s.cluster j := by
  simp [State.cluster]
@[simp] theorem State.destroySlot_link (m : Nat) (w : KeyCause) (j : Nat) (s : State) : (s.destroySlot m w).link j = s.link j := by
  simp [State.link]
@[simp] theorem State.destroySlot_conn (m : Nat) (w : KeyCause) (j : Nat) (s : State) : (s.destroySlot m w).conn j = s.conn j := by
  simp [State.conn]
@[simp] theorem State.destroySlot_ease (m : Nat) (w : KeyCause) (j : Nat) (s : State) : (s.destroySlot m w).ease j = s.ease j := by
  simp [State.ease]
@[simp] theorem State.destroySlot_now (m : Nat) (w : KeyCause) (s : State) : (s.destroySlot m w).now = s.now := by
  simp [State.now]

/-! `State.endSession`. -/

@[simp] theorem State.endSession_pending (m w : Nat) (s : State) : (s.endSession m w).pending = s.pending := by
  unfold State.endSession; dsimp only; split
  · simp [List.foldl]
  · rfl
@[simp] theorem State.endSession_draws (m w : Nat) (s : State) : (s.endSession m w).draws = s.draws := by
  unfold State.endSession; dsimp only; split
  · simp [List.foldl]
  · rfl
@[simp] theorem State.endSession_clock (m w : Nat) (s : State) : (s.endSession m w).clock = s.clock := by
  unfold State.endSession; dsimp only; split
  · simp [List.foldl]
  · rfl
@[simp] theorem State.endSession_boot (m w : Nat) (s : State) : (s.endSession m w).boot = s.boot := by
  unfold State.endSession; dsimp only; split
  · simp [List.foldl]
  · rfl
@[simp] theorem State.endSession_flash (m w : Nat) (s : State) : (s.endSession m w).flash = s.flash := by
  unfold State.endSession; dsimp only; split
  · simp [List.foldl]
  · rfl
@[simp] theorem State.endSession_plat (m w : Nat) (s : State) : (s.endSession m w).plat = s.plat := by
  unfold State.endSession; dsimp only; split
  · simp [List.foldl]
  · rfl
@[simp] theorem State.endSession_host (m w : Nat) (s : State) : (s.endSession m w).host = s.host := by
  unfold State.endSession; dsimp only; split
  · simp [List.foldl]
  · rfl
@[simp] theorem State.endSession_clusters (m w : Nat) (s : State) : (s.endSession m w).clusters = s.clusters := by
  unfold State.endSession; dsimp only; split
  · simp [List.foldl]
  · rfl
@[simp] theorem State.endSession_links (m w : Nat) (s : State) : (s.endSession m w).links = s.links := by
  unfold State.endSession; dsimp only; split
  · simp [List.foldl]
  · rfl
@[simp] theorem State.endSession_fabric (m w : Nat) (s : State) : (s.endSession m w).fabric = s.fabric := by
  unfold State.endSession; dsimp only; split
  · simp [List.foldl]
  · rfl
@[simp] theorem State.endSession_marker (m w : Nat) (s : State) : (s.endSession m w).marker = s.marker := by
  unfold State.endSession; dsimp only; split
  · simp [List.foldl]
  · rfl
@[simp] theorem State.endSession_entropy (m w : Nat) (s : State) : (s.endSession m w).entropy = s.entropy := by
  unfold State.endSession; dsimp only; split
  · simp [List.foldl]
  · rfl
@[simp] theorem State.endSession_power (m w : Nat) (s : State) : (s.endSession m w).power = s.power := by
  unfold State.endSession; dsimp only; split
  · simp [List.foldl]
  · rfl
@[simp] theorem State.endSession_faults (m w : Nat) (s : State) : (s.endSession m w).faults = s.faults := by
  unfold State.endSession; dsimp only; split
  · simp [List.foldl]
  · rfl
@[simp] theorem State.endSession_longs (m w : Nat) (s : State) : (s.endSession m w).longs = s.longs := by
  unfold State.endSession; dsimp only; split
  · simp [List.foldl]
  · rfl
@[simp] theorem State.endSession_cluster (m w : Nat) (j : Nat) (s : State) : (s.endSession m w).cluster j = s.cluster j := by
  simp [State.cluster]
@[simp] theorem State.endSession_link (m w : Nat) (j : Nat) (s : State) : (s.endSession m w).link j = s.link j := by
  simp [State.link]
@[simp] theorem State.endSession_conn (m w : Nat) (j : Nat) (s : State) : (s.endSession m w).conn j = s.conn j := by
  simp [State.conn]
@[simp] theorem State.endSession_ease (m w : Nat) (j : Nat) (s : State) : (s.endSession m w).ease j = s.ease j := by
  simp [State.ease]
@[simp] theorem State.endSession_now (m w : Nat) (s : State) : (s.endSession m w).now = s.now := by
  simp [State.now]

/-! `State.sendSmbus`. -/

@[simp] theorem State.sendSmbus_pending (o : Output) (b : Bytes) (s : State) : (s.sendSmbus o b).pending = s.pending := by
  unfold State.sendSmbus; dsimp only; repeat' split
  all_goals rfl
@[simp] theorem State.sendSmbus_draws (o : Output) (b : Bytes) (s : State) : (s.sendSmbus o b).draws = s.draws := by
  unfold State.sendSmbus; dsimp only; repeat' split
  all_goals rfl
@[simp] theorem State.sendSmbus_clock (o : Output) (b : Bytes) (s : State) : (s.sendSmbus o b).clock = s.clock := by
  unfold State.sendSmbus; dsimp only; repeat' split
  all_goals rfl
@[simp] theorem State.sendSmbus_boot (o : Output) (b : Bytes) (s : State) : (s.sendSmbus o b).boot = s.boot := by
  unfold State.sendSmbus; dsimp only; repeat' split
  all_goals rfl
@[simp] theorem State.sendSmbus_flash (o : Output) (b : Bytes) (s : State) : (s.sendSmbus o b).flash = s.flash := by
  unfold State.sendSmbus; dsimp only; repeat' split
  all_goals rfl
@[simp] theorem State.sendSmbus_plat (o : Output) (b : Bytes) (s : State) : (s.sendSmbus o b).plat = s.plat := by
  unfold State.sendSmbus; dsimp only; repeat' split
  all_goals rfl
@[simp] theorem State.sendSmbus_fns (o : Output) (b : Bytes) (s : State) : (s.sendSmbus o b).fns = s.fns := by
  unfold State.sendSmbus; dsimp only; repeat' split
  all_goals rfl
@[simp] theorem State.sendSmbus_host (o : Output) (b : Bytes) (s : State) : (s.sendSmbus o b).host = s.host := by
  unfold State.sendSmbus; dsimp only; repeat' split
  all_goals rfl
@[simp] theorem State.sendSmbus_parcels (o : Output) (b : Bytes) (s : State) : (s.sendSmbus o b).parcels = s.parcels := by
  unfold State.sendSmbus; dsimp only; repeat' split
  all_goals rfl
@[simp] theorem State.sendSmbus_clusters (o : Output) (b : Bytes) (s : State) : (s.sendSmbus o b).clusters = s.clusters := by
  unfold State.sendSmbus; dsimp only; repeat' split
  all_goals rfl
@[simp] theorem State.sendSmbus_links (o : Output) (b : Bytes) (s : State) : (s.sendSmbus o b).links = s.links := by
  unfold State.sendSmbus; dsimp only; repeat' split
  all_goals rfl
@[simp] theorem State.sendSmbus_fabric (o : Output) (b : Bytes) (s : State) : (s.sendSmbus o b).fabric = s.fabric := by
  unfold State.sendSmbus; dsimp only; repeat' split
  all_goals rfl
@[simp] theorem State.sendSmbus_marker (o : Output) (b : Bytes) (s : State) : (s.sendSmbus o b).marker = s.marker := by
  unfold State.sendSmbus; dsimp only; repeat' split
  all_goals rfl
@[simp] theorem State.sendSmbus_chest (o : Output) (b : Bytes) (s : State) : (s.sendSmbus o b).chest = s.chest := by
  unfold State.sendSmbus; dsimp only; repeat' split
  all_goals rfl
@[simp] theorem State.sendSmbus_entropy (o : Output) (b : Bytes) (s : State) : (s.sendSmbus o b).entropy = s.entropy := by
  unfold State.sendSmbus; dsimp only; repeat' split
  all_goals rfl
@[simp] theorem State.sendSmbus_power (o : Output) (b : Bytes) (s : State) : (s.sendSmbus o b).power = s.power := by
  unfold State.sendSmbus; dsimp only; repeat' split
  all_goals rfl
@[simp] theorem State.sendSmbus_mgmt (o : Output) (b : Bytes) (s : State) : (s.sendSmbus o b).mgmt = s.mgmt := by
  unfold State.sendSmbus; dsimp only; repeat' split
  all_goals rfl
@[simp] theorem State.sendSmbus_faults (o : Output) (b : Bytes) (s : State) : (s.sendSmbus o b).faults = s.faults := by
  unfold State.sendSmbus; dsimp only; repeat' split
  all_goals rfl
@[simp] theorem State.sendSmbus_longs (o : Output) (b : Bytes) (s : State) : (s.sendSmbus o b).longs = s.longs := by
  unfold State.sendSmbus; dsimp only; repeat' split
  all_goals rfl
@[simp] theorem State.sendSmbus_fn (o : Output) (b : Bytes) (j : Nat) (s : State) : (s.sendSmbus o b).fn j = s.fn j := by
  simp [State.fn]
@[simp] theorem State.sendSmbus_parcel (o : Output) (b : Bytes) (j : Nat) (s : State) : (s.sendSmbus o b).parcel j = s.parcel j := by
  simp [State.parcel]
@[simp] theorem State.sendSmbus_ctx (o : Output) (b : Bytes) (j k : Nat) (s : State) : (s.sendSmbus o b).ctx j k = s.ctx j k := by
  simp [State.ctx, State.parcel]
@[simp] theorem State.sendSmbus_cluster (o : Output) (b : Bytes) (j : Nat) (s : State) : (s.sendSmbus o b).cluster j = s.cluster j := by
  simp [State.cluster]
@[simp] theorem State.sendSmbus_link (o : Output) (b : Bytes) (j : Nat) (s : State) : (s.sendSmbus o b).link j = s.link j := by
  simp [State.link]
@[simp] theorem State.sendSmbus_conn (o : Output) (b : Bytes) (j : Nat) (s : State) : (s.sendSmbus o b).conn j = s.conn j := by
  simp [State.conn]
@[simp] theorem State.sendSmbus_ease (o : Output) (b : Bytes) (j : Nat) (s : State) : (s.sendSmbus o b).ease j = s.ease j := by
  simp [State.ease]
@[simp] theorem State.sendSmbus_slotVal (o : Output) (b : Bytes) (j : Nat) (s : State) : (s.sendSmbus o b).slotVal j = s.slotVal j := by
  simp [State.slotVal]
@[simp] theorem State.sendSmbus_slotAttrs (o : Output) (b : Bytes) (j : Nat) (s : State) : (s.sendSmbus o b).slotAttrs j = s.slotAttrs j := by
  simp [State.slotAttrs]
@[simp] theorem State.sendSmbus_slotFilled (o : Output) (b : Bytes) (j : Nat) (s : State) : (s.sendSmbus o b).slotFilled j = s.slotFilled j := by
  simp [State.slotFilled]
@[simp] theorem State.sendSmbus_now (o : Output) (b : Bytes) (s : State) : (s.sendSmbus o b).now = s.now := by
  simp [State.now]

/-! `State.answerMgmt`. -/

@[simp] theorem State.answerMgmt_pending (m : MgmtMsg) (op st : Nat) (b : Bytes) (s : State) : (s.answerMgmt m op st b).pending = s.pending := by
  unfold State.answerMgmt; dsimp only; split <;> simp
@[simp] theorem State.answerMgmt_draws (m : MgmtMsg) (op st : Nat) (b : Bytes) (s : State) : (s.answerMgmt m op st b).draws = s.draws := by
  unfold State.answerMgmt; dsimp only; split <;> simp
@[simp] theorem State.answerMgmt_clock (m : MgmtMsg) (op st : Nat) (b : Bytes) (s : State) : (s.answerMgmt m op st b).clock = s.clock := by
  unfold State.answerMgmt; dsimp only; split <;> simp
@[simp] theorem State.answerMgmt_boot (m : MgmtMsg) (op st : Nat) (b : Bytes) (s : State) : (s.answerMgmt m op st b).boot = s.boot := by
  unfold State.answerMgmt; dsimp only; split <;> simp
@[simp] theorem State.answerMgmt_flash (m : MgmtMsg) (op st : Nat) (b : Bytes) (s : State) : (s.answerMgmt m op st b).flash = s.flash := by
  unfold State.answerMgmt; dsimp only; split <;> simp
@[simp] theorem State.answerMgmt_plat (m : MgmtMsg) (op st : Nat) (b : Bytes) (s : State) : (s.answerMgmt m op st b).plat = s.plat := by
  unfold State.answerMgmt; dsimp only; split <;> simp
@[simp] theorem State.answerMgmt_fns (m : MgmtMsg) (op st : Nat) (b : Bytes) (s : State) : (s.answerMgmt m op st b).fns = s.fns := by
  unfold State.answerMgmt; dsimp only; split <;> simp
@[simp] theorem State.answerMgmt_host (m : MgmtMsg) (op st : Nat) (b : Bytes) (s : State) : (s.answerMgmt m op st b).host = s.host := by
  unfold State.answerMgmt; dsimp only; split <;> simp
@[simp] theorem State.answerMgmt_parcels (m : MgmtMsg) (op st : Nat) (b : Bytes) (s : State) : (s.answerMgmt m op st b).parcels = s.parcels := by
  unfold State.answerMgmt; dsimp only; split <;> simp
@[simp] theorem State.answerMgmt_clusters (m : MgmtMsg) (op st : Nat) (b : Bytes) (s : State) : (s.answerMgmt m op st b).clusters = s.clusters := by
  unfold State.answerMgmt; dsimp only; split <;> simp
@[simp] theorem State.answerMgmt_links (m : MgmtMsg) (op st : Nat) (b : Bytes) (s : State) : (s.answerMgmt m op st b).links = s.links := by
  unfold State.answerMgmt; dsimp only; split <;> simp
@[simp] theorem State.answerMgmt_fabric (m : MgmtMsg) (op st : Nat) (b : Bytes) (s : State) : (s.answerMgmt m op st b).fabric = s.fabric := by
  unfold State.answerMgmt; dsimp only; split <;> simp
@[simp] theorem State.answerMgmt_marker (m : MgmtMsg) (op st : Nat) (b : Bytes) (s : State) : (s.answerMgmt m op st b).marker = s.marker := by
  unfold State.answerMgmt; dsimp only; split <;> simp
@[simp] theorem State.answerMgmt_chest (m : MgmtMsg) (op st : Nat) (b : Bytes) (s : State) : (s.answerMgmt m op st b).chest = s.chest := by
  unfold State.answerMgmt; dsimp only; split <;> simp
@[simp] theorem State.answerMgmt_entropy (m : MgmtMsg) (op st : Nat) (b : Bytes) (s : State) : (s.answerMgmt m op st b).entropy = s.entropy := by
  unfold State.answerMgmt; dsimp only; split <;> simp
@[simp] theorem State.answerMgmt_power (m : MgmtMsg) (op st : Nat) (b : Bytes) (s : State) : (s.answerMgmt m op st b).power = s.power := by
  unfold State.answerMgmt; dsimp only; split <;> simp
@[simp] theorem State.answerMgmt_mgmt (m : MgmtMsg) (op st : Nat) (b : Bytes) (s : State) : (s.answerMgmt m op st b).mgmt = s.mgmt := by
  unfold State.answerMgmt; dsimp only; split <;> simp
@[simp] theorem State.answerMgmt_faults (m : MgmtMsg) (op st : Nat) (b : Bytes) (s : State) : (s.answerMgmt m op st b).faults = s.faults := by
  unfold State.answerMgmt; dsimp only; split <;> simp
@[simp] theorem State.answerMgmt_longs (m : MgmtMsg) (op st : Nat) (b : Bytes) (s : State) : (s.answerMgmt m op st b).longs = s.longs := by
  unfold State.answerMgmt; dsimp only; split <;> simp
@[simp] theorem State.answerMgmt_fn (m : MgmtMsg) (op st : Nat) (b : Bytes) (j : Nat) (s : State) : (s.answerMgmt m op st b).fn j = s.fn j := by
  simp [State.fn]
@[simp] theorem State.answerMgmt_parcel (m : MgmtMsg) (op st : Nat) (b : Bytes) (j : Nat) (s : State) : (s.answerMgmt m op st b).parcel j = s.parcel j := by
  simp [State.parcel]
@[simp] theorem State.answerMgmt_ctx (m : MgmtMsg) (op st : Nat) (b : Bytes) (j k : Nat) (s : State) : (s.answerMgmt m op st b).ctx j k = s.ctx j k := by
  simp [State.ctx, State.parcel]
@[simp] theorem State.answerMgmt_cluster (m : MgmtMsg) (op st : Nat) (b : Bytes) (j : Nat) (s : State) : (s.answerMgmt m op st b).cluster j = s.cluster j := by
  simp [State.cluster]
@[simp] theorem State.answerMgmt_link (m : MgmtMsg) (op st : Nat) (b : Bytes) (j : Nat) (s : State) : (s.answerMgmt m op st b).link j = s.link j := by
  simp [State.link]
@[simp] theorem State.answerMgmt_conn (m : MgmtMsg) (op st : Nat) (b : Bytes) (j : Nat) (s : State) : (s.answerMgmt m op st b).conn j = s.conn j := by
  simp [State.conn]
@[simp] theorem State.answerMgmt_ease (m : MgmtMsg) (op st : Nat) (b : Bytes) (j : Nat) (s : State) : (s.answerMgmt m op st b).ease j = s.ease j := by
  simp [State.ease]
@[simp] theorem State.answerMgmt_slotVal (m : MgmtMsg) (op st : Nat) (b : Bytes) (j : Nat) (s : State) : (s.answerMgmt m op st b).slotVal j = s.slotVal j := by
  simp [State.slotVal]
@[simp] theorem State.answerMgmt_slotAttrs (m : MgmtMsg) (op st : Nat) (b : Bytes) (j : Nat) (s : State) : (s.answerMgmt m op st b).slotAttrs j = s.slotAttrs j := by
  simp [State.slotAttrs]
@[simp] theorem State.answerMgmt_slotFilled (m : MgmtMsg) (op st : Nat) (b : Bytes) (j : Nat) (s : State) : (s.answerMgmt m op st b).slotFilled j = s.slotFilled j := by
  simp [State.slotFilled]
@[simp] theorem State.answerMgmt_now (m : MgmtMsg) (op st : Nat) (b : Bytes) (s : State) : (s.answerMgmt m op st b).now = s.now := by
  simp [State.now]

/-! `State.dropHeld`. -/

@[simp] theorem State.dropHeld_pending (m x : Nat) (s : State) : (s.dropHeld m x).pending = s.pending := by
  simp [State.dropHeld]
@[simp] theorem State.dropHeld_draws (m x : Nat) (s : State) : (s.dropHeld m x).draws = s.draws := by
  simp [State.dropHeld]
@[simp] theorem State.dropHeld_outbox (m x : Nat) (s : State) : (s.dropHeld m x).outbox = s.outbox := by
  simp [State.dropHeld]
@[simp] theorem State.dropHeld_clock (m x : Nat) (s : State) : (s.dropHeld m x).clock = s.clock := by
  simp [State.dropHeld]
@[simp] theorem State.dropHeld_boot (m x : Nat) (s : State) : (s.dropHeld m x).boot = s.boot := by
  simp [State.dropHeld]
@[simp] theorem State.dropHeld_flash (m x : Nat) (s : State) : (s.dropHeld m x).flash = s.flash := by
  simp [State.dropHeld]
@[simp] theorem State.dropHeld_plat (m x : Nat) (s : State) : (s.dropHeld m x).plat = s.plat := by
  simp [State.dropHeld]
@[simp] theorem State.dropHeld_fns (m x : Nat) (s : State) : (s.dropHeld m x).fns = s.fns := by
  simp [State.dropHeld]
@[simp] theorem State.dropHeld_host (m x : Nat) (s : State) : (s.dropHeld m x).host = s.host := by
  simp [State.dropHeld]
@[simp] theorem State.dropHeld_parcels (m x : Nat) (s : State) : (s.dropHeld m x).parcels = s.parcels := by
  simp [State.dropHeld]
@[simp] theorem State.dropHeld_links (m x : Nat) (s : State) : (s.dropHeld m x).links = s.links := by
  simp [State.dropHeld]
@[simp] theorem State.dropHeld_fabric (m x : Nat) (s : State) : (s.dropHeld m x).fabric = s.fabric := by
  simp [State.dropHeld]
@[simp] theorem State.dropHeld_marker (m x : Nat) (s : State) : (s.dropHeld m x).marker = s.marker := by
  simp [State.dropHeld]
@[simp] theorem State.dropHeld_chest (m x : Nat) (s : State) : (s.dropHeld m x).chest = s.chest := by
  simp [State.dropHeld]
@[simp] theorem State.dropHeld_entropy (m x : Nat) (s : State) : (s.dropHeld m x).entropy = s.entropy := by
  simp [State.dropHeld]
@[simp] theorem State.dropHeld_power (m x : Nat) (s : State) : (s.dropHeld m x).power = s.power := by
  simp [State.dropHeld]
@[simp] theorem State.dropHeld_smbus (m x : Nat) (s : State) : (s.dropHeld m x).smbus = s.smbus := by
  simp [State.dropHeld]
@[simp] theorem State.dropHeld_mgmt (m x : Nat) (s : State) : (s.dropHeld m x).mgmt = s.mgmt := by
  simp [State.dropHeld]
@[simp] theorem State.dropHeld_faults (m x : Nat) (s : State) : (s.dropHeld m x).faults = s.faults := by
  simp [State.dropHeld]
@[simp] theorem State.dropHeld_longs (m x : Nat) (s : State) : (s.dropHeld m x).longs = s.longs := by
  simp [State.dropHeld]
@[simp] theorem State.dropHeld_fn (m x : Nat) (j : Nat) (s : State) : (s.dropHeld m x).fn j = s.fn j := by
  simp [State.fn]
@[simp] theorem State.dropHeld_parcel (m x : Nat) (j : Nat) (s : State) : (s.dropHeld m x).parcel j = s.parcel j := by
  simp [State.parcel]
@[simp] theorem State.dropHeld_ctx (m x : Nat) (j k : Nat) (s : State) : (s.dropHeld m x).ctx j k = s.ctx j k := by
  simp [State.ctx, State.parcel]
@[simp] theorem State.dropHeld_link (m x : Nat) (j : Nat) (s : State) : (s.dropHeld m x).link j = s.link j := by
  simp [State.link]
@[simp] theorem State.dropHeld_conn (m x : Nat) (j : Nat) (s : State) : (s.dropHeld m x).conn j = s.conn j := by
  simp [State.conn]
@[simp] theorem State.dropHeld_ease (m x : Nat) (j : Nat) (s : State) : (s.dropHeld m x).ease j = s.ease j := by
  simp [State.ease]
@[simp] theorem State.dropHeld_slotVal (m x : Nat) (j : Nat) (s : State) : (s.dropHeld m x).slotVal j = s.slotVal j := by
  simp [State.slotVal]
@[simp] theorem State.dropHeld_slotAttrs (m x : Nat) (j : Nat) (s : State) : (s.dropHeld m x).slotAttrs j = s.slotAttrs j := by
  simp [State.slotAttrs]
@[simp] theorem State.dropHeld_slotFilled (m x : Nat) (j : Nat) (s : State) : (s.dropHeld m x).slotFilled j = s.slotFilled j := by
  simp [State.slotFilled]
@[simp] theorem State.dropHeld_now (m x : Nat) (s : State) : (s.dropHeld m x).now = s.now := by
  simp [State.now]

/-! `State.endEngines`. -/

@[simp] theorem State.endEngines_pending (m x : Nat) (s : State) : (s.endEngines m x).pending = s.pending := by
  unfold State.endEngines; dsimp only; split <;> simp
@[simp] theorem State.endEngines_draws (m x : Nat) (s : State) : (s.endEngines m x).draws = s.draws := by
  unfold State.endEngines; dsimp only; split <;> simp
@[simp] theorem State.endEngines_outbox (m x : Nat) (s : State) : (s.endEngines m x).outbox = s.outbox := by
  unfold State.endEngines; dsimp only; split <;> simp
@[simp] theorem State.endEngines_clock (m x : Nat) (s : State) : (s.endEngines m x).clock = s.clock := by
  unfold State.endEngines; dsimp only; split <;> simp
@[simp] theorem State.endEngines_boot (m x : Nat) (s : State) : (s.endEngines m x).boot = s.boot := by
  unfold State.endEngines; dsimp only; split <;> simp
@[simp] theorem State.endEngines_flash (m x : Nat) (s : State) : (s.endEngines m x).flash = s.flash := by
  unfold State.endEngines; dsimp only; split <;> simp
@[simp] theorem State.endEngines_plat (m x : Nat) (s : State) : (s.endEngines m x).plat = s.plat := by
  unfold State.endEngines; dsimp only; split <;> simp
@[simp] theorem State.endEngines_fns (m x : Nat) (s : State) : (s.endEngines m x).fns = s.fns := by
  unfold State.endEngines; dsimp only; split <;> simp
@[simp] theorem State.endEngines_host (m x : Nat) (s : State) : (s.endEngines m x).host = s.host := by
  unfold State.endEngines; dsimp only; split <;> simp
@[simp] theorem State.endEngines_links (m x : Nat) (s : State) : (s.endEngines m x).links = s.links := by
  unfold State.endEngines; dsimp only; split <;> simp
@[simp] theorem State.endEngines_fabric (m x : Nat) (s : State) : (s.endEngines m x).fabric = s.fabric := by
  unfold State.endEngines; dsimp only; split <;> simp
@[simp] theorem State.endEngines_marker (m x : Nat) (s : State) : (s.endEngines m x).marker = s.marker := by
  unfold State.endEngines; dsimp only; split <;> simp
@[simp] theorem State.endEngines_chest (m x : Nat) (s : State) : (s.endEngines m x).chest = s.chest := by
  unfold State.endEngines; dsimp only; split <;> simp
@[simp] theorem State.endEngines_entropy (m x : Nat) (s : State) : (s.endEngines m x).entropy = s.entropy := by
  unfold State.endEngines; dsimp only; split <;> simp
@[simp] theorem State.endEngines_power (m x : Nat) (s : State) : (s.endEngines m x).power = s.power := by
  unfold State.endEngines; dsimp only; split <;> simp
@[simp] theorem State.endEngines_smbus (m x : Nat) (s : State) : (s.endEngines m x).smbus = s.smbus := by
  unfold State.endEngines; dsimp only; split <;> simp
@[simp] theorem State.endEngines_mgmt (m x : Nat) (s : State) : (s.endEngines m x).mgmt = s.mgmt := by
  unfold State.endEngines; dsimp only; split <;> simp
@[simp] theorem State.endEngines_faults (m x : Nat) (s : State) : (s.endEngines m x).faults = s.faults := by
  unfold State.endEngines; dsimp only; split <;> simp
@[simp] theorem State.endEngines_longs (m x : Nat) (s : State) : (s.endEngines m x).longs = s.longs := by
  unfold State.endEngines; dsimp only; split <;> simp
@[simp] theorem State.endEngines_fn (m x : Nat) (j : Nat) (s : State) : (s.endEngines m x).fn j = s.fn j := by
  simp [State.fn]
@[simp] theorem State.endEngines_link (m x : Nat) (j : Nat) (s : State) : (s.endEngines m x).link j = s.link j := by
  simp [State.link]
@[simp] theorem State.endEngines_conn (m x : Nat) (j : Nat) (s : State) : (s.endEngines m x).conn j = s.conn j := by
  simp [State.conn]
@[simp] theorem State.endEngines_ease (m x : Nat) (j : Nat) (s : State) : (s.endEngines m x).ease j = s.ease j := by
  simp [State.ease]
@[simp] theorem State.endEngines_slotVal (m x : Nat) (j : Nat) (s : State) : (s.endEngines m x).slotVal j = s.slotVal j := by
  simp [State.slotVal]
@[simp] theorem State.endEngines_slotAttrs (m x : Nat) (j : Nat) (s : State) : (s.endEngines m x).slotAttrs j = s.slotAttrs j := by
  simp [State.slotAttrs]
@[simp] theorem State.endEngines_slotFilled (m x : Nat) (j : Nat) (s : State) : (s.endEngines m x).slotFilled j = s.slotFilled j := by
  simp [State.slotFilled]
@[simp] theorem State.endEngines_now (m x : Nat) (s : State) : (s.endEngines m x).now = s.now := by
  simp [State.now]

/-! What an update leaves of the part that it changes. -/

@[simp] theorem State.modFn_fns_length (m : Nat) (g : Fn → Fn) (s : State) : (s.modFn m g).fns.length = s.fns.length := by simp [State.modFn]
@[simp] theorem State.modParcel_parcels_length (m : Nat) (g : Parcel → Parcel) (s : State) : (s.modParcel m g).parcels.length = s.parcels.length := by
  simp [State.modParcel]
@[simp] theorem State.modCluster_clusters_length (m : Nat) (g : Cluster → Cluster) (s : State) :
    (s.modCluster m g).clusters.length = s.clusters.length := by simp [State.modCluster]
@[simp] theorem State.modLink_links_length (m : Nat) (g : Link → Link) (s : State) : (s.modLink m g).links.length = s.links.length := by
  simp [State.modLink]

theorem getD_modify_self {α : Type} {l : List α} {i : Nat} (g : α → α) (d : α) (h : i < l.length) : (l.modify i g).getD i d = g (l.getD i d) := by
  simp [List.getD_eq_getElem?_getD, List.getElem?_modify, h]
theorem getD_modify_ne {α : Type} {l : List α} {i j : Nat} (g : α → α) (d : α) (h : j ≠ i) : (l.modify i g).getD j d = l.getD j d := by
  simp [List.getD_eq_getElem?_getD, List.getElem?_modify, Ne.symm h]

theorem State.modFn_fn {m : Nat} {g : Fn → Fn} {s : State} (h : m < s.fns.length) : (s.modFn m g).fn m = g (s.fn m) := getD_modify_self g _ h
theorem State.modFn_fn_ne {m j : Nat} {g : Fn → Fn} {s : State} (h : j ≠ m) : (s.modFn m g).fn j = s.fn j := getD_modify_ne g _ h
theorem State.modParcel_parcel {m : Nat} {g : Parcel → Parcel} {s : State} (h : m < s.parcels.length) :
    (s.modParcel m g).parcel m = g (s.parcel m) := getD_modify_self g _ h
theorem State.modParcel_parcel_ne {m j : Nat} {g : Parcel → Parcel} {s : State} (h : j ≠ m) : (s.modParcel m g).parcel j = s.parcel j :=
  getD_modify_ne g _ h
theorem State.modCluster_cluster {m : Nat} {g : Cluster → Cluster} {s : State} (h : m < s.clusters.length) :
    (s.modCluster m g).cluster m = g (s.cluster m) := getD_modify_self g _ h
theorem State.modCluster_cluster_ne {m j : Nat} {g : Cluster → Cluster} {s : State} (h : j ≠ m) : (s.modCluster m g).cluster j = s.cluster j :=
  getD_modify_ne g _ h
theorem State.modLink_link {m : Nat} {g : Link → Link} {s : State} (h : m < s.links.length) : (s.modLink m g).link m = g (s.link m) :=
  getD_modify_self g _ h
theorem State.modLink_link_ne {m j : Nat} {g : Link → Link} {s : State} (h : j ≠ m) : (s.modLink m g).link j = s.link j := getD_modify_ne g _ h
theorem State.modCtx_ctx {m x : Nat} {g : Context → Context} {s : State} (h : m < s.parcels.length) (hx : x < (s.parcel m).contexts.length) :
    (s.modCtx m x g).ctx m x = g (s.ctx m x) := by
  simp only [State.ctx, State.modCtx, State.modParcel_parcel h]; exact getD_modify_self g _ hx
theorem State.modCtx_ctx_ne {m x j : Nat} {g : Context → Context} {s : State} (h : m < s.parcels.length) (hx : j ≠ x) :
    (s.modCtx m x g).ctx m j = s.ctx m j := by
  simp only [State.ctx, State.modCtx, State.modParcel_parcel h]; exact getD_modify_ne g _ hx
theorem State.modCtx_parcel_ne {m x j : Nat} {g : Context → Context} {s : State} (h : j ≠ m) : (s.modCtx m x g).parcel j = s.parcel j :=
  State.modParcel_parcel_ne h

/-- Two states with equal fields are equal. -/
theorem State.eq_of_fields {s t : State}
    (h0 : s.pending = t.pending)
    (h1 : s.draws = t.draws)
    (h2 : s.outbox = t.outbox)
    (h3 : s.clock = t.clock)
    (h4 : s.boot = t.boot)
    (h5 : s.flash = t.flash)
    (h6 : s.plat = t.plat)
    (h7 : s.fns = t.fns)
    (h8 : s.host = t.host)
    (h9 : s.parcels = t.parcels)
    (h10 : s.clusters = t.clusters)
    (h11 : s.links = t.links)
    (h12 : s.fabric = t.fabric)
    (h13 : s.marker = t.marker)
    (h14 : s.chest = t.chest)
    (h15 : s.entropy = t.entropy)
    (h16 : s.power = t.power)
    (h17 : s.smbus = t.smbus)
    (h18 : s.mgmt = t.mgmt)
    (h19 : s.faults = t.faults)
    (h20 : s.longs = t.longs) : s = t := by
  cases s; cases t; simp_all

end Sys2Proof.Machine
end

