-- ==== Sys2Proof/Laws/Frames.lean ====
section
/-! SUPPORT. What the writes of external memory and of the address spaces leave alone. -/

set_option linter.unusedTactic false
set_option linter.unreachableTactic false
set_option linter.unusedVariables false
set_option linter.unusedSimpArgs false
set_option Elab.async false

namespace Sys2Proof.Machine

/-! `State.extPut`. -/

@[simp] theorem State.extPut_pending (p a : Nat) (b : Byte) (s : State) : (s.extPut p a b).pending = s.pending := by
  rfl
@[simp] theorem State.extPut_draws (p a : Nat) (b : Byte) (s : State) : (s.extPut p a b).draws = s.draws := by
  rfl
@[simp] theorem State.extPut_outbox (p a : Nat) (b : Byte) (s : State) : (s.extPut p a b).outbox = s.outbox := by
  rfl
@[simp] theorem State.extPut_clock (p a : Nat) (b : Byte) (s : State) : (s.extPut p a b).clock = s.clock := by
  rfl
@[simp] theorem State.extPut_boot (p a : Nat) (b : Byte) (s : State) : (s.extPut p a b).boot = s.boot := by
  rfl
@[simp] theorem State.extPut_flash (p a : Nat) (b : Byte) (s : State) : (s.extPut p a b).flash = s.flash := by
  rfl
@[simp] theorem State.extPut_plat (p a : Nat) (b : Byte) (s : State) : (s.extPut p a b).plat = s.plat := by
  rfl
@[simp] theorem State.extPut_fns (p a : Nat) (b : Byte) (s : State) : (s.extPut p a b).fns = s.fns := by
  rfl
@[simp] theorem State.extPut_host (p a : Nat) (b : Byte) (s : State) : (s.extPut p a b).host = s.host := by
  rfl
@[simp] theorem State.extPut_clusters (p a : Nat) (b : Byte) (s : State) : (s.extPut p a b).clusters = s.clusters := by
  rfl
@[simp] theorem State.extPut_links (p a : Nat) (b : Byte) (s : State) : (s.extPut p a b).links = s.links := by
  rfl
@[simp] theorem State.extPut_fabric (p a : Nat) (b : Byte) (s : State) : (s.extPut p a b).fabric = s.fabric := by
  rfl
@[simp] theorem State.extPut_marker (p a : Nat) (b : Byte) (s : State) : (s.extPut p a b).marker = s.marker := by
  rfl
@[simp] theorem State.extPut_chest (p a : Nat) (b : Byte) (s : State) : (s.extPut p a b).chest = s.chest := by
  rfl
@[simp] theorem State.extPut_entropy (p a : Nat) (b : Byte) (s : State) : (s.extPut p a b).entropy = s.entropy := by
  rfl
@[simp] theorem State.extPut_power (p a : Nat) (b : Byte) (s : State) : (s.extPut p a b).power = s.power := by
  rfl
@[simp] theorem State.extPut_smbus (p a : Nat) (b : Byte) (s : State) : (s.extPut p a b).smbus = s.smbus := by
  rfl
@[simp] theorem State.extPut_mgmt (p a : Nat) (b : Byte) (s : State) : (s.extPut p a b).mgmt = s.mgmt := by
  rfl
@[simp] theorem State.extPut_faults (p a : Nat) (b : Byte) (s : State) : (s.extPut p a b).faults = s.faults := by
  rfl
@[simp] theorem State.extPut_longs (p a : Nat) (b : Byte) (s : State) : (s.extPut p a b).longs = s.longs := by
  rfl

/-! `State.extPuts`. -/

@[simp] theorem State.extPuts_pending (p : Nat) (b : Bytes) : ∀ (a : Nat) (s : State), (s.extPuts p a b).pending = s.pending := by
  induction b with
  | nil => intro _ _; rfl
  | cons x r ih => intro a s; exact (ih _ _).trans (by simp)
@[simp] theorem State.extPuts_draws (p : Nat) (b : Bytes) : ∀ (a : Nat) (s : State), (s.extPuts p a b).draws = s.draws := by
  induction b with
  | nil => intro _ _; rfl
  | cons x r ih => intro a s; exact (ih _ _).trans (by simp)
@[simp] theorem State.extPuts_outbox (p : Nat) (b : Bytes) : ∀ (a : Nat) (s : State), (s.extPuts p a b).outbox = s.outbox := by
  induction b with
  | nil => intro _ _; rfl
  | cons x r ih => intro a s; exact (ih _ _).trans (by simp)
@[simp] theorem State.extPuts_clock (p : Nat) (b : Bytes) : ∀ (a : Nat) (s : State), (s.extPuts p a b).clock = s.clock := by
  induction b with
  | nil => intro _ _; rfl
  | cons x r ih => intro a s; exact (ih _ _).trans (by simp)
@[simp] theorem State.extPuts_boot (p : Nat) (b : Bytes) : ∀ (a : Nat) (s : State), (s.extPuts p a b).boot = s.boot := by
  induction b with
  | nil => intro _ _; rfl
  | cons x r ih => intro a s; exact (ih _ _).trans (by simp)
@[simp] theorem State.extPuts_flash (p : Nat) (b : Bytes) : ∀ (a : Nat) (s : State), (s.extPuts p a b).flash = s.flash := by
  induction b with
  | nil => intro _ _; rfl
  | cons x r ih => intro a s; exact (ih _ _).trans (by simp)
@[simp] theorem State.extPuts_plat (p : Nat) (b : Bytes) : ∀ (a : Nat) (s : State), (s.extPuts p a b).plat = s.plat := by
  induction b with
  | nil => intro _ _; rfl
  | cons x r ih => intro a s; exact (ih _ _).trans (by simp)
@[simp] theorem State.extPuts_fns (p : Nat) (b : Bytes) : ∀ (a : Nat) (s : State), (s.extPuts p a b).fns = s.fns := by
  induction b with
  | nil => intro _ _; rfl
  | cons x r ih => intro a s; exact (ih _ _).trans (by simp)
@[simp] theorem State.extPuts_host (p : Nat) (b : Bytes) : ∀ (a : Nat) (s : State), (s.extPuts p a b).host = s.host := by
  induction b with
  | nil => intro _ _; rfl
  | cons x r ih => intro a s; exact (ih _ _).trans (by simp)
@[simp] theorem State.extPuts_clusters (p : Nat) (b : Bytes) : ∀ (a : Nat) (s : State), (s.extPuts p a b).clusters = s.clusters := by
  induction b with
  | nil => intro _ _; rfl
  | cons x r ih => intro a s; exact (ih _ _).trans (by simp)
@[simp] theorem State.extPuts_links (p : Nat) (b : Bytes) : ∀ (a : Nat) (s : State), (s.extPuts p a b).links = s.links := by
  induction b with
  | nil => intro _ _; rfl
  | cons x r ih => intro a s; exact (ih _ _).trans (by simp)
@[simp] theorem State.extPuts_fabric (p : Nat) (b : Bytes) : ∀ (a : Nat) (s : State), (s.extPuts p a b).fabric = s.fabric := by
  induction b with
  | nil => intro _ _; rfl
  | cons x r ih => intro a s; exact (ih _ _).trans (by simp)
@[simp] theorem State.extPuts_marker (p : Nat) (b : Bytes) : ∀ (a : Nat) (s : State), (s.extPuts p a b).marker = s.marker := by
  induction b with
  | nil => intro _ _; rfl
  | cons x r ih => intro a s; exact (ih _ _).trans (by simp)
@[simp] theorem State.extPuts_chest (p : Nat) (b : Bytes) : ∀ (a : Nat) (s : State), (s.extPuts p a b).chest = s.chest := by
  induction b with
  | nil => intro _ _; rfl
  | cons x r ih => intro a s; exact (ih _ _).trans (by simp)
@[simp] theorem State.extPuts_entropy (p : Nat) (b : Bytes) : ∀ (a : Nat) (s : State), (s.extPuts p a b).entropy = s.entropy := by
  induction b with
  | nil => intro _ _; rfl
  | cons x r ih => intro a s; exact (ih _ _).trans (by simp)
@[simp] theorem State.extPuts_power (p : Nat) (b : Bytes) : ∀ (a : Nat) (s : State), (s.extPuts p a b).power = s.power := by
  induction b with
  | nil => intro _ _; rfl
  | cons x r ih => intro a s; exact (ih _ _).trans (by simp)
@[simp] theorem State.extPuts_smbus (p : Nat) (b : Bytes) : ∀ (a : Nat) (s : State), (s.extPuts p a b).smbus = s.smbus := by
  induction b with
  | nil => intro _ _; rfl
  | cons x r ih => intro a s; exact (ih _ _).trans (by simp)
@[simp] theorem State.extPuts_mgmt (p : Nat) (b : Bytes) : ∀ (a : Nat) (s : State), (s.extPuts p a b).mgmt = s.mgmt := by
  induction b with
  | nil => intro _ _; rfl
  | cons x r ih => intro a s; exact (ih _ _).trans (by simp)
@[simp] theorem State.extPuts_faults (p : Nat) (b : Bytes) : ∀ (a : Nat) (s : State), (s.extPuts p a b).faults = s.faults := by
  induction b with
  | nil => intro _ _; rfl
  | cons x r ih => intro a s; exact (ih _ _).trans (by simp)
@[simp] theorem State.extPuts_longs (p : Nat) (b : Bytes) : ∀ (a : Nat) (s : State), (s.extPuts p a b).longs = s.longs := by
  induction b with
  | nil => intro _ _; rfl
  | cons x r ih => intro a s; exact (ih _ _).trans (by simp)

/-! `State.extWriteByte`. -/

@[simp] theorem State.extWriteByte_pending (r : Bool) (p a : Nat) (b : Byte) (s : State) : (s.extWriteByte r p a b).pending = s.pending := by
  unfold State.extWriteByte; dsimp only; repeat' split
  all_goals simp
@[simp] theorem State.extWriteByte_draws (r : Bool) (p a : Nat) (b : Byte) (s : State) : (s.extWriteByte r p a b).draws = s.draws := by
  unfold State.extWriteByte; dsimp only; repeat' split
  all_goals simp
@[simp] theorem State.extWriteByte_outbox (r : Bool) (p a : Nat) (b : Byte) (s : State) : (s.extWriteByte r p a b).outbox = s.outbox := by
  unfold State.extWriteByte; dsimp only; repeat' split
  all_goals simp
@[simp] theorem State.extWriteByte_clock (r : Bool) (p a : Nat) (b : Byte) (s : State) : (s.extWriteByte r p a b).clock = s.clock := by
  unfold State.extWriteByte; dsimp only; repeat' split
  all_goals simp
@[simp] theorem State.extWriteByte_boot (r : Bool) (p a : Nat) (b : Byte) (s : State) : (s.extWriteByte r p a b).boot = s.boot := by
  unfold State.extWriteByte; dsimp only; repeat' split
  all_goals simp
@[simp] theorem State.extWriteByte_flash (r : Bool) (p a : Nat) (b : Byte) (s : State) : (s.extWriteByte r p a b).flash = s.flash := by
  unfold State.extWriteByte; dsimp only; repeat' split
  all_goals simp
@[simp] theorem State.extWriteByte_plat (r : Bool) (p a : Nat) (b : Byte) (s : State) : (s.extWriteByte r p a b).plat = s.plat := by
  unfold State.extWriteByte; dsimp only; repeat' split
  all_goals simp
@[simp] theorem State.extWriteByte_fns (r : Bool) (p a : Nat) (b : Byte) (s : State) : (s.extWriteByte r p a b).fns = s.fns := by
  unfold State.extWriteByte; dsimp only; repeat' split
  all_goals simp
@[simp] theorem State.extWriteByte_host (r : Bool) (p a : Nat) (b : Byte) (s : State) : (s.extWriteByte r p a b).host = s.host := by
  unfold State.extWriteByte; dsimp only; repeat' split
  all_goals simp
@[simp] theorem State.extWriteByte_clusters (r : Bool) (p a : Nat) (b : Byte) (s : State) : (s.extWriteByte r p a b).clusters = s.clusters := by
  unfold State.extWriteByte; dsimp only; repeat' split
  all_goals simp
@[simp] theorem State.extWriteByte_links (r : Bool) (p a : Nat) (b : Byte) (s : State) : (s.extWriteByte r p a b).links = s.links := by
  unfold State.extWriteByte; dsimp only; repeat' split
  all_goals simp
@[simp] theorem State.extWriteByte_fabric (r : Bool) (p a : Nat) (b : Byte) (s : State) : (s.extWriteByte r p a b).fabric = s.fabric := by
  unfold State.extWriteByte; dsimp only; repeat' split
  all_goals simp
@[simp] theorem State.extWriteByte_marker (r : Bool) (p a : Nat) (b : Byte) (s : State) : (s.extWriteByte r p a b).marker = s.marker := by
  unfold State.extWriteByte; dsimp only; repeat' split
  all_goals simp
@[simp] theorem State.extWriteByte_chest (r : Bool) (p a : Nat) (b : Byte) (s : State) : (s.extWriteByte r p a b).chest = s.chest := by
  unfold State.extWriteByte; dsimp only; repeat' split
  all_goals simp
@[simp] theorem State.extWriteByte_entropy (r : Bool) (p a : Nat) (b : Byte) (s : State) : (s.extWriteByte r p a b).entropy = s.entropy := by
  unfold State.extWriteByte; dsimp only; repeat' split
  all_goals simp
@[simp] theorem State.extWriteByte_power (r : Bool) (p a : Nat) (b : Byte) (s : State) : (s.extWriteByte r p a b).power = s.power := by
  unfold State.extWriteByte; dsimp only; repeat' split
  all_goals simp
@[simp] theorem State.extWriteByte_smbus (r : Bool) (p a : Nat) (b : Byte) (s : State) : (s.extWriteByte r p a b).smbus = s.smbus := by
  unfold State.extWriteByte; dsimp only; repeat' split
  all_goals simp
@[simp] theorem State.extWriteByte_mgmt (r : Bool) (p a : Nat) (b : Byte) (s : State) : (s.extWriteByte r p a b).mgmt = s.mgmt := by
  unfold State.extWriteByte; dsimp only; repeat' split
  all_goals simp
@[simp] theorem State.extWriteByte_faults (r : Bool) (p a : Nat) (b : Byte) (s : State) : (s.extWriteByte r p a b).faults = s.faults := by
  unfold State.extWriteByte; dsimp only; repeat' split
  all_goals simp
@[simp] theorem State.extWriteByte_longs (r : Bool) (p a : Nat) (b : Byte) (s : State) : (s.extWriteByte r p a b).longs = s.longs := by
  unfold State.extWriteByte; dsimp only; repeat' split
  all_goals simp

/-! `State.extWrite`. -/

@[simp] theorem State.extWrite_pending (w : Bool) (p : Nat) (b : Bytes) : ∀ (a : Nat) (s : State), (s.extWrite w p a b).pending = s.pending := by
  induction b with
  | nil => intro _ _; rfl
  | cons x r ih => intro a s; exact (ih _ _).trans (by simp)
@[simp] theorem State.extWrite_draws (w : Bool) (p : Nat) (b : Bytes) : ∀ (a : Nat) (s : State), (s.extWrite w p a b).draws = s.draws := by
  induction b with
  | nil => intro _ _; rfl
  | cons x r ih => intro a s; exact (ih _ _).trans (by simp)
@[simp] theorem State.extWrite_outbox (w : Bool) (p : Nat) (b : Bytes) : ∀ (a : Nat) (s : State), (s.extWrite w p a b).outbox = s.outbox := by
  induction b with
  | nil => intro _ _; rfl
  | cons x r ih => intro a s; exact (ih _ _).trans (by simp)
@[simp] theorem State.extWrite_clock (w : Bool) (p : Nat) (b : Bytes) : ∀ (a : Nat) (s : State), (s.extWrite w p a b).clock = s.clock := by
  induction b with
  | nil => intro _ _; rfl
  | cons x r ih => intro a s; exact (ih _ _).trans (by simp)
@[simp] theorem State.extWrite_boot (w : Bool) (p : Nat) (b : Bytes) : ∀ (a : Nat) (s : State), (s.extWrite w p a b).boot = s.boot := by
  induction b with
  | nil => intro _ _; rfl
  | cons x r ih => intro a s; exact (ih _ _).trans (by simp)
@[simp] theorem State.extWrite_flash (w : Bool) (p : Nat) (b : Bytes) : ∀ (a : Nat) (s : State), (s.extWrite w p a b).flash = s.flash := by
  induction b with
  | nil => intro _ _; rfl
  | cons x r ih => intro a s; exact (ih _ _).trans (by simp)
@[simp] theorem State.extWrite_plat (w : Bool) (p : Nat) (b : Bytes) : ∀ (a : Nat) (s : State), (s.extWrite w p a b).plat = s.plat := by
  induction b with
  | nil => intro _ _; rfl
  | cons x r ih => intro a s; exact (ih _ _).trans (by simp)
@[simp] theorem State.extWrite_fns (w : Bool) (p : Nat) (b : Bytes) : ∀ (a : Nat) (s : State), (s.extWrite w p a b).fns = s.fns := by
  induction b with
  | nil => intro _ _; rfl
  | cons x r ih => intro a s; exact (ih _ _).trans (by simp)
@[simp] theorem State.extWrite_host (w : Bool) (p : Nat) (b : Bytes) : ∀ (a : Nat) (s : State), (s.extWrite w p a b).host = s.host := by
  induction b with
  | nil => intro _ _; rfl
  | cons x r ih => intro a s; exact (ih _ _).trans (by simp)
@[simp] theorem State.extWrite_clusters (w : Bool) (p : Nat) (b : Bytes) : ∀ (a : Nat) (s : State), (s.extWrite w p a b).clusters = s.clusters := by
  induction b with
  | nil => intro _ _; rfl
  | cons x r ih => intro a s; exact (ih _ _).trans (by simp)
@[simp] theorem State.extWrite_links (w : Bool) (p : Nat) (b : Bytes) : ∀ (a : Nat) (s : State), (s.extWrite w p a b).links = s.links := by
  induction b with
  | nil => intro _ _; rfl
  | cons x r ih => intro a s; exact (ih _ _).trans (by simp)
@[simp] theorem State.extWrite_fabric (w : Bool) (p : Nat) (b : Bytes) : ∀ (a : Nat) (s : State), (s.extWrite w p a b).fabric = s.fabric := by
  induction b with
  | nil => intro _ _; rfl
  | cons x r ih => intro a s; exact (ih _ _).trans (by simp)
@[simp] theorem State.extWrite_marker (w : Bool) (p : Nat) (b : Bytes) : ∀ (a : Nat) (s : State), (s.extWrite w p a b).marker = s.marker := by
  induction b with
  | nil => intro _ _; rfl
  | cons x r ih => intro a s; exact (ih _ _).trans (by simp)
@[simp] theorem State.extWrite_chest (w : Bool) (p : Nat) (b : Bytes) : ∀ (a : Nat) (s : State), (s.extWrite w p a b).chest = s.chest := by
  induction b with
  | nil => intro _ _; rfl
  | cons x r ih => intro a s; exact (ih _ _).trans (by simp)
@[simp] theorem State.extWrite_entropy (w : Bool) (p : Nat) (b : Bytes) : ∀ (a : Nat) (s : State), (s.extWrite w p a b).entropy = s.entropy := by
  induction b with
  | nil => intro _ _; rfl
  | cons x r ih => intro a s; exact (ih _ _).trans (by simp)
@[simp] theorem State.extWrite_power (w : Bool) (p : Nat) (b : Bytes) : ∀ (a : Nat) (s : State), (s.extWrite w p a b).power = s.power := by
  induction b with
  | nil => intro _ _; rfl
  | cons x r ih => intro a s; exact (ih _ _).trans (by simp)
@[simp] theorem State.extWrite_smbus (w : Bool) (p : Nat) (b : Bytes) : ∀ (a : Nat) (s : State), (s.extWrite w p a b).smbus = s.smbus := by
  induction b with
  | nil => intro _ _; rfl
  | cons x r ih => intro a s; exact (ih _ _).trans (by simp)
@[simp] theorem State.extWrite_mgmt (w : Bool) (p : Nat) (b : Bytes) : ∀ (a : Nat) (s : State), (s.extWrite w p a b).mgmt = s.mgmt := by
  induction b with
  | nil => intro _ _; rfl
  | cons x r ih => intro a s; exact (ih _ _).trans (by simp)
@[simp] theorem State.extWrite_faults (w : Bool) (p : Nat) (b : Bytes) : ∀ (a : Nat) (s : State), (s.extWrite w p a b).faults = s.faults := by
  induction b with
  | nil => intro _ _; rfl
  | cons x r ih => intro a s; exact (ih _ _).trans (by simp)
@[simp] theorem State.extWrite_longs (w : Bool) (p : Nat) (b : Bytes) : ∀ (a : Nat) (s : State), (s.extWrite w p a b).longs = s.longs := by
  induction b with
  | nil => intro _ _; rfl
  | cons x r ih => intro a s; exact (ih _ _).trans (by simp)

/-! `State.writeSpace`. -/

@[simp] theorem State.writeSpace_pending (r : Bool) (p k sp a : Nat) (b : Bytes) (s : State) : (s.writeSpace r p k sp a b).pending = s.pending := by
  unfold State.writeSpace; repeat' split
  all_goals simp
@[simp] theorem State.writeSpace_draws (r : Bool) (p k sp a : Nat) (b : Bytes) (s : State) : (s.writeSpace r p k sp a b).draws = s.draws := by
  unfold State.writeSpace; repeat' split
  all_goals simp
@[simp] theorem State.writeSpace_outbox (r : Bool) (p k sp a : Nat) (b : Bytes) (s : State) : (s.writeSpace r p k sp a b).outbox = s.outbox := by
  unfold State.writeSpace; repeat' split
  all_goals simp
@[simp] theorem State.writeSpace_clock (r : Bool) (p k sp a : Nat) (b : Bytes) (s : State) : (s.writeSpace r p k sp a b).clock = s.clock := by
  unfold State.writeSpace; repeat' split
  all_goals simp
@[simp] theorem State.writeSpace_boot (r : Bool) (p k sp a : Nat) (b : Bytes) (s : State) : (s.writeSpace r p k sp a b).boot = s.boot := by
  unfold State.writeSpace; repeat' split
  all_goals simp
@[simp] theorem State.writeSpace_flash (r : Bool) (p k sp a : Nat) (b : Bytes) (s : State) : (s.writeSpace r p k sp a b).flash = s.flash := by
  unfold State.writeSpace; repeat' split
  all_goals simp
@[simp] theorem State.writeSpace_plat (r : Bool) (p k sp a : Nat) (b : Bytes) (s : State) : (s.writeSpace r p k sp a b).plat = s.plat := by
  unfold State.writeSpace; repeat' split
  all_goals simp
@[simp] theorem State.writeSpace_fns (r : Bool) (p k sp a : Nat) (b : Bytes) (s : State) : (s.writeSpace r p k sp a b).fns = s.fns := by
  unfold State.writeSpace; repeat' split
  all_goals simp
@[simp] theorem State.writeSpace_host (r : Bool) (p k sp a : Nat) (b : Bytes) (s : State) : (s.writeSpace r p k sp a b).host = s.host := by
  unfold State.writeSpace; repeat' split
  all_goals simp
@[simp] theorem State.writeSpace_links (r : Bool) (p k sp a : Nat) (b : Bytes) (s : State) : (s.writeSpace r p k sp a b).links = s.links := by
  unfold State.writeSpace; repeat' split
  all_goals simp
@[simp] theorem State.writeSpace_fabric (r : Bool) (p k sp a : Nat) (b : Bytes) (s : State) : (s.writeSpace r p k sp a b).fabric = s.fabric := by
  unfold State.writeSpace; repeat' split
  all_goals simp
@[simp] theorem State.writeSpace_marker (r : Bool) (p k sp a : Nat) (b : Bytes) (s : State) : (s.writeSpace r p k sp a b).marker = s.marker := by
  unfold State.writeSpace; repeat' split
  all_goals simp
@[simp] theorem State.writeSpace_chest (r : Bool) (p k sp a : Nat) (b : Bytes) (s : State) : (s.writeSpace r p k sp a b).chest = s.chest := by
  unfold State.writeSpace; repeat' split
  all_goals simp
@[simp] theorem State.writeSpace_entropy (r : Bool) (p k sp a : Nat) (b : Bytes) (s : State) : (s.writeSpace r p k sp a b).entropy = s.entropy := by
  unfold State.writeSpace; repeat' split
  all_goals simp
@[simp] theorem State.writeSpace_power (r : Bool) (p k sp a : Nat) (b : Bytes) (s : State) : (s.writeSpace r p k sp a b).power = s.power := by
  unfold State.writeSpace; repeat' split
  all_goals simp
@[simp] theorem State.writeSpace_smbus (r : Bool) (p k sp a : Nat) (b : Bytes) (s : State) : (s.writeSpace r p k sp a b).smbus = s.smbus := by
  unfold State.writeSpace; repeat' split
  all_goals simp
@[simp] theorem State.writeSpace_mgmt (r : Bool) (p k sp a : Nat) (b : Bytes) (s : State) : (s.writeSpace r p k sp a b).mgmt = s.mgmt := by
  unfold State.writeSpace; repeat' split
  all_goals simp
@[simp] theorem State.writeSpace_faults (r : Bool) (p k sp a : Nat) (b : Bytes) (s : State) : (s.writeSpace r p k sp a b).faults = s.faults := by
  unfold State.writeSpace; repeat' split
  all_goals simp
@[simp] theorem State.writeSpace_longs (r : Bool) (p k sp a : Nat) (b : Bytes) (s : State) : (s.writeSpace r p k sp a b).longs = s.longs := by
  unfold State.writeSpace; repeat' split
  all_goals simp

/-! `State.writeOp`. -/

@[simp] theorem State.writeOp_pending (p k : Nat) (o : Operand) (b : Bytes) (s : State) : (s.writeOp p k o b).pending = s.pending := by
  simp [State.writeOp]
@[simp] theorem State.writeOp_draws (p k : Nat) (o : Operand) (b : Bytes) (s : State) : (s.writeOp p k o b).draws = s.draws := by
  simp [State.writeOp]
@[simp] theorem State.writeOp_outbox (p k : Nat) (o : Operand) (b : Bytes) (s : State) : (s.writeOp p k o b).outbox = s.outbox := by
  simp [State.writeOp]
@[simp] theorem State.writeOp_clock (p k : Nat) (o : Operand) (b : Bytes) (s : State) : (s.writeOp p k o b).clock = s.clock := by
  simp [State.writeOp]
@[simp] theorem State.writeOp_boot (p k : Nat) (o : Operand) (b : Bytes) (s : State) : (s.writeOp p k o b).boot = s.boot := by
  simp [State.writeOp]
@[simp] theorem State.writeOp_flash (p k : Nat) (o : Operand) (b : Bytes) (s : State) : (s.writeOp p k o b).flash = s.flash := by
  simp [State.writeOp]
@[simp] theorem State.writeOp_plat (p k : Nat) (o : Operand) (b : Bytes) (s : State) : (s.writeOp p k o b).plat = s.plat := by
  simp [State.writeOp]
@[simp] theorem State.writeOp_fns (p k : Nat) (o : Operand) (b : Bytes) (s : State) : (s.writeOp p k o b).fns = s.fns := by
  simp [State.writeOp]
@[simp] theorem State.writeOp_host (p k : Nat) (o : Operand) (b : Bytes) (s : State) : (s.writeOp p k o b).host = s.host := by
  simp [State.writeOp]
@[simp] theorem State.writeOp_links (p k : Nat) (o : Operand) (b : Bytes) (s : State) : (s.writeOp p k o b).links = s.links := by
  simp [State.writeOp]
@[simp] theorem State.writeOp_fabric (p k : Nat) (o : Operand) (b : Bytes) (s : State) : (s.writeOp p k o b).fabric = s.fabric := by
  simp [State.writeOp]
@[simp] theorem State.writeOp_marker (p k : Nat) (o : Operand) (b : Bytes) (s : State) : (s.writeOp p k o b).marker = s.marker := by
  simp [State.writeOp]
@[simp] theorem State.writeOp_chest (p k : Nat) (o : Operand) (b : Bytes) (s : State) : (s.writeOp p k o b).chest = s.chest := by
  simp [State.writeOp]
@[simp] theorem State.writeOp_entropy (p k : Nat) (o : Operand) (b : Bytes) (s : State) : (s.writeOp p k o b).entropy = s.entropy := by
  simp [State.writeOp]
@[simp] theorem State.writeOp_power (p k : Nat) (o : Operand) (b : Bytes) (s : State) : (s.writeOp p k o b).power = s.power := by
  simp [State.writeOp]
@[simp] theorem State.writeOp_smbus (p k : Nat) (o : Operand) (b : Bytes) (s : State) : (s.writeOp p k o b).smbus = s.smbus := by
  simp [State.writeOp]
@[simp] theorem State.writeOp_mgmt (p k : Nat) (o : Operand) (b : Bytes) (s : State) : (s.writeOp p k o b).mgmt = s.mgmt := by
  simp [State.writeOp]
@[simp] theorem State.writeOp_faults (p k : Nat) (o : Operand) (b : Bytes) (s : State) : (s.writeOp p k o b).faults = s.faults := by
  simp [State.writeOp]
@[simp] theorem State.writeOp_longs (p k : Nat) (o : Operand) (b : Bytes) (s : State) : (s.writeOp p k o b).longs = s.longs := by
  simp [State.writeOp]

/-! `State.areaWrite`. -/

@[simp] theorem State.areaWrite_pending (p : Nat) (m : BounceMap) (a : Nat) (b : Bytes) (s : State) : (s.areaWrite p m a b).pending = s.pending := by
  simp [State.areaWrite]
@[simp] theorem State.areaWrite_draws (p : Nat) (m : BounceMap) (a : Nat) (b : Bytes) (s : State) : (s.areaWrite p m a b).draws = s.draws := by
  simp [State.areaWrite]
@[simp] theorem State.areaWrite_outbox (p : Nat) (m : BounceMap) (a : Nat) (b : Bytes) (s : State) : (s.areaWrite p m a b).outbox = s.outbox := by
  simp [State.areaWrite]
@[simp] theorem State.areaWrite_clock (p : Nat) (m : BounceMap) (a : Nat) (b : Bytes) (s : State) : (s.areaWrite p m a b).clock = s.clock := by
  simp [State.areaWrite]
@[simp] theorem State.areaWrite_boot (p : Nat) (m : BounceMap) (a : Nat) (b : Bytes) (s : State) : (s.areaWrite p m a b).boot = s.boot := by
  simp [State.areaWrite]
@[simp] theorem State.areaWrite_flash (p : Nat) (m : BounceMap) (a : Nat) (b : Bytes) (s : State) : (s.areaWrite p m a b).flash = s.flash := by
  simp [State.areaWrite]
@[simp] theorem State.areaWrite_plat (p : Nat) (m : BounceMap) (a : Nat) (b : Bytes) (s : State) : (s.areaWrite p m a b).plat = s.plat := by
  simp [State.areaWrite]
@[simp] theorem State.areaWrite_fns (p : Nat) (m : BounceMap) (a : Nat) (b : Bytes) (s : State) : (s.areaWrite p m a b).fns = s.fns := by
  simp [State.areaWrite]
@[simp] theorem State.areaWrite_host (p : Nat) (m : BounceMap) (a : Nat) (b : Bytes) (s : State) : (s.areaWrite p m a b).host = s.host := by
  simp [State.areaWrite]
@[simp] theorem State.areaWrite_clusters (p : Nat) (m : BounceMap) (a : Nat) (b : Bytes) (s : State) : (s.areaWrite p m a b).clusters = s.clusters := by
  simp [State.areaWrite]
@[simp] theorem State.areaWrite_links (p : Nat) (m : BounceMap) (a : Nat) (b : Bytes) (s : State) : (s.areaWrite p m a b).links = s.links := by
  simp [State.areaWrite]
@[simp] theorem State.areaWrite_fabric (p : Nat) (m : BounceMap) (a : Nat) (b : Bytes) (s : State) : (s.areaWrite p m a b).fabric = s.fabric := by
  simp [State.areaWrite]
@[simp] theorem State.areaWrite_marker (p : Nat) (m : BounceMap) (a : Nat) (b : Bytes) (s : State) : (s.areaWrite p m a b).marker = s.marker := by
  simp [State.areaWrite]
@[simp] theorem State.areaWrite_chest (p : Nat) (m : BounceMap) (a : Nat) (b : Bytes) (s : State) : (s.areaWrite p m a b).chest = s.chest := by
  simp [State.areaWrite]
@[simp] theorem State.areaWrite_entropy (p : Nat) (m : BounceMap) (a : Nat) (b : Bytes) (s : State) : (s.areaWrite p m a b).entropy = s.entropy := by
  simp [State.areaWrite]
@[simp] theorem State.areaWrite_power (p : Nat) (m : BounceMap) (a : Nat) (b : Bytes) (s : State) : (s.areaWrite p m a b).power = s.power := by
  simp [State.areaWrite]
@[simp] theorem State.areaWrite_smbus (p : Nat) (m : BounceMap) (a : Nat) (b : Bytes) (s : State) : (s.areaWrite p m a b).smbus = s.smbus := by
  simp [State.areaWrite]
@[simp] theorem State.areaWrite_mgmt (p : Nat) (m : BounceMap) (a : Nat) (b : Bytes) (s : State) : (s.areaWrite p m a b).mgmt = s.mgmt := by
  simp [State.areaWrite]
@[simp] theorem State.areaWrite_faults (p : Nat) (m : BounceMap) (a : Nat) (b : Bytes) (s : State) : (s.areaWrite p m a b).faults = s.faults := by
  simp [State.areaWrite]
@[simp] theorem State.areaWrite_longs (p : Nat) (m : BounceMap) (a : Nat) (b : Bytes) (s : State) : (s.areaWrite p m a b).longs = s.longs := by
  simp [State.areaWrite]

/-! `State.channelSignal`. -/

@[simp] theorem State.channelSignal_pending (p : Nat) (m : BounceMap) (a : Nat) (s : State) : (s.channelSignal p m a).pending = s.pending := by
  simp [State.channelSignal]
@[simp] theorem State.channelSignal_draws (p : Nat) (m : BounceMap) (a : Nat) (s : State) : (s.channelSignal p m a).draws = s.draws := by
  simp [State.channelSignal]
@[simp] theorem State.channelSignal_outbox (p : Nat) (m : BounceMap) (a : Nat) (s : State) : (s.channelSignal p m a).outbox = s.outbox := by
  simp [State.channelSignal]
@[simp] theorem State.channelSignal_clock (p : Nat) (m : BounceMap) (a : Nat) (s : State) : (s.channelSignal p m a).clock = s.clock := by
  simp [State.channelSignal]
@[simp] theorem State.channelSignal_boot (p : Nat) (m : BounceMap) (a : Nat) (s : State) : (s.channelSignal p m a).boot = s.boot := by
  simp [State.channelSignal]
@[simp] theorem State.channelSignal_flash (p : Nat) (m : BounceMap) (a : Nat) (s : State) : (s.channelSignal p m a).flash = s.flash := by
  simp [State.channelSignal]
@[simp] theorem State.channelSignal_plat (p : Nat) (m : BounceMap) (a : Nat) (s : State) : (s.channelSignal p m a).plat = s.plat := by
  simp [State.channelSignal]
@[simp] theorem State.channelSignal_fns (p : Nat) (m : BounceMap) (a : Nat) (s : State) : (s.channelSignal p m a).fns = s.fns := by
  simp [State.channelSignal]
@[simp] theorem State.channelSignal_host (p : Nat) (m : BounceMap) (a : Nat) (s : State) : (s.channelSignal p m a).host = s.host := by
  simp [State.channelSignal]
@[simp] theorem State.channelSignal_parcels (p : Nat) (m : BounceMap) (a : Nat) (s : State) : (s.channelSignal p m a).parcels = s.parcels := by
  simp [State.channelSignal]
@[simp] theorem State.channelSignal_links (p : Nat) (m : BounceMap) (a : Nat) (s : State) : (s.channelSignal p m a).links = s.links := by
  simp [State.channelSignal]
@[simp] theorem State.channelSignal_fabric (p : Nat) (m : BounceMap) (a : Nat) (s : State) : (s.channelSignal p m a).fabric = s.fabric := by
  simp [State.channelSignal]
@[simp] theorem State.channelSignal_marker (p : Nat) (m : BounceMap) (a : Nat) (s : State) : (s.channelSignal p m a).marker = s.marker := by
  simp [State.channelSignal]
@[simp] theorem State.channelSignal_chest (p : Nat) (m : BounceMap) (a : Nat) (s : State) : (s.channelSignal p m a).chest = s.chest := by
  simp [State.channelSignal]
@[simp] theorem State.channelSignal_entropy (p : Nat) (m : BounceMap) (a : Nat) (s : State) : (s.channelSignal p m a).entropy = s.entropy := by
  simp [State.channelSignal]
@[simp] theorem State.channelSignal_power (p : Nat) (m : BounceMap) (a : Nat) (s : State) : (s.channelSignal p m a).power = s.power := by
  simp [State.channelSignal]
@[simp] theorem State.channelSignal_smbus (p : Nat) (m : BounceMap) (a : Nat) (s : State) : (s.channelSignal p m a).smbus = s.smbus := by
  simp [State.channelSignal]
@[simp] theorem State.channelSignal_mgmt (p : Nat) (m : BounceMap) (a : Nat) (s : State) : (s.channelSignal p m a).mgmt = s.mgmt := by
  simp [State.channelSignal]
@[simp] theorem State.channelSignal_faults (p : Nat) (m : BounceMap) (a : Nat) (s : State) : (s.channelSignal p m a).faults = s.faults := by
  simp [State.channelSignal]
@[simp] theorem State.channelSignal_longs (p : Nat) (m : BounceMap) (a : Nat) (s : State) : (s.channelSignal p m a).longs = s.longs := by
  simp [State.channelSignal]

end Sys2Proof.Machine
end

