-- ==== Sys2Proof/Laws/Maps.lean ====
section
/-! SUPPORT. Laws of the finite maps and memories: what a read after a write gives, and that every operation keeps the canonical form. -/

set_option linter.unusedTactic false
set_option linter.unreachableTactic false
set_option linter.unusedVariables false
set_option linter.unusedSimpArgs false
set_option Elab.async false

namespace Sys2Proof.Machine

/-- Every key of a map lies above a bound. -/
def keysAbove {α : Type} (a : Nat) (t : Tbl α) : Prop := ∀ x ∈ t, a < x.1

theorem rising_cons {α : Type} (a : Nat) (v : α) (t : Tbl α) :
    rising ((a, v) :: t) = true ↔ keysAbove a t ∧ rising t = true := by
  induction t generalizing a v with
  | nil => simp [rising, keysAbove]
  | cons x r ih =>
    obtain ⟨b, w⟩ := x
    simp only [rising, Bool.and_eq_true, decide_eq_true_eq, ih b w, keysAbove, List.mem_cons, forall_eq_or_imp]
    constructor
    · rintro ⟨hab, hb, hr⟩
      exact ⟨⟨hab, fun y hy => hab.trans (hb y hy)⟩, hb, hr⟩
    · rintro ⟨⟨hab, -⟩, hb, hr⟩
      exact ⟨hab, hb, hr⟩

theorem mem_tset {α : Type} {a : Nat} {v : α} {t : Tbl α} {x : Nat × α} (h : x ∈ tset a v t) : x = (a, v) ∨ x ∈ t := by
  induction t with
  | nil => simpa [tset] using h
  | cons y r ih =>
    obtain ⟨b, w⟩ := y
    simp only [tset] at h
    split at h
    · simpa using h
    · split at h
      · simp only [List.mem_cons] at h ⊢; tauto
      · simp only [List.mem_cons] at h ⊢
        rcases h with h | h
        · tauto
        · have := ih h; tauto

theorem mem_tdel {α : Type} {a : Nat} {t : Tbl α} {x : Nat × α} (h : x ∈ tdel a t) : x ∈ t := by
  induction t with
  | nil => simp [tdel] at h
  | cons y r ih =>
    obtain ⟨b, w⟩ := y
    simp only [tdel] at h
    split at h
    · exact List.mem_cons_of_mem _ h
    · simp only [List.mem_cons] at h ⊢
      exact h.imp id ih

theorem rising_tset {α : Type} {a : Nat} {v : α} {t : Tbl α} (h : rising t = true) : rising (tset a v t) = true := by
  induction t with
  | nil => simp [tset, rising]
  | cons y r ih =>
    obtain ⟨b, w⟩ := y
    obtain ⟨hb, hr⟩ := (rising_cons b w r).1 h
    simp only [tset]
    split
    · rename_i hab
      refine (rising_cons _ _ _).2 ⟨fun x hx => ?_, h⟩
      rcases List.mem_cons.1 hx with rfl | hx
      · exact hab
      · exact hab.trans (hb x hx)
    · split
      · rename_i hab
        subst hab
        exact (rising_cons _ _ _).2 ⟨hb, hr⟩
      · refine (rising_cons _ _ _).2 ⟨fun x hx => ?_, ih hr⟩
        rcases mem_tset hx with rfl | hx
        · simp only; omega
        · exact hb x hx

theorem rising_tdel {α : Type} {a : Nat} {t : Tbl α} (h : rising t = true) : rising (tdel a t) = true := by
  induction t with
  | nil => simp [tdel, rising]
  | cons y r ih =>
    obtain ⟨b, w⟩ := y
    obtain ⟨hb, hr⟩ := (rising_cons b w r).1 h
    simp only [tdel]
    split
    · exact hr
    · exact (rising_cons _ _ _).2 ⟨fun x hx => hb x (mem_tdel hx), ih hr⟩

theorem rising_filter {α : Type} {f : Nat × α → Bool} {t : Tbl α} (h : rising t = true) : rising (t.filter f) = true := by
  induction t with
  | nil => simp [rising]
  | cons y r ih =>
    obtain ⟨b, w⟩ := y
    obtain ⟨hb, hr⟩ := (rising_cons b w r).1 h
    rw [List.filter_cons]
    split
    · exact (rising_cons _ _ _).2 ⟨fun x hx => hb x (List.mem_filter.1 hx).1, ih hr⟩
    · exact ih hr

/-- Changing values at their keys keeps the order of the keys. -/
theorem rising_keys {α β : Type} {t : Tbl α} {u : Tbl β} (hk : u.map Prod.fst = t.map Prod.fst) (h : rising t = true) :
    rising u = true := by
  induction t generalizing u with
  | nil => simp at hk; simp [hk, rising]
  | cons y r ih =>
    obtain ⟨b, w⟩ := y
    obtain ⟨hb, hr⟩ := (rising_cons b w r).1 h
    cases u with
    | nil => simp at hk
    | cons z q =>
      obtain ⟨c, v⟩ := z
      simp only [List.map_cons, List.cons.injEq] at hk
      obtain ⟨rfl, hk⟩ := hk
      refine (rising_cons _ _ _).2 ⟨fun x hx => ?_, ih hk hr⟩
      have hx' : x.1 ∈ r.map Prod.fst := hk ▸ List.mem_map_of_mem hx
      obtain ⟨y, hy, hyx⟩ := List.mem_map.1 hx'
      exact hyx ▸ hb y hy

/-! Reads after writes. -/

theorem tget_above {α : Type} {a k : Nat} {t : Tbl α} (h : keysAbove a t) (hk : k ≤ a) : tget k t = none := by
  induction t with
  | nil => rfl
  | cons y r ih =>
    obtain ⟨b, w⟩ := y
    have hb : a < b := h (b, w) (by simp)
    simp only [tget]
    rw [if_neg (by omega)]
    exact ih fun x hx => h x (by simp [hx])

/-- A write is read back at its key. -/
@[simp] theorem tget_tset_same {α : Type} (a : Nat) (v : α) (t : Tbl α) : tget a (tset a v t) = some v := by
  induction t with
  | nil => simp [tset, tget]
  | cons y r ih =>
    obtain ⟨b, w⟩ := y
    simp only [tset]
    split
    · simp [tget]
    · split
      · simp [tget]
      · rename_i h1 h2
        simp only [tget]
        rw [if_neg (by omega)]
        exact ih

/-- A write leaves every other key alone. -/
theorem tget_tset_ne {α : Type} {a k : Nat} (v : α) (t : Tbl α) (h : k ≠ a) : tget k (tset a v t) = tget k t := by
  induction t with
  | nil => simp [tset, tget, Ne.symm h]
  | cons y r ih =>
    obtain ⟨b, w⟩ := y
    simp only [tset]
    split
    · simp only [tget]; rw [if_neg (Ne.symm h)]
    · split
      · rename_i h1 h2
        subst h2
        simp only [tget]; rw [if_neg (Ne.symm h), if_neg (Ne.symm h)]
      · simp only [tget, ih]

/-- A deleted key of a canonical map reads as absent. -/
theorem tget_tdel_same {α : Type} {a : Nat} {t : Tbl α} (h : rising t = true) : tget a (tdel a t) = none := by
  induction t with
  | nil => rfl
  | cons y r ih =>
    obtain ⟨b, w⟩ := y
    obtain ⟨hb, hr⟩ := (rising_cons b w r).1 h
    simp only [tdel]
    split
    · rename_i hab
      subst hab
      exact tget_above hb le_rfl
    · rename_i hab
      simp only [tget]
      rw [if_neg hab]
      exact ih hr

/-- A deletion leaves every other key alone. -/
theorem tget_tdel_ne {α : Type} {a k : Nat} (t : Tbl α) (h : k ≠ a) : tget k (tdel a t) = tget k t := by
  induction t with
  | nil => rfl
  | cons y r ih =>
    obtain ⟨b, w⟩ := y
    simp only [tdel]
    split
    · rename_i hab
      subst hab
      simp only [tget]; rw [if_neg (Ne.symm h)]
    · simp only [tget, ih]

theorem mem_of_tget {α : Type} {k : Nat} {v : α} {t : Tbl α} (h : tget k t = some v) : (k, v) ∈ t := by
  induction t with
  | nil => simp [tget] at h
  | cons y r ih =>
    obtain ⟨b, w⟩ := y
    simp only [tget] at h
    split at h
    · rename_i hb
      simp only [Option.some.injEq] at h
      simp [hb, h]
    · exact List.mem_cons_of_mem _ (ih h)

/-! Memories. -/

theorem wf_true_iff (m : Memory) : Memory.wf true m = true ↔ rising m = true ∧ ∀ c ∈ m, c.2 ≠ 0 := by
  simp [Memory.wf]

theorem wf_nil (z : Bool) : Memory.wf z [] = true := by cases z <;> rfl

/-- One byte's write keeps the canonical form of a memory whose unlisted bytes read as zero. -/
theorem wf_put0 {a : Nat} {b : Byte} {m : Memory} (h : Memory.wf true m = true) : Memory.wf true (Memory.put0 a b m) = true := by
  obtain ⟨hr, hz⟩ := (wf_true_iff m).1 h
  unfold Memory.put0
  split
  · exact (wf_true_iff _).2 ⟨rising_tdel hr, fun c hc => hz c (mem_tdel hc)⟩
  · rename_i hb
    refine (wf_true_iff _).2 ⟨rising_tset hr, fun c hc => ?_⟩
    rcases mem_tset hc with rfl | hc
    · exact hb
    · exact hz c hc

/-- A run's write keeps the canonical form. -/
theorem wf_write0 {b : Bytes} {a : Nat} {m : Memory} (h : Memory.wf true m = true) : Memory.wf true (Memory.write0 a b m) = true := by
  induction b generalizing a m with
  | nil => exact h
  | cons x r ih => exact ih (wf_put0 h)

/-- A run's write keeps the canonical form of a memory with no default. -/
theorem rising_write {b : Bytes} {a : Nat} {m : Memory} (h : rising m = true) : rising (Memory.write a b m) = true := by
  induction b generalizing a m with
  | nil => exact h
  | cons x r ih => exact ih (rising_tset h)

/-- A byte written is read back. -/
theorem get0_put0_same {a : Nat} {b : Byte} {m : Memory} (h : rising m = true) : Memory.get0 a (Memory.put0 a b m) = b := by
  unfold Memory.put0
  split
  · rename_i hb
    simp [Memory.get0, tget_tdel_same h, hb]
  · simp [Memory.get0]

/-- A byte's write leaves every other address alone. -/
theorem get0_put0_ne {a k : Nat} (b : Byte) (m : Memory) (h : k ≠ a) : Memory.get0 k (Memory.put0 a b m) = Memory.get0 k m := by
  unfold Memory.put0 Memory.get0
  split
  · rw [tget_tdel_ne _ h]
  · rw [tget_tset_ne _ _ h]

theorem rising_of_wf {z : Bool} {m : Memory} (h : Memory.wf z m = true) : rising m = true := by
  simp only [Memory.wf, Bool.and_eq_true] at h
  exact h.1

/-- What a run's write leaves at an address: the byte of the run that lies there, else what was there. -/
theorem get0_write0 {b : Bytes} {a k : Nat} {m : Memory} (h : Memory.wf true m = true) :
    Memory.get0 k (Memory.write0 a b m) = if a ≤ k ∧ k < a + b.length then b.getD (k - a) 0 else Memory.get0 k m := by
  induction b generalizing a m with
  | nil => simp only [Memory.write0, List.length_nil]; rw [if_neg (by omega)]
  | cons x r ih =>
    rw [Memory.write0, ih (wf_put0 h)]
    by_cases hk : k = a
    · subst hk
      rw [if_neg (by omega), get0_put0_same (rising_of_wf h), if_pos (by simp)]
      simp
    · rw [get0_put0_ne _ _ hk]
      by_cases h1 : a + 1 ≤ k ∧ k < a + 1 + r.length
      · rw [if_pos h1, if_pos (by simp; omega)]
        obtain ⟨n, rfl⟩ : ∃ n, k = a + 1 + n := ⟨k - (a + 1), by omega⟩
        rw [show a + 1 + n - (a + 1) = n by omega, show a + 1 + n - a = n + 1 by omega]
        simp
      · rw [if_neg h1, if_neg (by simp; omega)]

/-- A run's write is read back, and leaves every other address alone (no default). -/
theorem tget_write (b : Bytes) (a k : Nat) (m : Memory) :
    tget k (Memory.write a b m) = if a ≤ k ∧ k < a + b.length then b[k - a]? else tget k m := by
  induction b generalizing a m with
  | nil => simp only [Memory.write, List.length_nil]; rw [if_neg (by omega)]
  | cons x r ih =>
    rw [Memory.write, ih]
    by_cases hk : k = a
    · subst hk
      rw [if_neg (by omega), if_pos (by simp)]
      simp
    · rw [tget_tset_ne _ _ hk]
      by_cases h1 : a + 1 ≤ k ∧ k < a + 1 + r.length
      · rw [if_pos h1, if_pos (by simp; omega)]
        obtain ⟨n, rfl⟩ : ∃ n, k = a + 1 + n := ⟨k - (a + 1), by omega⟩
        rw [show a + 1 + n - (a + 1) = n by omega, show a + 1 + n - a = n + 1 by omega]
        simp
      · rw [if_neg h1, if_neg (by simp; omega)]

/-! Fields. -/

@[simp] theorem length_le (n v : Nat) : (le n v).length = n := by
  induction n generalizing v with
  | zero => rfl
  | succ n ih => simp [le, ih]

/-- A field reads back modulo its size (R5). -/
theorem leNat_le (n v : Nat) : leNat (le n v) = v % 256 ^ n := by
  induction n generalizing v with
  | zero => simp [le, leNat, Nat.mod_one]
  | succ n ih =>
    simp only [le, leNat, ih, BitVec.toNat_ofNat]
    rw [show 256 ^ (n + 1) = 256 * 256 ^ n from Nat.pow_succ', Nat.mod_mul]

@[simp] theorem length_zeros (n : Nat) : (zeros n).length = n := by simp [zeros]

@[simp] theorem length_padTo (n : Nat) (b : Bytes) : (padTo n b).length = n := by
  simp only [padTo, zeros, List.length_take, List.length_append, List.length_replicate]
  omega

end Sys2Proof.Machine
end

