-- ==== Sys2Proof/Laws/Shelf.lean ====
section
/-! SUPPORT. What a write to the shelf can do (R52, R55, R56, R80): a write that its row takes leaves every row's mode, hold and owner as they are, so
that the writes after it are taken too, and it leaves the context started. -/

set_option linter.unusedTactic false
set_option linter.unreachableTactic false
set_option linter.unusedVariables false
set_option linter.unusedSimpArgs false
set_option Elab.async false

namespace Sys2Proof.Machine

/-- What decides whether a row takes a write. -/
def Row.access (w : Row) : Nat × Bool × Nat := (rowMode w.ctrl, rowHeld w.ctrl, rowOwner w.ctrl)

theorem rowRefuses_access {c : Nat} {w v : Row} (h : w.access = v.access) : rowRefuses c w = rowRefuses c v := by
  simp only [Row.access, Prod.mk.injEq] at h
  simp [rowRefuses, h]

/-- A step leaves alone what decides whether the shelf of logical cluster `k` takes the next write of context `c`. -/
structure Kept (p c k : Nat) (s t : State) : Prop where
  live : t.live p k = s.live p k
  state : (t.ctx p c).state = (s.ctx p c).state
  access : ∀ r, (t.rowOf p k r).access = (s.rowOf p k r).access
  moduli : (t.lead p k).moduli = (s.lead p k).moduli
  replay : (t.parcel p).replay = (s.parcel p).replay

theorem Kept.refl {p c k : Nat} (s : State) : Kept p c k s s := ⟨rfl, rfl, fun _ => rfl, rfl, rfl⟩

theorem Kept.trans {p c k : Nat} {s t u : State} (h : Kept p c k s t) (g : Kept p c k t u) : Kept p c k s u :=
  ⟨g.live.trans h.live, g.state.trans h.state, fun r => (g.access r).trans (h.access r), g.moduli.trans h.moduli, g.replay.trans h.replay⟩

theorem Kept.started {p c k : Nat} {s t : State} (h : Kept p c k s t) : (t.ctx p c).started = (s.ctx p c).started := by
  simp [Context.started, h.state]

theorem Kept.refuses {p c k : Nat} {s t : State} (h : Kept p c k s t) (d r : Nat) : rowRefuses d (t.rowOf p k r) = rowRefuses d (s.rowOf p k r) :=
  rowRefuses_access (h.access r)

theorem Kept.mode {p c k : Nat} {s t : State} (h : Kept p c k s t) (r : Nat) : rowMode (t.rowOf p k r).ctrl = rowMode (s.rowOf p k r).ctrl :=
  (Prod.mk.inj (h.access r)).1

theorem Kept.foldl {α : Type} {p c k : Nat} {f : State → α → State} (h : ∀ t a, Kept p c k t (f t a)) :
    ∀ (l : List α) (s : State), Kept p c k s (l.foldl f s)
  | [], s => .refl s
  | a :: l, s => (h s a).trans (Kept.foldl h l (f s a))

/-! Elementary updates. -/

/-- A change of one entry leaves alone what the change leaves alone. -/
theorem getD_modify_keep {α β : Type} (π : α → β) {g : α → α} (h : ∀ x, π (g x) = π x) (l : List α) (n i : Nat) (d : α) :
    π ((l.modify n g).getD i d) = π (l.getD i d) := by
  simp only [List.getD_eq_getElem?_getD, List.getElem?_modify]
  cases l[i]? with
  | none => rfl
  | some x => simp only [Option.map_eq_map, Option.map_some, Option.getD_some]; split <;> simp [h]

theorem modCtx_state {p c q d : Nat} {g : Context → Context} {s : State} (h : ∀ x, (g x).state = x.state) :
    ((s.modCtx q d g).ctx p c).state = (s.ctx p c).state :=
  getD_modify_keep (g := Parcel.modCtx d g) (fun v : Parcel => (v.ctx c).state)
    (fun v => getD_modify_keep Context.state h v.contexts d c Context.reset) s.parcels q p Parcel.reset

theorem Kept.of_eq {p c k : Nat} {s t : State} (hp : t.parcels = s.parcels) (hc : t.clusters = s.clusters) : Kept p c k s t := by
  have h1 : ∀ q, t.parcel q = s.parcel q := fun q => by simp [State.parcel, hp]
  have h2 : ∀ q, t.cluster q = s.cluster q := fun q => by simp [State.cluster, hc]
  have h3 : t.live p k = s.live p k := by simp [State.live, h1, h2]
  have h4 : t.lead p k = s.lead p k := by simp only [State.lead, h3]; split <;> simp [h2]
  exact ⟨h3, by simp [State.ctx, h1], fun r => by simp [State.rowOf, h4], by rw [h4], by rw [h1]⟩

theorem modParcel_members {p q k : Nat} {g : Parcel → Parcel} {s : State} (hc : ∀ x, (g x).clusters = x.clusters) (hp : ∀ x, (g x).paired = x.paired) :
    ((s.modParcel q g).parcel p).members k = (s.parcel p).members k :=
  getD_modify_keep (fun v : Parcel => v.members k) (fun v => by simp [Parcel.members, hc, hp]) s.parcels q p Parcel.reset

theorem modParcel_replay {p q : Nat} {g : Parcel → Parcel} {s : State} (h : ∀ x, (g x).replay = x.replay) :
    ((s.modParcel q g).parcel p).replay = (s.parcel p).replay :=
  getD_modify_keep Parcel.replay h s.parcels q p Parcel.reset

theorem Kept.modCtx {p c k q d : Nat} {g : Context → Context} {s : State} (h : ∀ x, (g x).state = x.state) : Kept p c k s (s.modCtx q d g) := by
  have h3 : (s.modCtx q d g).live p k = s.live p k := by
    unfold State.live State.modCtx
    rw [modParcel_members (g := Parcel.modCtx d g) (fun _ => rfl) (fun _ => rfl)]
    rfl
  have h4 : (s.modCtx q d g).lead p k = s.lead p k := by simp only [State.lead, h3]; rfl
  exact ⟨h3, modCtx_state h, fun r => by simp [State.rowOf, h4], by rw [h4], modParcel_replay fun _ => rfl⟩

theorem Kept.modParcel {p c k q : Nat} {g : Parcel → Parcel} {s : State} (h1 : ∀ x, (g x).clusters = x.clusters) (h2 : ∀ x, (g x).paired = x.paired)
    (h3 : ∀ x, (g x).contexts = x.contexts) (h4 : ∀ x, (g x).replay = x.replay) : Kept p c k s (s.modParcel q g) := by
  have a : (s.modParcel q g).live p k = s.live p k := by
    unfold State.live
    rw [modParcel_members h1 h2]
    rfl
  have b : (s.modParcel q g).lead p k = s.lead p k := by simp only [State.lead, a]; rfl
  exact ⟨a, getD_modify_keep (fun v : Parcel => (v.ctx c).state) (fun v => by simp [Parcel.ctx, h3]) s.parcels q p Parcel.reset,
    fun r => by simp [State.rowOf, b], by rw [b], modParcel_replay h4⟩

theorem cluster_modCluster {i j : Nat} {g : Cluster → Cluster} {s : State} (P : Cluster → Prop) (h : ∀ u, P u → P (g u)) (hj : P (s.cluster j)) :
    P ((s.modCluster i g).cluster j) := by
  simp only [State.modCluster, State.cluster, List.getD_eq_getElem?_getD, List.getElem?_modify] at *
  cases hv : s.clusters[j]? with
  | none => simpa [hv] using hj
  | some v =>
    simp only [hv, Option.getD_some] at hj
    simp only [Option.map_eq_map, Option.map_some, Option.getD_some]
    split
    · exact h v hj
    · exact hj

theorem cluster_modClusters {j : Nat} {g : Cluster → Cluster} (P : Cluster → Prop) (h : ∀ u, P u → P (g u)) :
    ∀ (l : List Nat) (s : State), P (s.cluster j) → P ((s.modClusters l g).cluster j)
  | [], _, hj => hj
  | i :: l, s, hj => by
    show P (State.cluster j (State.modClusters l g (s.modCluster i g)))
    exact cluster_modClusters P h l _ (cluster_modCluster P h hj)

theorem Kept.modClusters {p c k : Nat} {l : List Nat} {g : Cluster → Cluster} {s : State} (hf : ∀ u, (g u).fenced = u.fenced) (hm : ∀ u, (g u).moduli = u.moduli)
    (ha : ∀ u, (∀ r, (u.row r).access = ((s.lead p k).row r).access) → ∀ r, ((g u).row r).access = ((s.lead p k).row r).access) :
    Kept p c k s (s.modClusters l g) := by
  have hfen : ∀ j, ((s.modClusters l g).cluster j).fenced = (s.cluster j).fenced := fun j =>
    cluster_modClusters (fun u => u.fenced = (s.cluster j).fenced) (fun u h => (hf u).trans h) _ s rfl
  have h3 : (s.modClusters l g).live p k = s.live p k := by
    unfold State.live
    rw [State.modClusters_parcel]
    congr 1
    funext j
    rw [hfen]
  refine ⟨h3, by simp, fun r => ?_, ?_, by simp⟩
  · unfold State.rowOf State.lead
    rw [h3]
    cases hl : s.live p k with
    | nil => rfl
    | cons m rest =>
      have e : s.lead p k = s.cluster m := by simp [State.lead, hl]
      have := cluster_modClusters (j := m) (fun u => ∀ r, (u.row r).access = ((s.lead p k).row r).access) ha l s (by rw [e]; simp)
      simpa [e] using this r
  · unfold State.lead
    rw [h3]
    cases hl : s.live p k with
    | nil => rfl
    | cons m rest => exact cluster_modClusters (j := m) (fun u => u.moduli = (s.cluster m).moduli) (fun u h => (hm u).trans h) l s rfl

/-- Any change of clusters that leaves fences, moduli and rows alone. -/
theorem Kept.modLogical {p c k q j : Nat} {g : Cluster → Cluster} {s : State} (hf : ∀ u, (g u).fenced = u.fenced) (hm : ∀ u, (g u).moduli = u.moduli)
    (hr : ∀ u, (g u).rows = u.rows) : Kept p c k s (s.modLogical q j g) :=
  .modClusters hf hm fun u h r => by rw [← h r]; simp [Cluster.row, hr]

theorem Kept.drawMany {p c k n : Nat} {s : State} : Kept p c k s (s.drawMany n) := .of_eq rfl rfl

theorem Kept.evVf {p c k q code : Nat} {d : List Nat} {s : State} : Kept p c k s (s.evVf q code d) := .of_eq (by simp) (by simp)

theorem Kept.saturate {p c k q d j : Nat} {rows : List Nat} {s : State} : Kept p c k s (s.saturate q d j rows) :=
  Kept.foldl (f := fun s r => _) (fun t r => by
    have h1 : Kept p c k t (t.modLogical q j fun x => { x with
        satMap := x.satMap ||| BitVec.twoPow 256 r
        satOwner := tset r (rowOwner (x.row r).ctrl) x.satOwner }) := .modLogical (fun _ => rfl) (fun _ => rfl) fun _ => rfl
    have h2 := h1.trans (.modCtx (q := q) (d := d) (g := Context.modOn j fun x => { x with satCount := x.satCount + 1 }) fun _ => rfl)
    dsimp only
    split
    · exact h2.trans .evVf
    · exact h2) rows s

/-! Writes of rows. -/

theorem rowMode_withScale (w : BitVec 32) (n : Nat) : rowMode (withScale w n) = rowMode w ∧ rowHeld (withScale w n) = rowHeld w ∧
    rowOwner (withScale w n) = rowOwner w := by
  have hm : rowMode w < 16 := by unfold rowMode bits; omega
  have hs : rowSlot w < 64 := by unfold rowSlot bits; omega
  have ho : rowOwner w < 8 := by unfold rowOwner bits; omega
  have key : ∀ (m s o n : Nat) (a b : Bool), m < 16 → s < 64 → o < 8 → rowMode (rowCtrl m s a b n o) = m ∧ rowHeld (rowCtrl m s a b n o) = b ∧ rowOwner (rowCtrl m s a b n o) = o := by
    intro m s o n a b h1 h2 h3
    have e : (rowCtrl m s a b n o).toNat = m + s * 16 + b2n a * 1024 + b2n b * 2048 + n % 256 * 4096 + o * 1048576 := by
      simp only [rowCtrl, BitVec.toNat_ofNat, Nat.mod_eq_of_lt h1, Nat.mod_eq_of_lt h2, Nat.mod_eq_of_lt h3]
      cases a <;> cases b <;> simp only [b2n] <;> norm_num <;> omega
    refine ⟨?_, ?_, ?_⟩
    · show _ / 1 % 16 = _
      rw [e]; cases a <;> cases b <;> simp only [b2n, if_true, Bool.false_eq_true, if_false] <;> omega
    · unfold rowHeld; rw [e, Nat.testBit_eq_decide_div_mod_eq]
      cases a <;> cases b <;> simp only [b2n] <;> norm_num <;> omega
    · show _ / 1048576 % 8 = _
      have hl : m + s * 16 + b2n a * 1024 + b2n b * 2048 + n % 256 * 4096 < 1048576 := by
        have : n % 256 < 256 := Nat.mod_lt _ (by norm_num)
        cases a <;> cases b <;> simp only [b2n, if_true, Bool.false_eq_true, if_false] <;> omega
      rw [e, Nat.add_mul_div_right _ _ (by norm_num), Nat.div_eq_of_lt hl, Nat.zero_add, Nat.mod_eq_of_lt h3]
  exact key _ _ _ _ _ _ hm hs ho

theorem landRow_access (mods : List Nat) (w m : Row) (kind f : Nat) (vals : List Int) (fp : List Nat) :
    (landRow mods w m kind f vals fp).row.access = w.access ∧ (landRow mods w m kind f vals fp).mate.access = m.access := by
  unfold landRow
  split
  · exact ⟨rfl, rfl⟩
  · exact ⟨rfl, rfl⟩
  · exact ⟨rfl, rfl⟩
  · exact ⟨rfl, rfl⟩
  · refine ⟨?_, rfl⟩
    have := rowMode_withScale w.ctrl
    simp only [Row.access, (this _).1, (this _).2.1, (this _).2.2]
  · exact ⟨rfl, rfl⟩
  · dsimp only
    split <;> exact ⟨rfl, rfl⟩
  · exact ⟨rfl, rfl⟩

theorem row_putRow (r q : Nat) (w : Row) (u : Cluster) : (u.putRow r w).row q = if q = r then w else u.row q := by
  simp only [Cluster.putRow, Cluster.row]
  split
  · rename_i h; subst h; simp
  · rename_i h; rw [tget_tset_ne _ _ h]

/-- A write that its row takes: everything it leaves as it was. -/
theorem State.landWrite_kept (p c k r kind f : Nat) (vals : List Int) (fp : List Nat) (s : State) (h : rowRefuses c (s.rowOf p k r) = false) :
    Kept p c k s (s.landWrite p c k r kind f vals fp) := by
  unfold State.landWrite
  dsimp only
  unfold State.rowOf at h
  rw [h, if_neg (by simp)]
  split
  · exact .refl s
  · refine Kept.trans ?_ .saturate
    refine Kept.trans ?_ (Kept.modCtx fun _ => rfl)
    have ha := landRow_access (s.lead p k).moduli ((s.lead p k).row (pairBase ((s.lead p k).row r) r)) ((s.lead p k).row (pairBase ((s.lead p k).row r) r + 1)) kind f vals fp
    refine .modClusters (fun u => ?_) (fun u => ?_) fun u hu q => ?_
    · split <;> rfl
    · split <;> rfl
    · split
      · rw [row_putRow]
        split
        · rename_i e; rw [e]; exact ha.2
        · rw [row_putRow]
          split
          · rename_i e; rw [e]; exact ha.1
          · exact hu q
      · rw [row_putRow]
        split
        · rename_i e; rw [e]; exact ha.1
        · exact hu q

theorem Kept.rowsTake {p c k : Nat} {s t : State} (h : Kept p c k s t) {modes rows : List Nat} (hr : s.rowsTake p c k modes rows) :
    t.rowsTake p c k modes rows := fun r hm => by
  rw [h.mode, h.refuses]; exact hr r hm

theorem State.reach_kept {p c k r : Nat} {modes : List Nat} {g : State → State} {s : State} (h : (s.ctx p c).started = true)
    (hm : modes.contains (rowMode (s.rowOf p k r).ctrl) = true) (hr : rowRefuses c (s.rowOf p k r) = false) (hg : Kept p c k s (g s)) :
    Kept p c k s (s.reach p c k r modes g) := by
  unfold State.reach State.ifUp
  rw [if_pos h]
  dsimp only
  rw [hm, hr]
  simpa using hg

/-! Stores. -/

theorem Kept.extPut {p c k q a : Nat} {b : Byte} {s : State} : Kept p c k s (s.extPut q a b) :=
  .modParcel (fun _ => rfl) (fun _ => rfl) (fun _ => rfl) fun _ => rfl

theorem Kept.extPuts {p c k q : Nat} : ∀ (b : Bytes) (a : Nat) (s : State), Kept p c k s (s.extPuts q a b)
  | [], _, s => .refl s
  | b :: l, a, s => Kept.extPut.trans (Kept.extPuts l (a + 1) (s.extPut q a b))

theorem Kept.extWriteByte {p c k q a : Nat} {raw : Bool} {b : Byte} {s : State} : Kept p c k s (s.extWriteByte raw q a b) := by
  unfold State.extWriteByte
  split
  · split
    · exact .modParcel (fun _ => rfl) (fun _ => rfl) (fun _ => rfl) fun _ => rfl
    · split
      · exact .extPut
      · exact .extPuts ..
  · exact .extPut

theorem Kept.extWrite {p c k q : Nat} {raw : Bool} : ∀ (b : Bytes) (a : Nat) (s : State), Kept p c k s (s.extWrite raw q a b)
  | [], _, s => .refl s
  | b :: l, a, s => Kept.extWriteByte.trans (Kept.extWrite l (a + 1) (s.extWriteByte raw q a b))

theorem writeStore_keeps (bench : Option Nat) (a : Nat) (b : Bytes) (u : Cluster) :
    (u.writeStore bench a b).fenced = u.fenced ∧ (u.writeStore bench a b).moduli = u.moduli ∧ (u.writeStore bench a b).rows = u.rows := by
  cases bench <;> exact ⟨rfl, rfl, rfl⟩

theorem Kept.writeSpace {p c k q j sp a : Nat} {raw : Bool} {b : Bytes} {s : State} : Kept p c k s (s.writeSpace raw q j sp a b) := by
  have hw : ∀ (i : Nat) bench (a : Nat), Kept p c k s (s.modLogical q i (Cluster.writeStore bench a b)) := fun i bench a =>
    .modLogical (fun u => (writeStore_keeps ..).1) (fun u => (writeStore_keeps ..).2.1) fun u => (writeStore_keeps ..).2.2
  unfold State.writeSpace
  split
  · exact .refl s
  · split
    · exact hw ..
    · exact hw ..
    · exact hw ..
    · exact .extWrite ..
    · split
      · exact .extWrite ..
      · exact .refl s
    · exact .refl s

theorem Kept.writeOp {p c k q j : Nat} {o : Operand} {b : Bytes} {s : State} : Kept p c k s (s.writeOp q j o b) := .writeSpace

theorem Kept.discard {p c k q d r n : Nat} {s : State} : Kept p c k s (s.discard q d r n) := .modCtx fun _ => rfl

theorem Kept.scribbleRow {p c k q j r : Nat} {s : State} : Kept p c k s (s.scribbleRow q j r) := by
  unfold State.scribbleRow
  refine Kept.trans (.modClusters (fun u => ?_) (fun u => ?_) fun u hu n => ?_) .drawMany
  · split <;> rfl
  · split <;> rfl
  · split
    · rename_i w hw
      rw [row_putRow]
      split
      · rename_i e
        rw [← hu n, e]
        simp [Cluster.row, hw, Row.access]
      · exact hu n
    · exact hu n

theorem Kept.scribbleWork {p c k q j r a n : Nat} {s : State} : Kept p c k s (s.scribbleWork q j r a n) :=
  (Kept.foldl (fun t a => Kept.scribbleRow) _ s).trans ((Kept.writeSpace).trans .drawMany)

theorem endRound_state {p c q d n : Nat} {s : State} : ((s.endRound q d n).ctx p c).state = (s.ctx p c).state := by
  have h1 : ((s.endRoundOnly q d n).ctx p c).state = (s.ctx p c).state := by
    unfold State.endRoundOnly
    split
    · dsimp only
      split
      · rfl
      · split
        · rw [State.evRoundClosed, State.evVf_ctx]; exact modCtx_state fun _ => rfl
        · exact modCtx_state fun _ => rfl
    · rfl
  unfold State.endRound
  split
  · dsimp only
    split
    · exact h1
    · rw [State.dropHeld_ctx]; exact h1
  · rfl

theorem seedFailed_started {p c : Nat} {l : List Nat} {s : State} : ((s.seedFailed p c l).ctx p c).started = (s.ctx p c).started := by
  unfold State.seedFailed
  split
  · simp only [Context.started, endRound_state]
  · rfl

/-! Who works, and an operation's end. -/

theorem runner_started {s : State} {p c : Nat} {x : Context} (h : s.runner p = some (c, x)) : x = s.ctx p c ∧ (s.ctx p c).started = true := by
  unfold State.runner at h
  split at h
  · split at h
    · simp only [Option.some.injEq, Prod.mk.injEq] at h
      obtain ⟨rfl, rfl⟩ := h
      exact ⟨rfl, ‹_›⟩
    · simp at h
  · simp at h

theorem holder_started {s : State} {p c : Nat} {x : Context} (h : s.holder p = some (c, x)) : x = s.ctx p c ∧ (s.ctx p c).started = true := by
  unfold State.holder at h
  split at h
  · cases hr : s.runner p with
    | none => simp [hr] at h
    | some v =>
      obtain ⟨c', x'⟩ := v
      simp only [hr] at h
      split at h
      · simp only [Option.some.injEq, Prod.mk.injEq] at h
        obtain ⟨rfl, rfl⟩ := h
        exact runner_started hr
      · simp at h
  · simp at h

theorem landing_started {s : State} {p k c : Nat} {x : Context} (h : s.landing p k = some (c, x)) : x = s.ctx p c ∧ (s.ctx p c).started = true := by
  unfold State.landing at h
  cases hr : s.holder p with
  | none => simp [hr] at h
  | some v =>
    obtain ⟨c', x'⟩ := v
    simp only [hr] at h
    split at h
    · simp only [Option.some.injEq, Prod.mk.injEq] at h
      obtain ⟨rfl, rfl⟩ := h
      exact holder_started hr
    · simp at h

theorem acting_started {s : State} {p k c : Nat} {x : Context} (h : s.acting p k = some (c, x)) : x = s.ctx p c ∧ (s.ctx p c).started = true := by
  unfold State.acting at h
  split at h
  · simp at h
  · exact landing_started h

theorem working_started {s : State} {p k n op c : Nat} {x : Context} {nd : Node} (h : s.working? p k n op = some (c, x, nd)) : x = s.ctx p c ∧ (s.ctx p c).started = true := by
  unfold State.working? at h
  cases ha : s.acting p k with
  | none => simp [ha] at h
  | some v =>
    obtain ⟨c', x'⟩ := v
    simp only [ha] at h
    split at h
    · split at h
      · simp only [Option.some.injEq, Prod.mk.injEq] at h
        obtain ⟨rfl, rfl, rfl⟩ := h
        exact acting_started ha
      · simp at h
    · simp at h

theorem map_getD_range (l : List Nat) : (List.range l.length).map (fun i => l.getD i 0) = l := by
  apply List.ext_getElem
  · simp
  · intro i h1 h2; simp [h2]

theorem operate_kept {s : State} {p k n op c : Nat} {x : Context} {nd : Node} {F : Nat → Context → Node → State → State} (h : s.working? p k n op = some (c, x, nd))
    (hk : Kept p c k s (F c x nd s)) : s.operate p k n op F = (F c x nd s).modCtx p c (Context.setNode k n 2) := by
  unfold State.operate State.ifUp
  rw [h]
  simp only [hk.started, (working_started h).2, if_true]

theorem Kept.foldl_mem {α : Type} {p c k : Nat} {f : State → α → State} {s : State} : ∀ (l : List α) (t : State), Kept p c k s t →
    (∀ t, ∀ a ∈ l, Kept p c k s t → Kept p c k t (f t a)) → Kept p c k s (l.foldl f t)
  | [], t, h, _ => h
  | a :: l, t, h, hf => Kept.foldl_mem l (f t a) (h.trans (hf t a (by simp) h)) fun t b hb => hf t b (by simp [hb])

theorem Kept.take {p c k r : Nat} {modes rows : List Nat} {s t : State} (h : Kept p c k s t) (hr : s.rowsTake p c k modes rows) (hm : r ∈ rows) (hst : (s.ctx p c).started = true)
    {g : State → State} (hg : rowRefuses c (t.rowOf p k r) = false → Kept p c k t (g t)) : Kept p c k t (t.reach p c k r modes g) := by
  have := (h.rowsTake hr) r hm
  exact State.reach_kept (by rw [h.started]; exact hst) this.1 this.2 (hg this.2)

theorem mem_span {a n i : Nat} (h : i < n) : a + i ∈ span a n := by simp only [span, List.mem_map, List.mem_range]; exact ⟨i, h, rfl⟩

theorem addSamples_kept {p c k pair n g mode : Nat} {w} {s : State} (hst : (s.ctx p c).started = true) (hr : s.rowsTake p c k [mode] ((List.range g).map fun i => pair + 2 * i)) :
    Kept p c k s (s.addSamples p c k pair n g mode w) := by
  unfold State.addSamples
  refine Kept.foldl_mem _ _ (.refl _) fun t i hi hk => ?_
  have hg : 0 < g := by
    rcases Nat.eq_zero_or_pos g with rfl | h
    · simp at hi
    · exact h
  exact hk.take hr (by simp only [List.mem_map, List.mem_range]; exact ⟨i % g, Nat.mod_lt _ hg, rfl⟩) hst fun h => State.landWrite_kept _ _ _ _ _ _ _ _ _ h

theorem rowOf_modLogical {p k r : Nat} {g : Cluster → Cluster} {s : State} (hf : ∀ u, (g u).fenced = u.fenced) (hr : ∀ u, (g u).row r = u.row r) :
    (s.modLogical p k g).rowOf p k r = s.rowOf p k r := by
  have h3 : (s.modLogical p k g).live p k = s.live p k := by
    unfold State.modLogical
    rw [show ∀ l, (State.modClusters l g s).live p k = s.live p k from fun l => ?_]
    unfold State.live
    rw [State.modClusters_parcel]
    congr 1
    funext j
    rw [cluster_modClusters (fun u => u.fenced = (s.cluster j).fenced) (fun u h => (hf u).trans h) _ s rfl]
  unfold State.rowOf State.lead
  rw [h3]
  cases hl : s.live p k with
  | nil => rfl
  | cons m rest => exact cluster_modClusters (j := m) (fun u => u.row r = (s.cluster m).row r) (fun u h => (hr u).trans h) _ s rfl

theorem ctx_range {p c : Nat} {s : State} (h : (s.ctx p c).started = true) : p < s.parcels.length ∧ c < (s.parcel p).contexts.length := by
  have hc : c < (s.parcel p).contexts.length := by
    by_contra hn
    rw [State.ctx, Parcel.ctx, List.getD_eq_default _ _ (Nat.le_of_not_lt hn)] at h
    exact absurd h (by decide)
  refine ⟨?_, hc⟩
  by_contra hn
  rw [State.parcel, List.getD_eq_default _ _ (Nat.le_of_not_lt hn)] at hc
  rw [State.ctx, State.parcel, List.getD_eq_default _ _ (Nat.le_of_not_lt hn), Parcel.ctx] at h
  have hz : (Parcel.reset.contexts.all fun x => !x.started) = true := by decide
  rw [List.getD_eq_getElem _ _ hc] at h
  have := List.all_eq_true.1 hz _ (List.getElem_mem hc)
  simp [h] at this

theorem faultCtx_ctx {p c w : Nat} {s : State} (h : (s.ctx p c).started = true) : (s.faultCtx p c w).ctx p c =
    { s.ctx p c with state := 5, fault := faultWord 1 (p * 8 + c) w, pendRelease := true, pendStart := false, pendStop := false, pendFinish := false } := by
  have hr := ctx_range h
  unfold State.faultCtx State.faultCtxWith
  rw [if_pos h]
  dsimp only
  rw [State.modCtx_ctx (by simpa using hr.1) (by simpa using hr.2)]
  simp only [State.raiseFault_ctx]
  have h2 : (s.ctx p c).state = 2 := by simpa [Context.started] using h
  simp [h2, Context.started]

theorem faultCtx_stopped {p c w : Nat} {s : State} (h : (s.ctx p c).started = true) : ((s.faultCtx p c w).ctx p c).started = false := by
  rw [faultCtx_ctx h]; rfl

/-! Clusters after a change, and stores. -/

theorem cluster_mod_one {m n : Nat} {g : Cluster → Cluster} {s : State} : (s.modClusters [m] g).cluster n = if m = n ∧ m < s.clusters.length then g (s.cluster n) else s.cluster n := by
  simp only [State.modClusters, List.foldl, State.modCluster, State.cluster, List.getD_eq_getElem?_getD, List.getElem?_modify]
  by_cases h : m = n
  · subst h
    by_cases hl : m < s.clusters.length
    · simp [hl]
    · simp [hl]
  · simp [h]

theorem cluster_mod_ne {n : Nat} {g : Cluster → Cluster} : ∀ (l : List Nat) (s : State), n ∉ l → (s.modClusters l g).cluster n = s.cluster n
  | [], _, _ => rfl
  | i :: l, s, h => by
    show State.cluster n (State.modClusters l g (s.modCluster i g)) = _
    rw [cluster_mod_ne l _ (fun e => h (List.mem_cons_of_mem _ e))]
    have : i ≠ n := fun e => h (by simp [e])
    simp [State.modCluster, State.cluster, List.getD_eq_getElem?_getD, List.getElem?_modify, this]

theorem sat_ne {p c k n : Nat} : ∀ (rows : List Nat) (s : State), n ∉ s.live p k → (s.saturate p c k rows).cluster n = s.cluster n
  | [], _, _ => rfl
  | r :: rows, s, h => by
    have hk := Kept.saturate (p := p) (c := c) (k := k) (q := p) (d := c) (j := k) (rows := [r]) (s := s)
    show (State.saturate p c k rows (s.saturate p c k [r])).cluster n = _
    rw [sat_ne rows _ (by rw [hk.live]; exact h)]
    unfold State.saturate
    simp only [List.foldl]
    split
    · simp only [State.evVf_cluster, State.modCtx_cluster]; exact cluster_mod_ne _ _ h
    · simp only [State.modCtx_cluster]; exact cluster_mod_ne _ _ h

theorem sat_P {p c k n : Nat} (P : Cluster → Prop) (hP : ∀ u a b, P u → P { u with satMap := a, satOwner := b }) : ∀ (rows : List Nat) (s : State), P (s.cluster n) → P ((s.saturate p c k rows).cluster n)
  | [], _, h => h
  | r :: rows, s, h => by
    show P ((State.saturate p c k rows (s.saturate p c k [r])).cluster n)
    refine sat_P P hP rows _ ?_
    unfold State.saturate
    simp only [List.foldl]
    split
    · simp only [State.evVf_cluster, State.modCtx_cluster]; exact cluster_modClusters P (fun u h => hP _ _ _ h) _ _ h
    · simp only [State.modCtx_cluster]; exact cluster_modClusters P (fun u h => hP _ _ _ h) _ _ h

theorem sat_fabric {p c k} (rows) (s : State) : (s.saturate p c k rows).fabric = s.fabric := foldl_keeps State.fabric _ (fun b a => by dsimp only; split <;> simp) rows s

theorem sat_chest {p c k} (rows) (s : State) : (s.saturate p c k rows).chest = s.chest := foldl_keeps State.chest _ (fun b a => by dsimp only; split <;> simp) rows s

theorem modCtx_mem {p c q g} {s : State} : ((s.modCtx p c g).parcel q).mem = (s.parcel q).mem := getD_modify_keep (g := Parcel.modCtx c g) Parcel.mem (fun _ => rfl) _ _ _ _

theorem sat_mem {p c k q} (rows) (s : State) : ((s.saturate p c k rows).parcel q).mem = (s.parcel q).mem :=
  foldl_keeps (fun s => (s.parcel q).mem) _ (fun b a => by dsimp only; split <;> simp [modCtx_mem]) rows s

theorem read0_write0 {b : Bytes} {a n : Nat} {m : Memory} (h : Memory.wf true m = true) (hn : n = b.length) : Memory.read0 a n (Memory.write0 a b m) = b := by
  subst hn
  apply List.ext_getElem
  · simp [Memory.read0]
  · intro i h1 h2
    simp only [Memory.read0, List.getElem_map, List.getElem_range]
    rw [get0_write0 h]
    rw [if_pos (by omega)]
    simp [h2]

end Sys2Proof.Machine
end

