-- ==== Sys2Proof/Laws/Time.lean ====
section
/-! SUPPORT. The chain timer (R23) under every operation that keeps it: none but the boundaries, the markers' steps, the start-up and the power-down
change `State.time`. -/

set_option linter.unusedTactic false
set_option linter.unreachableTactic false
set_option linter.unusedVariables false
set_option linter.unusedSimpArgs false
set_option Elab.async false

namespace Sys2Proof.Machine

theorem time_of_clock {s t : State} (h : s.clock = t.clock) : s.time = t.time := by simp [State.time, h]

@[simp] theorem time_mk (a b c k e f g h i j l m n o p q r t u v w) : State.time ⟨a, b, c, k, e, f, g, h, i, j, l, m, n, o, p, q, r, t, u, v, w⟩ = (k.chain, k.rod, k.running) := rfl

@[simp] theorem time_eta (t : State) : (t.clock.chain, t.clock.rod, t.clock.running) = t.time := rfl

theorem foldl_time {α : Type} (f : State → α → State) (l : List α) (b : State) (h : ∀ b a, (f b a).time = b.time) : (l.foldl f b).time = b.time := foldl_keeps State.time f h l b

@[simp] theorem State.eachParcel_time (f : Nat → State → State) (s : State) (h : ∀ p t, (f p t).time = t.time) : (s.eachParcel f).time = s.time := foldl_time _ _ _ fun b p => h p b

@[simp] theorem State.modFn_time (n : Nat) (g : Fn → Fn) (s : State) : (State.modFn n g s).time = s.time := by
  simp [State.modFn]

@[simp] theorem State.modParcel_time (p : Nat) (g : Parcel → Parcel) (s : State) : (State.modParcel p g s).time = s.time := by
  simp [State.modParcel]

@[simp] theorem State.modCtx_time (p c : Nat) (g : Context → Context) (s : State) : (State.modCtx p c g s).time = s.time := by
  simp [State.modCtx]

@[simp] theorem State.modCluster_time (c : Nat) (g : Cluster → Cluster) (s : State) : (State.modCluster c g s).time = s.time := by
  simp [State.modCluster]

@[simp] theorem State.modClusters_time (l : List Nat) (g : Cluster → Cluster) (s : State) : (State.modClusters l g s).time = s.time := by
  unfold State.modClusters; repeat' first | (with_reducible rfl) | intro _ | (simp; done) | rw [foldl_time] | split | simp

@[simp] theorem State.modLink_time (l : Nat) (g : Link → Link) (s : State) : (State.modLink l g s).time = s.time := by
  simp [State.modLink]

@[simp] theorem State.putConn_time (id : Nat) (k : Conn) (s : State) : (State.putConn id k s).time = s.time := by
  simp [State.putConn]

@[simp] theorem State.modConn_time (id : Nat) (g : Conn → Conn) (s : State) : (State.modConn id g s).time = s.time := by
  unfold State.modConn; repeat' first | (with_reducible rfl) | intro _ | (simp; done) | rw [foldl_time] | split | simp

@[simp] theorem State.putEase_time (id : Nat) (e : Ease) (s : State) : (State.putEase id e s).time = s.time := by
  simp [State.putEase]

@[simp] theorem State.emit_time (o : Output) (s : State) : (State.emit o s).time = s.time := by
  simp [State.emit]

@[simp] theorem State.drawn_time (s : State) : (State.drawn s).time = s.time := by
  simp [State.drawn]

@[simp] theorem State.drawMany_time (n : Nat) (s : State) : (State.drawMany n s).time = s.time := by
  simp [State.drawMany]

@[simp] theorem State.drawnMany_time (n : Nat) (s : State) : (State.drawnMany n s).time = s.time := by
  simp [State.drawnMany]

@[simp] theorem State.evFn_time (n code : Nat) (data : List Nat) (s : State) : (State.evFn n code data s).time = s.time := by
  unfold State.evFn; repeat' first | (with_reducible rfl) | intro _ | (simp; done) | rw [foldl_time] | split | simp

@[simp] theorem State.evPf_time (code : Nat) (data : List Nat) (s : State) : (State.evPf code data s).time = s.time := by
  simp [State.evPf]

@[simp] theorem State.evVf_time (p code : Nat) (data : List Nat) (s : State) : (State.evVf p code data s).time = s.time := by
  unfold State.evVf; simp only []; repeat' first | (with_reducible rfl) | intro _ | (simp; done) | rw [foldl_time] | split | simp

@[simp] theorem State.evBoth_time (p code : Nat) (data : List Nat) (s : State) : (State.evBoth p code data s).time = s.time := by
  simp [State.evBoth]

@[simp] theorem State.sendEvent_time (code : Nat) (data : List Nat) (s : State) : (State.sendEvent code data s).time = s.time := by
  unfold State.sendEvent; simp only []; repeat' first | (with_reducible rfl) | intro _ | (simp; done) | rw [foldl_time] | split | simp

@[simp] theorem State.evMgmt_time (code : Nat) (data : List Nat) (s : State) : (State.evMgmt code data s).time = s.time := by
  unfold State.evMgmt; simp only []; repeat' first | (with_reducible rfl) | intro _ | (simp; done) | rw [foldl_time] | split | simp

@[simp] theorem State.evOpen_time (code : Nat) (data : List Nat) (s : State) : (State.evOpen code data s).time = s.time := by
  unfold State.evOpen; repeat' first | (with_reducible rfl) | intro _ | (simp; done) | rw [foldl_time] | split | simp

@[simp] theorem State.platPend_time (kind unitId v : Nat) (s : State) : (State.platPend kind unitId v s).time = s.time := by
  simp [State.platPend]

@[simp] theorem State.modLogical_time (p k : Nat) (g : Cluster → Cluster) (s : State) : (State.modLogical p k g s).time = s.time := by
  simp [State.modLogical]

@[simp] theorem State.signal_time (p i add : Nat) (s : State) : (State.signal p i add s).time = s.time := by
  simp [State.signal]

@[simp] theorem State.signalCtx_time (p c i add : Nat) (s : State) : (State.signalCtx p c i add s).time = s.time := by
  unfold State.signalCtx; repeat' first | (with_reducible rfl) | intro _ | (simp; done) | rw [foldl_time] | split | simp

@[simp] theorem State.allocStakes_time (p c : Nat) (l : List StakeDecl) (s : State) : (State.allocStakes p c l s).time = s.time := by
  unfold State.allocStakes; repeat' first | (with_reducible rfl) | intro _ | (simp; done) | rw [foldl_time] | split | simp

@[simp] theorem State.freeStakes_time (p c : Nat) (s : State) : (State.freeStakes p c s).time = s.time := by
  simp [State.freeStakes]

@[simp] theorem State.raiseFault_time (w : BitVec 32) (s : State) : (State.raiseFault w s).time = s.time := by
  unfold State.raiseFault; simp only []; repeat' first | (with_reducible rfl) | intro _ | (simp; done) | rw [foldl_time] | split | simp

@[simp] theorem State.faultCtxWith_time (p c : Nat) (w : BitVec 32) (s : State) : (State.faultCtxWith p c w s).time = s.time := by
  simp [State.faultCtxWith]

@[simp] theorem State.faultCtx_time (p c cause : Nat) (s : State) : (State.faultCtx p c cause s).time = s.time := by
  unfold State.faultCtx; simp only []; repeat' first | (with_reducible rfl) | intro _ | (simp; done) | rw [foldl_time] | split | simp

@[simp] theorem State.fillSlot_time (i : Nat) (attr : BitVec 32) (v : BitVec 1024) (s : State) : (State.fillSlot i attr v s).time = s.time := by
  simp [State.fillSlot]

@[simp] theorem State.emptySlot_time (i : Nat) (s : State) : (State.emptySlot i s).time = s.time := by
  simp [State.emptySlot]

@[simp] theorem State.destroySlot_time (i : Nat) (why : KeyCause) (s : State) : (State.destroySlot i why s).time = s.time := by
  unfold State.destroySlot; simp only []; repeat' first | (with_reducible rfl) | intro _ | (simp; done) | rw [foldl_time] | split | simp

@[simp] theorem State.endSession_time (n why : Nat) (s : State) : (State.endSession n why s).time = s.time := by
  unfold State.endSession; simp only []; repeat' first | (with_reducible rfl) | intro _ | (simp; done) | rw [foldl_time] | split | simp

@[simp] theorem State.setParcelState_time (p v why : Nat) (s : State) : (State.setParcelState p v why s).time = s.time := by
  simp [State.setParcelState]

@[simp] theorem State.respond_time (n : Nat) (t : Taken) (status : Nat) (body : Bytes) (s : State) : (State.respond n t status body s).time = s.time := by
  simp [State.respond]

@[simp] theorem State.sendSmbus_time (o : Output) (b : Bytes) (s : State) : (State.sendSmbus o b s).time = s.time := by
  unfold State.sendSmbus; simp only []; repeat' first | (with_reducible rfl) | intro _ | (simp; done) | rw [foldl_time] | split | simp

@[simp] theorem State.answerMgmt_time (m : MgmtMsg) (op status : Nat) (body : Bytes) (s : State) : (State.answerMgmt m op status body s).time = s.time := by
  unfold State.answerMgmt; simp only []; repeat' first | (with_reducible rfl) | intro _ | (simp; done) | rw [foldl_time] | split | simp

@[simp] theorem State.dropHeld_time (p c : Nat) (s : State) : (State.dropHeld p c s).time = s.time := by
  simp [State.dropHeld]

@[simp] theorem State.endEngines_time (p c : Nat) (s : State) : (State.endEngines p c s).time = s.time := by
  unfold State.endEngines; simp only []; repeat' first | (with_reducible rfl) | intro _ | (simp; done) | rw [foldl_time] | split | simp

@[simp] theorem State.closeDrawer_time (n why : Nat) (s : State) : (State.closeDrawer n why s).time = s.time := by
  unfold State.closeDrawer; repeat' first | (with_reducible rfl) | intro _ | (simp; done) | rw [foldl_time] | split | simp

@[simp] theorem State.openDrawer_time (n : Nat) (s : State) : (State.openDrawer n s).time = s.time := by
  unfold State.openDrawer; repeat' first | (with_reducible rfl) | intro _ | (simp; done) | rw [foldl_time] | split | simp

@[simp] theorem State.openHeldDrawers_time (s : State) : (State.openHeldDrawers s).time = s.time := by
  unfold State.openHeldDrawers; repeat' first | (with_reducible rfl) | intro _ | (simp; done) | rw [foldl_time] | split | simp

@[simp] theorem State.writeCtrl_time (n : Nat) (enable irqEn : Bool) (ring : Nat) (s : State) : (State.writeCtrl n enable irqEn ring s).time = s.time := by
  unfold State.writeCtrl; simp only []; repeat' first | (with_reducible rfl) | intro _ | (simp; done) | rw [foldl_time] | split | simp

@[simp] theorem State.takeOne_time (n : Nat) (x : Slot) (s : State) : (State.takeOne n x s).time = s.time := by
  unfold State.takeOne; simp only []; repeat' first | (with_reducible rfl) | intro _ | (simp; done) | rw [foldl_time] | split | simp

@[simp] theorem State.takeSlots_time (n : Nat) : ∀ (k : Nat) (s : State), (State.takeSlots n k s).time = s.time
  | 0, _ => rfl
  | k + 1, s => by
    rw [State.takeSlots]; split
    · rfl
    · split
      · rw [State.takeSlots_time n k]; simp
      · rfl

@[simp] theorem State.takeAll_time (n : Nat) (s : State) : (State.takeAll n s).time = s.time := by
  exact State.takeSlots_time ..

@[simp] theorem State.doorbell_time (n : Nat) (value : BitVec 32) (slots : List Slot) (s : State) : (State.doorbell n value slots s).time = s.time := by
  unfold State.doorbell; simp only []; repeat' first | (with_reducible rfl) | intro _ | (simp; done) | rw [foldl_time] | split | simp

@[simp] theorem State.respHeadWrite_time (n : Nat) (value : BitVec 32) (s : State) : (State.respHeadWrite n value s).time = s.time := by
  simp [State.respHeadWrite]

@[simp] theorem State.msixFlush_time (n : Nat) (s : State) : (State.msixFlush n s).time = s.time := by
  unfold State.msixFlush; simp only []; repeat' first | (with_reducible rfl) | intro _ | (simp; done) | rw [foldl_time] | split | simp

@[simp] theorem State.writeReg32_time (n offset : Nat) (w : BitVec 32) (s : State) : (State.writeReg32 n offset w s).time = s.time := by
  unfold State.writeReg32; repeat' first | (with_reducible rfl) | intro _ | (simp; done) | rw [foldl_time] | split | simp

@[simp] theorem State.writeReg_time (n offset size : Nat) (v : BitVec 64) (s : State) : (State.writeReg n offset size v s).time = s.time := by
  unfold State.writeReg; simp only []; repeat' first | (with_reducible rfl) | intro _ | (simp; done) | rw [foldl_time] | split | simp

@[simp] theorem State.setVfs_time (k : Nat) (s : State) : (State.setVfs k s).time = s.time := by
  simp [State.setVfs]

@[simp] theorem State.popTaken_time (n : Nat) (s : State) : (State.popTaken n s).time = s.time := by
  simp [State.popTaken]

@[simp] theorem State.extPut_time (p a : Nat) (b : Byte) (s : State) : (State.extPut p a b s).time = s.time := by
  simp [State.extPut]

@[simp] theorem State.extWrite_time (raw : Bool) (p a : Nat) (b : Bytes) (s : State) : (State.extWrite raw p a b s).time = s.time := time_of_clock (by simp)

@[simp] theorem State.areaWrite_time (p : Nat) (m : BounceMap) (a : Nat) (b : Bytes) (s : State) : (State.areaWrite p m a b s).time = s.time := time_of_clock (by simp)

@[simp] theorem State.writeSpace_time (raw : Bool) (p k sp a : Nat) (b : Bytes) (s : State) : (State.writeSpace raw p k sp a b s).time = s.time := by
  exact time_of_clock (by simp)

@[simp] theorem State.writeOp_time (p k : Nat) (o : Operand) (b : Bytes) (s : State) : (State.writeOp p k o b s).time = s.time := by
  simp [State.writeOp]

@[simp] theorem State.saturate_time (p c k : Nat) (rows : List Nat) (s : State) : (State.saturate p c k rows s).time = s.time := by
  unfold State.saturate; simp only []; repeat' first | (with_reducible rfl) | intro _ | (simp; done) | rw [foldl_time] | split | simp

@[simp] theorem State.landWrite_time (p c k r kind f : Nat) (vals : List Int) (fp : List Nat) (s : State) : (State.landWrite p c k r kind f vals fp s).time = s.time := by
  unfold State.landWrite; simp only []; repeat' first | (with_reducible rfl) | intro _ | (simp; done) | rw [foldl_time] | split | simp

@[simp] theorem State.preload_time (p c k : Nat) (x : Preload) (s : State) : (State.preload p c k x s).time = s.time := by
  unfold State.preload; simp only []; repeat' first | (with_reducible rfl) | intro _ | (simp; done) | rw [foldl_time] | split | simp

@[simp] theorem State.evRoundClosed_time (p : Nat) (r : Round) (outcome : Nat) (s : State) : (State.evRoundClosed p r outcome s).time = s.time := by
  simp [State.evRoundClosed]

@[simp] theorem State.endRoundOnly_time (p c outcome : Nat) (s : State) : (State.endRoundOnly p c outcome s).time = s.time := by
  unfold State.endRoundOnly; simp only []; repeat' first | (with_reducible rfl) | intro _ | (simp; done) | rw [foldl_time] | split | simp

@[simp] theorem State.endRound_time (p c outcome : Nat) (s : State) : (State.endRound p c outcome s).time = s.time := by
  unfold State.endRound; simp only []; repeat' first | (with_reducible rfl) | intro _ | (simp; done) | rw [foldl_time] | split | simp

@[simp] theorem State.loseMember_time (p c module parcel : Nat) (s : State) : (State.loseMember p c module parcel s).time = s.time := by
  unfold State.loseMember; repeat' first | (with_reducible rfl) | intro _ | (simp; done) | rw [foldl_time] | split | simp

@[simp] theorem State.groupLoss_time (p module parcel : Nat) (s : State) : (State.groupLoss p module parcel s).time = s.time := by
  unfold State.groupLoss; repeat' first | (with_reducible rfl) | intro _ | (simp; done) | rw [foldl_time] | split | simp

@[simp] theorem State.flushLink_time (l : Nat) (s : State) : (State.flushLink l s).time = s.time := by
  unfold State.flushLink; simp only []; repeat' first | (with_reducible rfl) | intro _ | (simp; done) | rw [foldl_time] | split | simp

@[simp] theorem State.sendGrain_time (l kind : Nat) (bytes : Bytes) (s : State) : (State.sendGrain l kind bytes s).time = s.time := by
  unfold State.sendGrain; simp only []; repeat' first | (with_reducible rfl) | intro _ | (simp; done) | rw [foldl_time] | split | simp

@[simp] theorem State.toStation_time (m : Msg) (s : State) : (State.toStation m s).time = s.time := by
  unfold State.toStation; simp only []; repeat' first | (with_reducible rfl) | intro _ | (simp; done) | rw [foldl_time] | split | simp

@[simp] theorem State.retryWaiting_time (s : State) : (State.retryWaiting s).time = s.time := by
  unfold State.retryWaiting; simp only []; repeat' first | (with_reducible rfl) | intro _ | (simp; done) | rw [foldl_time] | split | simp

@[simp] theorem State.sendSlices_time (l : Nat) (s : State) : (State.sendSlices l s).time = s.time := by
  unfold State.sendSlices; simp only []; repeat' first | (with_reducible rfl) | intro _ | (simp; done) | rw [foldl_time] | split | simp

@[simp] theorem State.sendCredits_time (chain rod l : Nat) (s : State) : (State.sendCredits chain rod l s).time = s.time := by
  unfold State.sendCredits; simp only []; repeat' first | (with_reducible rfl) | intro _ | (simp; done) | rw [foldl_time] | split | simp

@[simp] theorem State.evLink_time (l code : Nat) (data : List Nat) (s : State) : (State.evLink l code data s).time = s.time := by
  unfold State.evLink; simp only []; repeat' first | (with_reducible rfl) | intro _ | (simp; done) | rw [foldl_time] | split | simp

@[simp] theorem State.answerRetrain_time (l state : Nat) (s : State) : (State.answerRetrain l state s).time = s.time := by
  unfold State.answerRetrain; simp only []; repeat' first | (with_reducible rfl) | intro _ | (simp; done) | rw [foldl_time] | split | simp

@[simp] theorem State.leaveUp_time (l : Nat) (s : State) : (State.leaveUp l s).time = s.time := by
  unfold State.leaveUp; simp only []; repeat' first | (with_reducible rfl) | intro _ | (simp; done) | rw [foldl_time] | split | simp

@[simp] theorem State.setLinkState_time (l v : Nat) (why : LinkCause) (s : State) : (State.setLinkState l v why s).time = s.time := by
  unfold State.setLinkState; simp only []; repeat' first | (with_reducible rfl) | intro _ | (simp; done) | rw [foldl_time] | split | simp

@[simp] theorem State.enterTraining_time (l : Nat) (why : LinkCause) (s : State) : (State.enterTraining l why s).time = s.time := by
  simp [State.enterTraining]

@[simp] theorem State.touchConn_time (id : Nat) (s : State) : (State.touchConn id s).time = s.time := by
  simp [State.touchConn]

@[simp] theorem State.handOver_time (id : Nat) (m : Msg) (s : State) : (State.handOver id m s).time = s.time := by
  simp [State.handOver]

@[simp] theorem State.sendSeq_time (id kind : Nat) (signal : Bool) (arg : Nat) (dst : Option Nat) (body : Bytes) (s : State) : (State.sendSeq id kind signal arg dst body s).time = s.time := by
  simp [State.sendSeq]

@[simp] theorem State.setConnState_time (id v : Nat) (why : ConnCause) (s : State) : (State.setConnState id v why s).time = s.time := by
  unfold State.setConnState; simp only []; repeat' first | (with_reducible rfl) | intro _ | (simp; done) | rw [foldl_time] | split | simp

@[simp] theorem State.markLost_time (p c : Nat) (s : State) : (State.markLost p c s).time = s.time := by
  simp [State.markLost]

@[simp] theorem State.sendPiece_time (p k : Nat) (d : Descr) (off : Nat) (s : State) : (State.sendPiece p k d off s).time = s.time := by
  unfold State.sendPiece; simp only []; repeat' first | (with_reducible rfl) | intro _ | (simp; done) | rw [foldl_time] | split | simp

@[simp] theorem State.carryDone_time (p c : Nat) (d : Descr) (s : State) : (State.carryDone p c d s).time = s.time := by
  unfold State.carryDone; repeat' first | (with_reducible rfl) | intro _ | (simp; done) | rw [foldl_time] | split | simp

@[simp] theorem State.drainPost_time (d : Drain) (ns : Nat) (s : State) : (State.drainPost d ns s).time = s.time := by
  simp [State.drainPost]

@[simp] theorem State.countDrained_time (h : HeldMsg) (s : State) : (State.countDrained h s).time = s.time := by
  simp [State.countDrained]

@[simp] theorem State.easeRevokes_time (s : State) : (State.easeRevokes s).time = s.time := by
  unfold State.easeRevokes; simp only []; repeat' first | (with_reducible rfl) | intro _ | (simp; done) | rw [foldl_time] | split | simp

@[simp] theorem State.easeGrants_time (s : State) : (State.easeGrants s).time = s.time := by
  simp [State.easeGrants]

@[simp] theorem State.easeBoundary_time (s : State) : (State.easeBoundary s).time = s.time := by
  simp [State.easeBoundary]

@[simp] theorem State.spill_time (id : Nat) (s : State) : (State.spill id s).time = s.time := by
  simp [State.spill]

@[simp] theorem State.makeRoom_time (p : Nat) (s : State) : (State.makeRoom p s).time = s.time := by
  unfold State.makeRoom; repeat' first | (with_reducible rfl) | intro _ | (simp; done) | rw [foldl_time] | split | simp

@[simp] theorem State.sendOpen_time (id : Nat) (s : State) : (State.sendOpen id s).time = s.time := by
  simp [State.sendOpen]

@[simp] theorem State.drawOpen_time (id : Nat) (s : State) : (State.drawOpen id s).time = s.time := by
  simp [State.drawOpen]

@[simp] theorem State.sendClose_time (id : Nat) (s : State) : (State.sendClose id s).time = s.time := by
  unfold State.sendClose; simp only []; repeat' first | (with_reducible rfl) | intro _ | (simp; done) | rw [foldl_time] | split | simp

@[simp] theorem State.tryClose_time (id : Nat) (s : State) : (State.tryClose id s).time = s.time := by
  unfold State.tryClose; simp only []; repeat' first | (with_reducible rfl) | intro _ | (simp; done) | rw [foldl_time] | split | simp

@[simp] theorem State.beginClose_time (id : Nat) (why : ConnCause) (s : State) : (State.beginClose id why s).time = s.time := by
  simp [State.beginClose]

@[simp] theorem State.keysConfirmed_time (id : Nat) (s : State) : (State.keysConfirmed id s).time = s.time := by
  unfold State.keysConfirmed; simp only []; repeat' first | (with_reducible rfl) | intro _ | (simp; done) | rw [foldl_time] | split | simp

@[simp] theorem State.bothVerified_time (id : Nat) (s : State) : (State.bothVerified id s).time = s.time := by
  unfold State.bothVerified; simp only []; repeat' first | (with_reducible rfl) | intro _ | (simp; done) | rw [foldl_time] | split | simp

@[simp] theorem State.reportPeer_time (m : Nat) (s : State) : (State.reportPeer m s).time = s.time := by
  unfold State.reportPeer; simp only []; repeat' first | (with_reducible rfl) | intro _ | (simp; done) | rw [foldl_time] | split | simp

@[simp] theorem State.unspill_time (id : Nat) (s : State) : (State.unspill id s).time = s.time := by
  simp [State.unspill]

@[simp] theorem State.completeOne_time (id : Nat) (s : State) : (State.completeOne id s).time = s.time := by
  unfold State.completeOne; simp only []; repeat' first | (with_reducible rfl) | intro _ | (simp; done) | rw [foldl_time] | split | simp

@[simp] theorem State.completes_time (s : State) : (State.completes s).time = s.time := by
  unfold State.completes; repeat' first | (with_reducible rfl) | intro _ | (simp; done) | rw [foldl_time] | split | simp

@[simp] theorem State.refusedReport_time (s : State) : (State.refusedReport s).time = s.time := by
  unfold State.refusedReport; simp only []; repeat' first | (with_reducible rfl) | intro _ | (simp; done) | rw [foldl_time] | split | simp

@[simp] theorem State.addJoin_time (kind old new : Nat) (s : State) : (State.addJoin kind old new s).time = s.time := by
  simp [State.addJoin]

@[simp] theorem State.retirePlat_time (c keep : Nat) (bench : Option Nat) (s : State) : (State.retirePlat c keep bench s).time = s.time := by
  unfold State.retirePlat; simp only []; repeat' first | (with_reducible rfl) | intro _ | (simp; done) | rw [foldl_time] | split | simp

@[simp] theorem State.retireCluster_time (c : Nat) (bench : Option Nat) (s : State) : (State.retireCluster c bench s).time = s.time := by
  unfold State.retireCluster; repeat' first | (with_reducible rfl) | intro _ | (simp; done) | rw [foldl_time] | split | simp

@[simp] theorem State.clusterFault_time (c cause : Nat) (bench : Option Nat) (s : State) : (State.clusterFault c cause bench s).time = s.time := by
  unfold State.clusterFault; simp only []; repeat' first | (with_reducible rfl) | intro _ | (simp; done) | rw [foldl_time] | split | simp

@[simp] theorem State.parcelFault_time (p cause : Nat) (s : State) : (State.parcelFault p cause s).time = s.time := by
  unfold State.parcelFault; simp only []; repeat' first | (with_reducible rfl) | intro _ | (simp; done) | rw [foldl_time] | split | simp

@[simp] theorem State.tileStep_time (p k : Nat) (t : TileStep) (s : State) : (State.tileStep p k t s).time = s.time := by
  unfold State.tileStep; simp only []; repeat' first | (with_reducible rfl) | intro _ | (simp; done) | rw [foldl_time] | split | simp

@[simp] theorem State.popLanding_time (p k : Nat) (s : State) : (State.popLanding p k s).time = s.time := by
  simp [State.popLanding]

@[simp] theorem State.landOne_time (p k : Nat) (w : ShelfWrite) (s : State) : (State.landOne p k w s).time = s.time := by
  simp [State.landOne]

@[simp] theorem State.shelfWrite_time (p k : Nat) (s : State) : (State.shelfWrite p k s).time = s.time := by
  unfold State.shelfWrite; repeat' first | (with_reducible rfl) | intro _ | (simp; done) | rw [foldl_time] | split | simp

@[simp] theorem State.evVote_time (p m outcome : Nat) (s : State) : (State.evVote p m outcome s).time = s.time := by
  simp [State.evVote]

@[simp] theorem State.clearSpare_time (m : Nat) (s : State) : (State.clearSpare m s).time = s.time := by
  unfold State.clearSpare; simp only []; repeat' first | (with_reducible rfl) | intro _ | (simp; done) | rw [foldl_time] | split | simp

@[simp] theorem State.pairVote_time (p k : Nat) (agree eq0 eq1 : Bool) (s : State) : (State.pairVote p k agree eq0 eq1 s).time = s.time := by
  unfold State.pairVote; simp only []; repeat' first | (with_reducible rfl) | intro _ | (simp; done) | rw [foldl_time] | split | simp

@[simp] theorem State.discard_time (p c reason n : Nat) (s : State) : (State.discard p c reason n s).time = s.time := by
  simp [State.discard]

@[simp] theorem State.scribble_time (p k a n : Nat) (s : State) : (State.scribble p k a n s).time = s.time := by
  simp [State.scribble]

@[simp] theorem State.publish_time (p k : Nat) (header data : Bytes) (s : State) : (State.publish p k header data s).time = s.time := by
  simp [State.publish]

@[simp] theorem State.holdRows_time (p k : Nat) (rows : List Nat) (s : State) : (State.holdRows p k rows s).time = s.time := by
  unfold State.holdRows; repeat' first | (with_reducible rfl) | intro _ | (simp; done) | rw [foldl_time] | split | simp

@[simp] theorem State.stationSignal_time (id : Nat) (c : Option Nat) (i add : Nat) (s : State) : (State.stationSignal id c i add s).time = s.time := by
  unfold State.stationSignal; simp only []; repeat' first | (with_reducible rfl) | intro _ | (simp; done) | rw [foldl_time] | split | simp

@[simp] theorem State.refuse_time (m : Msg) (code : Nat) (s : State) : (State.refuse m code s).time = s.time := by
  unfold State.refuse; simp only []; repeat' first | (with_reducible rfl) | intro _ | (simp; done) | rw [foldl_time] | split | simp

@[simp] theorem State.refuseArrived_time (m : Msg) (code : Nat) (s : State) : (State.refuseArrived m code s).time = s.time := by
  unfold State.refuseArrived; simp only []; repeat' first | (with_reducible rfl) | intro _ | (simp; done) | rw [foldl_time] | split | simp

@[simp] theorem State.answerRead_time (id base : Nat) (m : Msg) (s : State) : (State.answerRead id base m s).time = s.time := by
  simp [State.answerRead]

@[simp] theorem State.tagFailed_time (id : Nat) (s : State) : (State.tagFailed id s).time = s.time := by
  unfold State.tagFailed; simp only []; repeat' first | (with_reducible rfl) | intro _ | (simp; done) | rw [foldl_time] | split | simp

@[simp] theorem State.stray_time (s : State) : (State.stray s).time = s.time := by
  simp [State.stray]

@[simp] theorem State.landResp_time (id : Nat) (o : Outst) (data : Bytes) (s : State) : (State.landResp id o data s).time = s.time := by
  unfold State.landResp; simp only []; repeat' first | (with_reducible rfl) | intro _ | (simp; done) | rw [foldl_time] | split | simp

@[simp] theorem State.learnPeer_time (id : Nat) (body : Bytes) (s : State) : (State.learnPeer id body s).time = s.time := by
  simp [State.learnPeer]

@[simp] theorem State.sendAck_time (id : Nat) (s : State) : (State.sendAck id s).time = s.time := by
  simp [State.sendAck]

@[simp] theorem State.takeOpen_time (id : Nat) (body : Bytes) (s : State) : (State.takeOpen id body s).time = s.time := by
  unfold State.takeOpen; repeat' first | (with_reducible rfl) | intro _ | (simp; done) | rw [foldl_time] | split | simp

@[simp] theorem State.mgmtRetrain_time (m : MgmtMsg) (s : State) : (State.mgmtRetrain m s).time = s.time := by
  unfold State.mgmtRetrain; simp only []; repeat' first | (with_reducible rfl) | intro _ | (simp; done) | rw [foldl_time] | split | simp

@[simp] theorem State.trainingEnds_time (l : Nat) (s : State) : (State.trainingEnds l s).time = s.time := by
  unfold State.trainingEnds; repeat' first | (with_reducible rfl) | intro _ | (simp; done) | rw [foldl_time] | split | simp

@[simp] theorem State.linkUp_time (l : Nat) (s : State) : (State.linkUp l s).time = s.time := by
  unfold State.linkUp; repeat' first | (with_reducible rfl) | intro _ | (simp; done) | rw [foldl_time] | split | simp

@[simp] theorem State.hello_time (l module linkId : Nat) (digest : BitVec 128) (s : State) : (State.hello l module linkId digest s).time = s.time := by
  unfold State.hello; simp only []; repeat' first | (with_reducible rfl) | intro _ | (simp; done) | rw [foldl_time] | split | simp

@[simp] theorem State.sendHello_time (l : Nat) (s : State) : (State.sendHello l s).time = s.time := by
  simp [State.sendHello]

@[simp] theorem State.replayFrom_time (l seq : Nat) (s : State) : (State.replayFrom l seq s).time = s.time := by
  unfold State.replayFrom; simp only []; repeat' first | (with_reducible rfl) | intro _ | (simp; done) | rw [foldl_time] | split | simp

@[simp] theorem State.nak_time (l seq : Nat) (s : State) : (State.nak l seq s).time = s.time := by
  unfold State.nak; repeat' first | (with_reducible rfl) | intro _ | (simp; done) | rw [foldl_time] | split | simp

@[simp] theorem State.sendNak_time (l : Nat) (s : State) : (State.sendNak l s).time = s.time := by
  simp [State.sendNak]

@[simp] theorem State.ack_time (l a : Nat) (s : State) : (State.ack l a s).time = s.time := by
  unfold State.ack; simp only []; repeat' first | (with_reducible rfl) | intro _ | (simp; done) | rw [foldl_time] | split | simp

@[simp] theorem State.credit_time (l first chain rod : Nat) (grants : List Nat) (s : State) : (State.credit l first chain rod grants s).time = s.time := by
  unfold State.credit; simp only []; repeat' first | (with_reducible rfl) | intro _ | (simp; done) | rw [foldl_time] | split | simp

@[simp] theorem State.linkGrain_time (l : Nat) (g : BitVec 256) (s : State) : (State.linkGrain l g s).time = s.time := by
  unfold State.linkGrain; simp only []; repeat' first | (with_reducible rfl) | intro _ | (simp; done) | rw [foldl_time] | split | simp

@[simp] theorem State.endBurst_time (l : Nat) (s : State) : (State.endBurst l s).time = s.time := by
  unfold State.endBurst; simp only []; repeat' first | (with_reducible rfl) | intro _ | (simp; done) | rw [foldl_time] | split | simp

@[simp] theorem State.discardFlit_time (l : Nat) (every : Bool) (s : State) : (State.discardFlit l every s).time = s.time := by
  unfold State.discardFlit; simp only []; repeat' first | (with_reducible rfl) | intro _ | (simp; done) | rw [foldl_time] | split | simp

@[simp] theorem State.evMaster_time (old new : Nat) (s : State) : (State.evMaster old new s).time = s.time := by
  simp [State.evMaster]

@[simp] theorem State.follow_time (l : Nat) (m : MarkerGrain) (s : State) : (State.follow l m s).time = s.time := by
  unfold State.follow; simp only []; repeat' first | (with_reducible rfl) | intro _ | (simp; done) | rw [foldl_time] | split | simp

@[simp] theorem State.rivals_time (l : Nat) (m : MarkerGrain) (s : State) : (State.rivals l m s).time = s.time := by
  unfold State.rivals; simp only []; repeat' first | (with_reducible rfl) | intro _ | (simp; done) | rw [foldl_time] | split | simp

@[simp] theorem State.yieldMaster_time (s : State) : (State.yieldMaster s).time = s.time := by
  unfold State.yieldMaster; simp only []; repeat' first | (with_reducible rfl) | intro _ | (simp; done) | rw [foldl_time] | split | simp

@[simp] theorem State.markerBoundary_time (s : State) : (State.markerBoundary s).time = s.time := by
  unfold State.markerBoundary; simp only []; repeat' first | (with_reducible rfl) | intro _ | (simp; done) | rw [foldl_time] | split | simp

@[simp] theorem State.takeMastership_time (s : State) : (State.takeMastership s).time = s.time := by
  simp [State.takeMastership]

@[simp] theorem State.sendMarker_time (l : Nat) (s : State) : (State.sendMarker l s).time = s.time := by
  unfold State.sendMarker; simp only []; repeat' first | (with_reducible rfl) | intro _ | (simp; done) | rw [foldl_time] | split | simp

@[simp] theorem State.linkRod_time (l : Nat) (s : State) : (State.linkRod l s).time = s.time := by
  unfold State.linkRod; simp only []; repeat' first | (with_reducible rfl) | intro _ | (simp; done) | rw [foldl_time] | split | simp

@[simp] theorem State.newSealedKey_time (p : Nat) (s : State) : (State.newSealedKey p s).time = s.time := by
  simp [State.newSealedKey]

@[simp] theorem State.storeCounter_time (p : Nat) (u : Update) (s : State) : (State.storeCounter p u s).time = s.time := by
  unfold State.storeCounter; simp only []; repeat' first | (with_reducible rfl) | intro _ | (simp; done) | rw [foldl_time] | split | simp

@[simp] theorem State.keepBlob_time (slot : Nat) (s : State) : (State.keepBlob slot s).time = s.time := by
  simp [State.keepBlob]

@[simp] theorem State.transitionKeys_time (t : Nat) (s : State) : (State.transitionKeys t s).time = s.time := by
  unfold State.transitionKeys; simp only []; repeat' first | (with_reducible rfl) | intro _ | (simp; done) | rw [foldl_time] | split | simp

@[simp] theorem State.transitionFuses_time (t : Nat) (s : State) : (State.transitionFuses t s).time = s.time := by
  unfold State.transitionFuses; simp only []; repeat' first | (with_reducible rfl) | intro _ | (simp; done) | rw [foldl_time] | split | simp

@[simp] theorem State.transition_time (t authority : Nat) (s : State) : (State.transition t authority s).time = s.time := by
  simp [State.transition]

@[simp] theorem State.writeRecord_time (r : MeterRec) (s : State) : (State.writeRecord r s).time = s.time := by
  simp [State.writeRecord]

@[simp] theorem State.closeAbrupt_time (s : State) : (State.closeAbrupt s).time = s.time := by
  unfold State.closeAbrupt; simp only []; repeat' first | (with_reducible rfl) | intro _ | (simp; done) | rw [foldl_time] | split | simp

@[simp] theorem State.evSettingsBad_time (record action : Nat) (s : State) : (State.evSettingsBad record action s).time = s.time := by
  simp [State.evSettingsBad]

@[simp] theorem State.deriveKeys_time (s : State) : (State.deriveKeys s).time = s.time := by
  unfold State.deriveKeys; simp only []; repeat' first | (with_reducible rfl) | intro _ | (simp; done) | rw [foldl_time] | split | simp

@[simp] theorem State.readSurvey_time (s : State) : (State.readSurvey s).time = s.time := by
  unfold State.readSurvey; simp only []; repeat' first | (with_reducible rfl) | intro _ | (simp; done) | rw [foldl_time] | split | simp

@[simp] theorem State.readSettings_time (s : State) : (State.readSettings s).time = s.time := by
  unfold State.readSettings; simp only []; repeat' first | (with_reducible rfl) | intro _ | (simp; done) | rw [foldl_time] | split | simp

@[simp] theorem State.platCold_time (s : State) : (State.platCold s).time = s.time := by
  unfold State.platCold; simp only []; repeat' first | (with_reducible rfl) | intro _ | (simp; done) | rw [foldl_time] | split | simp

@[simp] theorem State.evPlat_time (kind unitId old new : Nat) (s : State) : (State.evPlat kind unitId old new s).time = s.time := by
  simp [State.evPlat]

@[simp] theorem State.platSet_time (kind u v : Nat) (s : State) : (State.platSet kind u v s).time = s.time := by
  unfold State.platSet; dsimp only; split
  · rfl
  · rw [State.evPlat_time]; rfl

theorem State.reserveOn_time (c : Bool) (s : State) (die : Nat) : (State.reserveOn c s die).time = s.time := by
  unfold State.reserveOn; dsimp only; split
  · split <;> simp
  · refine foldl_time _ _ _ fun b a => ?_
    rw [apply_ite State.time, State.platSet_time, ite_self]

@[simp] theorem State.reserveSpares_time (s : State) : (State.reserveSpares s).time = s.time := by
  exact (foldl_time _ _ _ fun b a => State.reserveOn_time ..).trans (foldl_time _ _ _ fun b a => State.reserveOn_time ..)

@[simp] theorem State.openBlobs_time (s : State) : (State.openBlobs s).time = s.time := by
  unfold State.openBlobs; simp only []; repeat' first | (with_reducible rfl) | intro _ | (simp; done) | rw [foldl_time] | split | simp

@[simp] theorem State.toStage40_time (s : State) : (State.toStage40 s).time = s.time := by
  unfold State.toStage40; simp only []; repeat' first | (with_reducible rfl) | intro _ | (simp; done) | rw [foldl_time] | split | simp

@[simp] theorem State.tested_time (kind unitId : Nat) (failed : Bool) (s : State) : (State.tested kind unitId failed s).time = s.time := by
  simp [State.tested]

@[simp] theorem State.becomeReady_time (s : State) : (State.becomeReady s).time = s.time := by
  unfold State.becomeReady; simp only []; repeat' first | (with_reducible rfl) | intro _ | (simp; done) | rw [foldl_time] | split | simp

@[simp] theorem State.reportMismatch_time (s : State) : (State.reportMismatch s).time = s.time := by
  unfold State.reportMismatch; simp only []; repeat' first | (with_reducible rfl) | intro _ | (simp; done) | rw [foldl_time] | split | simp

@[simp] theorem State.channelSignal_time (p : Nat) (m : BounceMap) (stake : Nat) (s : State) : (State.channelSignal p m stake s).time = s.time := by
  simp [State.channelSignal]

@[simp] theorem State.writeIndex_time (s : State) : (State.writeIndex s).time = s.time := by
  unfold State.writeIndex; simp only []; repeat' first | (with_reducible rfl) | intro _ | (simp; done) | rw [foldl_time] | split | simp

@[simp] theorem State.readIndex_time (idx : List (Nat × Nat × Nat)) (s : State) : (State.readIndex idx s).time = s.time := by
  unfold State.readIndex; simp only []; repeat' first | (with_reducible rfl) | intro _ | (simp; done) | rw [foldl_time] | split | simp

@[simp] theorem State.bounceBad_time (s : State) : (State.bounceBad s).time = s.time := by
  unfold State.bounceBad; simp only []; repeat' first | (with_reducible rfl) | intro _ | (simp; done) | rw [foldl_time] | split | simp

@[simp] theorem State.estimate_time (fallback : Bool) (s : State) : (State.estimate fallback s).time = s.time := by
  simp [State.estimate]

@[simp] theorem State.evEntropy_time (fallback : Bool) (s : State) : (State.evEntropy fallback s).time = s.time := by
  simp [State.evEntropy]

@[simp] theorem State.primaryFailed_time (s : State) : (State.primaryFailed s).time = s.time := by
  simp [State.primaryFailed]

@[simp] theorem State.entropyBoundary_time (s : State) : (State.entropyBoundary s).time = s.time := by
  unfold State.entropyBoundary; simp only []; repeat' first | (with_reducible rfl) | intro _ | (simp; done) | rw [foldl_time] | split | simp

@[simp] theorem State.instantiate_time (s : State) : (State.instantiate s).time = s.time := by
  simp [State.instantiate]

@[simp] theorem State.seedFailed_time (p c : Nat) (statuses : List Nat) (s : State) : (State.seedFailed p c statuses s).time = s.time := by
  unfold State.seedFailed; repeat' first | (with_reducible rfl) | intro _ | (simp; done) | rw [foldl_time] | split | simp

@[simp] theorem State.holdFrag_time (p c : Nat) (f : Bytes) (s : State) : (State.holdFrag p c f s).time = s.time := by
  simp [State.holdFrag]

@[simp] theorem State.forwardAll_time (p : Nat) : ∀ (l : List (Nat × Nat × Nat × Bytes)) (s : State) (kept : List (Nat × Nat × Nat × Bytes)), (State.forwardAll p l s kept).1.time = s.time
  | [], _, _ => rfl
  | q :: l, s, kept => by
    rw [State.forwardAll]; split
    · split
      · rw [State.forwardAll_time p l]; simp
      · exact State.forwardAll_time p l ..
    · exact State.forwardAll_time p l ..

@[simp] theorem State.forwards_time (p : Nat) (s : State) : (State.forwards p s).time = s.time := by
  unfold State.forwards; simp only []; split
  · split
    · split <;> simp
    · rfl
  · rfl

@[simp] theorem State.intakeReport_time (p c : Nat) (s : State) : (State.intakeReport p c s).time = s.time := by
  unfold State.intakeReport; simp only []; repeat' first | (with_reducible rfl) | intro _ | (simp; done) | rw [foldl_time] | split | simp

@[simp] theorem State.toKeeps_time (d : RoundDesc) (msgs : List Bytes) (s : State) : (State.toKeeps d msgs s).time = s.time := by
  unfold State.toKeeps; repeat' first | (with_reducible rfl) | intro _ | (simp; done) | rw [foldl_time] | split | simp

@[simp] theorem State.sendReceipt_time (p c : Nat) (s : State) : (State.sendReceipt p c s).time = s.time := by
  unfold State.sendReceipt; repeat' first | (with_reducible rfl) | intro _ | (simp; done) | rw [foldl_time] | split | simp

@[simp] theorem State.judgeRound_time (p c : Nat) (s : State) : (State.judgeRound p c s).time = s.time := by
  unfold State.judgeRound; simp only []; repeat' first | (with_reducible rfl) | intro _ | (simp; done) | rw [foldl_time] | split | simp

@[simp] theorem State.closeRoster_time (p c : Nat) (s : State) : (State.closeRoster p c s).time = s.time := by
  unfold State.closeRoster; simp only []; repeat' first | (with_reducible rfl) | intro _ | (simp; done) | rw [foldl_time] | split | simp

@[simp] theorem State.lostNotice_time (p c : Nat) (s : State) : (State.lostNotice p c s).time = s.time := by
  unfold State.lostNotice; simp only []; repeat' first | (with_reducible rfl) | intro _ | (simp; done) | rw [foldl_time] | split | simp

@[simp] theorem State.landAll_time (p : Nat) (s : State) : (State.landAll p s).time = s.time := by
  unfold State.landAll; repeat' first | (with_reducible rfl) | intro _ | (simp; done) | rw [foldl_time] | split | simp

@[simp] theorem State.endRod_time (s : State) : (State.endRod s).time = s.time := by
  unfold State.endRod; repeat' first | (with_reducible rfl) | intro _ | (simp; done) | rw [foldl_time] | split | simp

@[simp] theorem State.overrun_time (p c : Nat) (s : State) : (State.overrun p c s).time = s.time := by
  unfold State.overrun; simp only []; repeat' first | (with_reducible rfl) | intro _ | (simp; done) | rw [foldl_time] | split | simp

@[simp] theorem State.beginReserve_time (late : List Nat) (s : State) : (State.beginReserve late s).time = s.time := by
  unfold State.beginReserve; simp only []; repeat' first | (with_reducible rfl) | intro _ | (simp; done) | rw [foldl_time] | split | simp

@[simp] theorem State.chainEnd_time (p : Nat) (s : State) : (State.chainEnd p s).time = s.time := by
  unfold State.chainEnd; simp only []; repeat' first | (with_reducible rfl) | intro _ | (simp; done) | rw [foldl_time] | split | simp

@[simp] theorem State.putStakes_time (p : Nat) (l : List (Nat × BitVec 32)) (s : State) : (State.putStakes p l s).time = s.time := by
  unfold State.putStakes; repeat' first | (with_reducible rfl) | intro _ | (simp; done) | rw [foldl_time] | split | simp

@[simp] theorem State.swapOut_time (p c : Nat) (s : State) : (State.swapOut p c s).time = s.time := by
  simp [State.swapOut]

@[simp] theorem State.clearStores_time (p : Nat) (s : State) : (State.clearStores p s).time = s.time := by
  simp [State.clearStores]

@[simp] theorem State.putSaved_time (p k : Nat) : ∀ (l : List Operand) (b : Bytes) (s : State), (State.putSaved p k l b s).time = s.time
  | [], _, _ => rfl
  | o :: l, b, s => by rw [State.putSaved, State.putSaved_time p k l]; simp

@[simp] theorem State.swapIn_time (p c : Nat) (s : State) : (State.swapIn p c s).time = s.time := by
  unfold State.swapIn; simp only []; split
  · simp
  · rw [State.drawnMany_time, State.modCtx_time, State.modClusters_time, foldl_time _ _ _ (fun b a => State.putSaved_time ..)]; simp

@[simp] theorem State.markSpan_time (p c : Nat) (s : State) : (State.markSpan p c s).time = s.time := by
  simp [State.markSpan]

@[simp] theorem State.enter_time (p c : Nat) (s : State) : (State.enter p c s).time = s.time := by
  simp [State.enter]

theorem State.ifUp_time (p c : Nat) (g : State → State) (s : State) (h : ∀ t, (g t).time = t.time) : (State.ifUp p c g s).time = s.time := by
  unfold State.ifUp; split
  · exact h s
  · rfl

@[simp] theorem State.declaredPreloads_time (p : Nat) (s : State) : (State.declaredPreloads p s).time = s.time := by
  unfold State.declaredPreloads; repeat' first | (with_reducible rfl) | intro _ | (simp; done) | rw [foldl_time] | rw [State.ifUp_time] | split | simp

@[simp] theorem State.markSwaps_time (s : State) : (State.markSwaps s).time = s.time := by
  simp [State.markSwaps]

@[simp] theorem State.leaveRod_time (p c : Nat) (s : State) : (State.leaveRod p c s).time = s.time := by
  unfold State.leaveRod; simp only []; repeat' first | (with_reducible rfl) | intro _ | (simp; done) | rw [foldl_time] | split | simp

@[simp] theorem State.swap_time (p : Nat) (s : State) : (State.swap p s).time = s.time := by
  unfold State.swap; simp only []; repeat' first | (with_reducible rfl) | intro _ | (simp; done) | rw [foldl_time] | split | simp

@[simp] theorem State.select_time (p : Nat) (s : State) : (State.select p s).time = s.time := by
  unfold State.select; simp only []; repeat' first | (with_reducible rfl) | intro _ | (simp; done) | rw [foldl_time] | split | simp

@[simp] theorem State.selectAll_time (s : State) : (State.selectAll s).time = s.time := by
  unfold State.selectAll; simp only []; repeat' first | (with_reducible rfl) | intro _ | (simp; done) | rw [foldl_time] | split | simp

@[simp] theorem State.releaseCtx_time (p c : Nat) (s : State) : (State.releaseCtx p c s).time = s.time := by
  simp [State.releaseCtx]

@[simp] theorem State.endCtx_time (p c : Nat) (s : State) : (State.endCtx p c s).time = s.time := by
  unfold State.endCtx; simp only []; repeat' first | (with_reducible rfl) | intro _ | (simp; done) | rw [foldl_time] | split | simp

@[simp] theorem State.finishCtx_time (p c : Nat) (s : State) : (State.finishCtx p c s).time = s.time := by
  simp [State.finishCtx]

@[simp] theorem State.unloadCtx_time (p c : Nat) (s : State) : (State.unloadCtx p c s).time = s.time := by
  unfold State.unloadCtx; simp only []; repeat' first | (with_reducible rfl) | intro _ | (simp; done) | rw [foldl_time] | split | simp

@[simp] theorem State.turnCtx_time (p c : Nat) (s : State) : (State.turnCtx p c s).time = s.time := by
  unfold State.turnCtx; simp only []; repeat' first | (with_reducible rfl) | intro _ | (simp; done) | rw [foldl_time] | split | simp

@[simp] theorem State.turnCtxs_time (p : Nat) (s : State) : (State.turnCtxs p s).time = s.time := by
  unfold State.turnCtxs; repeat' first | (with_reducible rfl) | intro _ | (simp; done) | rw [foldl_time] | split | simp

@[simp] theorem State.noteBlocked_time (p c : Nat) (s : State) : (State.noteBlocked p c s).time = s.time := by
  simp [State.noteBlocked]

@[simp] theorem State.evHang_time (p engines : Nat) (suspects guilty : List Nat) (s : State) : (State.evHang p engines suspects guilty s).time = s.time := by
  simp [State.evHang]

@[simp] theorem State.rewind_time (p c : Nat) (s : State) : (State.rewind p c s).time = s.time := by
  simp [State.rewind]

@[simp] theorem State.startReplay_time (p c : Nat) (s : State) : (State.startReplay p c s).time = s.time := by
  simp [State.startReplay]

@[simp] theorem State.markSuspects_time (p c : Nat) (l : List Nat) (s : State) : (State.markSuspects p c l s).time = s.time := by
  unfold State.markSuspects; repeat' first | (with_reducible rfl) | intro _ | (simp; done) | rw [foldl_time] | split | simp

@[simp] theorem State.onHang_time (p c : Nat) (involved : List Nat) (s : State) : (State.onHang p c involved s).time = s.time := by
  unfold State.onHang; simp only []; repeat' first | (with_reducible rfl) | intro _ | (simp; done) | rw [foldl_time] | split | simp

@[simp] theorem State.releaseSignals_time (p : Nat) (l : List (Nat × Nat)) (s : State) : (State.releaseSignals p l s).time = s.time := by
  unfold State.releaseSignals; repeat' first | (with_reducible rfl) | intro _ | (simp; done) | rw [foldl_time] | split | simp

@[simp] theorem State.verdict_time (p : Nat) (r : Replay) (s : State) : (State.verdict p r s).time = s.time := by
  unfold State.verdict; simp only []; repeat' first | (with_reducible rfl) | intro _ | (simp; done) | rw [foldl_time] | split | simp

@[simp] theorem State.endReplay_time (p : Nat) (r : Replay) (hang : Bool) (s : State) : (State.endReplay p r hang s).time = s.time := by
  unfold State.endReplay; simp only []; repeat' first | (with_reducible rfl) | intro _ | (simp; done) | rw [foldl_time] | split | simp

@[simp] theorem State.detect_time (p : Nat) (s : State) : (State.detect p s).time = s.time := by
  unfold State.detect; simp only []; repeat' first | (with_reducible rfl) | intro _ | (simp; done) | rw [foldl_time] | split | simp

@[simp] theorem State.loseLines_time (p x kept : Nat) (s : State) : (State.loseLines p x kept s).time = s.time := by
  simp [State.loseLines]

@[simp] theorem State.subchGone_time (x : Nat) (spare : Option Nat) (s : State) : (State.subchGone x spare s).time = s.time := by
  unfold State.subchGone; simp only []; repeat' first | (with_reducible rfl) | intro _ | (simp; done) | rw [foldl_time] | split | simp

@[simp] theorem State.patrol_time (s : State) : (State.patrol s).time = s.time := by
  unfold State.patrol; simp only []; repeat' first | (with_reducible rfl) | intro _ | (simp; done) | rw [foldl_time] | split | simp

@[simp] theorem State.evSpare_time (p kind old new logical : Nat) (s : State) : (State.evSpare p kind old new logical s).time = s.time := by
  simp [State.evSpare]

@[simp] theorem State.joinCluster_time (old new : Nat) (s : State) : (State.joinCluster old new s).time = s.time := by
  unfold State.joinCluster; simp only []; repeat' first | (with_reducible rfl) | intro _ | (simp; done) | rw [foldl_time] | split | simp

@[simp] theorem State.joinSubch_time (old new : Nat) (s : State) : (State.joinSubch old new s).time = s.time := by
  unfold State.joinSubch; simp only []; repeat' first | (with_reducible rfl) | intro _ | (simp; done) | rw [foldl_time] | split | simp

@[simp] theorem State.joinSpares_time (s : State) : (State.joinSpares s).time = s.time := by
  unfold State.joinSpares; simp only []; repeat' first | (with_reducible rfl) | intro _ | (simp; done) | rw [foldl_time] | split | simp

@[simp] theorem State.gateClusters_time (s : State) : (State.gateClusters s).time = s.time := by
  simp [State.gateClusters]

@[simp] theorem State.pairBoundary_time (s : State) : (State.pairBoundary s).time = s.time := by
  unfold State.pairBoundary; simp only []; repeat' first | (with_reducible rfl) | intro _ | (simp; done) | rw [foldl_time] | split | simp

@[simp] theorem State.debugOut_time (c v : Nat) (s : State) : (State.debugOut c v s).time = s.time := by
  unfold State.debugOut; repeat' first | (with_reducible rfl) | intro _ | (simp; done) | rw [foldl_time] | split | simp

@[simp] theorem State.computeRatio_time (e : Nat) (s : State) : (State.computeRatio e s).time = s.time := by
  simp [State.computeRatio]

@[simp] theorem State.evPower_time (phase storeMj : Nat) (s : State) : (State.evPower phase storeMj s).time = s.time := by
  simp [State.evPower]

@[simp] theorem State.beginFail_time (s : State) : (State.beginFail s).time = s.time := by
  unfold State.beginFail; simp only []; repeat' first | (with_reducible rfl) | intro _ | (simp; done) | rw [foldl_time] | split | simp

@[simp] theorem State.seeJ1_time (mv : Nat) (s : State) : (State.seeJ1 mv s).time = s.time := by
  simp [State.seeJ1]

@[simp] theorem State.saveMeter_time (s : State) : (State.saveMeter s).time = s.time := by
  simp [State.saveMeter]

@[simp] theorem State.openSwitch_time (s : State) : (State.openSwitch s).time = s.time := by
  simp [State.openSwitch]

@[simp] theorem State.evThrottle_time (entry : Nat) (s : State) : (State.evThrottle entry s).time = s.time := by
  simp [State.evThrottle]

@[simp] theorem State.throttleBegin_time (s : State) : (State.throttleBegin s).time = s.time := by
  unfold State.throttleBegin; simp only []; repeat' first | (with_reducible rfl) | intro _ | (simp; done) | rw [foldl_time] | split | simp

@[simp] theorem State.evCoolant_time (why : Nat) (s : State) : (State.evCoolant why s).time = s.time := by
  simp [State.evCoolant]

@[simp] theorem State.stormReport_time (s : State) : (State.stormReport s).time = s.time := by
  unfold State.stormReport; simp only []; repeat' first | (with_reducible rfl) | intro _ | (simp; done) | rw [foldl_time] | split | simp

@[simp] theorem State.meterChain_time (mj : Nat) (s : State) : (State.meterChain mj s).time = s.time := by
  simp [State.meterChain]

@[simp] theorem State.countClear_time (s : State) : (State.countClear s).time = s.time := by
  simp [State.countClear]

@[simp] theorem State.powerBoundary_time (s : State) : (State.powerBoundary s).time = s.time := by
  unfold State.powerBoundary; simp only []; repeat' first | (with_reducible rfl) | intro _ | (simp; done) | rw [foldl_time] | split | simp

@[simp] theorem State.ratioBoundary_time (s : State) : (State.ratioBoundary s).time = s.time := by
  unfold State.ratioBoundary; simp only []; repeat' first | (with_reducible rfl) | intro _ | (simp; done) | rw [foldl_time] | split | simp

@[simp] theorem State.throttleBoundary_time (s : State) : (State.throttleBoundary s).time = s.time := by
  unfold State.throttleBoundary; simp only []; repeat' first | (with_reducible rfl) | intro _ | (simp; done) | rw [foldl_time] | split | simp

@[simp] theorem State.idleMark_time (s : State) : (State.idleMark s).time = s.time := by
  simp [State.idleMark]

@[simp] theorem State.setCap_time (cap : Nat) (s : State) : (State.setCap cap s).time = s.time := by
  simp [State.setCap]

@[simp] theorem State.modCopy_time (b : Bool) (g : FwCopy → FwCopy) (s : State) : (State.modCopy b g s).time = s.time := by
  simp [State.modCopy]

@[simp] theorem State.setStaging_time (v : Option Bool) (s : State) : (State.setStaging v s).time = s.time := by
  simp [State.setStaging]

@[simp] theorem State.orderReset_time (cold : Bool) (s : State) : (State.orderReset cold s).time = s.time := by
  simp [State.orderReset]

@[simp] theorem State.evSmbus_time (st line : Nat) (s : State) : (State.evSmbus st line s).time = s.time := by
  simp [State.evSmbus]

@[simp] theorem State.partnerBack_time (s : State) : (State.partnerBack s).time = s.time := by
  unfold State.partnerBack; simp only []; repeat' first | (with_reducible rfl) | intro _ | (simp; done) | rw [foldl_time] | split | simp

@[simp] theorem State.retried_time (acked : Bool) (s : State) : (State.retried acked s).time = s.time := by
  unfold State.retried; simp only []; repeat' first | (with_reducible rfl) | intro _ | (simp; done) | rw [foldl_time] | split | simp

@[simp] theorem State.closeKeys_time (p : Nat) (s : State) : (State.closeKeys p s).time = s.time := by
  unfold State.closeKeys; simp only []; repeat' first | (with_reducible rfl) | intro _ | (simp; done) | rw [foldl_time] | split | simp

@[simp] theorem State.parcelRod_time (p : Nat) (s : State) : (State.parcelRod p s).time = s.time := by
  simp [State.parcelRod]

@[simp] theorem State.rodBegin_time (idx : List (Nat × Nat × Nat)) (s : State) : (State.rodBegin idx s).time = s.time := by
  unfold State.rodBegin; simp only []; repeat' first | (with_reducible rfl) | intro _ | (simp; done) | rw [foldl_time] | split | simp

@[simp] theorem State.rodEnd_time (late : List Nat) (s : State) : (State.rodEnd late s).time = s.time := by
  simp [State.rodEnd]

theorem State.backlog_time (p k run left : Nat) (s : State) (c : Nat) : (State.backlog p k run left s c).time = s.time := by
  unfold State.backlog; dsimp only; split
  · split <;> simp
  · rfl

@[simp] theorem State.leafBoundary_time (p k : Nat) (s : State) : (State.leafBoundary p k s).time = s.time := by
  unfold State.leafBoundary; simp only []; split
  · rfl
  · split
    · split <;> simp
    · rw [foldl_time _ _ _ (fun b a => State.backlog_time ..)]; split <;> simp

@[simp] theorem State.leaves_time (p : Nat) (s : State) : (State.leaves p s).time = s.time := by
  unfold State.leaves; simp only []; repeat' first | (with_reducible rfl) | intro _ | (simp; done) | rw [foldl_time] | split | simp

@[simp] theorem State.stopDrains_time (p : Nat) (s : State) : (State.stopDrains p s).time = s.time := by
  unfold State.stopDrains; simp only []; repeat' first | (with_reducible rfl) | intro _ | (simp; done) | rw [foldl_time] | split | simp

@[simp] theorem State.endConns_time (p : Nat) (s : State) : (State.endConns p s).time = s.time := by
  unfold State.endConns; repeat' first | (with_reducible rfl) | intro _ | (simp; done) | rw [foldl_time] | split | simp

@[simp] theorem State.closeStop_time (p : Nat) (s : State) : (State.closeStop p s).time = s.time := by
  unfold State.closeStop; simp only []; repeat' first | (with_reducible rfl) | intro _ | (simp; done) | rw [foldl_time] | split | simp

@[simp] theorem State.freeUnits_time (p : Nat) (s : State) : (State.freeUnits p s).time = s.time := by
  unfold State.freeUnits; simp only []; repeat' first | (with_reducible rfl) | intro _ | (simp; done) | rw [foldl_time] | split | simp

@[simp] theorem State.sharesBoundary_time (s : State) : (State.sharesBoundary s).time = s.time := by
  unfold State.sharesBoundary; simp only []; repeat' first | (with_reducible rfl) | intro _ | (simp; done) | rw [foldl_time] | split | simp

@[simp] theorem State.detach_time (p : Nat) (s : State) : (State.detach p s).time = s.time := by
  unfold State.detach; simp only []; repeat' first | (with_reducible rfl) | intro _ | (simp; done) | rw [foldl_time] | split | simp

@[simp] theorem State.measured_time (p : Nat) (s : State) : (State.measured p s).time = s.time := by
  unfold State.measured; simp only []; repeat' first | (with_reducible rfl) | intro _ | (simp; done) | rw [foldl_time] | split | simp

@[simp] theorem State.opDiscards_time (p c : Nat) (s : State) : (State.opDiscards p c s).time = s.time := by
  unfold State.opDiscards; simp only []; repeat' first | (with_reducible rfl) | intro _ | (simp; done) | rw [foldl_time] | split | simp

@[simp] theorem State.ctxReports_time (p c : Nat) (s : State) : (State.ctxReports p c s).time = s.time := by
  simp [State.ctxReports]

@[simp] theorem State.platBoundary_time (s : State) : (State.platBoundary s).time = s.time := by
  unfold State.platBoundary; simp only []; repeat' first | (with_reducible rfl) | intro _ | (simp; done) | rw [foldl_time] | split | simp

@[simp] theorem State.surveyBoundary_time (s : State) : (State.surveyBoundary s).time = s.time := by
  unfold State.surveyBoundary; simp only []; repeat' first | (with_reducible rfl) | intro _ | (simp; done) | rw [foldl_time] | split | simp

@[simp] theorem State.refreshShares_time (s : State) : (State.refreshShares s).time = s.time := by
  unfold State.refreshShares; simp only []; repeat' first | (with_reducible rfl) | intro _ | (simp; done) | rw [foldl_time] | split | simp

@[simp] theorem State.releaseHalts_time (s : State) : (State.releaseHalts s).time = s.time := by
  simp [State.releaseHalts]

@[simp] theorem State.clearCounts_time (s : State) : (State.clearCounts s).time = s.time := by
  unfold State.clearCounts; simp only []; repeat' first | (with_reducible rfl) | intro _ | (simp; done) | rw [foldl_time] | split | simp

@[simp] theorem State.linksBoundary_time (s : State) : (State.linksBoundary s).time = s.time := by
  unfold State.linksBoundary; repeat' first | (with_reducible rfl) | intro _ | (simp; done) | rw [foldl_time] | split | simp

@[simp] theorem State.moduleBoundary_time (s : State) : (State.moduleBoundary s).time = s.time := by
  simp [State.moduleBoundary]

@[simp] theorem State.parcelsBoundary_time (s : State) : (State.parcelsBoundary s).time = s.time := by
  unfold State.parcelsBoundary; simp only []; rw [State.eachParcel_time _ _ (fun p t => foldl_time _ _ _ (fun b a => State.ctxReports_time ..)), State.eachParcel_time _ _ (fun p t => State.measured_time ..), State.eachParcel_time _ _ (fun p t => State.detach_time ..), State.eachParcel_time _ _ (fun p t => State.closeStop_time ..), State.eachParcel_time _ _ (fun p t => State.turnCtxs_time ..)]; rfl

/-- The chain that ends leaves the timer as it is until the next chain's number is set. -/
theorem State.chainOver_time (late : List Nat) (mj : Nat) (s : State) : (State.chainOver late mj s).time = s.time := by
  unfold State.chainOver; dsimp only
  rw [State.countClear_time, State.meterChain_time]
  have h : (State.eachParcel State.chainEnd (State.rodEnd late s)).time = s.time := by
    rw [State.eachParcel_time _ _ (fun p t => State.chainEnd_time ..), State.rodEnd_time]
  split
  · simpa using h
  · exact h

end Sys2Proof.Machine
end

