-- ==== Sys2Proof/Laws/Wires.lean ====
section
/-! SUPPORT. What the drawers, the reports and the stations leave of the links: a link's state and its figures change only where a command says so. -/

set_option linter.unusedTactic false
set_option linter.unreachableTactic false
set_option linter.unusedVariables false
set_option linter.unusedSimpArgs false
set_option Elab.async false

namespace Sys2Proof.Machine

@[simp] theorem State.takeOne_links (n : Nat) (x : Slot) (s : State) : (s.takeOne n x).links = s.links := by
  unfold State.takeOne; dsimp only; repeat' split
  all_goals simp

@[simp] theorem State.takeSlots_links (n : Nat) : ∀ (k : Nat) (s : State), (s.takeSlots n k).links = s.links
  | 0, _ => rfl
  | k + 1, s => by
    rw [State.takeSlots]; split
    · rfl
    · split
      · rw [State.takeSlots_links n k]; simp
      · rfl

@[simp] theorem State.takeAll_links (n : Nat) (s : State) : (s.takeAll n).links = s.links := State.takeSlots_links ..

theorem foldl_links {α : Type} {g : State → α → State} {l : List α} (h : ∀ t x, (g t x).links = t.links) : ∀ s : State, (l.foldl g s).links = s.links := by
  induction l with
  | nil => intro _; rfl
  | cons x l ih => intro s; exact (ih _).trans (h s x)

@[simp] theorem State.answerRetrain_links (l v : Nat) (s : State) : (s.answerRetrain l v).links = s.links := by
  unfold State.answerRetrain; dsimp only
  refine (foldl_links ?_ _).trans rfl
  intro t x; split
  · split <;> simp
  · rfl

/-! A figure `π` of a link that messages and reports do not touch. -/

/-- Neither a message to send or in part, nor a report, touches the figure. -/
structure Steady {α : Type} (π : Link → α) : Prop where
  buf : ∀ k b, π { k with sendBuf := b } = π k
  part : ∀ k b, π { k with rxGrains := b, sendBuf := [] } = π k
  said : ∀ k a b, π { k with lastReport := a, suppressed := b } = π k
  count : ∀ k b, π { k with suppressed := b } = π k

theorem modLink_keep {α : Type} (π : Link → α) (m n : Nat) (g : Link → Link) (s : State) (h : ∀ k, π (g k) = π k) : π ((s.modLink m g).link n) = π (s.link n) := by
  simp only [State.modLink, State.link, List.getD_eq_getElem?_getD, List.getElem?_modify]
  cases s.links[n]? <;> simp; split <;> simp [h]

theorem foldl_keep {α β : Type} (π : Link → β) (n : Nat) {g : State → α → State} {l : List α} (h : ∀ t x, π ((g t x).link n) = π (t.link n)) :
    ∀ s : State, π ((l.foldl g s).link n) = π (s.link n) := by
  induction l with
  | nil => intro _; rfl
  | cons x l ih => intro s; exact (ih _).trans (h s x)

theorem link_of_links {s t : State} (n : Nat) (h : t.links = s.links) : t.link n = s.link n := by simp [State.link, h]

theorem State.toStation_link {α : Type} {π : Link → α} (h : Steady π) (m : Msg) (n : Nat) (s : State) : π ((s.toStation m).link n) = π (s.link n) := by
  unfold State.toStation; split
  · exact (modLink_keep π _ _ _ _ fun k => h.buf k _).trans rfl
  · rfl

theorem State.leaveUp_link {α : Type} {π : Link → α} (h : Steady π) (l n : Nat) (s : State) : π ((s.leaveUp l).link n) = π (s.link n) := by
  unfold State.leaveUp; dsimp only
  exact (foldl_keep π n (fun t m => State.toStation_link h m n t) _).trans (modLink_keep π _ _ _ _ fun k => h.part k _)

theorem State.evLink_link {α : Type} {π : Link → α} (h : Steady π) (l c : Nat) (d : List Nat) (n : Nat) (s : State) :
    π ((s.evLink l c d).link n) = π (s.link n) := by
  unfold State.evLink; dsimp only
  split <;> split
  all_goals first
    | exact modLink_keep π _ _ _ _ fun k => h.count k _
    | rw [link_of_links n (State.evMgmt_links ..), link_of_links n (State.evPf_links ..)]; exact modLink_keep π l n _ _ fun k => h.said k _ _

/-- A state change sets the link's state, and no other steady figure of any link. -/
theorem State.setLinkState_link {α : Type} {π : Link → α} (h : Steady π) (l v : Nat) (why : LinkCause) (n : Nat) (s : State) :
    π ((s.setLinkState l v why).link n) = π ((s.modLink l fun k => { k with state := v }).link n) := by
  unfold State.setLinkState; dsimp only; split
  · rename_i e
    simp only [State.modLink, State.link, List.getD_eq_getElem?_getD, List.getElem?_modify] at e ⊢
    cases e2 : s.links[n]? with
    | none => simp
    | some k => simp; split
                · next e3 => subst e3; simp only [e2] at e; subst e; rfl
                · rfl
  · have a : ∀ t : State, (State.answerRetrain l v t).link n = t.link n := fun t => link_of_links n (by simp)
    split <;> split <;> simp only [a, State.leaveUp_link h, State.evLink_link h]

/-- A link's state is steady. -/
theorem steady_state : Steady Link.state := ⟨fun _ _ => rfl, fun _ _ => rfl, fun _ _ _ => rfl, fun _ _ => rfl⟩

/-- The state that a change sets. -/
theorem State.setLinkState_state {l : Nat} {s : State} (h : l < s.links.length) (v : Nat) (why : LinkCause) : ((s.setLinkState l v why).link l).state = v :=
  (State.setLinkState_link steady_state l v why l s).trans (by rw [State.modLink_link h])

theorem State.setLinkState_state_ne {l n : Nat} (s : State) (h : n ≠ l) (v : Nat) (why : LinkCause) : ((s.setLinkState l v why).link n).state = (s.link n).state :=
  (State.setLinkState_link steady_state l v why n s).trans (by rw [State.modLink_link_ne h])

/-! The number of links stays. -/

theorem foldl_len {α : Type} {g : State → α → State} {l : List α} (h : ∀ t x, (g t x).links.length = t.links.length) :
    ∀ s : State, (l.foldl g s).links.length = s.links.length := by
  induction l with
  | nil => intro _; rfl
  | cons x l ih => intro s; exact (ih _).trans (h s x)

theorem State.toStation_len (m : Msg) (s : State) : (s.toStation m).links.length = s.links.length := by
  unfold State.toStation; split
  · exact (State.modLink_links_length _ _ _).trans rfl
  · rfl

theorem State.leaveUp_len (l : Nat) (s : State) : (s.leaveUp l).links.length = s.links.length := by
  unfold State.leaveUp; dsimp only
  exact (foldl_len (fun t m => State.toStation_len m t) _).trans (State.modLink_links_length ..)

theorem State.evLink_len (l c : Nat) (d : List Nat) (s : State) : (s.evLink l c d).links.length = s.links.length := by
  unfold State.evLink; dsimp only
  split <;> split <;> simp

theorem State.setLinkState_len (l v : Nat) (why : LinkCause) (s : State) : (s.setLinkState l v why).links.length = s.links.length := by
  unfold State.setLinkState; dsimp only; split
  · rfl
  · split <;> split <;> simp [State.leaveUp_len, State.evLink_len]

/-- A link that enters training starts anew: both directions count from 0 (R138, R145). -/
theorem State.enterTraining_trains {l : Nat} {s : State} (h : l < s.links.length) (why : LinkCause) : State.Trains l s (s.enterTraining l why) := by
  have hl : l < (s.setLinkState l 0 why).links.length := by rw [State.setLinkState_len]; exact h
  unfold State.enterTraining
  constructor
  · rw [State.modLink_link hl]; exact ⟨State.setLinkState_state h .., rfl⟩
  · rw [State.modLink_link hl]; exact ⟨rfl, rfl, rfl⟩
  · rw [State.modLink_link hl]; exact ⟨rfl, rfl, rfl, rfl⟩
  · intro n hn; rw [State.modLink_link_ne hn]; exact State.setLinkState_state_ne s hn ..
  · simp

end Sys2Proof.Machine
end

