-- ==== Sys2Proof/Laws/Drawer.lean ====
section
/-! SUPPORT. How a drawer command runs to its end, and what the drawers' bookkeeping leaves of the functions. -/

set_option linter.unusedTactic false
set_option linter.unreachableTactic false
set_option linter.unusedVariables false
set_option linter.unusedSimpArgs false
set_option Elab.async false

namespace Sys2Proof.Machine

theorem State.gate_popTaken (m n op : Nat) (pf vf : Bool) (s : State) : (s.popTaken m).gate n op pf vf = s.gate n op pf vf := rfl

theorem State.runDrawer_done {s v : State} {fn op : Nat} {t : Taken} {body : Bytes} {F : Taken → State → Verdict} (h : s.front fn op = some t)
    (hk : F t (s.popTaken fn) = .done body v) (hf : t.fits body = true) :
    s.runDrawer fn op F = (v.respond fn t stOk body).takeAll fn := by
  simp [State.runDrawer, h, hk, hf]
theorem State.runDrawer_long {s v : State} {fn op : Nat} {t : Taken} {F : Taken → State → Verdict} (h : s.front fn op = some t)
    (hk : F t (s.popTaken fn) = .long v) : s.runDrawer fn op F = v.takeAll fn := by
  simp [State.runDrawer, h, hk]
theorem State.runDrawer_refuse {s : State} {fn op st : Nat} {body : Bytes} {t : Taken} {F : Taken → State → Verdict} (h : s.front fn op = some t)
    (hk : F t (s.popTaken fn) = .refuse st body) :
    s.runDrawer fn op F = ((s.popTaken fn).respond fn t st body).takeAll fn := by
  simp [State.runDrawer, h, hk]
@[simp] theorem guarded_nil (k : Verdict) : guarded [] k = k := rfl
@[simp] theorem guarded_cons (c : Bool) (st : Nat) (l : List (Bool × Nat)) (k : Verdict) :
    guarded ((c, st) :: l) k = if c then .no st else guarded l k := by
  cases c <;> rfl

theorem drawer_ex {s v : State} {fn op : Nat} {t : Taken} {body : Bytes} {F : Taken → State → Verdict} {P : State → Prop} (h : s.front fn op = some t)
    (hk : F t (s.popTaken fn) = .done body v) (hf : t.fits body = true) (hp : P v) :
    ∃ v, Host.Outcome.next (φ := Fault) (ρ := Refusal) (s.runDrawer fn op F) = Host.Outcome.next (s.served fn t body fun _ => v) ∧ P v :=
  ⟨v, congrArg _ (State.runDrawer_done h hk hf), hp⟩
theorem drawer_exl {s v : State} {fn op : Nat} {t : Taken} {F : Taken → State → Verdict} {P : State → Prop} (h : s.front fn op = some t)
    (hk : F t (s.popTaken fn) = .long v) (hp : P v) :
    ∃ v : State, Host.Outcome.next (φ := Fault) (ρ := Refusal) (s.runDrawer fn op F) = Host.Outcome.next (v.takeAll fn) ∧ P v :=
  ⟨v, congrArg _ (State.runDrawer_long h hk), hp⟩
theorem fillSlot_val (i a v) (s : State) : (s.fillSlot i a v).slotVal i = v := by
  simp [State.fillSlot, State.slotVal, BitVec.xor_assoc]
theorem drawer_ex2 {s v : State} {fn op : Nat} {t : Taken} {body : Bytes} {F : Taken → State → Verdict} {P : State → Bytes → Prop} (h : s.front fn op = some t)
    (hk : F t (s.popTaken fn) = .done body v) (hf : t.fits body = true) (hp : P v body) :
    ∃ v body, Host.Outcome.next (φ := Fault) (ρ := Refusal) (s.runDrawer fn op F) = Host.Outcome.next (s.served fn t body fun _ => v) ∧ P v body :=
  ⟨v, body, congrArg _ (State.runDrawer_done h hk hf), hp⟩
theorem evFn_len (m c d) (s : State) : (s.evFn m c d).fns.length = s.fns.length := by unfold State.evFn; split <;> simp
theorem evPf_len (c d) (s : State) : (s.evPf c d).fns.length = s.fns.length := evFn_len ..
theorem destroySlot_len (m w) (s : State) : (s.destroySlot m w).fns.length = s.fns.length := by
  unfold State.destroySlot; dsimp only; repeat' split
  all_goals simp [evPf_len, evFn_len]
theorem endSession_len (m w) (s : State) : (s.endSession m w).fns.length = s.fns.length := by
  unfold State.endSession; dsimp only; split
  · simp [List.foldl, destroySlot_len]
  · rfl
theorem popFn {α : Type} (f : Fn → α) (hf : ∀ x l, f { x with taken := l } = f x) (m n : Nat) (s : State) : f ((s.popTaken m).fn n) = f (s.fn n) := by
  simp only [State.popTaken, State.modFn, State.fn, List.getD_eq_getElem?_getD, List.getElem?_modify]
  cases h : s.fns[n]? <;> simp; split <;> simp [hf]
theorem popPresent (m n : Nat) (s : State) : ((s.popTaken m).fn n).present = (s.fn n).present := popFn _ (fun _ _ => rfl) m n s
theorem popShare (m n : Nat) (s : State) : ((s.popTaken m).fn n).hostShare = (s.fn n).hostShare := popFn _ (fun _ _ => rfl) m n s
/-- a projection of functions that raising an event keeps -/
theorem raise_keep {α : Type} (π : Fn → α) (h : ∀ (f : Fn) n e, π { f with eventCount := n, events := e } = π f) (c ch d) (f : Fn) : π (f.raise c ch d) = π f := by
  unfold Fn.raise; dsimp only; split
  · exact h ..
  · exact h f _ f.events
theorem modFn_keep {α : Type} (π : Fn → α) (m n : Nat) (g : Fn → Fn) (s : State) (h : ∀ f, π (g f) = π f) : π ((s.modFn m g).fn n) = π (s.fn n) := by
  simp only [State.modFn, State.fn, List.getD_eq_getElem?_getD, List.getElem?_modify]
  cases s.fns[n]? <;> simp; split <;> simp [h]
theorem evFn_keep {α : Type} (π : Fn → α) (h : ∀ (f : Fn) n e, π { f with eventCount := n, events := e } = π f) (m c d n) (s : State) : π ((s.evFn m c d).fn n) = π (s.fn n) := by
  unfold State.evFn; split
  · exact modFn_keep π _ _ _ _ (fun f => raise_keep π h ..)
  · rfl
theorem evMgmt_fn (c d n) (s : State) : (s.evMgmt c d).fn n = s.fn n := by simp
theorem destroySlot_keep {α : Type} (π : Fn → α) (h : ∀ (f : Fn) n e, π { f with eventCount := n, events := e } = π f) (i w n) (s : State) : π ((s.destroySlot i w).fn n) = π (s.fn n) := by
  unfold State.destroySlot; dsimp only; repeat' split
  · rw [State.evPf, evFn_keep π h, evFn_keep π h]; rfl
  · rw [evMgmt_fn, State.evPf, evFn_keep π h]; rfl
  · rfl
theorem endSession_keep {α : Type} (π : Fn → α) (h : ∀ (f : Fn) n e, π { f with eventCount := n, events := e } = π f)
    (h2 : ∀ (f : Fn) b, π { f with session := false, bounce := b } = π f) (m w n) (s : State) : π ((s.endSession m w).fn n) = π (s.fn n) := by
  unfold State.endSession; dsimp only; split
  · simp only [List.foldl, State.modParcel_fn]
    rw [destroySlot_keep π h, destroySlot_keep π h, destroySlot_keep π h, destroySlot_keep π h, modFn_keep π _ _ _ _ (fun f => h2 ..)]
  · rfl
theorem endSession_session (m w) (s : State) (hm : m < s.fns.length) : ((s.endSession m w).fn m).session = false := by
  unfold State.endSession; dsimp only; split
  · simp only [List.foldl, State.modParcel_fn]
    rw [destroySlot_keep Fn.session (fun _ _ _ => rfl), destroySlot_keep Fn.session (fun _ _ _ => rfl), destroySlot_keep Fn.session (fun _ _ _ => rfl), destroySlot_keep Fn.session (fun _ _ _ => rfl), State.modFn_fn hm]
  · simp_all
theorem endSession_session_ne (m w n) (s : State) (hm : n ≠ m) : ((s.endSession m w).fn n).session = (s.fn n).session := by
  unfold State.endSession; dsimp only; split
  · simp only [List.foldl, State.modParcel_fn]
    rw [destroySlot_keep Fn.session (fun _ _ _ => rfl), destroySlot_keep Fn.session (fun _ _ _ => rfl), destroySlot_keep Fn.session (fun _ _ _ => rfl), destroySlot_keep Fn.session (fun _ _ _ => rfl), State.modFn_fn_ne hm]
  · rfl

end Sys2Proof.Machine
end

