-- ==== Sys2Proof/Laws/ConnRecords.lean ====
section
/-! SUPPORT. What the operations of a connection leave of the connection records. -/

set_option linter.unusedTactic false
set_option linter.unreachableTactic false
set_option linter.unusedVariables false
set_option linter.unusedSimpArgs false
set_option Elab.async false

namespace Sys2Proof.Machine

/-- A change of one record. -/
theorem State.modConn_look (id n : Nat) (g : Conn → Conn) (s : State) :
    (s.modConn id g).conn? n = if n = id then (s.conn? n).map g else s.conn? n := by
  unfold State.modConn State.conn?
  split
  · rename_i k e
    show tget n (tset id (g k) s.fabric.conns) = _
    split
    · rename_i h; subst h; simp [e]
    · rename_i h; exact tget_tset_ne _ _ h
  · rename_i e; split
    · rename_i h; subst h; simp [e]
    · rfl

theorem State.conn_of {id : Nat} {k : Conn} {s : State} (h : s.conn? id = some k) : s.conn id = k := by
  simp only [State.conn?] at h; simp [State.conn, h]

theorem look_of_fabric {s t : State} (h : t.fabric.conns = s.fabric.conns) (n : Nat) : t.conn? n = s.conn? n := by simp [State.conn?, h]

/-- A record that is used last. -/
theorem State.touchConn_look (id n : Nat) (s : State) :
    (s.touchConn id).conn? n = if n = id then (s.conn? n).map fun k => { k with lastUse := s.fabric.useCount + 1 } else s.conn? n :=
  State.modConn_look ..

theorem State.heard_look {id : Nat} {k : Conn} {s : State} (h : s.conn? id = some k) :
    ∃ n, (s.heard id).conn? id = some { k with lastChain := s.now, lastUse := n } := by
  refine ⟨(s.modConn id fun k => { k with lastChain := s.now }).fabric.useCount + 1, ?_⟩
  rw [State.heard, State.touchConn_look, if_pos rfl, State.modConn_look, if_pos rfl, h]; rfl

theorem State.toStation_conns (m : Msg) (s : State) : (s.toStation m).fabric.conns = s.fabric.conns := by
  unfold State.toStation; split <;> rfl

@[simp] theorem State.toStation_parcels (m : Msg) (s : State) : (s.toStation m).parcels = s.parcels := by
  unfold State.toStation; split <;> rfl
@[simp] theorem State.toStation_clusters (m : Msg) (s : State) : (s.toStation m).clusters = s.clusters := by
  unfold State.toStation; split <;> rfl
@[simp] theorem State.toStation_boot (m : Msg) (s : State) : (s.toStation m).boot = s.boot := by
  unfold State.toStation; split <;> rfl
@[simp] theorem State.toStation_eases (m : Msg) (s : State) : (s.toStation m).fabric.eases = s.fabric.eases := by
  unfold State.toStation; split <;> rfl
@[simp] theorem State.toStation_chest (m : Msg) (s : State) : (s.toStation m).chest = s.chest := by
  unfold State.toStation; split <;> rfl

@[simp] theorem State.refuse_parcels (m : Msg) (c : Nat) (s : State) : (s.refuse m c).parcels = s.parcels := by
  unfold State.refuse; dsimp only; repeat' split
  all_goals simp
@[simp] theorem State.refuse_clusters (m : Msg) (c : Nat) (s : State) : (s.refuse m c).clusters = s.clusters := by
  unfold State.refuse; dsimp only; repeat' split
  all_goals simp
theorem State.refuse_conns (m : Msg) (c : Nat) (s : State) : (s.refuse m c).fabric.conns = s.fabric.conns := by
  unfold State.refuse; dsimp only; repeat' split
  all_goals simp [State.toStation_conns]

theorem State.evFn_conns (n c : Nat) (d : List Nat) (s : State) : (s.evFn n c d).fabric.conns = s.fabric.conns := by simp
theorem State.evPf_conns (c : Nat) (d : List Nat) (s : State) : (s.evPf c d).fabric.conns = s.fabric.conns := by simp

theorem foldl_fabric {α : Type} {g : State → α → State} {l : List α} (h : ∀ t x, (g t x).fabric = t.fabric) : ∀ s : State, (l.foldl g s).fabric = s.fabric := by
  induction l with
  | nil => intro _; rfl
  | cons x l ih => intro s; exact (ih _).trans (h s x)
theorem State.endRoundOnly_fabric (p c o : Nat) (s : State) : (s.endRoundOnly p c o).fabric = s.fabric := by
  unfold State.endRoundOnly; dsimp only; repeat' split
  all_goals first | rfl | simp [State.evRoundClosed]
theorem State.endRound_fabric (p c o : Nat) (s : State) : (s.endRound p c o).fabric = s.fabric := by
  unfold State.endRound; dsimp only; repeat' split
  all_goals first | rfl | simp [State.endRoundOnly_fabric]
theorem State.groupLoss_fabric (p a b : Nat) (s : State) : (s.groupLoss p a b).fabric = s.fabric := by
  unfold State.groupLoss
  refine foldl_fabric (fun t c => ?_) s
  unfold State.loseMember; repeat' split
  all_goals first | rfl | simp [State.endRound_fabric]
/-- A state change sets the connection's state and nothing else of any record. -/
theorem State.setConnState_look (id v n : Nat) (why : ConnCause) (s : State) :
    (s.setConnState id v why).conn? n = (s.modConn id fun k => { k with state := v }).conn? n := by
  unfold State.setConnState; dsimp only; split
  · rename_i e
    rw [State.modConn_look]; split
    · rename_i h; subst h
      cases h : s.conn? n with
      | none => rfl
      | some k => rw [State.conn_of h] at e; subst e; rfl
    · rfl
  · refine look_of_fabric ?_ n
    split <;> split <;> simp [State.groupLoss_fabric]
end Sys2Proof.Machine
end

