-- ==== Sys2Proof/Laws/Sound.lean ====
section
/-! SUPPORT. The base of the soundness laws: the parts of the state on which soundness and the life cycle rest, and what the elementary updates do to
them. Every operation's law has one form: from a good state it gives a good state, in the same life cycle. -/

set_option linter.unusedTactic false
set_option linter.unreachableTactic false
set_option linter.unusedVariables false
set_option linter.unusedSimpArgs false
set_option Elab.async false

namespace Sys2Proof.Machine

/-- The parts of a state that its soundness and its life cycle rest on. -/
structure View where
  life : Nat
  fns : List Fn
  parcels : List Parcel
  clusters : List Cluster
  links : Nat
  conns : Tbl Conn
  eases : Tbl Ease
  slots : Tbl SlotCell
  queue : List Bytes
  records : List MeterRec
  tls : List Nat
  imgA : Memory
  imgB : Memory

/-- The parts of a state. -/
def State.view (s : State) : View :=
  ⟨s.flash.lifecycle, s.fns, s.parcels, s.clusters, s.links.length, s.fabric.conns, s.fabric.eases, s.chest.slots, s.smbus.queue, s.power.records,
    s.mgmt.tls, s.flash.fwA.image, s.flash.fwB.image⟩

/-- Sound parts in life cycle `l`. -/
structure View.Good (l : Nat) (v : View) : Prop where
  life : v.life = l
  fns17 : v.fns.length = 17
  fns : ∀ f ∈ v.fns, f.bounded
  parcels16 : v.parcels.length = 16
  parcels : ∀ q ∈ v.parcels, q.canonical
  clusters64 : v.clusters.length = 64
  clusters : ∀ k ∈ v.clusters, k.canonical
  links48 : v.links = 48
  conns : rising v.conns = true
  eases : rising v.eases = true
  slots : rising v.slots = true
  queue : v.queue.length ≤ 64
  records : v.records.length ≤ 1024
  tlsNodup : v.tls.Nodup
  tls : ∀ k ∈ v.tls, k < 4
  imgA : Memory.wf true v.imgA = true
  imgB : Memory.wf true v.imgB = true

/-- A sound state in life cycle `l`. -/
def Good (l : Nat) (s : State) : Prop := s.view.Good l

theorem good_iff (l : Nat) (s : State) : Good l s ↔ s.flash.lifecycle = l ∧ s.Sound := by
  constructor
  · intro h
    have ht : s.mgmt.tls.length ≤ 4 := by
      have := (List.subperm_of_subset h.tlsNodup (l₂ := List.range 4) fun k hk => List.mem_range.2 (h.tls k hk)).length_le
      rw [List.length_range] at this
      exact this
    exact ⟨h.life, ⟨h.fns17, h.parcels16, h.clusters64, h.links48⟩, ⟨h.fns, h.queue, h.records, ht⟩,
      ⟨h.parcels, h.clusters, h.conns, h.eases, h.slots, h.imgA, h.imgB⟩, ⟨h.tlsNodup, h.tls⟩⟩
  · rintro ⟨hl, ⟨u1, u2, u3, u4⟩, ⟨b1, b2, b3, -⟩, ⟨c1, c2, c3, c4, c5, c6, c7⟩, ⟨t1, t2⟩⟩
    exact ⟨hl, u1, b1, u2, c1, u3, c2, u4, c3, c4, c5, b2, b3, t1, t2, c6, c7⟩

/-- Soundness rests on the parts of a state alone. -/
theorem Good.of_view {l : Nat} {s t : State} (h : Good l s) (hv : t.view = s.view) : Good l t := by
  unfold Good at *
  rwa [hv]

/-- A good state is used through its soundness alone. -/
theorem good_elim {l : Nat} {a : State} {P : Prop} (h : Good l a) (hp : ∀ t, Good l t → t = a → P) : P := hp a h rfl
theorem canonical_elim {a : Cluster} {P : Prop} (h : a.canonical) (hp : ∀ t, t.canonical → t = a → P) : P := hp a h rfl
theorem parcel_elim {a : Parcel} {P : Prop} (h : a.canonical) (hp : ∀ t, t.canonical → t = a → P) : P := hp a h rfl
theorem bounded_elim {a : Fn} {P : Prop} (h : a.bounded) (hp : ∀ t, t.bounded → t = a → P) : P := hp a h rfl

/-! Lists. -/

theorem length_modify_eq {α : Type} {n i : Nat} {g : α → α} {x : List α} (h : x.length = n) : (x.modify i g).length = n := by simpa using h
theorem length_set_eq {α : Type} {n i : Nat} {a : α} {x : List α} (h : x.length = n) : (x.set i a).length = n := by simpa using h
theorem length_map_eq {α β : Type} {n : Nat} {g : α → β} {x : List α} (h : x.length = n) : (x.map g).length = n := by simpa using h


theorem forall_modify {α : Type} {P : α → Prop} {g : α → α} {n : Nat} {l : List α} (h : ∀ x ∈ l, P x) (hg : ∀ x, P x → P (g x)) :
    ∀ x ∈ l.modify n g, P x := by
  induction l generalizing n with
  | nil => simp
  | cons a r ih =>
    cases n with
    | zero =>
      intro x hx
      simp only [List.modify_zero_cons, List.mem_cons] at hx
      rcases hx with rfl | hx
      · exact hg _ (h a (by simp))
      · exact h x (by simp [hx])
    | succ n =>
      intro x hx
      simp only [List.modify_succ_cons, List.mem_cons] at hx
      rcases hx with rfl | hx
      · exact h _ (by simp)
      · exact ih (fun y hy => h y (by simp [hy])) x hx

theorem forall_mapIdx {α : Type} {P : α → Prop} {g : Nat → α → α} {l : List α} (h : ∀ x ∈ l, P x) (hg : ∀ n x, P x → P (g n x)) :
    ∀ x ∈ l.mapIdx g, P x := by
  intro x hx
  obtain ⟨i, hi, rfl⟩ := List.mem_mapIdx.1 hx
  exact hg _ _ (h _ (List.getElem_mem hi))

theorem forall_map {α : Type} {P : α → Prop} {g : α → α} {l : List α} (h : ∀ x ∈ l, P x) (hg : ∀ x, P x → P (g x)) :
    ∀ x ∈ l.map g, P x := by
  intro x hx
  obtain ⟨y, hy, rfl⟩ := List.mem_map.1 hx
  exact hg _ (h y hy)

theorem forall_getD {α : Type} {P : α → Prop} {l : List α} {n : Nat} {d : α} (h : ∀ x ∈ l, P x) (hd : P d) : P (l.getD n d) := by
  rw [List.getD_eq_getElem?_getD]
  cases hn : l[n]? with
  | none => simpa using hd
  | some x => simpa using h x (List.mem_of_getElem? hn)

/-! The elementary updates. -/

variable {l : Nat} {s : State}

theorem Fn.bounded_reset : Fn.reset.bounded := ⟨by decide, by decide⟩
theorem Parcel.canonical_reset : Parcel.reset.canonical := ⟨rfl, rfl⟩
theorem Cluster.canonical_reset : Cluster.reset.canonical := by
  refine ⟨rfl, rfl, by simp [Cluster.reset], rfl, rfl, rfl⟩

theorem Fn.bounded_intro {f : Fn} (h1 : f.unanswered ≤ 64) (h2 : f.events.length ≤ 256) : f.bounded := ⟨h1, h2⟩
theorem Parcel.canonical_intro {q : Parcel} (h1 : rising q.mem = true) (h2 : q.contexts.length = 8) : q.canonical := ⟨h1, h2⟩
theorem Cluster.canonical_intro {k : Cluster} (h1 : Memory.wf true k.scratch = true) (h2 : rising k.benches = true)
    (h3 : ∀ x ∈ k.benches, Memory.wf true x.2 = true) (h4 : rising k.rows = true) (h5 : rising k.stakes = true) (h6 : k.leaves.length = 2) :
    k.canonical := ⟨h1, h2, h3, h4, h5, h6⟩

theorem State.fn_bounded (h : Good l s) (n : Nat) : (s.fn n).bounded := forall_getD h.fns Fn.bounded_reset
theorem State.parcel_canonical (h : Good l s) (p : Nat) : (s.parcel p).canonical := forall_getD h.parcels Parcel.canonical_reset
theorem State.cluster_canonical (h : Good l s) (c : Nat) : (s.cluster c).canonical := forall_getD h.clusters Cluster.canonical_reset
theorem State.lead_canonical (h : Good l s) (p k : Nat) : (s.lead p k).canonical := by
  unfold State.lead
  split
  · exact State.cluster_canonical h _
  · exact Cluster.canonical_reset

/-- Replace the function table. -/
theorem good_fns {x : List Fn} (h : Good l s) (hn : x.length = s.fns.length) (hx : ∀ f ∈ x, f.bounded) : Good l { s with fns := x } := by
  have h : View.Good l s.view := h
  exact { h with fns17 := hn.trans h.fns17, fns := hx }

/-- Replace the parcels. -/
theorem good_parcels {x : List Parcel} (h : Good l s) (hn : x.length = s.parcels.length) (hx : ∀ q ∈ x, q.canonical) :
    Good l { s with parcels := x } := by
  have h : View.Good l s.view := h
  exact { h with parcels16 := hn.trans h.parcels16, parcels := hx }

/-- Replace the clusters. -/
theorem good_clusters {x : List Cluster} (h : Good l s) (hn : x.length = s.clusters.length) (hx : ∀ k ∈ x, k.canonical) :
    Good l { s with clusters := x } := by
  have h : View.Good l s.view := h
  exact { h with clusters64 := hn.trans h.clusters64, clusters := hx }

/-- Replace the links. -/
theorem good_links {x : List Link} (h : Good l s) (hn : x.length = s.links.length) : Good l { s with links := x } := by
  have h : View.Good l s.view := h
  exact { h with links48 := hn.trans h.links48 }

/-! Updates of one field of the state. -/

theorem good_pending {x : List Instr} (h : Good l s) : Good l { s with pending := x } := Good.of_view h rfl
theorem good_draws {x : Nat} (h : Good l s) : Good l { s with draws := x } := Good.of_view h rfl
theorem good_outbox {x : List Output} (h : Good l s) : Good l { s with outbox := x } := Good.of_view h rfl
theorem good_clock {x : Clock} (h : Good l s) : Good l { s with clock := x } := Good.of_view h rfl
theorem good_boot {x : Boot} (h : Good l s) : Good l { s with boot := x } := Good.of_view h rfl
theorem good_plat {x : Plat} (h : Good l s) : Good l { s with plat := x } := Good.of_view h rfl
theorem good_host {x : HostPort} (h : Good l s) : Good l { s with host := x } := Good.of_view h rfl
theorem good_marker {x : Marker} (h : Good l s) : Good l { s with marker := x } := Good.of_view h rfl
theorem good_entropy {x : Entropy} (h : Good l s) : Good l { s with entropy := x } := Good.of_view h rfl
theorem good_faults {x : FaultSt} (h : Good l s) : Good l { s with faults := x } := Good.of_view h rfl
theorem good_longs {x : List LongCmd} (h : Good l s) : Good l { s with longs := x } := Good.of_view h rfl

theorem good_fabric {x : Fabric} (h : Good l s) (h1 : rising x.conns = true) (h2 : rising x.eases = true) : Good l { s with fabric := x } := by
  have h : View.Good l s.view := h
  exact { h with conns := h1, eases := h2 }

theorem good_chest {x : Chest} (h : Good l s) (h1 : rising x.slots = true) : Good l { s with chest := x } := by
  have h : View.Good l s.view := h
  exact { h with slots := h1 }

theorem good_power {x : Power} (h : Good l s) (h1 : x.records.length ≤ 1024) : Good l { s with power := x } := by
  have h : View.Good l s.view := h
  exact { h with records := h1 }

theorem good_smbus {x : SmBus} (h : Good l s) (h1 : x.queue.length ≤ 64) : Good l { s with smbus := x } := by
  have h : View.Good l s.view := h
  exact { h with queue := h1 }

theorem good_mgmt {x : Mgmt} (h : Good l s) (h1 : x.tls.Nodup) (h2 : ∀ k ∈ x.tls, k < 4) : Good l { s with mgmt := x } := by
  have h : View.Good l s.view := h
  exact { h with tlsNodup := h1, tls := h2 }

theorem good_flash {x : Flash} (h : Good l s) (h1 : x.lifecycle = l) (h2 : Memory.wf true x.fwA.image = true)
    (h3 : Memory.wf true x.fwB.image = true) : Good l { s with flash := x } := by
  have h : View.Good l s.view := h
  exact { h with life := h1, imgA := h2, imgB := h3 }

theorem Good.conns (h : Good l s) : rising s.fabric.conns = true := View.Good.conns h
theorem Good.eases (h : Good l s) : rising s.fabric.eases = true := View.Good.eases h
theorem Good.slots (h : Good l s) : rising s.chest.slots = true := View.Good.slots h
theorem Good.records (h : Good l s) : s.power.records.length ≤ 1024 := View.Good.records h
theorem Good.queue (h : Good l s) : s.smbus.queue.length ≤ 64 := View.Good.queue h
theorem Good.tlsNodup (h : Good l s) : s.mgmt.tls.Nodup := View.Good.tlsNodup h
theorem Good.tls (h : Good l s) : ∀ k ∈ s.mgmt.tls, k < 4 := View.Good.tls h
theorem Good.life (h : Good l s) : s.flash.lifecycle = l := View.Good.life h
theorem Good.imgA (h : Good l s) : Memory.wf true s.flash.fwA.image = true := View.Good.imgA h
theorem Good.imgB (h : Good l s) : Memory.wf true s.flash.fwB.image = true := View.Good.imgB h

theorem good_modFn {n : Nat} {g : Fn → Fn} (h : Good l s) (hg : ∀ f, f.bounded → (g f).bounded) : Good l (s.modFn n g) :=
  good_fns h (by simp) (forall_modify h.fns hg)

theorem good_modParcel {n : Nat} {g : Parcel → Parcel} (h : Good l s) (hg : ∀ f, f.canonical → (g f).canonical) : Good l (s.modParcel n g) :=
  good_parcels h (by simp) (forall_modify h.parcels hg)

theorem good_modCluster {n : Nat} {g : Cluster → Cluster} (h : Good l s) (hg : ∀ f, f.canonical → (g f).canonical) : Good l (s.modCluster n g) :=
  good_clusters h (by simp) (forall_modify h.clusters hg)

theorem good_modLink {n : Nat} {g : Link → Link} (h : Good l s) : Good l (s.modLink n g) := good_links h (by simp)

theorem canonical_modCtx {c : Nat} {g : Context → Context} {q : Parcel} (h : q.canonical) : (q.modCtx c g).canonical :=
  ⟨h.1, by simpa [Parcel.modCtx] using h.2⟩

theorem good_modCtx {p c : Nat} {g : Context → Context} (h : Good l s) : Good l (s.modCtx p c g) :=
  good_modParcel h fun _ hq => canonical_modCtx hq

theorem good_putConn {id : Nat} {k : Conn} (h : Good l s) : Good l (s.putConn id k) := by
  have h : View.Good l s.view := h
  exact { h with conns := rising_tset h.conns }

theorem good_putEase {id : Nat} {e : Ease} (h : Good l s) : Good l (s.putEase id e) := by
  have h : View.Good l s.view := h
  exact { h with eases := rising_tset h.eases }

theorem good_modConn {id : Nat} {g : Conn → Conn} (h : Good l s) : Good l (s.modConn id g) := by
  unfold State.modConn
  split
  · exact good_putConn h
  · exact h

/-- A fold of operations each of which keeps soundness. -/
theorem good_foldl {α : Type} {f : State → α → State} {x : List α} (h : Good l s) (hf : ∀ t a, Good l t → Good l (f t a)) :
    Good l (x.foldl f s) := by
  induction x generalizing s with
  | nil => exact h
  | cons a r ih => exact ih (hf s a h)

theorem good_modClusters {x : List Nat} {g : Cluster → Cluster} (h : Good l s) (hg : ∀ f, f.canonical → (g f).canonical) : Good l (s.modClusters x g) :=
  good_foldl h fun _ _ ht => good_modCluster ht hg

theorem good_modLogical {p k : Nat} {g : Cluster → Cluster} (h : Good l s) (hg : ∀ f, f.canonical → (g f).canonical) : Good l (s.modLogical p k g) :=
  good_modClusters h hg

/-- A fold of changes of one cluster each of which keeps its canonical form. -/
theorem canonical_foldl {α : Type} {f : Cluster → α → Cluster} {k : Cluster} {x : List α} (h : k.canonical)
    (hf : ∀ t a, t.canonical → (f t a).canonical) : (x.foldl f k).canonical := by
  induction x generalizing k with
  | nil => exact h
  | cons a r ih => exact ih (hf k a h)

/-- What waits for the SMBus keeps its bound (R330). -/
theorem hold_le (b : Bytes) (k : SmBus) : (k.hold b).queue.length ≤ 64 := by
  simp only [SmBus.hold, List.length_drop]
  omega

/-- What a store of a canonical cluster holds is in canonical form; so is a store of which nothing is listed. -/
theorem wf_store {t : Tbl Memory} {n : Nat} (h : ∀ x ∈ t, Memory.wf true x.2 = true) : Memory.wf true ((tget n t).getD []) = true := by
  cases hn : tget n t with
  | none => rfl
  | some m => exact h (n, m) (mem_of_tget hn)

/-- Every state that a verdict carries is good. -/
structure Verdict.Good (l : Nat) (v : Verdict) : Prop where
  done : ∀ b s, v = .done b s → Machine.Good l s
  long : ∀ s, v = .long s → Machine.Good l s

theorem Verdict.good_done {l : Nat} {b : Bytes} {s : State} (h : Machine.Good l s) : (Verdict.done b s).Good l :=
  ⟨fun _ _ e => (Verdict.done.inj e).2 ▸ h, fun _ e => nomatch e⟩
theorem Verdict.good_long {l : Nat} {s : State} (h : Machine.Good l s) : (Verdict.long s).Good l :=
  ⟨fun _ _ e => (nomatch e), fun _ e => Verdict.long.inj e ▸ h⟩
theorem Verdict.good_refuse {l st : Nat} {b : Bytes} : (Verdict.refuse st b).Good l := ⟨fun _ _ e => (nomatch e), fun _ e => nomatch e⟩
theorem Verdict.good_wait {l : Nat} : Verdict.wait.Good l := ⟨fun _ _ e => (nomatch e), fun _ e => nomatch e⟩
theorem Verdict.good_no {l st : Nat} : (Verdict.no st).Good l := ⟨fun _ _ e => (nomatch e), fun _ e => nomatch e⟩

/-- A sound state whose life cycle is `l`, or has left `l` by a transition of Table 10.3. -/
def Moved (l : Nat) (s : State) : Prop := ∃ k, (k = l ∨ lifeMay l k) ∧ Good k s

theorem Good.moved {l : Nat} {s : State} (h : Good l s) : Moved l s := ⟨l, .inl rfl, h⟩

/-- Every state that a verdict carries is sound and has moved by Table 10.3 if at all. -/
structure Verdict.Moved (l : Nat) (v : Verdict) : Prop where
  done : ∀ b s, v = .done b s → Machine.Moved l s
  long : ∀ s, v = .long s → Machine.Moved l s

theorem Verdict.moved_done {l : Nat} {b : Bytes} {s : State} (h : Machine.Moved l s) : (Verdict.done b s).Moved l :=
  ⟨fun _ _ e => (Verdict.done.inj e).2 ▸ h, fun _ e => nomatch e⟩
theorem Verdict.moved_no {l st : Nat} : (Verdict.no st).Moved l := ⟨fun _ _ e => (nomatch e), fun _ e => nomatch e⟩

/-- What a command answers is sound, and its life cycle has moved by Table 10.3 if at all. -/
structure MovedOut (l : Nat) (o : Host.Outcome State Fault Refusal) : Prop where
  next : ∀ t, o = .next t → Moved l t

/-- What a command answers is good. -/
structure GoodOut (l : Nat) (o : Host.Outcome State Fault Refusal) : Prop where
  next : ∀ t, o = .next t → Good l t

theorem goodOut_next {l : Nat} {t : State} (h : Good l t) : GoodOut l (.next t) := ⟨fun _ e => Host.Outcome.next.inj e ▸ h⟩
theorem movedOut_next {l : Nat} {t : State} (h : Moved l t) : MovedOut l (.next t) := ⟨fun _ e => Host.Outcome.next.inj e ▸ h⟩
theorem GoodOut.moved {l : Nat} {o : Host.Outcome State Fault Refusal} (h : GoodOut l o) : MovedOut l o := ⟨fun t e => (h.next t e).moved⟩
theorem goodOut_fault {l : Nat} {r : Fault} : GoodOut l (.fault r) := ⟨fun _ e => nomatch e⟩

end Sys2Proof.Machine
end

