-- ==== Sys2Proof/Laws/SoundOps.lean ====
section
/-! SUPPORT. Every operation of Machine/Ops.lean keeps soundness and the life cycle. -/

set_option linter.unusedTactic false
set_option linter.unreachableTactic false
set_option linter.unusedVariables false
set_option linter.unusedSimpArgs false
set_option Elab.async false

namespace Sys2Proof.Machine

theorem State.emit_good {lc : Nat} (o : Output) (s : State) (hs : Good lc s) :
    Good lc (State.emit o s) := by
  unfold State.emit
  repeat' first | (refine Good.of_view hs ?_; dsimp only [State.view]; done)

theorem State.drawn_good {lc : Nat} (s : State) (hs : Good lc s) :
    Good lc (State.drawn s) := by
  unfold State.drawn
  repeat' first | (refine Good.of_view hs ?_; dsimp only [State.view]; done)

theorem State.drawMany_good {lc : Nat} (n : Nat) (s : State) (hs : Good lc s) :
    Good lc (State.drawMany n s) := by
  unfold State.drawMany
  repeat' first | (refine Good.of_view hs ?_; dsimp only [State.view]; done)

theorem State.drawnMany_good {lc : Nat} (n : Nat) (s : State) (hs : Good lc s) :
    Good lc (State.drawnMany n s) := by
  unfold State.drawnMany
  repeat' first | (refine Good.of_view hs ?_; dsimp only [State.view]; done)

theorem Fn.raise_good (code chain : Nat) (data : List Nat) (f : Fn) (hf : f.bounded) :
    (Fn.raise code chain data f).bounded := by
  unfold Fn.raise
  repeat' first
    | with_reducible refine fun _ => ?_ | with_reducible assumption
    | exact ⟨hf.1, by rw [List.length_append]; show f.events.length + 1 ≤ 256; omega⟩ | split | assumption

theorem State.evFn_good {lc : Nat} (n code : Nat) (data : List Nat) (s : State) (hs : Good lc s) :
    Good lc (State.evFn n code data s) := by
  unfold State.evFn
  repeat' first | with_reducible assumption | with_reducible apply good_modFn | with_reducible apply Fn.raise_good | split

theorem State.evPf_good {lc : Nat} (code : Nat) (data : List Nat) (s : State) (hs : Good lc s) :
    Good lc (State.evPf code data s) := by
  unfold State.evPf
  repeat' first | with_reducible assumption | with_reducible apply State.evFn_good

theorem State.evVf_good {lc : Nat} (p code : Nat) (data : List Nat) (s : State) (hs : Good lc s) :
    Good lc (State.evVf p code data s) := by
  unfold State.evVf
  repeat' first
    | with_reducible assumption | with_reducible apply State.evFn_good | with_reducible apply State.evPf_good | lift_lets -underBinder
    | (intro t; refine good_elim (l := lc) (a := t) ?_ ?_ <;> [skip; (intro t hh hu; rw [← hu]; clear hu)]) | split

theorem State.evBoth_good {lc : Nat} (p code : Nat) (data : List Nat) (s : State) (hs : Good lc s) :
    Good lc (State.evBoth p code data s) := by
  unfold State.evBoth
  repeat' first | with_reducible assumption | with_reducible apply State.evFn_good | with_reducible apply State.evPf_good

theorem State.sendEvent_good {lc : Nat} (code : Nat) (data : List Nat) (s : State) (hs : Good lc s) :
    Good lc (State.sendEvent code data s) := by
  unfold State.sendEvent
  repeat' first
    | with_reducible assumption | with_reducible apply State.emit_good | exact { (hh : View.Good lc t.view) with queue := hold_le _ _ }
    | lift_lets -underBinder | (intro t; refine good_elim (l := lc) (a := t) ?_ ?_ <;> [skip; (intro t hh hu; rw [← hu]; clear hu)]) | split

theorem State.evMgmt_good {lc : Nat} (code : Nat) (data : List Nat) (s : State) (hs : Good lc s) :
    Good lc (State.evMgmt code data s) := by
  unfold State.evMgmt
  repeat' first | with_reducible apply State.sendEvent_good | split | (refine Good.of_view hs ?_; dsimp only [State.view]; done)

theorem State.evOpen_good {lc : Nat} (code : Nat) (data : List Nat) (s : State) (hs : Good lc s) :
    Good lc (State.evOpen code data s) := by
  unfold State.evOpen
  repeat' first
    | with_reducible refine fun _ => ?_ | with_reducible assumption | with_reducible apply State.evFn_good | with_reducible apply good_foldl | split

theorem State.platPend_good {lc : Nat} (kind unitId v : Nat) (s : State) (hs : Good lc s) :
    Good lc (State.platPend kind unitId v s) := by
  unfold State.platPend
  repeat' first | (refine Good.of_view hs ?_; dsimp only [State.view]; done)

theorem Cluster.putRow_good (r : Nat) (w : Row) (k : Cluster) (hk : k.canonical) :
    (Cluster.putRow r w k).canonical := by
  unfold Cluster.putRow
  repeat' first
    | with_reducible refine fun _ => ?_ | with_reducible assumption | with_reducible apply good_foldl | with_reducible apply canonical_foldl | split
    | assumption | dsimp only | exact (‹Cluster.canonical _›).2.2.1 _ ‹_› | exact (‹Cluster.canonical _›).1 | exact (‹Cluster.canonical _›).2.1
    | exact (‹Cluster.canonical _›).2.2.2.1 | exact (‹Cluster.canonical _›).2.2.2.2.1 | exact (‹Cluster.canonical _›).2.2.2.2.2
    | with_reducible apply rising_tset | with_reducible apply Cluster.canonical_intro

theorem Cluster.dropRow_good (r : Nat) (k : Cluster) (hk : k.canonical) :
    (Cluster.dropRow r k).canonical := by
  unfold Cluster.dropRow
  repeat' first
    | with_reducible refine fun _ => ?_ | with_reducible assumption | with_reducible apply good_foldl | with_reducible apply canonical_foldl | split
    | assumption | dsimp only | exact (‹Cluster.canonical _›).2.2.1 _ ‹_› | exact (‹Cluster.canonical _›).1 | exact (‹Cluster.canonical _›).2.1
    | exact (‹Cluster.canonical _›).2.2.2.1 | exact (‹Cluster.canonical _›).2.2.2.2.1 | exact (‹Cluster.canonical _›).2.2.2.2.2
    | with_reducible apply rising_tdel | with_reducible apply Cluster.canonical_intro

theorem Cluster.dropRows_good (t : Nat → Row → Bool) (k : Cluster) (hk : k.canonical) :
    (Cluster.dropRows t k).canonical := by
  unfold Cluster.dropRows
  repeat' first
    | with_reducible refine fun _ => ?_ | with_reducible assumption | with_reducible apply Cluster.dropRow_good
    | with_reducible apply canonical_foldl | split

theorem Cluster.dropStores_good (k : Cluster) (hk : k.canonical) :
    (Cluster.dropStores k).canonical := by
  unfold Cluster.dropStores
  repeat' first
    | with_reducible refine fun _ => ?_ | with_reducible assumption | exact absurd ‹_ ∈ _› List.not_mem_nil | split | assumption | dsimp only
    | exact (‹Cluster.canonical _›).2.2.2.1 | exact (‹Cluster.canonical _›).2.2.2.2.1 | exact (‹Cluster.canonical _›).2.2.2.2.2 | rfl
    | with_reducible apply Cluster.canonical_intro

theorem State.signal_good {lc : Nat} (p i add : Nat) (s : State) (hs : Good lc s) :
    Good lc (State.signal p i add s) := by
  unfold State.signal
  repeat' first
    | with_reducible refine fun _ => ?_ | with_reducible assumption | with_reducible apply good_foldl | with_reducible apply canonical_foldl
    | with_reducible apply good_modClusters | with_reducible apply good_modLogical | with_reducible apply State.parcel_canonical | split
    | dsimp only | exact (‹Cluster.canonical _›).2.2.1 _ ‹_› | exact (‹Cluster.canonical _›).1 | exact (‹Cluster.canonical _›).2.1
    | exact (‹Cluster.canonical _›).2.2.2.1 | exact (‹Cluster.canonical _›).2.2.2.2.1 | exact (‹Cluster.canonical _›).2.2.2.2.2
    | with_reducible apply rising_tset | with_reducible apply Cluster.canonical_intro

theorem State.signalCtx_good {lc : Nat} (p c i add : Nat) (s : State) (hs : Good lc s) :
    Good lc (State.signalCtx p c i add s) := by
  unfold State.signalCtx
  repeat' first | with_reducible assumption | with_reducible apply State.signal_good | split

theorem State.allocStakes_good {lc : Nat} (p c : Nat) (l : List StakeDecl) (s : State) (hs : Good lc s) :
    Good lc (State.allocStakes p c l s) := by
  unfold State.allocStakes
  repeat' first
    | with_reducible refine fun _ => ?_ | with_reducible assumption | with_reducible apply good_foldl | with_reducible apply canonical_foldl
    | with_reducible apply good_modClusters | with_reducible apply good_modLogical | with_reducible apply State.parcel_canonical | split
    | dsimp only | exact (‹Cluster.canonical _›).2.2.1 _ ‹_› | exact (‹Cluster.canonical _›).1 | exact (‹Cluster.canonical _›).2.1
    | exact (‹Cluster.canonical _›).2.2.2.1 | exact (‹Cluster.canonical _›).2.2.2.2.1 | exact (‹Cluster.canonical _›).2.2.2.2.2
    | with_reducible apply rising_tset | with_reducible apply Cluster.canonical_intro

theorem State.freeStakes_good {lc : Nat} (p c : Nat) (s : State) (hs : Good lc s) :
    Good lc (State.freeStakes p c s) := by
  unfold State.freeStakes
  repeat' first
    | with_reducible refine fun _ => ?_ | with_reducible assumption | with_reducible apply good_modClusters
    | with_reducible apply State.parcel_canonical | split | dsimp only | exact (‹Cluster.canonical _›).2.2.1 _ ‹_› | exact (‹Cluster.canonical _›).1
    | exact (‹Cluster.canonical _›).2.1 | exact (‹Cluster.canonical _›).2.2.2.1 | exact (‹Cluster.canonical _›).2.2.2.2.1
    | exact (‹Cluster.canonical _›).2.2.2.2.2 | with_reducible apply rising_filter | with_reducible apply Cluster.canonical_intro

theorem State.raiseFault_good {lc : Nat} (w : BitVec 32) (s : State) (hs : Good lc s) :
    Good lc (State.raiseFault w s) := by
  unfold State.raiseFault
  repeat' first
    | with_reducible refine fun _ => ?_ | with_reducible assumption | with_reducible apply State.evFn_good | with_reducible apply State.evMgmt_good
    | with_reducible apply good_foldl | with_reducible apply canonical_foldl | with_reducible apply good_modFn | split | exact (‹Fn.bounded _›).1
    | exact (‹Fn.bounded _›).2 | with_reducible apply Fn.bounded_intro

theorem State.faultCtxWith_good {lc : Nat} (p c : Nat) (w : BitVec 32) (s : State) (hs : Good lc s) :
    Good lc (State.faultCtxWith p c w s) := by
  unfold State.faultCtxWith
  repeat' first | with_reducible assumption | with_reducible apply good_modCtx

theorem State.faultCtx_good {lc : Nat} (p c cause : Nat) (s : State) (hs : Good lc s) :
    Good lc (State.faultCtx p c cause s) := by
  unfold State.faultCtx
  repeat' first | with_reducible assumption | with_reducible apply State.faultCtxWith_good | with_reducible apply State.raiseFault_good | split

theorem State.fillSlot_good {lc : Nat} (i : Nat) (attr : BitVec 32) (v : BitVec 1024) (s : State) (hs : Good lc s) :
    Good lc (State.fillSlot i attr v s) := by
  unfold State.fillSlot
  repeat' first
    | with_reducible assumption | with_reducible apply State.drawn_good
    | exact { (hh : View.Good lc t.view) with slots := rising_tset (View.Good.slots hs) } | lift_lets -underBinder
    | (intro t; refine good_elim (l := lc) (a := t) ?_ ?_ <;> [skip; (intro t hh hu; rw [← hu]; clear hu)]) | (intro w)

theorem State.emptySlot_good {lc : Nat} (i : Nat) (s : State) (hs : Good lc s) :
    Good lc (State.emptySlot i s) := by
  unfold State.emptySlot
  repeat' first | exact { (hs : View.Good lc s.view) with slots := rising_tdel (View.Good.slots hs) }

theorem State.destroySlot_good {lc : Nat} (i : Nat) (why : KeyCause) (s : State) (hs : Good lc s) :
    Good lc (State.destroySlot i why s) := by
  unfold State.destroySlot
  repeat' first
    | with_reducible assumption | with_reducible apply State.emptySlot_good | with_reducible apply State.evFn_good
    | with_reducible apply State.evMgmt_good | with_reducible apply State.evPf_good | split

theorem State.endSession_good {lc : Nat} (n why : Nat) (s : State) (hs : Good lc s) :
    Good lc (State.endSession n why s) := by
  unfold State.endSession
  repeat' first
    | with_reducible refine fun _ => ?_ | with_reducible assumption | with_reducible apply State.destroySlot_good | with_reducible apply good_foldl
    | with_reducible apply canonical_foldl | with_reducible apply good_modFn | with_reducible apply good_modParcel
    | with_reducible apply State.fn_bounded | split | exact (‹Parcel.canonical _›).1 | exact (‹Parcel.canonical _›).2 | exact (‹Fn.bounded _›).1
    | exact (‹Fn.bounded _›).2 | with_reducible apply Parcel.canonical_intro | with_reducible apply Fn.bounded_intro

theorem State.setParcelState_good {lc : Nat} (p v why : Nat) (s : State) (hs : Good lc s) :
    Good lc (State.setParcelState p v why s) := by
  unfold State.setParcelState
  repeat' first
    | with_reducible refine fun _ => ?_ | with_reducible assumption | with_reducible apply State.evBoth_good | with_reducible apply good_modParcel
    | with_reducible apply State.parcel_canonical | split | exact (‹Parcel.canonical _›).1 | exact (‹Parcel.canonical _›).2
    | with_reducible apply Parcel.canonical_intro

theorem State.respond_good {lc : Nat} (n : Nat) (t : Taken) (status : Nat) (body : Bytes) (s : State) (hs : Good lc s) :
    Good lc (State.respond n t status body s) := by
  unfold State.respond
  repeat' first
    | with_reducible refine fun _ => ?_ | with_reducible assumption | with_reducible apply good_modFn
    | exact le_trans (Nat.sub_le _ _) (‹Fn.bounded _›).1 | split | dsimp only | exact (‹Fn.bounded _›).2 | with_reducible apply Fn.bounded_intro

theorem State.sendSmbus_good {lc : Nat} (o : Output) (b : Bytes) (s : State) (hs : Good lc s) :
    Good lc (State.sendSmbus o b s) := by
  unfold State.sendSmbus
  repeat' first
    | with_reducible assumption | with_reducible apply State.emit_good | exact { (hs : View.Good lc s.view) with queue := hold_le _ _ }
    | lift_lets -underBinder | (intro w) | split | with_reducible apply good_smbus | exact Good.queue ‹_›

theorem State.answerMgmt_good {lc : Nat} (m : MgmtMsg) (op status : Nat) (body : Bytes) (s : State) (hs : Good lc s) :
    Good lc (State.answerMgmt m op status body s) := by
  unfold State.answerMgmt
  repeat' first | with_reducible assumption | with_reducible apply State.emit_good | with_reducible apply State.sendSmbus_good | split

theorem State.dropHeld_good {lc : Nat} (p c : Nat) (s : State) (hs : Good lc s) :
    Good lc (State.dropHeld p c s) := by
  unfold State.dropHeld
  repeat' first | with_reducible assumption | with_reducible apply Cluster.dropRows_good | with_reducible apply good_modClusters

theorem State.endEngines_good {lc : Nat} (p c : Nat) (s : State) (hs : Good lc s) :
    Good lc (State.endEngines p c s) := by
  unfold State.endEngines
  repeat' first
    | with_reducible refine fun _ => ?_ | with_reducible assumption | with_reducible apply Cluster.dropStores_good
    | with_reducible apply good_modClusters | with_reducible apply good_modCtx | with_reducible apply canonical_modCtx
    | with_reducible apply State.parcel_canonical | lift_lets -underBinder
    | (intro t; refine good_elim (l := lc) (a := t) ?_ ?_ <;> [skip; (intro t hh hu; rw [← hu]; clear hu)])
    | (intro k; refine canonical_elim (a := k) ?_ ?_ <;> [skip; (intro k hk hu; rw [← hu]; clear hu)])
    | (intro k; refine parcel_elim (a := k) ?_ ?_ <;> [skip; (intro k hk hu; rw [← hu]; clear hu)])
    | (intro k; refine bounded_elim (a := k) ?_ ?_ <;> [skip; (intro k hk hu; rw [← hu]; clear hu)]) | (intro w) | dsimp only [t] | dsimp only [k]
    | split | dsimp +zetaDelta only | exact (‹Cluster.canonical _›).2.2.1 _ ‹_› | exact (‹Cluster.canonical _›).1
    | exact (‹Cluster.canonical _›).2.1 | exact (‹Cluster.canonical _›).2.2.2.1 | exact (‹Cluster.canonical _›).2.2.2.2.1
    | exact (‹Cluster.canonical _›).2.2.2.2.2 | with_reducible apply Cluster.canonical_intro

end Sys2Proof.Machine
end

