-- ==== Sys2Proof/Laws/SoundPort.lean ====
section
/-! SUPPORT. Every operation of Machine/Port.lean keeps soundness and the life cycle. -/

set_option linter.unusedTactic false
set_option linter.unreachableTactic false
set_option linter.unusedVariables false
set_option linter.unusedSimpArgs false
set_option Elab.async false

namespace Sys2Proof.Machine

theorem Fn.opened_good (f : Fn) (hf : f.bounded) :
    (Fn.opened f).bounded := by
  unfold Fn.opened
  repeat' first | assumption

theorem State.closeDrawer_good {lc : Nat} (n why : Nat) (s : State) (hs : Good lc s) :
    Good lc (State.closeDrawer n why s) := by
  unfold State.closeDrawer
  repeat' first
    | with_reducible refine fun _ => ?_ | with_reducible assumption | with_reducible apply State.endSession_good | with_reducible apply good_modFn
    | with_reducible apply State.fn_bounded | split | exact (‹Fn.bounded _›).1 | exact (‹Fn.bounded _›).2 | with_reducible apply Fn.bounded_intro

theorem State.openDrawer_good {lc : Nat} (n : Nat) (s : State) (hs : Good lc s) :
    Good lc (State.openDrawer n s) := by
  unfold State.openDrawer
  repeat' first
    | with_reducible refine fun _ => ?_ | with_reducible assumption | with_reducible apply good_modFn | with_reducible apply Fn.opened_good
    | with_reducible apply State.fn_bounded | split | exact (‹Fn.bounded _›).1 | exact (‹Fn.bounded _›).2 | with_reducible apply Fn.bounded_intro

theorem State.openHeldDrawers_good {lc : Nat} (s : State) (hs : Good lc s) : Good lc (State.openHeldDrawers s) := by
  unfold State.openHeldDrawers
  split
  · refine good_fns hs (by simp) (forall_map hs.fns fun f hf => ?_)
    split
    · exact Fn.opened_good f hf
    · exact hf
  · exact hs

theorem State.writeCtrl_good {lc : Nat} (n : Nat) (enable irqEn : Bool) (ring : Nat) (s : State) (hs : Good lc s) :
    Good lc (State.writeCtrl n enable irqEn ring s) := by
  unfold State.writeCtrl
  repeat' first
    | with_reducible refine fun _ => ?_
    | with_reducible assumption
    | with_reducible apply State.closeDrawer_good
    | with_reducible apply good_modFn
    | with_reducible apply State.openDrawer_good
    | lift_lets -underBinder
    | (intro t; refine good_elim (l := lc) (a := t) ?_ ?_ <;> [skip; (intro t hh hu; rw [← hu]; clear hu)])
    | (intro k; refine canonical_elim (a := k) ?_ ?_ <;> [skip; (intro k hk hu; rw [← hu]; clear hu)])
    | (intro k; refine parcel_elim (a := k) ?_ ?_ <;> [skip; (intro k hk hu; rw [← hu]; clear hu)])
    | (intro k; refine bounded_elim (a := k) ?_ ?_ <;> [skip; (intro k hk hu; rw [← hu]; clear hu)])
    | (intro w)
    | dsimp only [t]
    | dsimp only [k]
    | split
    | dsimp +zetaDelta only
    | (refine Good.of_view hh ?_; dsimp only [State.view]; done)
    | (refine Good.of_view hs ?_; dsimp only [State.view]; done)
    | (refine Good.of_view ‹Good lc _› ?_; dsimp only [State.view]; done)
    | dsimp only
    | exact (‹Cluster.canonical _›).2.2.1 _ ‹_›
    | exact (‹Cluster.canonical _›).1
    | exact (‹Cluster.canonical _›).2.1
    | exact (‹Cluster.canonical _›).2.2.1
    | exact (‹Cluster.canonical _›).2.2.2.1
    | exact (‹Cluster.canonical _›).2.2.2.2.1
    | exact (‹Cluster.canonical _›).2.2.2.2.2
    | exact (‹Parcel.canonical _›).1
    | exact (‹Parcel.canonical _›).2
    | exact (‹Fn.bounded _›).1
    | exact (‹Fn.bounded _›).2
    | with_reducible apply wf_write0
    | with_reducible apply rising_tset
    | with_reducible apply rising_tdel
    | with_reducible apply rising_filter
    | with_reducible apply length_modify_eq
    | with_reducible apply length_set_eq
    | with_reducible apply length_map_eq
    | rfl
    | with_reducible apply Cluster.canonical_intro
    | with_reducible apply Parcel.canonical_intro
    | with_reducible apply Fn.bounded_intro

theorem execDrawerOpen_good {lc : Nat} (fn : Nat) (irqEn : Bool) (ringLog2 : Nat) (s : State) (hs : Good lc s) :
    GoodOut lc (execDrawerOpen fn irqEn ringLog2 s) := by
  unfold execDrawerOpen
  repeat' first | with_reducible assumption | with_reducible apply State.writeCtrl_good | with_reducible apply goodOut_next | split

theorem execDrawerClose_good {lc : Nat} (fn : Nat) (irqEn : Bool) (ringLog2 : Nat) (s : State) (hs : Good lc s) :
    GoodOut lc (execDrawerClose fn irqEn ringLog2 s) := by
  unfold execDrawerClose
  repeat' first | with_reducible assumption | with_reducible apply State.writeCtrl_good | with_reducible apply goodOut_next | split

/-- Taking one slot keeps soundness while fewer than 64 commands are taken and not answered (R203). -/
theorem State.takeOne_good {lc : Nat} (n : Nat) (x : Slot) (s : State) (hs : Good lc s) (hn : (s.fn n).unanswered < 64) :
    Good lc (State.takeOne n x s) := by
  have h1 : Good lc (s.modFn n fun f => { f with reqHead := f.reqHead + 1, unanswered := f.unanswered + 1 }) := by
    refine good_fns hs (by simp) fun f hf => ?_
    obtain ⟨i, hi, rfl⟩ := List.mem_iff_getElem.1 hf
    have hi' : i < s.fns.length := by simpa using hi
    have hb : (s.fns[i]).bounded := hs.fns _ (List.getElem_mem hi')
    rw [List.getElem_modify]
    split
    · rename_i hni
      subst hni
      have hfn : s.fn n = s.fns[n] := by simp [State.fn, List.getD_eq_getElem?_getD, hi']
      rw [hfn] at hn
      exact ⟨by show _ + 1 ≤ 64; omega, hb.2⟩
    · exact hb
  have h2 : ∀ (v : Option Nat) (t : Taken) (u : State), Good lc u → Good lc (match v with
      | some st => u.respond n t st []
      | none => u.modFn n fun f => { f with taken := f.taken ++ [t] }) := by
    intro v t u hu
    cases v with
    | some st => exact State.respond_good _ _ _ _ _ hu
    | none => exact good_modFn hu fun f hf => hf
  unfold State.takeOne
  lift_lets
  intro _ _ _ _ _ u1 u2
  have h3 : Good lc u2 := h2 _ _ _ h1
  split
  · exact State.endSession_good _ _ _ h3
  · exact h3

theorem State.takeSlots_good {lc : Nat} (n k : Nat) (s : State) (hs : Good lc s) : Good lc (State.takeSlots n k s) := by
  induction k generalizing s with
  | zero => exact hs
  | succ k ih =>
    unfold State.takeSlots
    split
    · exact hs
    · split
      · rename_i x r hx hc
        refine ih _ (State.takeOne_good _ _ _ (good_modFn hs fun f hf => hf) ?_)
        simp only [Bool.and_eq_true, decide_eq_true_eq] at hc
        have hlt : n < s.fns.length := by
          by_contra hge
          rw [State.fn, List.getD_eq_default _ _ (by omega)] at hx
          cases hx
        have hfn : s.fn n = s.fns[n] := by simp [State.fn, List.getD_eq_getElem?_getD, hlt]
        have := hc.2
        rw [hfn] at this
        simpa [State.fn, State.modFn, List.getD_eq_getElem?_getD, hlt] using this
      · exact hs

theorem State.takeAll_good {lc : Nat} (n : Nat) (s : State) (hs : Good lc s) : Good lc (State.takeAll n s) :=
  State.takeSlots_good n 4096 s hs

theorem State.doorbell_good {lc : Nat} (n : Nat) (value : BitVec 32) (slots : List Slot) (s : State) (hs : Good lc s) :
    Good lc (State.doorbell n value slots s) := by
  unfold State.doorbell
  repeat' first
    | with_reducible refine fun _ => ?_
    | with_reducible assumption
    | with_reducible apply good_modFn
    | with_reducible apply State.takeAll_good
    | with_reducible apply State.fn_bounded
    | lift_lets -underBinder
    | (intro t; refine good_elim (l := lc) (a := t) ?_ ?_ <;> [skip; (intro t hh hu; rw [← hu]; clear hu)])
    | (intro k; refine canonical_elim (a := k) ?_ ?_ <;> [skip; (intro k hk hu; rw [← hu]; clear hu)])
    | (intro k; refine parcel_elim (a := k) ?_ ?_ <;> [skip; (intro k hk hu; rw [← hu]; clear hu)])
    | (intro k; refine bounded_elim (a := k) ?_ ?_ <;> [skip; (intro k hk hu; rw [← hu]; clear hu)])
    | (intro w)
    | dsimp only [t]
    | dsimp only [k]
    | split
    | dsimp +zetaDelta only
    | (refine Good.of_view hh ?_; dsimp only [State.view]; done)
    | (refine Good.of_view hs ?_; dsimp only [State.view]; done)
    | (refine Good.of_view ‹Good lc _› ?_; dsimp only [State.view]; done)
    | dsimp only
    | exact (‹Cluster.canonical _›).2.2.1 _ ‹_›
    | exact (‹Cluster.canonical _›).1
    | exact (‹Cluster.canonical _›).2.1
    | exact (‹Cluster.canonical _›).2.2.1
    | exact (‹Cluster.canonical _›).2.2.2.1
    | exact (‹Cluster.canonical _›).2.2.2.2.1
    | exact (‹Cluster.canonical _›).2.2.2.2.2
    | exact (‹Parcel.canonical _›).1
    | exact (‹Parcel.canonical _›).2
    | exact (‹Fn.bounded _›).1
    | exact (‹Fn.bounded _›).2
    | with_reducible apply wf_write0
    | with_reducible apply rising_tset
    | with_reducible apply rising_tdel
    | with_reducible apply rising_filter
    | with_reducible apply length_modify_eq
    | with_reducible apply length_set_eq
    | with_reducible apply length_map_eq
    | rfl
    | with_reducible apply Cluster.canonical_intro
    | with_reducible apply Parcel.canonical_intro
    | with_reducible apply Fn.bounded_intro

theorem execReqTailDoorbell_good {lc : Nat} (fn : Nat) (value : BitVec 32) (slots : List Slot) (s : State) (hs : Good lc s) :
    GoodOut lc (execReqTailDoorbell fn value slots s) := by
  unfold execReqTailDoorbell
  repeat' first | with_reducible assumption | with_reducible apply State.doorbell_good | with_reducible apply goodOut_next | split

theorem State.respHeadWrite_good {lc : Nat} (n : Nat) (value : BitVec 32) (s : State) (hs : Good lc s) :
    Good lc (State.respHeadWrite n value s) := by
  unfold State.respHeadWrite
  repeat' first
    | with_reducible refine fun _ => ?_ | with_reducible assumption | with_reducible apply good_modFn | split | exact (‹Fn.bounded _›).1
    | exact (‹Fn.bounded _›).2 | with_reducible apply Fn.bounded_intro

theorem execRespHeadDoorbell_good {lc : Nat} (fn : Nat) (value : BitVec 32) (s : State) (hs : Good lc s) :
    GoodOut lc (execRespHeadDoorbell fn value s) := by
  unfold execRespHeadDoorbell
  repeat' first | with_reducible assumption | with_reducible apply State.respHeadWrite_good | with_reducible apply goodOut_next | split

theorem State.msixFlush_good {lc : Nat} (n : Nat) (s : State) (hs : Good lc s) :
    Good lc (State.msixFlush n s) := by
  unfold State.msixFlush
  repeat' first
    | with_reducible refine fun _ => ?_ | with_reducible assumption | with_reducible apply State.emit_good | with_reducible apply good_modFn
    | with_reducible apply State.fn_bounded | split | dsimp only | exact (‹Fn.bounded _›).1 | exact (‹Fn.bounded _›).2
    | with_reducible apply Fn.bounded_intro

theorem Fn.writeMsix_good (offset size : Nat) (v : BitVec 64) (f : Fn) (hf : f.bounded) : (Fn.writeMsix offset size v f).bounded := by
  unfold Fn.writeMsix
  lift_lets
  intro cur sh new
  clear_value cur sh new
  exact Fn.bounded_intro hf.1 hf.2

theorem Fn.ignored_good (f : Fn) (hf : f.bounded) :
    (Fn.ignored f).bounded := by
  unfold Fn.ignored
  repeat' first
    | with_reducible refine fun _ => ?_
    | with_reducible assumption
    | lift_lets -underBinder
    | (intro t; refine good_elim (l := lc) (a := t) ?_ ?_ <;> [skip; (intro t hh hu; rw [← hu]; clear hu)])
    | (intro k; refine canonical_elim (a := k) ?_ ?_ <;> [skip; (intro k hk hu; rw [← hu]; clear hu)])
    | (intro k; refine parcel_elim (a := k) ?_ ?_ <;> [skip; (intro k hk hu; rw [← hu]; clear hu)])
    | (intro k; refine bounded_elim (a := k) ?_ ?_ <;> [skip; (intro k hk hu; rw [← hu]; clear hu)])
    | (intro w)
    | dsimp only [t]
    | dsimp only [k]
    | split
    | dsimp +zetaDelta only
    | assumption
    | dsimp only
    | exact (‹Cluster.canonical _›).2.2.1 _ ‹_›
    | exact (‹Cluster.canonical _›).1
    | exact (‹Cluster.canonical _›).2.1
    | exact (‹Cluster.canonical _›).2.2.1
    | exact (‹Cluster.canonical _›).2.2.2.1
    | exact (‹Cluster.canonical _›).2.2.2.2.1
    | exact (‹Cluster.canonical _›).2.2.2.2.2
    | exact (‹Parcel.canonical _›).1
    | exact (‹Parcel.canonical _›).2
    | exact (‹Fn.bounded _›).1
    | exact (‹Fn.bounded _›).2
    | with_reducible apply wf_write0
    | with_reducible apply rising_tset
    | with_reducible apply rising_tdel
    | with_reducible apply rising_filter
    | with_reducible apply length_modify_eq
    | with_reducible apply length_set_eq
    | with_reducible apply length_map_eq
    | rfl
    | with_reducible apply Cluster.canonical_intro
    | with_reducible apply Parcel.canonical_intro
    | with_reducible apply Fn.bounded_intro

theorem State.writeReg32_good {lc : Nat} (n offset : Nat) (w : BitVec 32) (s : State) (hs : Good lc s) :
    Good lc (State.writeReg32 n offset w s) := by
  unfold State.writeReg32
  repeat' first
    | with_reducible refine fun _ => ?_ | with_reducible assumption | with_reducible apply State.doorbell_good
    | with_reducible apply Fn.ignored_good | with_reducible apply good_modFn | with_reducible apply State.respHeadWrite_good
    | with_reducible apply State.writeCtrl_good | split | exact (‹Fn.bounded _›).1 | exact (‹Fn.bounded _›).2
    | with_reducible apply Fn.bounded_intro

theorem State.writeReg_good {lc : Nat} (n offset size : Nat) (v : BitVec 64) (s : State) (hs : Good lc s) :
    Good lc (State.writeReg n offset size v s) := by
  unfold State.writeReg
  repeat' first
    | with_reducible refine fun _ => ?_ | with_reducible assumption | with_reducible apply Fn.ignored_good | with_reducible apply good_modFn
    | with_reducible apply State.msixFlush_good | with_reducible apply Fn.writeMsix_good | with_reducible apply State.writeReg32_good
    | with_reducible apply State.fn_bounded | split | exact (‹Fn.bounded _›).1 | exact (‹Fn.bounded _›).2 | with_reducible apply Fn.bounded_intro

theorem execRegisterWrite_good {lc : Nat} (fn offset size : Nat) (value : BitVec 64) (s : State) (hs : Good lc s) :
    GoodOut lc (execRegisterWrite fn offset size value s) := by
  unfold execRegisterWrite
  repeat' first | with_reducible assumption | with_reducible apply State.writeReg_good | with_reducible apply goodOut_next | split

theorem Fn.popOut_good (f : Fn) (hf : f.bounded) : (Fn.popOut f).bounded := by
  unfold Fn.popOut
  split
  · exact hf
  · exact ⟨hf.1, le_trans (by simp) hf.2⟩

theorem State.writeSlot_good {lc : Nat} (n : Nat) (o : Sum RespSlot Event) (s : State) (hs : Good lc s) : Good lc (State.writeSlot n o s) := by
  have key : ∀ (e m : Output) (c d g : Bool), Good lc (
      let u := if c then s else s.emit e
      let u := (u.emit m).modFn n fun f => { f.popOut with respTail := f.respTail + 1 }
      let u := if d then if g then u.modFn n fun f => { f with msixPend := true } else (u.modFn n fun f => { f with msixSent := true }).emit (.msix n)
        else u
      if (u.fn n).respTail = 0 then u.endSession n 1 else u) := by
    intro e m c d g
    extract_lets u1 u2 u3
    have h1 : Good lc u1 := by
      dsimp only [u1]
      split
      · exact hs
      · exact State.emit_good _ _ hs
    have h2 : Good lc u2 := good_modFn (State.emit_good _ _ h1) fun f hf => Fn.popOut_good f hf
    have h3 : Good lc u3 := by
      dsimp only [u3]
      split
      · split
        · exact good_modFn h2 fun f hf => hf
        · exact State.emit_good _ _ (good_modFn h2 fun f hf => hf)
      · exact h2
    split
    · exact State.endSession_good _ _ _ h3
    · exact h3
  exact key _ _ _ _ _

theorem execResponseWrite_good {lc : Nat} (fn : Nat) (s : State) (hs : Good lc s) :
    GoodOut lc (execResponseWrite fn s) := by
  unfold execResponseWrite
  repeat' first
    | with_reducible refine fun _ => ?_
    | with_reducible assumption
    | with_reducible apply good_modFn
    | with_reducible apply State.writeSlot_good
    | with_reducible apply Verdict.good_no
    | with_reducible apply State.fn_bounded
    | with_reducible apply goodOut_next
    | with_reducible apply goodOut_fault
    | lift_lets -underBinder
    | (intro t; refine good_elim (l := lc) (a := t) ?_ ?_ <;> [skip; (intro t hh hu; rw [← hu]; clear hu)])
    | (intro k; refine canonical_elim (a := k) ?_ ?_ <;> [skip; (intro k hk hu; rw [← hu]; clear hu)])
    | (intro k; refine parcel_elim (a := k) ?_ ?_ <;> [skip; (intro k hk hu; rw [← hu]; clear hu)])
    | (intro k; refine bounded_elim (a := k) ?_ ?_ <;> [skip; (intro k hk hu; rw [← hu]; clear hu)])
    | (intro w)
    | dsimp only [t]
    | dsimp only [k]
    | split
    | dsimp +zetaDelta only
    | (refine Good.of_view hh ?_; dsimp only [State.view]; done)
    | (refine Good.of_view hs ?_; dsimp only [State.view]; done)
    | (refine Good.of_view ‹Good lc _› ?_; dsimp only [State.view]; done)
    | dsimp only
    | exact (‹Cluster.canonical _›).2.2.1 _ ‹_›
    | exact (‹Cluster.canonical _›).1
    | exact (‹Cluster.canonical _›).2.1
    | exact (‹Cluster.canonical _›).2.2.1
    | exact (‹Cluster.canonical _›).2.2.2.1
    | exact (‹Cluster.canonical _›).2.2.2.2.1
    | exact (‹Cluster.canonical _›).2.2.2.2.2
    | exact (‹Parcel.canonical _›).1
    | exact (‹Parcel.canonical _›).2
    | exact (‹Fn.bounded _›).1
    | exact (‹Fn.bounded _›).2
    | with_reducible apply wf_write0
    | with_reducible apply rising_tset
    | with_reducible apply rising_tdel
    | with_reducible apply rising_filter
    | with_reducible apply length_modify_eq
    | with_reducible apply length_set_eq
    | with_reducible apply length_map_eq
    | rfl
    | with_reducible apply Cluster.canonical_intro
    | with_reducible apply Parcel.canonical_intro
    | with_reducible apply Fn.bounded_intro

theorem State.setVfs_good {lc : Nat} (k : Nat) (s : State) (hs : Good lc s) : Good lc (State.setVfs k s) := by
  have h : Good lc { s with fns := s.fns.mapIdx fun i f => if i = 0 then f else { f with present := i ≤ k } } :=
    good_fns hs (by simp) (forall_mapIdx hs.fns fun i f hf => by split <;> exact hf)
  exact h

theorem execFunctionReset_good {lc : Nat} (ev : ResetEvent) (s : State) (hs : Good lc s) :
    GoodOut lc (execFunctionReset ev s) := by
  unfold execFunctionReset
  repeat' first
    | with_reducible refine fun _ => ?_
    | with_reducible assumption
    | with_reducible apply State.closeDrawer_good
    | with_reducible apply good_foldl
    | with_reducible apply canonical_foldl
    | with_reducible apply State.setVfs_good
    | with_reducible apply Verdict.good_no
    | with_reducible apply goodOut_next
    | with_reducible apply goodOut_fault
    | lift_lets -underBinder
    | (intro t; refine good_elim (l := lc) (a := t) ?_ ?_ <;> [skip; (intro t hh hu; rw [← hu]; clear hu)])
    | (intro k; refine canonical_elim (a := k) ?_ ?_ <;> [skip; (intro k hk hu; rw [← hu]; clear hu)])
    | (intro k; refine parcel_elim (a := k) ?_ ?_ <;> [skip; (intro k hk hu; rw [← hu]; clear hu)])
    | (intro k; refine bounded_elim (a := k) ?_ ?_ <;> [skip; (intro k hk hu; rw [← hu]; clear hu)])
    | (intro w)
    | dsimp only [t]
    | dsimp only [k]
    | split
    | dsimp +zetaDelta only
    | (refine Good.of_view hh ?_; dsimp only [State.view]; done)
    | (refine Good.of_view hs ?_; dsimp only [State.view]; done)
    | (refine Good.of_view ‹Good lc _› ?_; dsimp only [State.view]; done)

theorem execPcieLinkTrained_good {lc : Nat} (rateGt width : Nat) (s : State) (hs : Good lc s) :
    GoodOut lc (execPcieLinkTrained rateGt width s) := by
  unfold execPcieLinkTrained
  repeat' first
    | with_reducible apply State.evMgmt_good | with_reducible apply State.evPf_good | with_reducible apply goodOut_next | split
    | (refine Good.of_view hs ?_; dsimp only [State.view]; done)

theorem execVfEnable_good {lc : Nat} (n : Nat) (s : State) (hs : Good lc s) :
    GoodOut lc (execVfEnable n s) := by
  unfold execVfEnable
  repeat' first
    | with_reducible refine fun _ => ?_ | with_reducible assumption | with_reducible apply State.closeDrawer_good | with_reducible apply good_foldl
    | with_reducible apply State.setVfs_good | with_reducible apply goodOut_next | split

end Sys2Proof.Machine
end

