-- ==== Sys2Proof/Laws/SoundDrawer.lean ====
section
/-! SUPPORT. Every operation of Machine/Drawer.lean keeps soundness and the life cycle. -/

set_option linter.unusedTactic false
set_option linter.unreachableTactic false
set_option linter.unusedVariables false
set_option linter.unusedSimpArgs false
set_option Elab.async false

namespace Sys2Proof.Machine

theorem Verdict.no_good {lc : Nat} (status : Nat) :
    (Verdict.no status).Good lc := by
  unfold Verdict.no
  repeat' first | with_reducible apply Verdict.good_refuse

theorem guarded_good {lc : Nat} (l : List (Bool × Nat)) (k : Verdict) (hk : k.Good lc) :
    (guarded l k).Good lc := by
  unfold guarded
  repeat' first | with_reducible assumption | with_reducible apply Verdict.no_good | split

theorem State.popTaken_good {lc : Nat} (n : Nat) (s : State) (hs : Good lc s) :
    Good lc (State.popTaken n s) := by
  unfold State.popTaken
  repeat' first
    | with_reducible refine fun _ => ?_ | with_reducible assumption | with_reducible apply good_modFn | split | exact (‹Fn.bounded _›).1
    | exact (‹Fn.bounded _›).2 | with_reducible apply Fn.bounded_intro

/-- Executing a drawer command keeps soundness if its verdict does. -/
theorem State.runDrawer_moved {lc : Nat} (n op : Nat) (f : Taken → State → Verdict) (s : State)
    (hf : ∀ t u, Good lc u → Verdict.Moved lc (f t u)) (hs : Good lc s) : Moved lc (State.runDrawer n op f s) := by
  unfold State.runDrawer
  split
  · exact hs.moved
  · rename_i t _
    have hu : Good lc (s.popTaken n) := State.popTaken_good _ _ hs
    have h := hf t _ hu
    dsimp only
    split
    · exact hs.moved
    · exact (State.takeAll_good _ _ (State.respond_good _ _ _ _ _ hu)).moved
    · rename_i body v hv
      obtain ⟨k, hk, h⟩ := h.done _ _ hv
      split
      · exact ⟨k, hk, State.takeAll_good _ _ (State.respond_good _ _ _ _ _ h)⟩
      · exact (State.takeAll_good _ _ (State.respond_good _ _ _ _ _ hu)).moved
    · rename_i v hv
      obtain ⟨k, hk, h⟩ := h.long _ hv
      exact ⟨k, hk, State.takeAll_good _ _ h⟩

/-- Executing a drawer command keeps soundness if its verdict does. -/
theorem State.runDrawer_good {lc : Nat} (n op : Nat) (f : Taken → State → Verdict) (s : State)
    (hf : ∀ t u, Good lc u → (f t u).Good lc) (hs : Good lc s) : Good lc (State.runDrawer n op f s) := by
  unfold State.runDrawer
  split
  · exact hs
  · rename_i t _
    have hu : Good lc (s.popTaken n) := State.popTaken_good _ _ hs
    have h := hf t _ hu
    dsimp only
    split
    · exact hs
    · exact State.takeAll_good _ _ (State.respond_good _ _ _ _ _ hu)
    · rename_i body v hv
      replace h := h.done _ _ hv
      split
      · exact State.takeAll_good _ _ (State.respond_good _ _ _ _ _ h)
      · exact State.takeAll_good _ _ (State.respond_good _ _ _ _ _ hu)
    · rename_i v hv
      exact State.takeAll_good _ _ (h.long _ hv)

theorem Taken.withPayload_good {lc : Nat} (n : Nat) (t : Taken) (k : Bytes → Verdict) (hk : ∀ b, (k b).Good lc) :
    (Taken.withPayload n t k).Good lc := by
  unfold Taken.withPayload
  repeat' first
    | with_reducible refine fun _ => ?_
    | with_reducible assumption
    | with_reducible apply Verdict.no_good
    | with_reducible apply Verdict.good_no
    | with_reducible apply hk
    | lift_lets -underBinder
    | (intro t; refine good_elim (l := lc) (a := t) ?_ ?_ <;> [skip; (intro t hh hu; rw [← hu]; clear hu)])
    | (intro k; refine canonical_elim (a := k) ?_ ?_ <;> [skip; (intro k hk hu; rw [← hu]; clear hu)])
    | (intro k; refine parcel_elim (a := k) ?_ ?_ <;> [skip; (intro k hk hu; rw [← hu]; clear hu)])
    | (intro k; refine bounded_elim (a := k) ?_ ?_ <;> [skip; (intro k hk hu; rw [← hu]; clear hu)])
    | (intro w)
    | dsimp only [t]
    | dsimp only [k]
    | split
    | dsimp +zetaDelta only
    | (refine Good.of_view hh ?_; dsimp only [State.view]; done)
    | (refine Good.of_view hs ?_; dsimp only [State.view]; done)
    | (refine Good.of_view ‹Good lc _› ?_; dsimp only [State.view]; done)

theorem State.gated_good {lc : Nat} (n op : Nat) (pf vf : Bool) (s : State) (k : Verdict) (hs : Good lc s) (hk : k.Good lc) :
    (State.gated n op pf vf s k).Good lc := by
  unfold State.gated
  repeat' first | with_reducible assumption | with_reducible apply Verdict.no_good | split

theorem execModuleInfo_good {lc : Nat} (fn : Nat) (s : State) (hs : Good lc s) :
    GoodOut lc (execModuleInfo fn s) := by
  unfold execModuleInfo
  repeat' first
    | with_reducible refine fun _ => ?_ | with_reducible assumption | with_reducible apply State.gated_good
    | with_reducible apply State.runDrawer_good | with_reducible apply Taken.withPayload_good | with_reducible apply Verdict.good_done
    | with_reducible apply goodOut_next

theorem execModulePlat_good {lc : Nat} (fn : Nat) (s : State) (hs : Good lc s) :
    GoodOut lc (execModulePlat fn s) := by
  unfold execModulePlat
  repeat' first
    | with_reducible refine fun _ => ?_ | with_reducible assumption | with_reducible apply State.gated_good
    | with_reducible apply State.runDrawer_good | with_reducible apply Taken.withPayload_good | with_reducible apply Verdict.good_done
    | with_reducible apply goodOut_next

theorem execSpillMap_good {lc : Nat} (fn : Nat) (s : State) (hs : Good lc s) :
    GoodOut lc (execSpillMap fn s) := by
  unfold execSpillMap
  repeat' first
    | with_reducible refine fun _ => ?_ | with_reducible apply State.gated_good | with_reducible apply guarded_good
    | with_reducible apply State.runDrawer_good | with_reducible apply Taken.withPayload_good | with_reducible apply Verdict.good_done
    | with_reducible apply goodOut_next | (refine Good.of_view ‹Good lc _› ?_; dsimp only [State.view]; done)

theorem execHostShares_good {lc : Nat} (fn : Nat) (s : State) (hs : Good lc s) :
    GoodOut lc (execHostShares fn s) := by
  unfold execHostShares
  repeat' first
    | with_reducible refine fun _ => ?_ | with_reducible apply State.gated_good | with_reducible apply guarded_good
    | with_reducible apply State.runDrawer_good | with_reducible apply Taken.withPayload_good | with_reducible apply Verdict.good_done
    | with_reducible apply goodOut_next | (refine Good.of_view ‹Good lc _› ?_; dsimp only [State.view]; done)

theorem execFabricShares_good {lc : Nat} (fn : Nat) (s : State) (hs : Good lc s) :
    GoodOut lc (execFabricShares fn s) := by
  unfold execFabricShares
  repeat' first
    | with_reducible refine fun _ => ?_ | with_reducible assumption | with_reducible apply State.gated_good | with_reducible apply guarded_good
    | with_reducible apply State.runDrawer_good | with_reducible apply Taken.withPayload_good | with_reducible apply Verdict.good_done
    | with_reducible apply goodOut_next | with_reducible apply good_fabric | exact Good.conns ‹_› | exact Good.eases ‹_›

end Sys2Proof.Machine
end

