-- ==== Sys2Proof/Laws/SoundMgmt.lean ====
section
/-! SUPPORT. Every operation of Machine/Mgmt.lean keeps soundness and the life cycle. -/

set_option linter.unusedTactic false
set_option linter.unreachableTactic false
set_option linter.unusedVariables false
set_option linter.unusedSimpArgs false
set_option Elab.async false

namespace Sys2Proof.Machine

theorem State.runMgmt_good {lc : Nat} (m : MgmtMsg) (op : Nat) (f : Bytes → State → Nat × Bytes × State) (s : State)
    (hf : ∀ b t, Good lc t → Good lc (f b t).2.2) (hs : Good lc s) : Good lc (State.runMgmt m op f s) := by
  unfold State.runMgmt
  split
  · exact hs
  · split
    · exact State.answerMgmt_good _ _ _ _ _ hs
    · split
      · exact State.answerMgmt_good _ _ _ _ _ hs
      · exact State.answerMgmt_good _ _ _ _ _ (hf _ _ hs)

theorem State.runMgmt_moved {lc : Nat} (m : MgmtMsg) (op : Nat) (f : Bytes → State → Nat × Bytes × State) (s : State)
    (hf : ∀ b t, Good lc t → Moved lc (f b t).2.2) (hs : Good lc s) : Moved lc (State.runMgmt m op f s) := by
  unfold State.runMgmt
  split
  · exact hs.moved
  · split
    · exact (State.answerMgmt_good _ _ _ _ _ hs).moved
    · split
      · exact (State.answerMgmt_good _ _ _ _ _ hs).moved
      · obtain ⟨k, hk, h⟩ := hf m.body s hs
        exact ⟨k, hk, State.answerMgmt_good _ _ _ _ _ h⟩

theorem State.deny_good {lc : Nat} (status : Nat) (s : State) (hs : Good lc s) :
    Good lc (State.deny status s).2.2 := by
  unfold State.deny
  repeat' first
    | with_reducible refine fun _ => ?_
    | with_reducible assumption
    | lift_lets -underBinder
    | (intro t; refine good_elim (l := lc) (a := t) ?_ ?_ <;> [skip; (intro t hh hu; rw [← hu]; clear hu)])
    | (intro k; refine canonical_elim (a := k) ?_ ?_ <;> [skip; (intro k hk hu; rw [← hu]; clear hu)])
    | (intro k; refine parcel_elim (a := k) ?_ ?_ <;> [skip; (intro k hk hu; rw [← hu]; clear hu)])
    | (intro k; refine bounded_elim (a := k) ?_ ?_ <;> [skip; (intro k hk hu; rw [← hu]; clear hu)])
    | (intro w)
    | dsimp only [t]
    | dsimp only [k]
    | split
    | dsimp +zetaDelta only
    | (refine Good.of_view hh ?_; dsimp only [State.view]; done)
    | (refine Good.of_view hs ?_; dsimp only [State.view]; done)
    | (refine Good.of_view ‹Good lc _› ?_; dsimp only [State.view]; done)

theorem State.sized_good {lc : Nat} (n : Nat) (b : Bytes) (k : Nat × Bytes × State) (s : State) (hk : Good lc k.2.2) (hs : Good lc s) :
    Good lc (State.sized n b k s).2.2 := by
  unfold State.sized
  repeat' first | with_reducible assumption | with_reducible apply State.deny_good | split

end Sys2Proof.Machine
end

