-- ==== Sys2Proof/Laws/SoundOperands.lean ====
section
/-! SUPPORT. Every operation of Machine/Operands.lean keeps soundness and the life cycle. -/

set_option linter.unusedTactic false
set_option linter.unreachableTactic false
set_option linter.unusedVariables false
set_option linter.unusedSimpArgs false
set_option Elab.async false

namespace Sys2Proof.Machine

theorem State.extPut_good {lc : Nat} (p a : Nat) (b : Byte) (s : State) (hs : Good lc s) :
    Good lc (State.extPut p a b s) := by
  unfold State.extPut
  repeat' first
    | with_reducible refine fun _ => ?_ | with_reducible assumption | with_reducible apply good_modParcel | split | dsimp only
    | exact (‹Parcel.canonical _›).1 | exact (‹Parcel.canonical _›).2 | with_reducible apply rising_tset
    | with_reducible apply Parcel.canonical_intro

theorem State.extPuts_good {lc : Nat} (p a : Nat) (b : Bytes) (s : State) (hs : Good lc s) : Good lc (State.extPuts p a b s) := by
  induction b generalizing a s with
  | nil => exact hs
  | cons x r ih => exact ih _ _ (State.extPut_good _ _ _ _ hs)

theorem State.extWriteByte_good {lc : Nat} (raw : Bool) (p a : Nat) (b : Byte) (s : State) (hs : Good lc s) :
    Good lc (State.extWriteByte raw p a b s) := by
  unfold State.extWriteByte
  repeat' first
    | with_reducible refine fun _ => ?_
    | with_reducible assumption
    | with_reducible apply State.extPut_good
    | with_reducible apply State.extPuts_good
    | with_reducible apply good_modParcel
    | lift_lets -underBinder
    | (intro t; refine good_elim (l := lc) (a := t) ?_ ?_ <;> [skip; (intro t hh hu; rw [← hu]; clear hu)])
    | (intro k; refine canonical_elim (a := k) ?_ ?_ <;> [skip; (intro k hk hu; rw [← hu]; clear hu)])
    | (intro k; refine parcel_elim (a := k) ?_ ?_ <;> [skip; (intro k hk hu; rw [← hu]; clear hu)])
    | (intro k; refine bounded_elim (a := k) ?_ ?_ <;> [skip; (intro k hk hu; rw [← hu]; clear hu)])
    | (intro w)
    | dsimp only [t]
    | dsimp only [k]
    | split
    | dsimp +zetaDelta only
    | (refine Good.of_view hh ?_; dsimp only [State.view]; done)
    | (refine Good.of_view hs ?_; dsimp only [State.view]; done)
    | (refine Good.of_view ‹Good lc _› ?_; dsimp only [State.view]; done)
    | dsimp only
    | exact (‹Cluster.canonical _›).2.2.1 _ ‹_›
    | exact (‹Cluster.canonical _›).1
    | exact (‹Cluster.canonical _›).2.1
    | exact (‹Cluster.canonical _›).2.2.1
    | exact (‹Cluster.canonical _›).2.2.2.1
    | exact (‹Cluster.canonical _›).2.2.2.2.1
    | exact (‹Cluster.canonical _›).2.2.2.2.2
    | exact (‹Parcel.canonical _›).1
    | exact (‹Parcel.canonical _›).2
    | exact (‹Fn.bounded _›).1
    | exact (‹Fn.bounded _›).2
    | with_reducible apply wf_write0
    | with_reducible apply rising_tset
    | with_reducible apply rising_tdel
    | with_reducible apply rising_filter
    | with_reducible apply length_modify_eq
    | with_reducible apply length_set_eq
    | with_reducible apply length_map_eq
    | rfl
    | with_reducible apply Cluster.canonical_intro
    | with_reducible apply Parcel.canonical_intro
    | with_reducible apply Fn.bounded_intro

theorem State.extWrite_good {lc : Nat} (raw : Bool) (p a : Nat) (b : Bytes) (s : State) (hs : Good lc s) :
    Good lc (State.extWrite raw p a b s) := by
  induction b generalizing a s with
  | nil => exact hs
  | cons x r ih => exact ih _ _ (State.extWriteByte_good _ _ _ _ _ hs)

theorem Cluster.writeStore_good (bench : Option Nat) (a : Nat) (b : Bytes) (k : Cluster) (hk : k.canonical) :
    (Cluster.writeStore bench a b k).canonical := by
  unfold Cluster.writeStore
  obtain ⟨h1, h2, h3, h4⟩ := hk
  split
  · refine ⟨h1, rising_tset h2, fun x hx => ?_, h4⟩
    rcases mem_tset hx with rfl | hx
    · exact wf_write0 (wf_store h3)
    · exact h3 x hx
  · exact ⟨wf_write0 h1, h2, h3, h4⟩

theorem State.writeSpace_good {lc : Nat} (raw : Bool) (p k sp a : Nat) (b : Bytes) (s : State) (hs : Good lc s) :
    Good lc (State.writeSpace raw p k sp a b s) := by
  unfold State.writeSpace
  repeat' first
    | with_reducible refine fun _ => ?_
    | with_reducible assumption
    | with_reducible apply State.extWrite_good
    | with_reducible apply good_modLogical
    | with_reducible apply Cluster.writeStore_good
    | lift_lets -underBinder
    | (intro t; refine good_elim (l := lc) (a := t) ?_ ?_ <;> [skip; (intro t hh hu; rw [← hu]; clear hu)])
    | (intro k; refine canonical_elim (a := k) ?_ ?_ <;> [skip; (intro k hk hu; rw [← hu]; clear hu)])
    | (intro k; refine parcel_elim (a := k) ?_ ?_ <;> [skip; (intro k hk hu; rw [← hu]; clear hu)])
    | (intro k; refine bounded_elim (a := k) ?_ ?_ <;> [skip; (intro k hk hu; rw [← hu]; clear hu)])
    | (intro w)
    | dsimp only [t]
    | dsimp only [k]
    | split
    | dsimp +zetaDelta only
    | (refine Good.of_view hh ?_; dsimp only [State.view]; done)
    | (refine Good.of_view hs ?_; dsimp only [State.view]; done)
    | (refine Good.of_view ‹Good lc _› ?_; dsimp only [State.view]; done)
    | dsimp only
    | exact (‹Cluster.canonical _›).2.2.1 _ ‹_›
    | exact (‹Cluster.canonical _›).1
    | exact (‹Cluster.canonical _›).2.1
    | exact (‹Cluster.canonical _›).2.2.1
    | exact (‹Cluster.canonical _›).2.2.2.1
    | exact (‹Cluster.canonical _›).2.2.2.2.1
    | exact (‹Cluster.canonical _›).2.2.2.2.2
    | exact (‹Parcel.canonical _›).1
    | exact (‹Parcel.canonical _›).2
    | exact (‹Fn.bounded _›).1
    | exact (‹Fn.bounded _›).2
    | with_reducible apply wf_write0
    | with_reducible apply rising_tset
    | with_reducible apply rising_tdel
    | with_reducible apply rising_filter
    | with_reducible apply length_modify_eq
    | with_reducible apply length_set_eq
    | with_reducible apply length_map_eq
    | rfl
    | with_reducible apply Cluster.canonical_intro
    | with_reducible apply Parcel.canonical_intro
    | with_reducible apply Fn.bounded_intro

theorem State.writeOp_good {lc : Nat} (p k : Nat) (o : Operand) (b : Bytes) (s : State) (hs : Good lc s) :
    Good lc (State.writeOp p k o b s) := by
  unfold State.writeOp
  repeat' first | with_reducible assumption | with_reducible apply State.writeSpace_good

end Sys2Proof.Machine
end

