-- ==== Sys2Proof/Laws/SoundShelf.lean ====
section
/-! SUPPORT. Every operation of Machine/Shelf.lean keeps soundness and the life cycle. -/

set_option linter.unusedTactic false
set_option linter.unreachableTactic false
set_option linter.unusedVariables false
set_option linter.unusedSimpArgs false
set_option Elab.async false

namespace Sys2Proof.Machine

theorem State.saturate_good {lc : Nat} (p c k : Nat) (rows : List Nat) (s : State) (hs : Good lc s) :
    Good lc (State.saturate p c k rows s) := by
  unfold State.saturate
  repeat' first
    | with_reducible refine fun _ => ?_ | with_reducible assumption | with_reducible apply State.evVf_good | with_reducible apply good_foldl
    | with_reducible apply canonical_foldl | with_reducible apply good_modCtx | with_reducible apply canonical_modCtx
    | with_reducible apply good_modLogical | with_reducible apply State.lead_canonical | split | dsimp only
    | exact (‹Cluster.canonical _›).2.2.1 _ ‹_› | exact (‹Cluster.canonical _›).1 | exact (‹Cluster.canonical _›).2.1
    | exact (‹Cluster.canonical _›).2.2.2.1 | exact (‹Cluster.canonical _›).2.2.2.2.1 | exact (‹Cluster.canonical _›).2.2.2.2.2
    | with_reducible apply Cluster.canonical_intro

theorem State.landWrite_good {lc : Nat} (p c k r kind f : Nat) (vals : List Int) (fp : List Nat) (s : State) (hs : Good lc s) :
    Good lc (State.landWrite p c k r kind f vals fp s) := by
  unfold State.landWrite
  repeat' first
    | with_reducible assumption | with_reducible apply State.faultCtx_good | with_reducible apply good_modCtx | with_reducible apply good_modLogical
    | with_reducible apply Cluster.putRow_good | with_reducible apply State.saturate_good | lift_lets -underBinder | (intro w) | split

theorem State.preload_good {lc : Nat} (p c k : Nat) (x : Preload) (s : State) (hs : Good lc s) :
    Good lc (State.preload p c k x s) := by
  unfold State.preload
  repeat' first
    | with_reducible assumption | with_reducible apply Cluster.dropRow_good | with_reducible apply State.faultCtx_good
    | with_reducible apply good_modCtx | with_reducible apply good_modLogical | with_reducible apply Cluster.putRow_good
    | with_reducible apply State.saturate_good | lift_lets -underBinder | (intro w) | split

theorem Cluster.resetRow_good (r : Nat) (k : Cluster) (hk : k.canonical) :
    (Cluster.resetRow r k).canonical := by
  unfold Cluster.resetRow
  repeat' first
    | with_reducible refine fun _ => ?_ | with_reducible assumption | split | assumption | dsimp only | exact (‹Cluster.canonical _›).2.2.1 _ ‹_›
    | exact (‹Cluster.canonical _›).1 | exact (‹Cluster.canonical _›).2.1 | exact (‹Cluster.canonical _›).2.2.2.1
    | exact (‹Cluster.canonical _›).2.2.2.2.1 | exact (‹Cluster.canonical _›).2.2.2.2.2 | with_reducible apply rising_tdel
    | with_reducible apply Cluster.canonical_intro

theorem State.drain_good {lc : Nat} (p c k r : Nat) (raw reset : Bool) (put : Bytes → State → State) (s : State) (hput : ∀ x0 x1, Good lc x1 → Good lc (put x0 x1)) (hs : Good lc s) :
    Good lc (State.drain p c k r raw reset put s) := by
  unfold State.drain
  repeat' first
    | with_reducible assumption | with_reducible apply State.faultCtx_good | with_reducible apply good_modLogical
    | with_reducible apply Cluster.resetRow_good | with_reducible apply State.saturate_good | with_reducible apply hput | lift_lets -underBinder
    | (intro t; refine good_elim (l := lc) (a := t) ?_ ?_ <;> [skip; (intro t hh hu; rw [← hu]; clear hu)]) | (intro w) | dsimp only [t] | split

end Sys2Proof.Machine
end

