-- ==== Sys2Proof/Laws/SoundRoundOps.lean ====
section
/-! SUPPORT. Every operation of Machine/RoundOps.lean keeps soundness and the life cycle. -/

set_option linter.unusedTactic false
set_option linter.unreachableTactic false
set_option linter.unusedVariables false
set_option linter.unusedSimpArgs false
set_option Elab.async false

namespace Sys2Proof.Machine

theorem State.evRoundClosed_good {lc : Nat} (p : Nat) (r : Round) (outcome : Nat) (s : State) (hs : Good lc s) :
    Good lc (State.evRoundClosed p r outcome s) := by
  unfold State.evRoundClosed
  repeat' first | with_reducible assumption | with_reducible apply State.evVf_good

theorem State.endRoundOnly_good {lc : Nat} (p c outcome : Nat) (s : State) (hs : Good lc s) :
    Good lc (State.endRoundOnly p c outcome s) := by
  unfold State.endRoundOnly
  repeat' first | with_reducible assumption | with_reducible apply State.evRoundClosed_good | with_reducible apply good_modCtx | split

theorem State.endRound_good {lc : Nat} (p c outcome : Nat) (s : State) (hs : Good lc s) :
    Good lc (State.endRound p c outcome s) := by
  unfold State.endRound
  repeat' first | with_reducible assumption | with_reducible apply State.dropHeld_good | with_reducible apply State.endRoundOnly_good | split

theorem State.loseMember_good {lc : Nat} (p c module parcel : Nat) (s : State) (hs : Good lc s) :
    Good lc (State.loseMember p c module parcel s) := by
  unfold State.loseMember
  repeat' first | with_reducible assumption | with_reducible apply State.endRound_good | with_reducible apply State.evVf_good | split

theorem State.groupLoss_good {lc : Nat} (p module parcel : Nat) (s : State) (hs : Good lc s) :
    Good lc (State.groupLoss p module parcel s) := by
  unfold State.groupLoss
  repeat' first
    | with_reducible refine fun _ => ?_ | with_reducible assumption | with_reducible apply good_foldl | with_reducible apply State.loseMember_good

end Sys2Proof.Machine
end

