-- ==== Sys2Proof/Laws/SoundStation.lean ====
section
/-! SUPPORT. Every operation of Machine/Station.lean keeps soundness and the life cycle. -/

set_option linter.unusedTactic false
set_option linter.unreachableTactic false
set_option linter.unusedVariables false
set_option linter.unusedSimpArgs false
set_option Elab.async false

namespace Sys2Proof.Machine

theorem State.flushLink_good {lc : Nat} (l : Nat) (s : State) (hs : Good lc s) :
    Good lc (State.flushLink l s) := by
  unfold State.flushLink
  repeat' first
    | with_reducible refine fun _ => ?_ | with_reducible assumption | with_reducible apply State.emit_good | with_reducible apply good_foldl
    | with_reducible apply good_modLink

theorem State.sendGrain_good {lc : Nat} (l kind : Nat) (bytes : Bytes) (s : State) (hs : Good lc s) :
    Good lc (State.sendGrain l kind bytes s) := by
  unfold State.sendGrain
  repeat' first
    | with_reducible assumption | with_reducible apply State.emit_good | with_reducible apply State.flushLink_good
    | with_reducible apply good_modLink | split

theorem State.toStation_good {lc : Nat} (m : Msg) (s : State) (hs : Good lc s) :
    Good lc (State.toStation m s) := by
  unfold State.toStation
  repeat' first
    | with_reducible assumption | with_reducible apply State.emit_good | with_reducible apply good_modLink | split
    | with_reducible apply good_fabric | exact Good.conns ‹_› | exact Good.eases ‹_›

theorem State.retryWaiting_good {lc : Nat} (s : State) (hs : Good lc s) :
    Good lc (State.retryWaiting s) := by
  unfold State.retryWaiting
  repeat' first
    | with_reducible refine fun _ => ?_ | with_reducible assumption | with_reducible apply good_foldl | with_reducible apply State.toStation_good
    | with_reducible apply good_fabric | exact Good.conns ‹_› | exact Good.eases ‹_›

theorem State.sendSlices_good {lc : Nat} (l : Nat) (s : State) (hs : Good lc s) :
    Good lc (State.sendSlices l s) := by
  unfold State.sendSlices
  repeat' first
    | with_reducible assumption | with_reducible apply State.flushLink_good | with_reducible apply good_modLink | lift_lets -underBinder | (intro w)
    | split

theorem State.sendCredits_good {lc : Nat} (chain rod l : Nat) (s : State) (hs : Good lc s) :
    Good lc (State.sendCredits chain rod l s) := by
  unfold State.sendCredits
  repeat' first
    | with_reducible refine fun _ => ?_ | with_reducible assumption | with_reducible apply good_foldl | with_reducible apply State.sendGrain_good
    | split

theorem State.evLink_good {lc : Nat} (l code : Nat) (data : List Nat) (s : State) (hs : Good lc s) :
    Good lc (State.evLink l code data s) := by
  unfold State.evLink
  repeat' first
    | with_reducible assumption | with_reducible apply State.evMgmt_good | with_reducible apply State.evPf_good | with_reducible apply good_modLink
    | lift_lets -underBinder | (intro w) | split

theorem State.answerRetrain_good {lc : Nat} (l state : Nat) (s : State) (hs : Good lc s) :
    Good lc (State.answerRetrain l state s) := by
  unfold State.answerRetrain
  repeat' first
    | with_reducible refine fun _ => ?_ | with_reducible assumption | with_reducible apply State.answerMgmt_good | with_reducible apply good_foldl
    | with_reducible apply State.respond_good | with_reducible apply State.takeAll_good | split
    | (refine Good.of_view hs ?_; dsimp only [State.view]; done)

theorem State.leaveUp_good {lc : Nat} (l : Nat) (s : State) (hs : Good lc s) :
    Good lc (State.leaveUp l s) := by
  unfold State.leaveUp
  repeat' first
    | with_reducible refine fun _ => ?_ | with_reducible assumption | with_reducible apply good_foldl | with_reducible apply good_modLink
    | with_reducible apply State.toStation_good

theorem State.setLinkState_good {lc : Nat} (l v : Nat) (why : LinkCause) (s : State) (hs : Good lc s) :
    Good lc (State.setLinkState l v why s) := by
  unfold State.setLinkState
  repeat' first
    | with_reducible assumption | with_reducible apply State.answerRetrain_good | with_reducible apply State.evLink_good
    | with_reducible apply State.leaveUp_good | with_reducible apply good_modLink | lift_lets -underBinder
    | (intro t; refine good_elim (l := lc) (a := t) ?_ ?_ <;> [skip; (intro t hh hu; rw [← hu]; clear hu)]) | (intro w) | dsimp only [t] | split

theorem State.enterTraining_good {lc : Nat} (l : Nat) (why : LinkCause) (s : State) (hs : Good lc s) :
    Good lc (State.enterTraining l why s) := by
  unfold State.enterTraining
  repeat' first | with_reducible assumption | with_reducible apply good_modLink | with_reducible apply State.setLinkState_good

end Sys2Proof.Machine
end

