-- ==== Sys2Proof/Laws/SoundWire.lean ====
section
/-! SUPPORT. Every operation of Machine/Wire.lean keeps soundness and the life cycle. -/

set_option linter.unusedTactic false
set_option linter.unreachableTactic false
set_option linter.unusedVariables false
set_option linter.unusedSimpArgs false
set_option Elab.async false

namespace Sys2Proof.Machine

theorem State.touchConn_good {lc : Nat} (id : Nat) (s : State) (hs : Good lc s) :
    Good lc (State.touchConn id s) := by
  unfold State.touchConn
  repeat' first
    | with_reducible assumption | with_reducible apply good_modConn | with_reducible apply good_fabric | exact Good.conns ‹_› | exact Good.eases ‹_›

theorem State.handOver_good {lc : Nat} (id : Nat) (m : Msg) (s : State) (hs : Good lc s) :
    Good lc (State.handOver id m s) := by
  unfold State.handOver
  repeat' first | with_reducible assumption | with_reducible apply State.toStation_good

theorem State.sendSeq_good {lc : Nat} (id kind : Nat) (signal : Bool) (arg : Nat) (dst : Option Nat) (body : Bytes) (s : State) (hs : Good lc s) :
    Good lc (State.sendSeq id kind signal arg dst body s) := by
  unfold State.sendSeq
  repeat' first
    | with_reducible assumption | with_reducible apply good_modConn | with_reducible apply State.toStation_good
    | with_reducible apply State.touchConn_good

end Sys2Proof.Machine
end

