-- ==== Sys2Proof/Laws/SoundConnState.lean ====
section
/-! SUPPORT. Every operation of Machine/ConnState.lean keeps soundness and the life cycle. -/

set_option linter.unusedTactic false
set_option linter.unreachableTactic false
set_option linter.unusedVariables false
set_option linter.unusedSimpArgs false
set_option Elab.async false

namespace Sys2Proof.Machine

theorem State.setConnState_good {lc : Nat} (id v : Nat) (why : ConnCause) (s : State) (hs : Good lc s) :
    Good lc (State.setConnState id v why s) := by
  unfold State.setConnState
  repeat' first
    | with_reducible assumption | with_reducible apply State.evFn_good | with_reducible apply State.evPf_good
    | with_reducible apply State.groupLoss_good | with_reducible apply good_modConn | lift_lets -underBinder
    | (intro t; refine good_elim (l := lc) (a := t) ?_ ?_ <;> [skip; (intro t hh hu; rw [← hu]; clear hu)]) | (intro w) | dsimp only [t] | split

end Sys2Proof.Machine
end

