-- ==== Sys2Proof/Laws/SoundCarries.lean ====
section
/-! SUPPORT. Every operation of Machine/Carries.lean keeps soundness and the life cycle. -/

set_option linter.unusedTactic false
set_option linter.unreachableTactic false
set_option linter.unusedVariables false
set_option linter.unusedSimpArgs false
set_option Elab.async false

namespace Sys2Proof.Machine

theorem State.copyRows_good {lc : Nat} (p k : Nat) (d : Descr) (n i : Nat) (s : State) (hs : Good lc s) : Good lc (State.copyRows p k d n i s) := by
  induction n generalizing i s with
  | zero => exact hs
  | succ n ih => exact ih _ _ (State.writeSpace_good _ _ _ _ _ _ _ hs)

theorem State.carry_good {lc : Nat} (p k q op : Nat) (effect : Descr → State → State) (s : State) (heffect : ∀ x0 x1, Good lc x1 → Good lc (effect x0 x1)) (hs : Good lc s) :
    Good lc (State.carry p k q op effect s) := by
  unfold State.carry
  repeat' first
    | with_reducible refine fun _ => ?_
    | with_reducible assumption
    | with_reducible apply State.faultCtx_good
    | with_reducible apply good_modCtx
    | with_reducible apply canonical_modCtx
    | with_reducible apply heffect
    | lift_lets -underBinder
    | (intro t; refine good_elim (l := lc) (a := t) ?_ ?_ <;> [skip; (intro t hh hu; rw [← hu]; clear hu)])
    | (intro k; refine canonical_elim (a := k) ?_ ?_ <;> [skip; (intro k hk hu; rw [← hu]; clear hu)])
    | (intro k; refine parcel_elim (a := k) ?_ ?_ <;> [skip; (intro k hk hu; rw [← hu]; clear hu)])
    | (intro k; refine bounded_elim (a := k) ?_ ?_ <;> [skip; (intro k hk hu; rw [← hu]; clear hu)])
    | (intro w)
    | dsimp only [t]
    | dsimp only [k]
    | split
    | dsimp +zetaDelta only
    | (refine Good.of_view hh ?_; dsimp only [State.view]; done)
    | (refine Good.of_view hs ?_; dsimp only [State.view]; done)
    | (refine Good.of_view ‹Good lc _› ?_; dsimp only [State.view]; done)

theorem execDescriptorPush_good {lc : Nat} (p k q : Nat) (d : Descr) (s : State) (hs : Good lc s) :
    GoodOut lc (execDescriptorPush p k q d s) := by
  unfold execDescriptorPush
  repeat' first | with_reducible assumption | with_reducible apply good_modCtx | with_reducible apply goodOut_next | split

theorem execCopy_good {lc : Nat} (p k q : Nat) (s : State) (hs : Good lc s) :
    GoodOut lc (execCopy p k q s) := by
  unfold execCopy
  repeat' first
    | with_reducible refine fun _ => ?_ | with_reducible assumption | with_reducible apply State.carry_good
    | with_reducible apply State.copyRows_good | with_reducible apply goodOut_next

theorem execCopy2d_good {lc : Nat} (p k q : Nat) (s : State) (hs : Good lc s) :
    GoodOut lc (execCopy2d p k q s) := by
  unfold execCopy2d
  repeat' first
    | with_reducible refine fun _ => ?_ | with_reducible assumption | with_reducible apply State.carry_good
    | with_reducible apply State.copyRows_good | with_reducible apply goodOut_next

theorem execFill_good {lc : Nat} (p k q : Nat) (s : State) (hs : Good lc s) :
    GoodOut lc (execFill p k q s) := by
  unfold execFill
  repeat' first
    | with_reducible refine fun _ => ?_ | with_reducible assumption | with_reducible apply State.carry_good
    | with_reducible apply State.writeSpace_good | with_reducible apply goodOut_next

theorem State.markLost_good {lc : Nat} (p c : Nat) (s : State) (hs : Good lc s) :
    Good lc (State.markLost p c s) := by
  unfold State.markLost
  repeat' first | with_reducible assumption | with_reducible apply good_modCtx

theorem State.sendPiece_good {lc : Nat} (p k : Nat) (d : Descr) (off : Nat) (s : State) (hs : Good lc s) :
    Good lc (State.sendPiece p k d off s) := by
  unfold State.sendPiece
  repeat' first | with_reducible assumption | with_reducible apply State.sendSeq_good | split

theorem State.sendPieces_good {lc : Nat} (p k : Nat) (d : Descr) (n i : Nat) (s : State) (hs : Good lc s) : Good lc (State.sendPieces p k d n i s).1 := by
  induction n generalizing i s with
  | zero => exact hs
  | succ n ih =>
    unfold State.sendPieces
    split
    · exact ih _ _ (State.sendPiece_good _ _ _ _ _ hs)
    · exact hs

theorem State.carryDone_good {lc : Nat} (p c : Nat) (d : Descr) (s : State) (hs : Good lc s) :
    Good lc (State.carryDone p c d s) := by
  unfold State.carryDone
  repeat' first
    | with_reducible refine fun _ => ?_
    | with_reducible assumption
    | with_reducible apply State.signalCtx_good
    | lift_lets -underBinder
    | (intro t; refine good_elim (l := lc) (a := t) ?_ ?_ <;> [skip; (intro t hh hu; rw [← hu]; clear hu)])
    | (intro k; refine canonical_elim (a := k) ?_ ?_ <;> [skip; (intro k hk hu; rw [← hu]; clear hu)])
    | (intro k; refine parcel_elim (a := k) ?_ ?_ <;> [skip; (intro k hk hu; rw [← hu]; clear hu)])
    | (intro k; refine bounded_elim (a := k) ?_ ?_ <;> [skip; (intro k hk hu; rw [← hu]; clear hu)])
    | (intro w)
    | dsimp only [t]
    | dsimp only [k]
    | split
    | dsimp +zetaDelta only
    | (refine Good.of_view hh ?_; dsimp only [State.view]; done)
    | (refine Good.of_view hs ?_; dsimp only [State.view]; done)
    | (refine Good.of_view ‹Good lc _› ?_; dsimp only [State.view]; done)

theorem State.send_good {lc : Nat} (p k q : Nat) (s : State) (hs : Good lc s) :
    Good lc (State.send p k q s) := by
  unfold State.send
  repeat' first
    | with_reducible assumption | with_reducible apply State.carryDone_good | with_reducible apply State.faultCtx_good
    | with_reducible apply State.markLost_good | with_reducible apply good_modConn | with_reducible apply good_modCtx
    | with_reducible apply State.sendPieces_good | with_reducible apply State.setConnState_good | lift_lets -underBinder
    | (intro t; refine good_elim (l := lc) (a := t) ?_ ?_ <;> [skip; (intro t hh hu; rw [← hu]; clear hu)]) | (intro w) | dsimp only [t] | split

theorem execSend_good {lc : Nat} (p k q : Nat) (s : State) (hs : Good lc s) :
    GoodOut lc (execSend p k q s) := by
  unfold execSend
  repeat' first | with_reducible assumption | with_reducible apply State.send_good | with_reducible apply goodOut_next

theorem execRodMark_good {lc : Nat} (p k q : Nat) (s : State) (hs : Good lc s) :
    GoodOut lc (execRodMark p k q s) := by
  unfold execRodMark
  repeat' first | with_reducible assumption | with_reducible apply good_modCtx | with_reducible apply goodOut_next | split

theorem execCarryComplete_good {lc : Nat} (p k q i : Nat) (s : State) (hs : Good lc s) :
    GoodOut lc (execCarryComplete p k q i s) := by
  unfold execCarryComplete
  repeat' first
    | with_reducible assumption | with_reducible apply State.carryDone_good | with_reducible apply good_modCtx | with_reducible apply goodOut_next
    | split

theorem execStakeWaitMet_good {lc : Nat} (p k q : Nat) (s : State) (hs : Good lc s) :
    GoodOut lc (execStakeWaitMet p k q s) := by
  unfold execStakeWaitMet
  repeat' first | with_reducible assumption | with_reducible apply good_modCtx | with_reducible apply goodOut_next | split

end Sys2Proof.Machine
end

