-- ==== Sys2Proof/Laws/SoundEasements.lean ====
section
/-! SUPPORT. Every operation of Machine/Easements.lean keeps soundness and the life cycle. -/

set_option linter.unusedTactic false
set_option linter.unreachableTactic false
set_option linter.unusedVariables false
set_option linter.unusedSimpArgs false
set_option Elab.async false

namespace Sys2Proof.Machine

theorem execEasementGrant_good {lc : Nat} (fn : Nat) (s : State) (hs : Good lc s) :
    GoodOut lc (execEasementGrant fn s) := by
  unfold execEasementGrant
  repeat' first
    | with_reducible refine fun _ => ?_ | with_reducible assumption | with_reducible apply State.gated_good | with_reducible apply guarded_good
    | with_reducible apply Verdict.no_good | with_reducible apply good_putEase | with_reducible apply State.runDrawer_good
    | with_reducible apply Taken.withPayload_good | with_reducible apply Verdict.good_done | with_reducible apply goodOut_next | split

theorem execEasementRevoke_good {lc : Nat} (fn : Nat) (s : State) (hs : Good lc s) :
    GoodOut lc (execEasementRevoke fn s) := by
  unfold execEasementRevoke
  repeat' first
    | with_reducible refine fun _ => ?_ | with_reducible assumption | with_reducible apply State.gated_good | with_reducible apply guarded_good
    | with_reducible apply Verdict.no_good | with_reducible apply good_putEase | with_reducible apply State.runDrawer_good
    | with_reducible apply Taken.withPayload_good | with_reducible apply Verdict.good_long | with_reducible apply Verdict.good_wait
    | with_reducible apply goodOut_next | lift_lets -underBinder
    | (intro t; refine good_elim (l := lc) (a := t) ?_ ?_ <;> [skip; (intro t hh hu; rw [← hu]; clear hu)]) | (intro w) | split
    | with_reducible apply good_fabric | exact Good.conns ‹_› | exact Good.eases ‹_›

theorem State.drainPost_good {lc : Nat} (d : Drain) (ns : Nat) (s : State) (hs : Good lc s) :
    Good lc (State.drainPost d ns s) := by
  unfold State.drainPost
  repeat' first
    | with_reducible assumption | with_reducible apply State.respond_good | with_reducible apply State.takeAll_good
    | with_reducible apply good_fabric | exact Good.conns ‹_› | exact Good.eases ‹_›

theorem State.countDrained_good {lc : Nat} (h : HeldMsg) (s : State) (hs : Good lc s) :
    Good lc (State.countDrained h s) := by
  unfold State.countDrained
  repeat' first | with_reducible assumption | with_reducible apply good_fabric | exact Good.conns ‹_› | exact Good.eases ‹_›

theorem State.easeRevokes_good {lc : Nat} (s : State) (hs : Good lc s) : Good lc (State.easeRevokes s) := by
  refine good_foldl hs fun t d ht => ?_
  split
  · have h1 := good_putEase (id := d.ease) (e := { t.ease d.ease with valid := false, used := false, revokeDue := false, gen := nextGen (t.ease d.ease).gen }) ht
    have h2 : ∀ (u : State) (x : List Drain), Good lc u → Good lc { u with fabric := { u.fabric with drains := x } } :=
      fun u x hu => good_fabric hu hu.conns hu.eases
    dsimp only
    split
    · exact State.drainPost_good _ _ _ (h2 _ _ h1)
    · exact h2 _ _ h1
  · exact ht

theorem State.easeGrants_good {lc : Nat} (s : State) (hs : Good lc s) : Good lc (State.easeGrants s) := by
  refine good_fabric hs hs.conns (rising_keys ?_ hs.eases)
  rw [List.map_map]
  refine List.map_congr_left fun x _ => ?_
  show (if x.2.grantDue then _ else x : Nat × Ease).1 = x.1
  split <;> rfl

theorem State.easeBoundary_good {lc : Nat} (s : State) (hs : Good lc s) :
    Good lc (State.easeBoundary s) := by
  unfold State.easeBoundary
  repeat' first
    | with_reducible refine fun _ => ?_
    | with_reducible assumption
    | with_reducible apply State.easeGrants_good
    | with_reducible apply State.easeRevokes_good
    | lift_lets -underBinder
    | (intro t; refine good_elim (l := lc) (a := t) ?_ ?_ <;> [skip; (intro t hh hu; rw [← hu]; clear hu)])
    | (intro k; refine canonical_elim (a := k) ?_ ?_ <;> [skip; (intro k hk hu; rw [← hu]; clear hu)])
    | (intro k; refine parcel_elim (a := k) ?_ ?_ <;> [skip; (intro k hk hu; rw [← hu]; clear hu)])
    | (intro k; refine bounded_elim (a := k) ?_ ?_ <;> [skip; (intro k hk hu; rw [← hu]; clear hu)])
    | (intro w)
    | dsimp only [t]
    | dsimp only [k]
    | split
    | dsimp +zetaDelta only
    | (refine Good.of_view hh ?_; dsimp only [State.view]; done)
    | (refine Good.of_view hs ?_; dsimp only [State.view]; done)
    | (refine Good.of_view ‹Good lc _› ?_; dsimp only [State.view]; done)

theorem execRevokeDrainDone_good {lc : Nat} (ease ns : Nat) (s : State) (hs : Good lc s) :
    GoodOut lc (execRevokeDrainDone ease ns s) := by
  unfold execRevokeDrainDone
  repeat' first | with_reducible assumption | with_reducible apply State.drainPost_good | with_reducible apply goodOut_next | split

end Sys2Proof.Machine
end

