-- ==== Sys2Proof/Laws/SoundConns.lean ====
section
/-! SUPPORT. Every operation of Machine/Conns.lean keeps soundness and the life cycle. -/

set_option linter.unusedTactic false
set_option linter.unreachableTactic false
set_option linter.unusedVariables false
set_option linter.unusedSimpArgs false
set_option Elab.async false

namespace Sys2Proof.Machine

theorem State.spill_good {lc : Nat} (id : Nat) (s : State) (hs : Good lc s) :
    Good lc (State.spill id s) := by
  unfold State.spill
  repeat' first | with_reducible apply State.emit_good | (refine Good.of_view hs ?_; dsimp only [State.view]; done)

theorem State.makeRoom_good {lc : Nat} (p : Nat) (s : State) (hs : Good lc s) :
    Good lc (State.makeRoom p s) := by
  unfold State.makeRoom
  repeat' first | with_reducible assumption | with_reducible apply State.spill_good | split

theorem State.sendOpen_good {lc : Nat} (id : Nat) (s : State) (hs : Good lc s) :
    Good lc (State.sendOpen id s) := by
  unfold State.sendOpen
  repeat' first | with_reducible assumption | with_reducible apply good_modConn | with_reducible apply State.toStation_good

theorem State.drawOpen_good {lc : Nat} (id : Nat) (s : State) (hs : Good lc s) :
    Good lc (State.drawOpen id s) := by
  unfold State.drawOpen
  repeat' first | with_reducible assumption | with_reducible apply State.drawn_good | with_reducible apply good_modConn

theorem execConnOpen_good {lc : Nat} (fn : Nat) (s : State) (hs : Good lc s) :
    GoodOut lc (execConnOpen fn s) := by
  unfold execConnOpen
  repeat' first
    | with_reducible refine fun _ => ?_ | with_reducible assumption | with_reducible apply State.drawOpen_good
    | with_reducible apply State.gated_good | with_reducible apply guarded_good | with_reducible apply State.makeRoom_good
    | with_reducible apply Verdict.no_good | with_reducible apply good_putConn | with_reducible apply State.runDrawer_good
    | with_reducible apply State.sendOpen_good | with_reducible apply State.setConnState_good | with_reducible apply State.touchConn_good
    | with_reducible apply Taken.withPayload_good | with_reducible apply Verdict.good_done | with_reducible apply Verdict.good_wait
    | with_reducible apply goodOut_next | lift_lets -underBinder | (intro w) | split

theorem State.sendClose_good {lc : Nat} (id : Nat) (s : State) (hs : Good lc s) :
    Good lc (State.sendClose id s) := by
  unfold State.sendClose
  repeat' first
    | with_reducible assumption | with_reducible apply State.handOver_good | with_reducible apply good_modConn | lift_lets -underBinder | (intro w)
    | split

theorem State.tryClose_good {lc : Nat} (id : Nat) (s : State) (hs : Good lc s) :
    Good lc (State.tryClose id s) := by
  unfold State.tryClose
  repeat' first
    | with_reducible assumption | with_reducible apply State.sendClose_good | with_reducible apply State.setConnState_good | lift_lets -underBinder
    | (intro w) | split

theorem State.beginClose_good {lc : Nat} (id : Nat) (why : ConnCause) (s : State) (hs : Good lc s) :
    Good lc (State.beginClose id why s) := by
  unfold State.beginClose
  repeat' first
    | with_reducible assumption | with_reducible apply good_modConn | with_reducible apply State.setConnState_good
    | with_reducible apply State.tryClose_good

theorem execConnClose_good {lc : Nat} (fn : Nat) (s : State) (hs : Good lc s) :
    GoodOut lc (execConnClose fn s) := by
  unfold execConnClose
  repeat' first
    | with_reducible refine fun _ => ?_ | with_reducible assumption | with_reducible apply State.beginClose_good
    | with_reducible apply State.gated_good | with_reducible apply guarded_good | with_reducible apply Verdict.no_good
    | with_reducible apply State.runDrawer_good | with_reducible apply State.setConnState_good | with_reducible apply Taken.withPayload_good
    | with_reducible apply Verdict.good_done | with_reducible apply goodOut_next | split

theorem execConnStatus_good {lc : Nat} (fn : Nat) (s : State) (hs : Good lc s) :
    GoodOut lc (execConnStatus fn s) := by
  unfold execConnStatus
  repeat' first
    | with_reducible refine fun _ => ?_ | with_reducible assumption | with_reducible apply State.gated_good | with_reducible apply guarded_good
    | with_reducible apply Verdict.no_good | with_reducible apply State.runDrawer_good | with_reducible apply Taken.withPayload_good
    | with_reducible apply Verdict.good_done | with_reducible apply goodOut_next | split

theorem execClosingTimeout_good {lc : Nat} (conn : Nat) (s : State) (hs : Good lc s) :
    GoodOut lc (execClosingTimeout conn s) := by
  unfold execClosingTimeout
  repeat' first
    | with_reducible assumption | with_reducible apply State.sendClose_good | with_reducible apply State.setConnState_good
    | with_reducible apply goodOut_next | split

theorem State.keysConfirmed_good {lc : Nat} (id : Nat) (s : State) (hs : Good lc s) :
    Good lc (State.keysConfirmed id s) := by
  unfold State.keysConfirmed
  repeat' first
    | with_reducible assumption | with_reducible apply State.drawn_good | with_reducible apply good_modConn
    | with_reducible apply State.sendSeq_good | with_reducible apply State.setConnState_good | lift_lets -underBinder | (intro w) | split

theorem State.bothVerified_good {lc : Nat} (id : Nat) (s : State) (hs : Good lc s) :
    Good lc (State.bothVerified id s) := by
  unfold State.bothVerified
  repeat' first | with_reducible assumption | with_reducible apply State.setConnState_good | lift_lets -underBinder | (intro w) | split

theorem execOpenResend_good {lc : Nat} (conn : Nat) (s : State) (hs : Good lc s) :
    GoodOut lc (execOpenResend conn s) := by
  unfold execOpenResend
  repeat' first | with_reducible assumption | with_reducible apply State.sendOpen_good | with_reducible apply goodOut_next | split

theorem execOpenTimeout_good {lc : Nat} (conn : Nat) (s : State) (hs : Good lc s) :
    GoodOut lc (execOpenTimeout conn s) := by
  unfold execOpenTimeout
  repeat' first | with_reducible assumption | with_reducible apply State.setConnState_good | with_reducible apply goodOut_next | split

theorem execFetchResend_good {lc : Nat} (conn seq : Nat) (s : State) (hs : Good lc s) :
    GoodOut lc (execFetchResend conn seq s) := by
  unfold execFetchResend
  repeat' first
    | with_reducible assumption | with_reducible apply good_modConn | with_reducible apply State.toStation_good | with_reducible apply goodOut_next
    | lift_lets -underBinder | (intro w) | split

theorem State.reportPeer_good {lc : Nat} (m : Nat) (s : State) (hs : Good lc s) :
    Good lc (State.reportPeer m s) := by
  unfold State.reportPeer
  repeat' first
    | with_reducible apply State.evMgmt_good | with_reducible apply State.evPf_good | split
    | (refine Good.of_view hs ?_; dsimp only [State.view]; done)

theorem execConnTimeout_good {lc : Nat} (conn : Nat) (s : State) (hs : Good lc s) :
    GoodOut lc (execConnTimeout conn s) := by
  unfold execConnTimeout
  repeat' first
    | with_reducible assumption | with_reducible apply State.reportPeer_good | with_reducible apply State.setConnState_good
    | with_reducible apply goodOut_next | split

theorem State.unspill_good {lc : Nat} (id : Nat) (s : State) (hs : Good lc s) :
    Good lc (State.unspill id s) := by
  unfold State.unspill
  repeat' first | (refine Good.of_view hs ?_; dsimp only [State.view]; done)

theorem execSpillFetchDone_good {lc : Nat} (conn recConn recBootGen recCount : Nat) (recSealed : Bytes) (recTag : BitVec 128) (s : State) (hs : Good lc s) :
    GoodOut lc (execSpillFetchDone conn recConn recBootGen recCount recSealed recTag s) := by
  unfold execSpillFetchDone
  repeat' first
    | with_reducible assumption | with_reducible apply State.evFn_good | with_reducible apply State.evPf_good
    | with_reducible apply State.makeRoom_good | with_reducible apply good_modConn | with_reducible apply State.setConnState_good
    | with_reducible apply State.touchConn_good | with_reducible apply State.unspill_good | with_reducible apply goodOut_next | split

theorem State.completeOne_good {lc : Nat} (id : Nat) (s : State) (hs : Good lc s) :
    Good lc (State.completeOne id s) := by
  unfold State.completeOne
  repeat' first
    | with_reducible assumption | with_reducible apply State.handOver_good | with_reducible apply good_modConn | lift_lets -underBinder | (intro w)
    | split

theorem State.completes_good {lc : Nat} (s : State) (hs : Good lc s) :
    Good lc (State.completes s) := by
  unfold State.completes
  repeat' first
    | with_reducible refine fun _ => ?_ | with_reducible assumption | with_reducible apply State.completeOne_good | with_reducible apply good_foldl

theorem State.refusedReport_good {lc : Nat} (s : State) (hs : Good lc s) :
    Good lc (State.refusedReport s) := by
  unfold State.refusedReport
  repeat' first
    | with_reducible assumption | with_reducible apply State.evFn_good | with_reducible apply good_foldl | with_reducible apply good_modConn
    | lift_lets -underBinder | (intro w) | split

end Sys2Proof.Machine
end

