-- ==== Sys2Proof/Laws/SoundContain.lean ====
section
/-! SUPPORT. Every operation of Machine/Contain.lean keeps soundness and the life cycle. -/

set_option linter.unusedTactic false
set_option linter.unreachableTactic false
set_option linter.unusedVariables false
set_option linter.unusedSimpArgs false
set_option Elab.async false

namespace Sys2Proof.Machine

theorem State.addJoin_good {lc : Nat} (kind old new : Nat) (s : State) (hs : Good lc s) :
    Good lc (State.addJoin kind old new s) := by
  unfold State.addJoin
  repeat' first | (refine Good.of_view hs ?_; dsimp only [State.view]; done)

theorem State.retirePlat_good {lc : Nat} (c keep : Nat) (bench : Option Nat) (s : State) (hs : Good lc s) :
    Good lc (State.retirePlat c keep bench s) := by
  unfold State.retirePlat
  repeat' first | with_reducible assumption | with_reducible apply State.platPend_good | split

theorem State.retireCluster_good {lc : Nat} (c : Nat) (bench : Option Nat) (s : State) (hs : Good lc s) :
    Good lc (State.retireCluster c bench s) := by
  unfold State.retireCluster
  repeat' first | with_reducible assumption | with_reducible apply State.addJoin_good | with_reducible apply State.retirePlat_good | split

theorem State.clusterFault_good {lc : Nat} (c cause : Nat) (bench : Option Nat) (s : State) (hs : Good lc s) :
    Good lc (State.clusterFault c cause bench s) := by
  unfold State.clusterFault
  repeat' first
    | with_reducible refine fun _ => ?_ | with_reducible assumption | with_reducible apply State.faultCtxWith_good | with_reducible apply good_foldl
    | with_reducible apply canonical_foldl | with_reducible apply good_modCluster | with_reducible apply good_modClusters
    | with_reducible apply State.raiseFault_good | with_reducible apply State.retireCluster_good | with_reducible apply State.cluster_canonical
    | with_reducible apply State.parcel_canonical | split | dsimp only | exact (‹Cluster.canonical _›).2.2.1 _ ‹_› | exact (‹Cluster.canonical _›).1
    | exact (‹Cluster.canonical _›).2.1 | exact (‹Cluster.canonical _›).2.2.2.1 | exact (‹Cluster.canonical _›).2.2.2.2.1
    | exact (‹Cluster.canonical _›).2.2.2.2.2 | with_reducible apply Cluster.canonical_intro

theorem State.parcelFault_good {lc : Nat} (p cause : Nat) (s : State) (hs : Good lc s) :
    Good lc (State.parcelFault p cause s) := by
  unfold State.parcelFault
  repeat' first
    | with_reducible refine fun _ => ?_ | with_reducible assumption | with_reducible apply State.faultCtxWith_good | with_reducible apply good_foldl
    | with_reducible apply canonical_foldl | with_reducible apply good_modClusters | with_reducible apply good_modParcel
    | with_reducible apply State.raiseFault_good | with_reducible apply State.parcel_canonical | split | exact (‹Cluster.canonical _›).2.2.1 _ ‹_›
    | exact (‹Cluster.canonical _›).1 | exact (‹Cluster.canonical _›).2.1 | exact (‹Cluster.canonical _›).2.2.2.1
    | exact (‹Cluster.canonical _›).2.2.2.2.1 | exact (‹Cluster.canonical _›).2.2.2.2.2 | exact (‹Parcel.canonical _›).1
    | exact (‹Parcel.canonical _›).2 | with_reducible apply Cluster.canonical_intro | with_reducible apply Parcel.canonical_intro

theorem State.moduleFault_good {lc : Nat} (unitId cause : Nat) (s : State) (hs : Good lc s) :
    Good lc (State.moduleFault unitId cause s) := by
  unfold State.moduleFault
  repeat' first
    | with_reducible assumption | with_reducible apply State.raiseFault_good | lift_lets -underBinder
    | (intro t; refine good_elim (l := lc) (a := t) ?_ ?_ <;> [skip; (intro t hh hu; rw [← hu]; clear hu)]) | (intro w)
    | (refine Good.of_view hh ?_; dsimp only [State.view]; done)

end Sys2Proof.Machine
end

