-- ==== Sys2Proof/Laws/SoundEngine.lean ====
section
/-! SUPPORT. Every operation of Machine/Engine.lean keeps soundness and the life cycle. -/

set_option linter.unusedTactic false
set_option linter.unreachableTactic false
set_option linter.unusedVariables false
set_option linter.unusedSimpArgs false
set_option Elab.async false

namespace Sys2Proof.Machine

theorem Cluster.withWeights_good (t : TileStep) (k : Cluster) (hk : k.canonical) :
    (Cluster.withWeights t k).canonical := by
  unfold Cluster.withWeights
  repeat' first | split | assumption

theorem State.tileStep_good {lc : Nat} (p k : Nat) (t : TileStep) (s : State) (hs : Good lc s) :
    Good lc (State.tileStep p k t s) := by
  unfold State.tileStep
  repeat' first
    | with_reducible refine fun _ => ?_ | with_reducible assumption | with_reducible apply State.faultCtx_good
    | with_reducible apply good_modLogical | with_reducible apply Cluster.withWeights_good | with_reducible apply State.lead_canonical
    | lift_lets -underBinder | (intro t; refine good_elim (l := lc) (a := t) ?_ ?_ <;> [skip; (intro t hh hu; rw [← hu]; clear hu)])
    | (intro k; refine canonical_elim (a := k) ?_ ?_ <;> [skip; (intro k hk hu; rw [← hu]; clear hu)])
    | (intro k; refine parcel_elim (a := k) ?_ ?_ <;> [skip; (intro k hk hu; rw [← hu]; clear hu)])
    | (intro k; refine bounded_elim (a := k) ?_ ?_ <;> [skip; (intro k hk hu; rw [← hu]; clear hu)]) | (intro w) | dsimp only [t] | dsimp only [k]
    | split | dsimp +zetaDelta only | exact (‹Cluster.canonical _›).2.2.1 _ ‹_› | exact (‹Cluster.canonical _›).1
    | exact (‹Cluster.canonical _›).2.1 | exact (‹Cluster.canonical _›).2.2.2.1 | exact (‹Cluster.canonical _›).2.2.2.2.1
    | exact (‹Cluster.canonical _›).2.2.2.2.2 | with_reducible apply Cluster.canonical_intro

theorem execTileStep_good {lc : Nat} (p k : Nat) (t : TileStep) (s : State) (hs : Good lc s) :
    GoodOut lc (execTileStep p k t s) := by
  unfold execTileStep
  repeat' first | with_reducible assumption | with_reducible apply State.tileStep_good | with_reducible apply goodOut_next

theorem execWeightLoad_good {lc : Nat} (p k addr : Nat) (s : State) (hs : Good lc s) :
    GoodOut lc (execWeightLoad p k addr s) := by
  unfold execWeightLoad
  repeat' first
    | with_reducible refine fun _ => ?_ | with_reducible assumption | with_reducible apply good_modLogical | with_reducible apply goodOut_next
    | with_reducible apply goodOut_fault | split | exact (‹Cluster.canonical _›).2.2.1 _ ‹_› | exact (‹Cluster.canonical _›).1
    | exact (‹Cluster.canonical _›).2.1 | exact (‹Cluster.canonical _›).2.2.2.1 | exact (‹Cluster.canonical _›).2.2.2.2.1
    | exact (‹Cluster.canonical _›).2.2.2.2.2 | with_reducible apply Cluster.canonical_intro

theorem State.popLanding_good {lc : Nat} (p k : Nat) (s : State) (hs : Good lc s) :
    Good lc (State.popLanding p k s) := by
  unfold State.popLanding
  repeat' first
    | with_reducible refine fun _ => ?_ | with_reducible assumption | with_reducible apply good_modLogical | split
    | exact (‹Cluster.canonical _›).2.2.1 _ ‹_› | exact (‹Cluster.canonical _›).1 | exact (‹Cluster.canonical _›).2.1
    | exact (‹Cluster.canonical _›).2.2.2.1 | exact (‹Cluster.canonical _›).2.2.2.2.1 | exact (‹Cluster.canonical _›).2.2.2.2.2
    | with_reducible apply Cluster.canonical_intro

theorem State.landOne_good {lc : Nat} (p k : Nat) (w : ShelfWrite) (s : State) (hs : Good lc s) :
    Good lc (State.landOne p k w s) := by
  unfold State.landOne
  repeat' first | with_reducible assumption | with_reducible apply State.landWrite_good

theorem State.shelfWrite_good {lc : Nat} (p k : Nat) (s : State) (hs : Good lc s) :
    Good lc (State.shelfWrite p k s) := by
  unfold State.shelfWrite
  repeat' first
    | with_reducible refine fun _ => ?_ | with_reducible assumption | with_reducible apply State.landOne_good | with_reducible apply good_modLogical
    | with_reducible apply State.popLanding_good | with_reducible apply State.cluster_canonical | split | exact (‹Cluster.canonical _›).2.2.1 _ ‹_›
    | exact (‹Cluster.canonical _›).1 | exact (‹Cluster.canonical _›).2.1 | exact (‹Cluster.canonical _›).2.2.2.1
    | exact (‹Cluster.canonical _›).2.2.2.2.1 | exact (‹Cluster.canonical _›).2.2.2.2.2 | with_reducible apply Cluster.canonical_intro

theorem execShelfWrite_good {lc : Nat} (p k : Nat) (s : State) (hs : Good lc s) :
    GoodOut lc (execShelfWrite p k s) := by
  unfold execShelfWrite
  repeat' first | with_reducible assumption | with_reducible apply State.shelfWrite_good | with_reducible apply goodOut_next

theorem State.evVote_good {lc : Nat} (p m outcome : Nat) (s : State) (hs : Good lc s) :
    Good lc (State.evVote p m outcome s) := by
  unfold State.evVote
  repeat' first | with_reducible assumption | with_reducible apply State.evBoth_good | with_reducible apply State.evMgmt_good

theorem State.clearSpare_good {lc : Nat} (m : Nat) (s : State) (hs : Good lc s) :
    Good lc (State.clearSpare m s) := by
  unfold State.clearSpare
  repeat' first
    | with_reducible refine fun _ => ?_ | with_reducible assumption | with_reducible apply Cluster.dropStores_good
    | with_reducible apply good_modCluster | lift_lets -underBinder
    | (intro t; refine good_elim (l := lc) (a := t) ?_ ?_ <;> [skip; (intro t hh hu; rw [← hu]; clear hu)])
    | (intro k; refine canonical_elim (a := k) ?_ ?_ <;> [skip; (intro k hk hu; rw [← hu]; clear hu)])
    | (intro k; refine parcel_elim (a := k) ?_ ?_ <;> [skip; (intro k hk hu; rw [← hu]; clear hu)])
    | (intro k; refine bounded_elim (a := k) ?_ ?_ <;> [skip; (intro k hk hu; rw [← hu]; clear hu)]) | (intro w) | dsimp only [t] | dsimp only [k]
    | split | dsimp +zetaDelta only | exact (‹Cluster.canonical _›).2.2.1 _ ‹_› | exact (‹Cluster.canonical _›).1
    | exact (‹Cluster.canonical _›).2.1 | exact (‹Cluster.canonical _›).2.2.2.2.1 | exact (‹Cluster.canonical _›).2.2.2.2.2 | rfl
    | with_reducible apply Cluster.canonical_intro

theorem State.pairVote_good {lc : Nat} (p k : Nat) (agree eq0 eq1 : Bool) (s : State) (hs : Good lc s) :
    Good lc (State.pairVote p k agree eq0 eq1 s) := by
  unfold State.pairVote
  repeat' first
    | with_reducible refine fun _ => ?_ | with_reducible assumption | with_reducible apply State.clearSpare_good
    | with_reducible apply State.clusterFault_good | with_reducible apply State.evVote_good | with_reducible apply State.faultCtx_good
    | with_reducible apply State.landOne_good | with_reducible apply good_modLogical | with_reducible apply State.popLanding_good
    | with_reducible apply State.cluster_canonical | split | dsimp only | exact (‹Cluster.canonical _›).2.2.1 _ ‹_›
    | exact (‹Cluster.canonical _›).1 | exact (‹Cluster.canonical _›).2.1 | exact (‹Cluster.canonical _›).2.2.2.1
    | exact (‹Cluster.canonical _›).2.2.2.2.1 | exact (‹Cluster.canonical _›).2.2.2.2.2 | with_reducible apply Cluster.canonical_intro

theorem execPairVote_good {lc : Nat} (p k : Nat) (agree eq0 eq1 : Bool) (s : State) (hs : Good lc s) :
    GoodOut lc (execPairVote p k agree eq0 eq1 s) := by
  unfold execPairVote
  repeat' first | with_reducible assumption | with_reducible apply State.pairVote_good | with_reducible apply goodOut_next

theorem execPreload_good {lc : Nat} (p k : Nat) (pl : Preload) (s : State) (hs : Good lc s) :
    GoodOut lc (execPreload p k pl s) := by
  unfold execPreload
  repeat' first
    | with_reducible assumption | with_reducible apply State.faultCtx_good | with_reducible apply State.preload_good
    | with_reducible apply goodOut_next | split

theorem execDrain_good {lc : Nat} (p k row : Nat) (raw reset : Bool) (dst : Nat) (s : State) (hs : Good lc s) :
    GoodOut lc (execDrain p k row raw reset dst s) := by
  unfold execDrain
  repeat' first
    | with_reducible assumption | with_reducible apply State.drain_good | with_reducible apply State.writeSpace_good
    | with_reducible apply goodOut_next | split

end Sys2Proof.Machine
end

