-- ==== Sys2Proof/Laws/SoundCatalog.lean ====
section
/-! SUPPORT. Every operation of Machine/Catalog.lean keeps soundness and the life cycle. -/

set_option linter.unusedTactic false
set_option linter.unreachableTactic false
set_option linter.unusedVariables false
set_option linter.unusedSimpArgs false
set_option Elab.async false

namespace Sys2Proof.Machine

theorem execNodeStart_good {lc : Nat} (p k node : Nat) (s : State) (hs : Good lc s) :
    GoodOut lc (execNodeStart p k node s) := by
  unfold execNodeStart
  repeat' first | with_reducible assumption | with_reducible apply good_modCtx | with_reducible apply goodOut_next | split

theorem execNodeComplete_good {lc : Nat} (p k node : Nat) (s : State) (hs : Good lc s) :
    GoodOut lc (execNodeComplete p k node s) := by
  unfold execNodeComplete
  repeat' first
    | with_reducible assumption | with_reducible apply good_modCtx | with_reducible apply State.signalCtx_good | with_reducible apply goodOut_next
    | split

theorem State.ifUp_good {lc : Nat} (p c : Nat) (g : State → State) (s : State) (hg : ∀ t, Good lc t → Good lc (g t)) (hs : Good lc s) :
    Good lc (State.ifUp p c g s) := by
  unfold State.ifUp
  repeat' first | with_reducible assumption | with_reducible apply hg | split

theorem State.operate_good {lc : Nat} (p k n op : Nat) (effect : Nat → Context → Node → State → State) (s : State) (heffect : ∀ x0 x1 x2 x3, Good lc x3 → Good lc (effect x0 x1 x2 x3)) (hs : Good lc s) :
    Good lc (State.operate p k n op effect s) := by
  unfold State.operate
  repeat' first
    | with_reducible refine fun _ => ?_ | with_reducible assumption | with_reducible apply State.ifUp_good | with_reducible apply good_modCtx
    | with_reducible apply heffect | split

theorem State.discard_good {lc : Nat} (p c reason n : Nat) (s : State) (hs : Good lc s) :
    Good lc (State.discard p c reason n s) := by
  unfold State.discard
  repeat' first | with_reducible assumption | with_reducible apply good_modCtx

theorem State.scribble_good {lc : Nat} (p k a n : Nat) (s : State) (hs : Good lc s) :
    Good lc (State.scribble p k a n s) := by
  unfold State.scribble
  repeat' first | with_reducible assumption | with_reducible apply State.drawMany_good | with_reducible apply State.writeSpace_good

theorem State.scribbleRow_good {lc : Nat} (p k : Nat) (s : State) (r : Nat) (hs : Good lc s) :
    Good lc (State.scribbleRow p k s r) := by
  unfold State.scribbleRow
  repeat' first
    | with_reducible refine fun _ => ?_ | with_reducible assumption | with_reducible apply State.drawMany_good
    | with_reducible apply good_modLogical | with_reducible apply Cluster.putRow_good | split

theorem State.scribbleWork_good {lc : Nat} (p k row a n : Nat) (s : State) (hs : Good lc s) :
    Good lc (State.scribbleWork p k row a n s) := by
  unfold State.scribbleWork
  repeat' first
    | with_reducible assumption | with_reducible apply good_foldl | with_reducible apply State.scribble_good
    | with_reducible apply State.scribbleRow_good

end Sys2Proof.Machine
end

