-- ==== Sys2Proof/Laws/SoundLeaves.lean ====
section
/-! SUPPORT. Every operation of Machine/Leaves.lean keeps soundness and the life cycle. -/

set_option linter.unusedTactic false
set_option linter.unreachableTactic false
set_option linter.unusedVariables false
set_option linter.unusedSimpArgs false
set_option Elab.async false

namespace Sys2Proof.Machine

theorem State.publish_good {lc : Nat} (p k : Nat) (header data : Bytes) (s : State) (hs : Good lc s) :
    Good lc (State.publish p k header data s) := by
  unfold State.publish
  repeat' first
    | with_reducible refine fun _ => ?_ | with_reducible assumption | with_reducible apply good_modLogical
    | with_reducible apply State.parcel_canonical | split | dsimp only | exact (‹Cluster.canonical _›).2.2.1 _ ‹_› | exact (‹Cluster.canonical _›).1
    | exact (‹Cluster.canonical _›).2.1 | exact (‹Cluster.canonical _›).2.2.2.1 | exact (‹Cluster.canonical _›).2.2.2.2.1
    | exact (‹Cluster.canonical _›).2.2.2.2.2 | with_reducible apply length_modify_eq | with_reducible apply Cluster.canonical_intro

theorem execLeafDeliver_good {lc : Nat} (p k conn : Nat) (header data : Bytes) (s : State) (hs : Good lc s) :
    GoodOut lc (execLeafDeliver p k conn header data s) := by
  unfold execLeafDeliver
  repeat' first
    | with_reducible refine fun _ => ?_ | with_reducible assumption | with_reducible apply good_modLogical | with_reducible apply State.publish_good
    | with_reducible apply State.lead_canonical | with_reducible apply State.parcel_canonical | with_reducible apply goodOut_next
    | with_reducible apply goodOut_fault | split | exact (‹Cluster.canonical _›).2.2.1 _ ‹_› | exact (‹Cluster.canonical _›).1
    | exact (‹Cluster.canonical _›).2.1 | exact (‹Cluster.canonical _›).2.2.2.1 | exact (‹Cluster.canonical _›).2.2.2.2.1
    | exact (‹Cluster.canonical _›).2.2.2.2.2 | with_reducible apply Cluster.canonical_intro

theorem execLeafDeliveryResume_good {lc : Nat} (p k : Nat) (s : State) (hs : Good lc s) :
    GoodOut lc (execLeafDeliveryResume p k s) := by
  unfold execLeafDeliveryResume
  repeat' first
    | with_reducible refine fun _ => ?_ | with_reducible assumption | with_reducible apply good_modLogical | with_reducible apply State.publish_good
    | with_reducible apply State.lead_canonical | with_reducible apply goodOut_next | with_reducible apply goodOut_fault | split
    | exact (‹Cluster.canonical _›).2.2.1 _ ‹_› | exact (‹Cluster.canonical _›).1 | exact (‹Cluster.canonical _›).2.1
    | exact (‹Cluster.canonical _›).2.2.2.1 | exact (‹Cluster.canonical _›).2.2.2.2.1 | exact (‹Cluster.canonical _›).2.2.2.2.2
    | with_reducible apply Cluster.canonical_intro

theorem Cluster.consume_good (replay : Bool) (i : Nat) (k : Cluster) (hk : k.canonical) :
    (Cluster.consume replay i k).canonical := by
  unfold Cluster.consume
  repeat' first
    | with_reducible refine fun _ => ?_ | with_reducible assumption | split | assumption | dsimp only | exact (‹Cluster.canonical _›).2.2.1 _ ‹_›
    | exact (‹Cluster.canonical _›).1 | exact (‹Cluster.canonical _›).2.1 | exact (‹Cluster.canonical _›).2.2.2.1
    | exact (‹Cluster.canonical _›).2.2.2.2.1 | exact (‹Cluster.canonical _›).2.2.2.2.2 | with_reducible apply length_modify_eq
    | with_reducible apply Cluster.canonical_intro

theorem execFold_good {lc : Nat} (p k node : Nat) (s : State) (hs : Good lc s) :
    GoodOut lc (execFold p k node s) := by
  unfold execFold
  repeat' first
    | with_reducible refine fun _ => ?_ | with_reducible assumption | with_reducible apply State.operate_good | with_reducible apply goodOut_next

theorem State.holdRows_good {lc : Nat} (p k : Nat) (rows : List Nat) (s : State) (hs : Good lc s) :
    Good lc (State.holdRows p k rows s) := by
  unfold State.holdRows
  repeat' first
    | with_reducible refine fun _ => ?_ | with_reducible assumption | with_reducible apply canonical_foldl | with_reducible apply good_modLogical
    | with_reducible apply Cluster.putRow_good | split

theorem State.foldWords_good {lc : Nat} (p c k : Nat) (f : FoldNode) (r : LeafRec) (s : State) (hs : Good lc s) :
    Good lc (State.foldWords p c k f r s) := by
  unfold State.foldWords
  repeat' first
    | with_reducible refine fun _ => ?_ | with_reducible assumption | with_reducible apply good_foldl | with_reducible apply State.ifUp_good
    | with_reducible apply State.landWrite_good

theorem State.foldOne_good {lc : Nat} (p c k : Nat) (x : Context) (f : FoldNode) (r : LeafRec) (s : State) (hs : Good lc s) :
    Good lc (State.foldOne p c k x f r s) := by
  unfold State.foldOne
  repeat' first
    | with_reducible refine fun _ => ?_ | with_reducible assumption | with_reducible apply State.faultCtx_good
    | with_reducible apply State.foldWords_good | with_reducible apply State.holdRows_good | with_reducible apply State.ifUp_good
    | with_reducible apply good_modCtx | with_reducible apply State.signalCtx_good | split

theorem execFoldRecord_good {lc : Nat} (p k : Nat) (s : State) (hs : Good lc s) :
    GoodOut lc (execFoldRecord p k s) := by
  unfold execFoldRecord
  repeat' first
    | with_reducible assumption | with_reducible apply Cluster.consume_good | with_reducible apply State.discard_good
    | with_reducible apply State.foldOne_good | with_reducible apply good_modCtx | with_reducible apply good_modLogical
    | with_reducible apply goodOut_next | lift_lets -underBinder | (intro w) | split

end Sys2Proof.Machine
end

