-- ==== Sys2Proof/Laws/SoundTransport.lean ====
section
/-! SUPPORT. Every operation of Machine/Transport.lean keeps soundness and the life cycle. -/

set_option linter.unusedTactic false
set_option linter.unreachableTactic false
set_option linter.unusedVariables false
set_option linter.unusedSimpArgs false
set_option Elab.async false

namespace Sys2Proof.Machine

theorem State.stationSignal_good {lc : Nat} (id : Nat) (c : Option Nat) (i add : Nat) (s : State) (hs : Good lc s) :
    Good lc (State.stationSignal id c i add s) := by
  unfold State.stationSignal
  repeat' first
    | with_reducible refine fun _ => ?_ | with_reducible assumption | with_reducible apply good_modConn | with_reducible apply good_modParcel
    | with_reducible apply State.signal_good | with_reducible apply State.parcel_canonical | split | dsimp only | exact (‹Parcel.canonical _›).1
    | exact (‹Parcel.canonical _›).2 | with_reducible apply Parcel.canonical_intro

theorem State.refuse_good {lc : Nat} (m : Msg) (code : Nat) (s : State) (hs : Good lc s) :
    Good lc (State.refuse m code s) := by
  unfold State.refuse
  repeat' first
    | with_reducible assumption | with_reducible apply State.toStation_good | split | with_reducible apply good_fabric | exact Good.conns ‹_›
    | exact Good.eases ‹_›

theorem State.refuseArrived_good {lc : Nat} (m : Msg) (code : Nat) (s : State) (hs : Good lc s) :
    Good lc (State.refuseArrived m code s) := by
  unfold State.refuseArrived
  repeat' first | with_reducible assumption | with_reducible apply good_modConn | with_reducible apply State.refuse_good | split

theorem State.answerRead_good {lc : Nat} (id base : Nat) (m : Msg) (s : State) (hs : Good lc s) :
    Good lc (State.answerRead id base m s) := by
  unfold State.answerRead
  repeat' first | with_reducible assumption | with_reducible apply State.handOver_good

theorem State.writeMsg_good {lc : Nat} (id base context : Nat) (m : Msg) (s : State) (hs : Good lc s) :
    Good lc (State.writeMsg id base context m s) := by
  unfold State.writeMsg
  repeat' first | with_reducible assumption | with_reducible apply State.extWrite_good | with_reducible apply State.stationSignal_good | split

theorem State.makeVisible_good {lc : Nat} (id : Nat) (h : HeldMsg) (m : Msg) (s : State) (hs : Good lc s) :
    Good lc (State.makeVisible id h m s) := by
  unfold State.makeVisible
  repeat' first
    | with_reducible assumption | with_reducible apply State.answerRead_good | with_reducible apply State.countDrained_good
    | with_reducible apply good_modConn | with_reducible apply State.publish_good | with_reducible apply State.touchConn_good
    | with_reducible apply State.writeMsg_good | lift_lets -underBinder | (intro w) | split

theorem State.visibleNext_good {lc : Nat} (id : Nat) (s : State) (hs : Good lc s) :
    Good lc (State.visibleNext id s) := by
  unfold State.visibleNext
  repeat' first | with_reducible assumption | with_reducible apply State.makeVisible_good | lift_lets -underBinder | (intro w) | split

theorem execMessageVisible_good {lc : Nat} (conn : Nat) (s : State) (hs : Good lc s) :
    GoodOut lc (execMessageVisible conn s) := by
  unfold execMessageVisible
  repeat' first | with_reducible assumption | with_reducible apply State.visibleNext_good | with_reducible apply goodOut_next | split

theorem State.tagFailed_good {lc : Nat} (id : Nat) (s : State) (hs : Good lc s) :
    Good lc (State.tagFailed id s) := by
  unfold State.tagFailed
  repeat' first
    | with_reducible assumption | with_reducible apply good_modConn | with_reducible apply State.setConnState_good | lift_lets -underBinder
    | (intro t; refine good_elim (l := lc) (a := t) ?_ ?_ <;> [skip; (intro t hh hu; rw [← hu]; clear hu)]) | split

theorem State.hold_good {lc : Nat} (m : Msg) (by_ : Nat × Nat) (s : State) (hs : Good lc s) :
    Good lc (State.hold m by_ s) := by
  unfold State.hold
  repeat' first | with_reducible assumption | with_reducible apply good_modConn | with_reducible apply State.visibleNext_good

theorem State.attestIn_good {lc : Nat} (m : Msg) (s : State) (hs : Good lc s) :
    Good lc (State.attestIn m s) := by
  unfold State.attestIn
  repeat' first
    | with_reducible assumption | with_reducible apply State.bothVerified_good | with_reducible apply State.hold_good
    | with_reducible apply good_modConn | with_reducible apply State.setConnState_good | lift_lets -underBinder | (intro w) | split

theorem State.arrive_good {lc : Nat} (m : Msg) (s : State) (hs : Good lc s) :
    Good lc (State.arrive m s) := by
  unfold State.arrive
  repeat' first
    | with_reducible assumption | with_reducible apply State.attestIn_good | with_reducible apply State.hold_good
    | with_reducible apply good_modConn | with_reducible apply State.refuseArrived_good | with_reducible apply State.setConnState_good
    | with_reducible apply State.tagFailed_good | with_reducible apply State.touchConn_good | lift_lets -underBinder
    | (intro t; refine good_elim (l := lc) (a := t) ?_ ?_ <;> [skip; (intro t hh hu; rw [← hu]; clear hu)]) | (intro w) | dsimp only [t] | split

theorem State.onKind_good {lc : Nat} (kind : Nat) (m : Msg) (f : State → State) (s : State) (hf : ∀ t, Good lc t → Good lc (f t)) (hs : Good lc s) :
    Good lc (State.onKind kind m f s) := by
  unfold State.onKind
  repeat' first | with_reducible assumption | with_reducible apply hf | split

theorem execWrite_good {lc : Nat} (m : Msg) (s : State) (hs : Good lc s) :
    GoodOut lc (execWrite m s) := by
  unfold execWrite
  repeat' first
    | with_reducible assumption | with_reducible apply State.arrive_good | with_reducible apply State.onKind_good
    | with_reducible apply goodOut_next

theorem execReadReq_good {lc : Nat} (m : Msg) (s : State) (hs : Good lc s) :
    GoodOut lc (execReadReq m s) := by
  unfold execReadReq
  repeat' first
    | with_reducible assumption | with_reducible apply State.arrive_good | with_reducible apply State.onKind_good
    | with_reducible apply goodOut_next

theorem execLeaf_good {lc : Nat} (m : Msg) (s : State) (hs : Good lc s) :
    GoodOut lc (execLeaf m s) := by
  unfold execLeaf
  repeat' first
    | with_reducible assumption | with_reducible apply State.arrive_good | with_reducible apply State.onKind_good
    | with_reducible apply goodOut_next

theorem execAttest_good {lc : Nat} (m : Msg) (s : State) (hs : Good lc s) :
    GoodOut lc (execAttest m s) := by
  unfold execAttest
  repeat' first
    | with_reducible assumption | with_reducible apply State.arrive_good | with_reducible apply State.onKind_good
    | with_reducible apply goodOut_next

theorem State.stray_good {lc : Nat} (s : State) (hs : Good lc s) :
    Good lc (State.stray s) := by
  unfold State.stray
  repeat' first | with_reducible assumption | with_reducible apply good_fabric | exact Good.conns ‹_› | exact Good.eases ‹_›

theorem State.answered_good {lc : Nat} (id : Nat) (m : Msg) (sealIt : Bool) (f : State → State) (s : State) (hf : ∀ t, Good lc t → Good lc (f t)) (hs : Good lc s) :
    Good lc (State.answered id m sealIt f s) := by
  unfold State.answered
  repeat' first
    | with_reducible assumption | with_reducible apply good_modConn | with_reducible apply State.stray_good
    | with_reducible apply State.tagFailed_good | with_reducible apply State.touchConn_good | with_reducible apply hf | lift_lets -underBinder
    | (intro w) | split

theorem State.landResp_good {lc : Nat} (id : Nat) (o : Outst) (data : Bytes) (s : State) (hs : Good lc s) :
    Good lc (State.landResp id o data s) := by
  unfold State.landResp
  repeat' first | with_reducible assumption | with_reducible apply State.stationSignal_good | with_reducible apply State.writeSpace_good | split

theorem execReadResp_good {lc : Nat} (m : Msg) (s : State) (hs : Good lc s) :
    GoodOut lc (execReadResp m s) := by
  unfold execReadResp
  repeat' first
    | with_reducible refine fun _ => ?_ | with_reducible assumption | with_reducible apply State.answered_good
    | with_reducible apply State.landResp_good | with_reducible apply good_modConn | with_reducible apply State.onKind_good
    | with_reducible apply State.stray_good | with_reducible apply State.tryClose_good | with_reducible apply goodOut_next | split

theorem execComplete_good {lc : Nat} (m : Msg) (s : State) (hs : Good lc s) :
    GoodOut lc (execComplete m s) := by
  unfold execComplete
  repeat' first
    | with_reducible assumption | with_reducible apply State.answered_good | with_reducible apply State.bothVerified_good
    | with_reducible apply good_modConn | with_reducible apply State.onKind_good | with_reducible apply State.stationSignal_good
    | with_reducible apply State.stray_good | with_reducible apply State.tryClose_good | with_reducible apply goodOut_next | lift_lets -underBinder
    | (intro w) | split

theorem execRefuse_good {lc : Nat} (m : Msg) (s : State) (hs : Good lc s) :
    GoodOut lc (execRefuse m s) := by
  unfold execRefuse
  repeat' first
    | with_reducible refine fun _ => ?_ | with_reducible assumption | with_reducible apply State.answered_good | with_reducible apply good_modConn
    | with_reducible apply State.onKind_good | with_reducible apply State.setConnState_good | with_reducible apply State.stray_good
    | with_reducible apply goodOut_next | lift_lets -underBinder
    | (intro t; refine good_elim (l := lc) (a := t) ?_ ?_ <;> [skip; (intro t hh hu; rw [← hu]; clear hu)]) | split

theorem State.learnPeer_good {lc : Nat} (id : Nat) (body : Bytes) (s : State) (hs : Good lc s) :
    Good lc (State.learnPeer id body s) := by
  unfold State.learnPeer
  repeat' first | with_reducible assumption | with_reducible apply good_modConn

theorem State.sendAck_good {lc : Nat} (id : Nat) (s : State) (hs : Good lc s) :
    Good lc (State.sendAck id s) := by
  unfold State.sendAck
  repeat' first | with_reducible assumption | with_reducible apply good_modConn | with_reducible apply State.toStation_good

theorem State.takeOpen_good {lc : Nat} (id : Nat) (body : Bytes) (s : State) (hs : Good lc s) :
    Good lc (State.takeOpen id body s) := by
  unfold State.takeOpen
  repeat' first | with_reducible assumption | with_reducible apply State.learnPeer_good | with_reducible apply State.sendAck_good | split

theorem execMsgOpen_good {lc : Nat} (m : Msg) (s : State) (hs : Good lc s) :
    GoodOut lc (execMsgOpen m s) := by
  unfold execMsgOpen
  repeat' first
    | with_reducible refine fun _ => ?_ | with_reducible assumption | with_reducible apply State.onKind_good
    | with_reducible apply State.refuse_good | with_reducible apply State.takeOpen_good | with_reducible apply goodOut_next | split

theorem execOpenAck_good {lc : Nat} (m : Msg) (s : State) (hs : Good lc s) :
    GoodOut lc (execOpenAck m s) := by
  unfold execOpenAck
  repeat' first
    | with_reducible refine fun _ => ?_ | with_reducible assumption | with_reducible apply State.keysConfirmed_good
    | with_reducible apply State.onKind_good | with_reducible apply State.refuse_good | with_reducible apply State.setConnState_good
    | with_reducible apply State.takeOpen_good | with_reducible apply goodOut_next | lift_lets -underBinder
    | (intro t; refine good_elim (l := lc) (a := t) ?_ ?_ <;> [skip; (intro t hh hu; rw [← hu]; clear hu)]) | dsimp only [t] | split

theorem execMsgClose_good {lc : Nat} (m : Msg) (s : State) (hs : Good lc s) :
    GoodOut lc (execMsgClose m s) := by
  unfold execMsgClose
  repeat' first
    | with_reducible refine fun _ => ?_ | with_reducible assumption | with_reducible apply State.beginClose_good | with_reducible apply good_modConn
    | with_reducible apply State.onKind_good | with_reducible apply State.refuse_good | with_reducible apply State.stray_good
    | with_reducible apply State.tagFailed_good | with_reducible apply State.tryClose_good | with_reducible apply goodOut_next
    | lift_lets -underBinder | (intro t; refine good_elim (l := lc) (a := t) ?_ ?_ <;> [skip; (intro t hh hu; rw [← hu]; clear hu)]) | split

theorem execRevokeDrainLimit_good {lc : Nat} (ease : Nat) (s : State) (hs : Good lc s) :
    GoodOut lc (execRevokeDrainLimit ease s) := by
  unfold execRevokeDrainLimit
  repeat' first
    | with_reducible refine fun _ => ?_ | with_reducible assumption | with_reducible apply State.drainPost_good | with_reducible apply good_foldl
    | with_reducible apply good_modConn | with_reducible apply State.refuse_good | with_reducible apply goodOut_next | split

end Sys2Proof.Machine
end

