-- ==== Sys2Proof/Laws/SoundLinks.lean ====
section
/-! SUPPORT. Every operation of Machine/Links.lean keeps soundness and the life cycle. -/

set_option linter.unusedTactic false
set_option linter.unreachableTactic false
set_option linter.unusedVariables false
set_option linter.unusedSimpArgs false
set_option Elab.async false

namespace Sys2Proof.Machine

theorem execLinkRetrain_good {lc : Nat} (fn : Nat) (s : State) (hs : Good lc s) :
    GoodOut lc (execLinkRetrain fn s) := by
  unfold execLinkRetrain
  repeat' first
    | with_reducible refine fun _ => ?_ | with_reducible assumption | with_reducible apply State.enterTraining_good
    | with_reducible apply State.gated_good | with_reducible apply guarded_good | with_reducible apply Verdict.no_good
    | with_reducible apply State.runDrawer_good | with_reducible apply Taken.withPayload_good | with_reducible apply Verdict.good_long
    | with_reducible apply Verdict.good_wait | with_reducible apply goodOut_next | lift_lets -underBinder
    | (intro t; refine good_elim (l := lc) (a := t) ?_ ?_ <;> [skip; (intro t hh hu; rw [← hu]; clear hu)]) | (intro w) | split
    | (refine Good.of_view hh ?_; dsimp only [State.view]; done)

theorem State.mgmtRetrain_good {lc : Nat} (m : MgmtMsg) (s : State) (hs : Good lc s) :
    Good lc (State.mgmtRetrain m s) := by
  unfold State.mgmtRetrain
  repeat' first
    | with_reducible assumption | with_reducible apply State.answerMgmt_good | with_reducible apply State.enterTraining_good
    | lift_lets -underBinder | (intro t; refine good_elim (l := lc) (a := t) ?_ ?_ <;> [skip; (intro t hh hu; rw [← hu]; clear hu)]) | (intro w)
    | split | (refine Good.of_view hh ?_; dsimp only [State.view]; done)

theorem execMgmtLinkRetrain_good {lc : Nat} (m : MgmtMsg) (s : State) (hs : Good lc s) :
    GoodOut lc (execMgmtLinkRetrain m s) := by
  unfold execMgmtLinkRetrain
  repeat' first | with_reducible assumption | with_reducible apply State.mgmtRetrain_good | with_reducible apply goodOut_next

theorem execLinkStatus_good {lc : Nat} (fn : Nat) (s : State) (hs : Good lc s) :
    GoodOut lc (execLinkStatus fn s) := by
  unfold execLinkStatus
  repeat' first
    | with_reducible refine fun _ => ?_ | with_reducible assumption | with_reducible apply State.gated_good
    | with_reducible apply State.runDrawer_good | with_reducible apply Taken.withPayload_good | with_reducible apply Verdict.good_done
    | with_reducible apply goodOut_next

theorem execMgmtLinkStatus_good {lc : Nat} (m : MgmtMsg) (s : State) (hs : Good lc s) :
    GoodOut lc (execMgmtLinkStatus m s) := by
  unfold execMgmtLinkStatus
  repeat' first
    | with_reducible refine fun _ => ?_ | with_reducible assumption | with_reducible apply State.runMgmt_good
    | with_reducible apply State.sized_good | with_reducible apply goodOut_next

theorem execSignalDetect_good {lc : Nat} (link : Nat) (s : State) (hs : Good lc s) :
    GoodOut lc (execSignalDetect link s) := by
  unfold execSignalDetect
  repeat' first | with_reducible assumption | with_reducible apply State.enterTraining_good | with_reducible apply goodOut_next | split

theorem execTrainingTimeout_good {lc : Nat} (link : Nat) (s : State) (hs : Good lc s) :
    GoodOut lc (execTrainingTimeout link s) := by
  unfold execTrainingTimeout
  repeat' first
    | with_reducible assumption | with_reducible apply State.enterTraining_good | with_reducible apply good_modLink
    | with_reducible apply State.setLinkState_good | with_reducible apply goodOut_next | lift_lets -underBinder | (intro w) | split

theorem execTrainingRetry_good {lc : Nat} (link : Nat) (s : State) (hs : Good lc s) :
    GoodOut lc (execTrainingRetry link s) := by
  unfold execTrainingRetry
  repeat' first | with_reducible assumption | with_reducible apply State.enterTraining_good | with_reducible apply goodOut_next | split

theorem State.trainingEnds_good {lc : Nat} (l : Nat) (s : State) (hs : Good lc s) :
    Good lc (State.trainingEnds l s) := by
  unfold State.trainingEnds
  repeat' first | with_reducible assumption | with_reducible apply State.answerRetrain_good | split

theorem execTrainingComplete_good {lc : Nat} (link : Nat) (good : BitVec 4) (s : State) (hs : Good lc s) :
    GoodOut lc (execTrainingComplete link good s) := by
  unfold execTrainingComplete
  repeat' first
    | with_reducible assumption | with_reducible apply good_modLink | with_reducible apply State.setLinkState_good
    | with_reducible apply State.trainingEnds_good | with_reducible apply goodOut_next | lift_lets -underBinder
    | (intro t; refine good_elim (l := lc) (a := t) ?_ ?_ <;> [skip; (intro t hh hu; rw [← hu]; clear hu)]) | (intro w) | split
    | (refine Good.of_view hh ?_; dsimp only [State.view]; done)

theorem State.linkUp_good {lc : Nat} (l : Nat) (s : State) (hs : Good lc s) :
    Good lc (State.linkUp l s) := by
  unfold State.linkUp
  repeat' first | with_reducible assumption | with_reducible apply good_modLink | with_reducible apply State.setLinkState_good | split

theorem execLaneFail_good {lc : Nat} (link lane : Nat) (s : State) (hs : Good lc s) :
    GoodOut lc (execLaneFail link lane s) := by
  unfold execLaneFail
  repeat' first
    | with_reducible assumption | with_reducible apply State.enterTraining_good | with_reducible apply good_modLink
    | with_reducible apply State.platPend_good | with_reducible apply goodOut_next | lift_lets -underBinder | (intro w) | split

theorem execCableOverdraw_good {lc : Nat} (link : Nat) (s : State) (hs : Good lc s) :
    GoodOut lc (execCableOverdraw link s) := by
  unfold execCableOverdraw
  repeat' first
    | with_reducible assumption | with_reducible apply good_modLink | with_reducible apply State.setLinkState_good
    | with_reducible apply goodOut_next

theorem State.hello_good {lc : Nat} (l module linkId : Nat) (digest : BitVec 128) (s : State) (hs : Good lc s) :
    Good lc (State.hello l module linkId digest s) := by
  unfold State.hello
  repeat' first
    | with_reducible assumption | with_reducible apply State.enterTraining_good | with_reducible apply good_modLink
    | with_reducible apply State.setLinkState_good | with_reducible apply State.trainingEnds_good | lift_lets -underBinder | (intro w) | split

theorem execHello_good {lc : Nat} (link module linkId _width : Nat) (digest : BitVec 128) (s : State) (hs : Good lc s) :
    GoodOut lc (execHello link module linkId _width digest s) := by
  unfold execHello
  repeat' first | with_reducible assumption | with_reducible apply State.hello_good | with_reducible apply goodOut_next

theorem State.sendHello_good {lc : Nat} (l : Nat) (s : State) (hs : Good lc s) :
    Good lc (State.sendHello l s) := by
  unfold State.sendHello
  repeat' first | with_reducible assumption | with_reducible apply State.sendGrain_good

theorem execEcho_good {lc : Nat} (link : Nat) (reply : Bool) (sentPs turnPs nowPs : Nat) (s : State) (hs : Good lc s) :
    GoodOut lc (execEcho link reply sentPs turnPs nowPs s) := by
  unfold execEcho
  repeat' first
    | with_reducible assumption | with_reducible apply good_modLink | with_reducible apply State.sendGrain_good
    | with_reducible apply State.setLinkState_good | with_reducible apply State.trainingEnds_good | with_reducible apply goodOut_next
    | lift_lets -underBinder | (intro w) | split

theorem State.replayFrom_good {lc : Nat} (l seq : Nat) (s : State) (hs : Good lc s) :
    Good lc (State.replayFrom l seq s) := by
  unfold State.replayFrom
  repeat' first
    | with_reducible refine fun _ => ?_ | with_reducible assumption | with_reducible apply State.emit_good | with_reducible apply good_foldl
    | with_reducible apply good_modLink

theorem State.nak_good {lc : Nat} (l seq : Nat) (s : State) (hs : Good lc s) :
    Good lc (State.nak l seq s) := by
  unfold State.nak
  repeat' first | with_reducible assumption | with_reducible apply State.replayFrom_good | split

theorem execNak_good {lc : Nat} (link seq : Nat) (s : State) (hs : Good lc s) :
    GoodOut lc (execNak link seq s) := by
  unfold execNak
  repeat' first | with_reducible assumption | with_reducible apply State.nak_good | with_reducible apply goodOut_next | split

theorem State.sendNak_good {lc : Nat} (l : Nat) (s : State) (hs : Good lc s) :
    Good lc (State.sendNak l s) := by
  unfold State.sendNak
  repeat' first | with_reducible assumption | with_reducible apply good_modLink | with_reducible apply State.sendGrain_good

theorem execNakRepeat_good {lc : Nat} (link : Nat) (s : State) (hs : Good lc s) :
    GoodOut lc (execNakRepeat link s) := by
  unfold execNakRepeat
  repeat' first | with_reducible assumption | with_reducible apply State.sendNak_good | with_reducible apply goodOut_next | split

theorem execReplayTimeout_good {lc : Nat} (link : Nat) (s : State) (hs : Good lc s) :
    GoodOut lc (execReplayTimeout link s) := by
  unfold execReplayTimeout
  repeat' first | with_reducible assumption | with_reducible apply State.replayFrom_good | with_reducible apply goodOut_next | split

theorem State.ack_good {lc : Nat} (l a : Nat) (s : State) (hs : Good lc s) :
    Good lc (State.ack l a s) := by
  unfold State.ack
  repeat' first
    | with_reducible assumption | with_reducible apply State.flushLink_good | with_reducible apply good_modLink | lift_lets -underBinder | (intro w)
    | split

theorem State.credit_good {lc : Nat} (l first chain rod : Nat) (grants : List Nat) (s : State) (hs : Good lc s) :
    Good lc (State.credit l first chain rod grants s) := by
  unfold State.credit
  repeat' first | with_reducible assumption | with_reducible apply good_modLink | split

theorem execCredit_good {lc : Nat} (link first chain rod : Nat) (grants : List Nat) (s : State) (hs : Good lc s) :
    GoodOut lc (execCredit link first chain rod grants s) := by
  unfold execCredit
  repeat' first | with_reducible assumption | with_reducible apply State.credit_good | with_reducible apply goodOut_next

theorem State.deliver_good {lc : Nat} (m : Msg) (s : State) (hs : Good lc s) : Good lc (State.deliver m s) := by
  have key : ∀ r : Host.Outcome State Fault Refusal, GoodOut lc r → Good lc (match r with | .next t => t | _ => s) := by
    intro r hr
    split
    · exact hr.next _ rfl
    · exact hs
  refine key _ ?_
  repeat' split
  · exact execWrite_good m s hs
  · exact execReadReq_good m s hs
  · exact execLeaf_good m s hs
  · exact execReadResp_good m s hs
  · exact execComplete_good m s hs
  · exact execRefuse_good m s hs
  · exact execMsgOpen_good m s hs
  · exact execOpenAck_good m s hs
  · exact execMsgClose_good m s hs
  · exact execAttest_good m s hs
  · exact goodOut_next (State.refuse_good _ _ _ hs)

theorem State.messageIn_good {lc : Nat} (m : Msg) (s : State) (hs : Good lc s) :
    Good lc (State.messageIn m s) := by
  unfold State.messageIn
  repeat' first
    | with_reducible refine fun _ => ?_
    | with_reducible assumption
    | with_reducible apply State.deliver_good
    | with_reducible apply State.toStation_good
    | lift_lets -underBinder
    | (intro t; refine good_elim (l := lc) (a := t) ?_ ?_ <;> [skip; (intro t hh hu; rw [← hu]; clear hu)])
    | (intro k; refine canonical_elim (a := k) ?_ ?_ <;> [skip; (intro k hk hu; rw [← hu]; clear hu)])
    | (intro k; refine parcel_elim (a := k) ?_ ?_ <;> [skip; (intro k hk hu; rw [← hu]; clear hu)])
    | (intro k; refine bounded_elim (a := k) ?_ ?_ <;> [skip; (intro k hk hu; rw [← hu]; clear hu)])
    | (intro w)
    | dsimp only [t]
    | dsimp only [k]
    | split
    | dsimp +zetaDelta only
    | (refine Good.of_view hh ?_; dsimp only [State.view]; done)
    | (refine Good.of_view hs ?_; dsimp only [State.view]; done)
    | (refine Good.of_view ‹Good lc _› ?_; dsimp only [State.view]; done)

theorem State.linkGrain_good {lc : Nat} (l : Nat) (g : BitVec 256) (s : State) (hs : Good lc s) :
    Good lc (State.linkGrain l g s) := by
  unfold State.linkGrain
  repeat' first
    | with_reducible assumption | with_reducible apply State.credit_good | with_reducible apply State.hello_good | with_reducible apply good_modLink
    | with_reducible apply State.nak_good | lift_lets -underBinder | (intro w) | split

theorem State.grainIn_good {lc : Nat} (l : Nat) (g : BitVec 256) (s : State) (hs : Good lc s) :
    Good lc (State.grainIn l g s) := by
  unfold State.grainIn
  repeat' first
    | with_reducible assumption | with_reducible apply State.linkGrain_good | with_reducible apply State.messageIn_good
    | with_reducible apply good_modLink | lift_lets -underBinder | (intro w) | split

theorem State.endBurst_good {lc : Nat} (l : Nat) (s : State) (hs : Good lc s) :
    Good lc (State.endBurst l s) := by
  unfold State.endBurst
  repeat' first
    | with_reducible assumption | with_reducible apply State.evLink_good | with_reducible apply good_modLink | lift_lets -underBinder | (intro w)
    | split

theorem State.discardFlit_good {lc : Nat} (l : Nat) (every : Bool) (s : State) (hs : Good lc s) :
    Good lc (State.discardFlit l every s) := by
  unfold State.discardFlit
  repeat' first
    | with_reducible assumption | with_reducible apply good_modLink | with_reducible apply State.sendNak_good | lift_lets -underBinder | (intro w)
    | split

theorem State.flit_good {lc : Nat} (l : Nat) (symbols : List (BitVec 10)) (s : State) (hs : Good lc s) :
    Good lc (State.flit l symbols s) := by
  unfold State.flit
  repeat' first
    | with_reducible refine fun _ => ?_ | with_reducible assumption | with_reducible apply State.ack_good
    | with_reducible apply State.discardFlit_good | with_reducible apply State.endBurst_good | with_reducible apply good_foldl
    | with_reducible apply State.grainIn_good | with_reducible apply good_modLink | split | dsimp +zetaDelta only

theorem execFlit_good {lc : Nat} (link : Nat) (symbols : List (BitVec 10)) (s : State) (hs : Good lc s) :
    GoodOut lc (execFlit link symbols s) := by
  unfold execFlit
  repeat' first | with_reducible assumption | with_reducible apply State.flit_good | with_reducible apply goodOut_next

theorem execFlitLockLoss_good {lc : Nat} (link : Nat) (s : State) (hs : Good lc s) :
    GoodOut lc (execFlitLockLoss link s) := by
  unfold execFlitLockLoss
  repeat' first
    | with_reducible assumption | with_reducible apply good_modLink | with_reducible apply State.setLinkState_good
    | with_reducible apply goodOut_next | split

theorem execRelockRouteLoss_good {lc : Nat} (link : Nat) (s : State) (hs : Good lc s) :
    GoodOut lc (execRelockRouteLoss link s) := by
  unfold execRelockRouteLoss
  repeat' first
    | with_reducible assumption | with_reducible apply State.leaveUp_good | with_reducible apply good_modLink | with_reducible apply goodOut_next
    | lift_lets -underBinder | (intro w) | split

theorem execRelockDone_good {lc : Nat} (link : Nat) (s : State) (hs : Good lc s) :
    GoodOut lc (execRelockDone link s) := by
  unfold execRelockDone
  repeat' first
    | with_reducible assumption | with_reducible apply good_modLink | with_reducible apply State.replayFrom_good
    | with_reducible apply State.setLinkState_good | with_reducible apply goodOut_next | lift_lets -underBinder
    | (intro t; refine good_elim (l := lc) (a := t) ?_ ?_ <;> [skip; (intro t hh hu; rw [← hu]; clear hu)]) | split

theorem execRelockTimeout_good {lc : Nat} (link : Nat) (s : State) (hs : Good lc s) :
    GoodOut lc (execRelockTimeout link s) := by
  unfold execRelockTimeout
  repeat' first | with_reducible assumption | with_reducible apply State.enterTraining_good | with_reducible apply goodOut_next | split

end Sys2Proof.Machine
end

