-- ==== Sys2Proof/Laws/SoundParcels.lean ====
section
/-! SUPPORT. Every operation of Machine/Parcels.lean keeps soundness and the life cycle. -/

set_option linter.unusedTactic false
set_option linter.unreachableTactic false
set_option linter.unusedVariables false
set_option linter.unusedSimpArgs false
set_option Elab.async false

namespace Sys2Proof.Machine

theorem State.newParcel_good {lc : Nat} (p : Nat) (paired : Bool) (cs xs : List Nat) (owner : Digest) (s : State) (hs : Good lc s) :
    (State.newParcel p paired cs xs owner s).canonical := by
  unfold State.newParcel
  repeat' first
    | with_reducible refine fun _ => ?_ | with_reducible assumption | with_reducible apply State.parcel_canonical
    | with_reducible apply State.fn_bounded | split | assumption | rfl | with_reducible apply Parcel.canonical_intro

theorem execParcelOpen_good {lc : Nat} (fn : Nat) (s : State) (hs : Good lc s) :
    GoodOut lc (execParcelOpen fn s) := by
  unfold execParcelOpen
  repeat' first
    | with_reducible refine fun _ => ?_ | with_reducible assumption | with_reducible apply State.gated_good | with_reducible apply guarded_good
    | with_reducible apply good_modParcel | with_reducible apply State.newParcel_good | with_reducible apply Verdict.no_good
    | with_reducible apply State.runDrawer_good | with_reducible apply State.setParcelState_good | with_reducible apply Taken.withPayload_good
    | with_reducible apply Verdict.good_done | with_reducible apply Verdict.good_wait | with_reducible apply Verdict.good_no
    | with_reducible apply State.fn_bounded | with_reducible apply goodOut_next | with_reducible apply goodOut_fault | lift_lets -underBinder
    | (intro t; refine good_elim (l := lc) (a := t) ?_ ?_ <;> [skip; (intro t hh hu; rw [← hu]; clear hu)]) | (intro w) | dsimp only [t] | split
    | dsimp +zetaDelta only | (refine Good.of_view hh ?_; dsimp only [State.view]; done)
    | (refine Good.of_view hs ?_; dsimp only [State.view]; done) | (refine Good.of_view ‹Good lc _› ?_; dsimp only [State.view]; done)
    | exact (‹Parcel.canonical _›).1 | exact (‹Parcel.canonical _›).2 | with_reducible apply Parcel.canonical_intro

theorem execParcelClose_good {lc : Nat} (fn : Nat) (s : State) (hs : Good lc s) :
    GoodOut lc (execParcelClose fn s) := by
  unfold execParcelClose
  repeat' first
    | with_reducible refine fun _ => ?_ | with_reducible assumption | with_reducible apply State.gated_good | with_reducible apply guarded_good
    | with_reducible apply good_modParcel | with_reducible apply Verdict.no_good | with_reducible apply State.runDrawer_good
    | with_reducible apply State.setParcelState_good | with_reducible apply Taken.withPayload_good | with_reducible apply Verdict.good_long
    | with_reducible apply Verdict.good_wait | with_reducible apply Verdict.good_no | with_reducible apply State.parcel_canonical
    | with_reducible apply State.fn_bounded | with_reducible apply goodOut_next | with_reducible apply goodOut_fault | split | dsimp only
    | exact (‹Parcel.canonical _›).1 | exact (‹Parcel.canonical _›).2 | with_reducible apply Parcel.canonical_intro

theorem execParcelStatus_good {lc : Nat} (fn : Nat) (s : State) (hs : Good lc s) :
    GoodOut lc (execParcelStatus fn s) := by
  unfold execParcelStatus
  repeat' first
    | with_reducible assumption | with_reducible apply State.gated_good | with_reducible apply guarded_good | with_reducible apply Verdict.no_good
    | with_reducible apply State.runDrawer_good | with_reducible apply Taken.withPayload_good | with_reducible apply Verdict.good_done
    | with_reducible apply Verdict.good_wait | with_reducible apply goodOut_next | lift_lets -underBinder | (intro w) | split

theorem execSessionOpen_good {lc : Nat} (fn : Nat) (s : State) (hs : Good lc s) :
    GoodOut lc (execSessionOpen fn s) := by
  unfold execSessionOpen
  repeat' first
    | with_reducible refine fun _ => ?_ | with_reducible assumption | with_reducible apply State.drawn_good
    | with_reducible apply State.endSession_good | with_reducible apply State.fillSlot_good | with_reducible apply good_foldl
    | with_reducible apply canonical_foldl | with_reducible apply State.gated_good | with_reducible apply guarded_good
    | with_reducible apply good_modFn | with_reducible apply State.runDrawer_good | with_reducible apply Taken.withPayload_good
    | with_reducible apply Verdict.good_done | with_reducible apply Verdict.good_no | with_reducible apply State.fn_bounded
    | with_reducible apply goodOut_next | with_reducible apply goodOut_fault | split | exact (‹Fn.bounded _›).1 | exact (‹Fn.bounded _›).2
    | with_reducible apply Fn.bounded_intro

theorem execAttestReport_good {lc : Nat} (fn : Nat) (s : State) (hs : Good lc s) :
    GoodOut lc (execAttestReport fn s) := by
  unfold execAttestReport
  repeat' first
    | with_reducible refine fun _ => ?_ | with_reducible assumption | with_reducible apply State.drawn_good | with_reducible apply State.gated_good
    | with_reducible apply guarded_good | with_reducible apply State.runDrawer_good | with_reducible apply Taken.withPayload_good
    | with_reducible apply Verdict.good_done | with_reducible apply goodOut_next

theorem State.newSealedKey_good {lc : Nat} (p : Nat) (s : State) (hs : Good lc s) :
    Good lc (State.newSealedKey p s) := by
  unfold State.newSealedKey
  repeat' first
    | with_reducible refine fun _ => ?_ | with_reducible assumption | with_reducible apply State.drawn_good
    | with_reducible apply State.fillSlot_good | with_reducible apply good_modParcel | split | exact (‹Parcel.canonical _›).1
    | exact (‹Parcel.canonical _›).2 | with_reducible apply Parcel.canonical_intro

theorem execParcelAttach_good {lc : Nat} (fn : Nat) (s : State) (hs : Good lc s) :
    GoodOut lc (execParcelAttach fn s) := by
  unfold execParcelAttach
  repeat' first
    | with_reducible refine fun _ => ?_ | with_reducible assumption | with_reducible apply State.fillSlot_good
    | with_reducible apply State.gated_good | with_reducible apply guarded_good | with_reducible apply good_modParcel
    | with_reducible apply State.newSealedKey_good | with_reducible apply Verdict.no_good | with_reducible apply State.runDrawer_good
    | with_reducible apply State.setParcelState_good | with_reducible apply Taken.withPayload_good | with_reducible apply Verdict.good_done
    | with_reducible apply Verdict.good_no | with_reducible apply State.parcel_canonical | with_reducible apply State.fn_bounded
    | with_reducible apply goodOut_next | with_reducible apply goodOut_fault | split | exact (‹Parcel.canonical _›).1
    | exact (‹Parcel.canonical _›).2 | with_reducible apply Parcel.canonical_intro

theorem execBounceMap_good {lc : Nat} (fn : Nat) (s : State) (hs : Good lc s) :
    GoodOut lc (execBounceMap fn s) := by
  unfold execBounceMap
  repeat' first
    | with_reducible refine fun _ => ?_ | with_reducible assumption | with_reducible apply State.gated_good | with_reducible apply guarded_good
    | with_reducible apply good_modFn | with_reducible apply Verdict.no_good | with_reducible apply State.runDrawer_good
    | with_reducible apply Taken.withPayload_good | with_reducible apply Verdict.good_done | with_reducible apply Verdict.good_no
    | with_reducible apply State.fn_bounded | with_reducible apply goodOut_next | with_reducible apply goodOut_fault | split
    | exact (‹Fn.bounded _›).1 | exact (‹Fn.bounded _›).2 | with_reducible apply Fn.bounded_intro

theorem execDebugConsent_good {lc : Nat} (fn : Nat) (s : State) (hs : Good lc s) :
    GoodOut lc (execDebugConsent fn s) := by
  unfold execDebugConsent
  repeat' first
    | with_reducible refine fun _ => ?_ | with_reducible assumption | with_reducible apply State.gated_good | with_reducible apply guarded_good
    | with_reducible apply good_modParcel | with_reducible apply Verdict.no_good | with_reducible apply State.runDrawer_good
    | with_reducible apply Taken.withPayload_good | with_reducible apply Verdict.good_done | with_reducible apply Verdict.good_no
    | with_reducible apply State.parcel_canonical | with_reducible apply State.fn_bounded | with_reducible apply goodOut_next
    | with_reducible apply goodOut_fault | split | exact (‹Parcel.canonical _›).1 | exact (‹Parcel.canonical _›).2
    | with_reducible apply Parcel.canonical_intro

end Sys2Proof.Machine
end

