-- ==== Sys2Proof/Laws/SoundLot.lean ====
section
/-! SUPPORT. Every operation of Machine/Lot.lean keeps soundness and the life cycle. -/

set_option linter.unusedTactic false
set_option linter.unreachableTactic false
set_option linter.unusedVariables false
set_option linter.unusedSimpArgs false
set_option Elab.async false

namespace Sys2Proof.Machine

theorem State.lotLoad_good {lc : Nat} (p c : Nat) (i : LotImage) (s : State) (hs : Good lc s) :
    (State.lotLoad p c i s).Good lc := by
  unfold State.lotLoad
  repeat' first
    | with_reducible assumption | with_reducible apply guarded_good | with_reducible apply good_modCtx | with_reducible apply Verdict.good_done
    | with_reducible apply Verdict.good_refuse | split

theorem execLotLoad_good {lc : Nat} (fn : Nat) (s : State) (hs : Good lc s) :
    GoodOut lc (execLotLoad fn s) := by
  unfold execLotLoad
  repeat' first
    | with_reducible refine fun _ => ?_ | with_reducible assumption | with_reducible apply State.gated_good | with_reducible apply guarded_good
    | with_reducible apply State.lotLoad_good | with_reducible apply Verdict.no_good | with_reducible apply State.runDrawer_good
    | with_reducible apply goodOut_next | split | dsimp +zetaDelta only

theorem execLotUnload_good {lc : Nat} (fn : Nat) (s : State) (hs : Good lc s) :
    GoodOut lc (execLotUnload fn s) := by
  unfold execLotUnload
  repeat' first
    | with_reducible refine fun _ => ?_ | with_reducible assumption | with_reducible apply State.gated_good | with_reducible apply guarded_good
    | with_reducible apply good_modCtx | with_reducible apply Verdict.no_good | with_reducible apply State.runDrawer_good
    | with_reducible apply Taken.withPayload_good | with_reducible apply Verdict.good_done | with_reducible apply goodOut_next | split

end Sys2Proof.Machine
end

