-- ==== Sys2Proof/Laws/SoundChest.lean ====
section
/-! SUPPORT. Every operation of Machine/Chest.lean keeps soundness and the life cycle. -/

set_option linter.unusedTactic false
set_option linter.unreachableTactic false
set_option linter.unusedVariables false
set_option linter.unusedSimpArgs false
set_option Elab.async false

namespace Sys2Proof.Machine

theorem execChestCertify_good {lc : Nat} (fn : Nat) (s : State) (hs : Good lc s) :
    GoodOut lc (execChestCertify fn s) := by
  unfold execChestCertify
  repeat' first
    | with_reducible refine fun _ => ?_ | with_reducible assumption | with_reducible apply State.drawn_good | with_reducible apply State.gated_good
    | with_reducible apply guarded_good | with_reducible apply Verdict.no_good | with_reducible apply State.runDrawer_good
    | with_reducible apply Taken.withPayload_good | with_reducible apply Verdict.good_done | with_reducible apply goodOut_next | split

theorem State.storeCounter_good {lc : Nat} (p : Nat) (u : Update) (s : State) (hs : Good lc s) :
    Good lc (State.storeCounter p u s) := by
  unfold State.storeCounter
  repeat' first
    | with_reducible refine fun _ => ?_ | with_reducible assumption | with_reducible apply good_modParcel | split
    | exact (‹Cluster.canonical _›).2.2.1 _ ‹_› | exact (‹Cluster.canonical _›).1 | exact (‹Cluster.canonical _›).2.1
    | exact (‹Parcel.canonical _›).1 | exact (‹Parcel.canonical _›).2 | with_reducible apply Parcel.canonical_intro
    | with_reducible apply good_chest | exact Good.slots ‹_›

theorem State.keepBlob_good {lc : Nat} (slot : Nat) (s : State) (hs : Good lc s) :
    Good lc (State.keepBlob slot s) := by
  unfold State.keepBlob
  repeat' first | with_reducible assumption | with_reducible apply good_chest | exact Good.slots ‹_›

theorem State.transitionKeys_good {lc : Nat} (t : Nat) (s : State) (hs : Good lc s) :
    Good lc (State.transitionKeys t s) := by
  unfold State.transitionKeys
  repeat' first
    | with_reducible refine fun _ => ?_ | with_reducible assumption | with_reducible apply State.destroySlot_good | with_reducible apply good_foldl
    | split

theorem State.transitionFuses_good {lc : Nat} (t : Nat) (s : State) (hs : Good lc s) : Good t (State.transitionFuses t s) := by
  have h : ∀ (x : Flash) (y : Chest) (z : Plat), x.lifecycle = t → x.fwA = s.flash.fwA → x.fwB = s.flash.fwB → y.slots = s.chest.slots →
      Good t { s with flash := x, chest := y, plat := z } := by
    intro x y z h1 h2 h3 h4
    have hv : View.Good lc s.view := hs
    have k2 : Memory.wf true x.fwA.image = true := by rw [h2]; exact hs.imgA
    have k3 : Memory.wf true x.fwB.image = true := by rw [h3]; exact hs.imgB
    have k4 : rising y.slots = true := by rw [h4]; exact hs.slots
    exact { hv with life := h1, slots := k4, imgA := k2, imgB := k3 }
  unfold State.transitionFuses
  dsimp only
  split
  · exact h _ _ _ rfl rfl rfl rfl
  · split
    · exact h _ _ _ rfl rfl rfl rfl
    · exact h _ _ _ rfl rfl rfl rfl

/-- A transition leaves a sound state in its target. -/
theorem State.transition_good {lc : Nat} (t authority : Nat) (s : State) (hs : Good lc s) : Good t (State.transition t authority s) :=
  good_faults (State.evMgmt_good _ _ _ (State.evPf_good _ _ _ (State.transitionFuses_good _ _ (State.transitionKeys_good _ _ hs))))

theorem State.convert_good {lc : Nat} (enc : Bool) (p base size : Nat) (s : State) (hs : Good lc s) :
    Good lc (State.convert enc p base size s) := by
  unfold State.convert
  repeat' first
    | with_reducible refine fun _ => ?_
    | with_reducible assumption
    | with_reducible apply State.extPuts_good
    | with_reducible apply good_foldl
    | with_reducible apply canonical_foldl
    | with_reducible apply State.parcel_canonical
    | lift_lets -underBinder
    | (intro t; refine good_elim (l := lc) (a := t) ?_ ?_ <;> [skip; (intro t hh hu; rw [← hu]; clear hu)])
    | (intro k; refine canonical_elim (a := k) ?_ ?_ <;> [skip; (intro k hk hu; rw [← hu]; clear hu)])
    | (intro k; refine parcel_elim (a := k) ?_ ?_ <;> [skip; (intro k hk hu; rw [← hu]; clear hu)])
    | (intro k; refine bounded_elim (a := k) ?_ ?_ <;> [skip; (intro k hk hu; rw [← hu]; clear hu)])
    | (intro w)
    | dsimp only [t]
    | dsimp only [k]
    | split
    | dsimp +zetaDelta only
    | (refine Good.of_view hh ?_; dsimp only [State.view]; done)
    | (refine Good.of_view hs ?_; dsimp only [State.view]; done)
    | (refine Good.of_view ‹Good lc _› ?_; dsimp only [State.view]; done)

theorem State.openWindow_good {lc : Nat} (p base size : Nat) (s : State) (hs : Good lc s) :
    Good lc (State.openWindow p base size s) := by
  unfold State.openWindow
  repeat' first
    | with_reducible refine fun _ => ?_ | with_reducible assumption | with_reducible apply State.convert_good | with_reducible apply good_modParcel
    | with_reducible apply State.parcel_canonical | split | exact (‹Parcel.canonical _›).1 | exact (‹Parcel.canonical _›).2
    | with_reducible apply Parcel.canonical_intro

/-- The effect of an update other than a transition keeps the life cycle; a transition goes to its target. -/
theorem State.updateEffect_good {lc : Nat} (p : Nat) (u : Update) (s : State) (hs : Good lc s) (k : Nat) (k3 : u.op = 3 → k = fld 0 1 u.body)
    (k6 : 1 ≤ u.op → u.op ≤ 6 → u.op ≠ 3 → k = lc) (k7 : u.op = 0 ∨ 7 ≤ u.op → k = 4) : Good k (State.updateEffect p u s).2 := by
  have ht : Good lc (s.storeCounter p u) := State.storeCounter_good _ _ _ hs
  have hc : ∀ (t : State) (x : Chest), Good lc t → x.slots = t.chest.slots → Good lc { t with chest := x } :=
    fun t x h e => good_chest h (by rw [e]; exact h.slots)
  unfold State.updateEffect
  dsimp only
  split <;> try rename_i h
  · rw [k6 (by omega) (by omega) (by omega)]
    show Good lc (if _ then _ else _)
    split
    · exact State.keepBlob_good _ _ (State.fillSlot_good _ _ _ _ ht)
    · exact State.fillSlot_good _ _ _ _ ht
  · rw [k6 (by omega) (by omega) (by omega)]
    exact State.destroySlot_good _ _ _ ht
  · rw [k3 h]
    exact State.transition_good _ _ _ ht
  · rw [k6 (by omega) (by omega) (by omega)]
    exact State.keepBlob_good _ _ (State.fillSlot_good _ _ _ _ ht)
  · rw [k6 (by omega) (by omega) (by omega)]
    exact State.openWindow_good _ _ _ _ (State.fillSlot_good _ _ _ _ ht)
  · rw [k6 (by omega) (by omega) (by omega)]
    exact hc _ _ (State.drawn_good _ ht) rfl
  · rename_i h1 h2 h3 h4 h5
    have e1 : u.op ≠ 1 := h1
    have e2 : u.op ≠ 2 := h2
    have e3 : u.op ≠ 3 := h3
    have e4 : u.op ≠ 4 := h4
    have e5 : u.op ≠ 5 := h5
    have e6 : u.op ≠ 6 := h
    rw [k7 (by omega)]
    exact State.transition_good _ _ _ (hc _ _ ht rfl)

/-- An update moves the life cycle by Table 10.3 if at all (R231). -/
theorem State.update_moved {lc : Nat} (vf : Bool) (p : Nat) (b : Bytes) (s : State) (hs : Good lc s) : Moved lc (State.update vf p b s).2.2 := by
  unfold State.update
  dsimp only
  split
  · exact hs.moved
  · split
    · exact hs.moved
    · rename_i hf
      refine ⟨if (parseUpdate b).op = 3 then fld 0 1 (parseUpdate b).body else if 1 ≤ (parseUpdate b).op ∧ (parseUpdate b).op ≤ 6 then lc else 4, ?_,
        State.updateEffect_good p (parseUpdate b) s hs _ (fun h => by rw [if_pos h]) (fun h1 h2 h3 => by rw [if_neg h3, if_pos ⟨h1, h2⟩])
          (fun h => by rw [if_neg (by omega), if_neg (by omega)])⟩
      generalize parseUpdate b = u at hf ⊢
      have hall : ∀ x ∈ s.updateChecks vf p u, x.1 = false := by
        intro x hx
        simp only [firstFail, Option.map_eq_none_iff, List.find?_eq_none] at hf
        simpa using hf x hx
      have h1 := hall (!u.formOk || (u.op == 5 && !modelWindowOk (s.parcel p) u.body), stArg) (by simp [State.updateChecks])
      have h4 := hall (!s.opAllowed u, stLifecycle) (by simp [State.updateChecks])
      simp only [Bool.or_eq_false_iff, Bool.not_eq_false'] at h1 h4
      have hp : u.pairs = true := by
        have := h1.1
        simp only [Update.formOk, Bool.and_eq_true] at this
        tauto
      have hl : s.flash.lifecycle = lc := hs.life
      split
      · rename_i h3
        simp only [State.opAllowed, h3, State.transitionOk, hl] at h4
        right
        unfold lifeMay
        split at h4 <;> simp at h4 <;> omega
      · split
        · exact .inl rfl
        · have h7 : u.op = 7 := by
            unfold Update.pairs at hp
            split at hp <;> simp_all
          simp only [State.opAllowed, h7, hl, beq_iff_eq] at h4
          right
          unfold lifeMay
          omega

/-- An update row moves the life cycle by Table 10.3 if at all. -/
theorem State.runUpdate_moved {lc : Nat} (src : UpdateSource) (op : Nat) (s : State) (hs : Good lc s) : Moved lc (State.runUpdate src op s) := by
  unfold State.runUpdate
  split
  · rename_i fn
    split
    · split
      · refine State.runDrawer_moved _ _ _ _ (fun t u hu => ?_) hs
        unfold State.gated
        split
        · exact Verdict.moved_no
        · split
          · exact Verdict.moved_no
          · dsimp only
            split
            · exact Verdict.moved_done (State.update_moved _ _ _ _ hu)
            · exact Verdict.moved_no
      · exact hs.moved
    · exact hs.moved
  · split
    · exact State.runMgmt_moved _ _ _ _ (fun _ _ hu => State.update_moved _ _ _ _ hu) hs
    · exact hs.moved

theorem execInstall_moved {lc : Nat} (src : UpdateSource) (s : State) (hs : Good lc s) : MovedOut lc (execInstall src s) :=
  movedOut_next (State.runUpdate_moved _ _ _ hs)

theorem execDestroy_moved {lc : Nat} (src : UpdateSource) (s : State) (hs : Good lc s) : MovedOut lc (execDestroy src s) :=
  movedOut_next (State.runUpdate_moved _ _ _ hs)

theorem execLifecycle_moved {lc : Nat} (src : UpdateSource) (s : State) (hs : Good lc s) : MovedOut lc (execLifecycle src s) :=
  movedOut_next (State.runUpdate_moved _ _ _ hs)

theorem execAuthority_moved {lc : Nat} (src : UpdateSource) (s : State) (hs : Good lc s) : MovedOut lc (execAuthority src s) :=
  movedOut_next (State.runUpdate_moved _ _ _ hs)

theorem execModelKey_moved {lc : Nat} (src : UpdateSource) (s : State) (hs : Good lc s) : MovedOut lc (execModelKey src s) :=
  movedOut_next (State.runUpdate_moved _ _ _ hs)

theorem execFieldChallenge_moved {lc : Nat} (src : UpdateSource) (s : State) (hs : Good lc s) : MovedOut lc (execFieldChallenge src s) :=
  movedOut_next (State.runUpdate_moved _ _ _ hs)

theorem execFieldOpen_moved {lc : Nat} (src : UpdateSource) (s : State) (hs : Good lc s) : MovedOut lc (execFieldOpen src s) :=
  movedOut_next (State.runUpdate_moved _ _ _ hs)

theorem execFieldChallengeExpiry_good {lc : Nat} (s : State) (hs : Good lc s) :
    GoodOut lc (execFieldChallengeExpiry s) := by
  unfold execFieldChallengeExpiry
  repeat' first
    | with_reducible refine fun _ => ?_
    | with_reducible assumption
    | with_reducible apply Verdict.good_no
    | with_reducible apply goodOut_next
    | with_reducible apply goodOut_fault
    | lift_lets -underBinder
    | (intro t; refine good_elim (l := lc) (a := t) ?_ ?_ <;> [skip; (intro t hh hu; rw [← hu]; clear hu)])
    | (intro k; refine canonical_elim (a := k) ?_ ?_ <;> [skip; (intro k hk hu; rw [← hu]; clear hu)])
    | (intro k; refine parcel_elim (a := k) ?_ ?_ <;> [skip; (intro k hk hu; rw [← hu]; clear hu)])
    | (intro k; refine bounded_elim (a := k) ?_ ?_ <;> [skip; (intro k hk hu; rw [← hu]; clear hu)])
    | (intro w)
    | dsimp only [t]
    | dsimp only [k]
    | split
    | dsimp +zetaDelta only
    | (refine Good.of_view hh ?_; dsimp only [State.view]; done)
    | (refine Good.of_view hs ?_; dsimp only [State.view]; done)
    | (refine Good.of_view ‹Good lc _› ?_; dsimp only [State.view]; done)
    | with_reducible apply good_chest
    | dsimp only
    | exact Nat.zero_le _
    | exact Good.slots ‹_›

end Sys2Proof.Machine
end

