-- ==== Sys2Proof/Laws/SoundMarkers.lean ====
section
/-! SUPPORT. Every operation of Machine/Markers.lean keeps soundness and the life cycle. -/

set_option linter.unusedTactic false
set_option linter.unreachableTactic false
set_option linter.unusedVariables false
set_option linter.unusedSimpArgs false
set_option Elab.async false

namespace Sys2Proof.Machine

theorem State.evMaster_good {lc : Nat} (old new : Nat) (s : State) (hs : Good lc s) :
    Good lc (State.evMaster old new s) := by
  unfold State.evMaster
  repeat' first | with_reducible assumption | with_reducible apply State.evMgmt_good | with_reducible apply State.evPf_good

theorem State.follow_good {lc : Nat} (l : Nat) (m : MarkerGrain) (s : State) (hs : Good lc s) :
    Good lc (State.follow l m s) := by
  unfold State.follow
  repeat' first
    | with_reducible apply State.evMaster_good | lift_lets -underBinder | (intro w) | split
    | (refine Good.of_view hs ?_; dsimp only [State.view]; done)

theorem State.rivals_good {lc : Nat} (l : Nat) (m : MarkerGrain) (s : State) (hs : Good lc s) :
    Good lc (State.rivals l m s) := by
  unfold State.rivals
  repeat' first
    | with_reducible apply State.evLink_good | lift_lets -underBinder | (intro w) | split
    | (refine Good.of_view hs ?_; dsimp only [State.view]; done)

theorem execMarker_good {lc : Nat} (link : Nat) (m : MarkerGrain) (s : State) (hs : Good lc s) :
    GoodOut lc (execMarker link m s) := by
  unfold execMarker
  repeat' first
    | with_reducible assumption | with_reducible apply State.follow_good | with_reducible apply good_modLink
    | with_reducible apply State.rivals_good | with_reducible apply goodOut_next | lift_lets -underBinder | (intro w) | split

theorem State.yieldMaster_good {lc : Nat} (s : State) (hs : Good lc s) :
    Good lc (State.yieldMaster s) := by
  unfold State.yieldMaster
  repeat' first | with_reducible apply State.evMaster_good | split | (refine Good.of_view hs ?_; dsimp only [State.view]; done)

theorem State.markerBoundary_good {lc : Nat} (s : State) (hs : Good lc s) :
    Good lc (State.markerBoundary s) := by
  unfold State.markerBoundary
  repeat' first
    | with_reducible assumption | with_reducible apply State.yieldMaster_good | lift_lets -underBinder
    | (intro t; refine good_elim (l := lc) (a := t) ?_ ?_ <;> [skip; (intro t hh hu; rw [← hu]; clear hu)]) | (intro w) | split
    | (refine Good.of_view hh ?_; dsimp only [State.view]; done)

theorem execChainStep_good {lc : Nat} (waitNs : Nat) (s : State) (hs : Good lc s) :
    GoodOut lc (execChainStep waitNs s) := by
  unfold execChainStep
  repeat' first
    | with_reducible apply State.evMgmt_good | with_reducible apply State.evPf_good | with_reducible apply goodOut_next | split
    | (refine Good.of_view hs ?_; dsimp only [State.view]; done)

theorem execMarkerHoldover_good {lc : Nat} (s : State) (hs : Good lc s) :
    GoodOut lc (execMarkerHoldover s) := by
  unfold execMarkerHoldover
  repeat' first
    | with_reducible apply State.evMgmt_good | with_reducible apply State.evPf_good | with_reducible apply goodOut_next | split
    | (refine Good.of_view hs ?_; dsimp only [State.view]; done)

theorem execMarkerLost_good {lc : Nat} (s : State) (hs : Good lc s) :
    GoodOut lc (execMarkerLost s) := by
  unfold execMarkerLost
  repeat' first
    | with_reducible apply State.evMgmt_good | with_reducible apply State.evPf_good | with_reducible apply goodOut_next | split
    | (refine Good.of_view hs ?_; dsimp only [State.view]; done)

theorem State.takeMastership_good {lc : Nat} (s : State) (hs : Good lc s) :
    Good lc (State.takeMastership s) := by
  unfold State.takeMastership
  repeat' first | with_reducible apply State.evMaster_good | (refine Good.of_view hs ?_; dsimp only [State.view]; done)

theorem execMasterTakeover_good {lc : Nat} (s : State) (hs : Good lc s) :
    GoodOut lc (execMasterTakeover s) := by
  unfold execMasterTakeover
  repeat' first | with_reducible assumption | with_reducible apply State.takeMastership_good | with_reducible apply goodOut_next | split

theorem State.sendMarker_good {lc : Nat} (l : Nat) (s : State) (hs : Good lc s) :
    Good lc (State.sendMarker l s) := by
  unfold State.sendMarker
  repeat' first | with_reducible assumption | with_reducible apply State.sendGrain_good | lift_lets -underBinder | (intro w) | split

theorem State.linkRod_good {lc : Nat} (l : Nat) (s : State) (hs : Good lc s) :
    Good lc (State.linkRod l s) := by
  unfold State.linkRod
  repeat' first
    | with_reducible assumption | with_reducible apply good_modLink | with_reducible apply State.sendCredits_good
    | with_reducible apply State.sendHello_good | with_reducible apply State.sendMarker_good | with_reducible apply State.sendSlices_good
    | lift_lets -underBinder | (intro t; refine good_elim (l := lc) (a := t) ?_ ?_ <;> [skip; (intro t hh hu; rw [← hu]; clear hu)]) | split

end Sys2Proof.Machine
end

