-- ==== Sys2Proof/Laws/SoundBoot.lean ====
section
/-! SUPPORT. Every operation of Machine/Boot.lean keeps soundness and the life cycle. -/

set_option linter.unusedTactic false
set_option linter.unreachableTactic false
set_option linter.unusedVariables false
set_option linter.unusedSimpArgs false
set_option Elab.async false

namespace Sys2Proof.Machine

theorem State.writeRecord_good {lc : Nat} (r : MeterRec) (s : State) (hs : Good lc s) : Good lc (State.writeRecord r s) := by
  have h : ∀ (t : State) (x : List MeterRec) (p : Power), Good lc t → Good lc { t with power := { p with records := x.drop (x.length - 1024) } } :=
    fun t x p ht => good_power ht (by simp only [List.length_drop]; omega)
  exact State.evMgmt_good _ _ _ (h s.drawn _ { s.power with nextRecord := _, recOpen := false } (State.drawn_good _ hs))

theorem State.closeAbrupt_good {lc : Nat} (s : State) (hs : Good lc s) :
    Good lc (State.closeAbrupt s) := by
  unfold State.closeAbrupt
  repeat' first
    | with_reducible refine fun _ => ?_
    | with_reducible assumption
    | with_reducible apply State.writeRecord_good
    | lift_lets -underBinder
    | (intro t; refine good_elim (l := lc) (a := t) ?_ ?_ <;> [skip; (intro t hh hu; rw [← hu]; clear hu)])
    | (intro k; refine canonical_elim (a := k) ?_ ?_ <;> [skip; (intro k hk hu; rw [← hu]; clear hu)])
    | (intro k; refine parcel_elim (a := k) ?_ ?_ <;> [skip; (intro k hk hu; rw [← hu]; clear hu)])
    | (intro k; refine bounded_elim (a := k) ?_ ?_ <;> [skip; (intro k hk hu; rw [← hu]; clear hu)])
    | (intro w)
    | dsimp only [t]
    | dsimp only [k]
    | split
    | dsimp +zetaDelta only
    | (refine Good.of_view hh ?_; dsimp only [State.view]; done)
    | (refine Good.of_view hs ?_; dsimp only [State.view]; done)
    | (refine Good.of_view ‹Good lc _› ?_; dsimp only [State.view]; done)

theorem State.wiped_good {lc : Nat} (s : State) (hs : Good lc s) : Good lc (State.wiped s) := by
  refine View.Good.mk hs.life rfl ?_ rfl ?_ rfl ?_ ?_ rfl rfl (rising_filter hs.slots) (Nat.zero_le _) hs.records List.nodup_nil nofun hs.imgA hs.imgB
  · intro f hf
    rw [List.eq_of_mem_replicate hf]
    exact Fn.bounded_reset
  · intro q hq
    rw [List.eq_of_mem_replicate hq]
    exact Parcel.canonical_reset
  · intro k hk
    rw [List.eq_of_mem_replicate hk]
    exact Cluster.canonical_reset
  · show (s.links.map _).length = 48
    rw [List.length_map]
    exact View.Good.links48 hs

theorem State.evSettingsBad_good {lc : Nat} (record action : Nat) (s : State) (hs : Good lc s) :
    Good lc (State.evSettingsBad record action s) := by
  unfold State.evSettingsBad
  repeat' first
    | with_reducible refine fun _ => ?_
    | with_reducible assumption
    | with_reducible apply State.evMgmt_good
    | with_reducible apply State.evPf_good
    | lift_lets -underBinder
    | (intro t; refine good_elim (l := lc) (a := t) ?_ ?_ <;> [skip; (intro t hh hu; rw [← hu]; clear hu)])
    | (intro k; refine canonical_elim (a := k) ?_ ?_ <;> [skip; (intro k hk hu; rw [← hu]; clear hu)])
    | (intro k; refine parcel_elim (a := k) ?_ ?_ <;> [skip; (intro k hk hu; rw [← hu]; clear hu)])
    | (intro k; refine bounded_elim (a := k) ?_ ?_ <;> [skip; (intro k hk hu; rw [← hu]; clear hu)])
    | (intro w)
    | dsimp only [t]
    | dsimp only [k]
    | split
    | dsimp +zetaDelta only
    | (refine Good.of_view hh ?_; dsimp only [State.view]; done)
    | (refine Good.of_view hs ?_; dsimp only [State.view]; done)
    | (refine Good.of_view ‹Good lc _› ?_; dsimp only [State.view]; done)

theorem State.deriveKeys_good {lc : Nat} (s : State) (hs : Good lc s) :
    Good lc (State.deriveKeys s) := by
  unfold State.deriveKeys
  repeat' first
    | with_reducible assumption | with_reducible apply State.fillSlot_good | lift_lets -underBinder
    | (intro t; refine good_elim (l := lc) (a := t) ?_ ?_ <;> [skip; (intro t hh hu; rw [← hu]; clear hu)]) | (intro w) | split
    | with_reducible apply good_chest | exact Good.slots ‹_›

theorem State.readSurvey_good {lc : Nat} (s : State) (hs : Good lc s) :
    Good lc (State.readSurvey s) := by
  unfold State.readSurvey
  repeat' first | with_reducible apply State.evSettingsBad_good | split | (refine Good.of_view hs ?_; dsimp only [State.view]; done)

theorem State.readSettings_good {lc : Nat} (s : State) (hs : Good lc s) :
    Good lc (State.readSettings s) := by
  unfold State.readSettings
  repeat' first
    | with_reducible apply State.evSettingsBad_good | lift_lets -underBinder | (intro w) | split
    | (refine Good.of_view hs ?_; dsimp only [State.view]; done)

theorem State.platCold_good {lc : Nat} (s : State) (hs : Good lc s) :
    Good lc (State.platCold s) := by
  unfold State.platCold
  repeat' first | with_reducible apply State.evSettingsBad_good | split | (refine Good.of_view hs ?_; dsimp only [State.view]; done)

theorem State.evPlat_good {lc : Nat} (kind unitId old new : Nat) (s : State) (hs : Good lc s) :
    Good lc (State.evPlat kind unitId old new s) := by
  unfold State.evPlat
  repeat' first | with_reducible assumption | with_reducible apply State.evMgmt_good | with_reducible apply State.evOpen_good

theorem State.platSet_good {lc : Nat} (kind u v : Nat) (s : State) (hs : Good lc s) :
    Good lc (State.platSet kind u v s) := by
  unfold State.platSet
  repeat' first
    | with_reducible apply State.evPlat_good | lift_lets -underBinder | (intro w) | split
    | (refine Good.of_view hs ?_; dsimp only [State.view]; done)

theorem State.reserveOn_good {lc : Nat} (clusters : Bool) (s : State) (die : Nat) (hs : Good lc s) :
    Good lc (State.reserveOn clusters s die) := by
  unfold State.reserveOn
  repeat' first
    | with_reducible refine fun _ => ?_ | with_reducible assumption | with_reducible apply State.evPlat_good | with_reducible apply good_foldl
    | with_reducible apply State.platSet_good | split

theorem State.reserveSpares_good {lc : Nat} (s : State) (hs : Good lc s) :
    Good lc (State.reserveSpares s) := by
  unfold State.reserveSpares
  repeat' first | with_reducible assumption | with_reducible apply good_foldl | with_reducible apply State.reserveOn_good

theorem State.bootStop_good {lc : Nat} (stage cause : Nat) (s : State) (hs : Good lc s) :
    Good lc (State.bootStop stage cause s) := by
  unfold State.bootStop
  repeat' first
    | with_reducible assumption | with_reducible apply State.raiseFault_good | lift_lets -underBinder
    | (intro t; refine good_elim (l := lc) (a := t) ?_ ?_ <;> [skip; (intro t hh hu; rw [← hu]; clear hu)]) | (intro w)
    | (refine Good.of_view hh ?_; dsimp only [State.view]; done)

theorem State.openBlobs_good {lc : Nat} (s : State) (hs : Good lc s) :
    Good lc (State.openBlobs s) := by
  unfold State.openBlobs
  repeat' first
    | with_reducible refine fun _ => ?_ | with_reducible assumption | with_reducible apply State.destroySlot_good | with_reducible apply good_foldl
    | lift_lets -underBinder | (intro t; refine good_elim (l := lc) (a := t) ?_ ?_ <;> [skip; (intro t hh hu; rw [← hu]; clear hu)])
    | with_reducible apply good_chest | exact Good.slots ‹_›

theorem State.bootRom_good {lc : Nat} (s : State) (hs : Good lc s) :
    Good lc (State.bootRom s) := by
  unfold State.bootRom
  repeat' first
    | with_reducible assumption | with_reducible apply State.bootStop_good | with_reducible apply State.closeAbrupt_good
    | with_reducible apply State.deriveKeys_good | with_reducible apply State.openBlobs_good | with_reducible apply State.platCold_good
    | with_reducible apply State.readSettings_good | with_reducible apply State.readSurvey_good | with_reducible apply State.reserveSpares_good
    | lift_lets -underBinder | (intro t; refine good_elim (l := lc) (a := t) ?_ ?_ <;> [skip; (intro t hh hu; rw [← hu]; clear hu)]) | (intro w)
    | split | (refine Good.of_view hh ?_; dsimp only [State.view]; done)

theorem State.reboot_good {lc : Nat} (ordered hubOk : Bool) (s : State) (hs : Good lc s) :
    Good lc (State.reboot ordered hubOk s) := by
  unfold State.reboot
  repeat' first
    | with_reducible assumption | with_reducible apply State.bootRom_good | with_reducible apply State.bootStop_good
    | with_reducible apply State.wiped_good | lift_lets -underBinder
    | (intro t; refine good_elim (l := lc) (a := t) ?_ ?_ <;> [skip; (intro t hh hu; rw [← hu]; clear hu)]) | (intro w) | split
    | (refine Good.of_view hh ?_; dsimp only [State.view]; done)

theorem State.flushRing_good {lc : Nat} (n k : Nat) (s : State) (hs : Good lc s) : Good lc (State.flushRing n k s) := by
  induction k generalizing s with
  | zero => exact hs
  | succ k ih =>
    have h := execResponseWrite_good n s hs
    unfold State.flushRing
    split
    · rename_i t ht
      exact ih t (h.next t ht)
    · exact hs

theorem State.flushRings_good {lc : Nat} (s : State) (hs : Good lc s) :
    Good lc (State.flushRings s) := by
  unfold State.flushRings
  repeat' first
    | with_reducible refine fun _ => ?_
    | with_reducible assumption
    | with_reducible apply State.flushRing_good
    | with_reducible apply good_foldl
    | with_reducible apply canonical_foldl
    | with_reducible apply State.fn_bounded
    | lift_lets -underBinder
    | (intro t; refine good_elim (l := lc) (a := t) ?_ ?_ <;> [skip; (intro t hh hu; rw [← hu]; clear hu)])
    | (intro k; refine canonical_elim (a := k) ?_ ?_ <;> [skip; (intro k hk hu; rw [← hu]; clear hu)])
    | (intro k; refine parcel_elim (a := k) ?_ ?_ <;> [skip; (intro k hk hu; rw [← hu]; clear hu)])
    | (intro k; refine bounded_elim (a := k) ?_ ?_ <;> [skip; (intro k hk hu; rw [← hu]; clear hu)])
    | (intro w)
    | dsimp only [t]
    | dsimp only [k]
    | split
    | dsimp +zetaDelta only
    | (refine Good.of_view hh ?_; dsimp only [State.view]; done)
    | (refine Good.of_view hs ?_; dsimp only [State.view]; done)
    | (refine Good.of_view ‹Good lc _› ?_; dsimp only [State.view]; done)

theorem State.powerDown_good {lc : Nat} (s : State) (hs : Good lc s) :
    Good lc (State.powerDown s) := by
  unfold State.powerDown
  repeat' first
    | with_reducible assumption | with_reducible apply State.flushRings_good | with_reducible apply State.wiped_good | lift_lets -underBinder
    | (intro t; refine good_elim (l := lc) (a := t) ?_ ?_ <;> [skip; (intro t hh hu; rw [← hu]; clear hu)]) | with_reducible apply good_power
    | exact Good.records ‹_›

theorem execEbxelStart_good {lc : Nat} (s : State) (hs : Good lc s) :
    GoodOut lc (execEbxelStart s) := by
  unfold execEbxelStart
  repeat' first | with_reducible apply goodOut_next | split | (refine Good.of_view hs ?_; dsimp only [State.view]; done)

theorem execDiePowerUp_good {lc : Nat} (die : Nat) (s : State) (hs : Good lc s) :
    GoodOut lc (execDiePowerUp die s) := by
  unfold execDiePowerUp
  repeat' first
    | with_reducible refine fun _ => ?_ | with_reducible assumption | with_reducible apply State.enterTraining_good
    | with_reducible apply good_foldl | with_reducible apply goodOut_next | split | (refine Good.of_view hs ?_; dsimp only [State.view]; done)

theorem execWaveWake_good {lc : Nat} (wave : Nat) (s : State) (hs : Good lc s) :
    GoodOut lc (execWaveWake wave s) := by
  unfold execWaveWake
  repeat' first
    | with_reducible refine fun _ => ?_ | with_reducible assumption | with_reducible apply good_modClusters | with_reducible apply goodOut_next
    | with_reducible apply goodOut_fault | lift_lets -underBinder
    | (intro t; refine good_elim (l := lc) (a := t) ?_ ?_ <;> [skip; (intro t hh hu; rw [← hu]; clear hu)]) | (intro w) | dsimp only [t] | split
    | dsimp +zetaDelta only | (refine Good.of_view hh ?_; dsimp only [State.view]; done)
    | (refine Good.of_view hs ?_; dsimp only [State.view]; done) | (refine Good.of_view ‹Good lc _› ?_; dsimp only [State.view]; done)
    | exact (‹Cluster.canonical _›).2.2.1 _ ‹_› | exact (‹Cluster.canonical _›).1 | exact (‹Cluster.canonical _›).2.1
    | exact (‹Cluster.canonical _›).2.2.2.1 | exact (‹Cluster.canonical _›).2.2.2.2.1 | exact (‹Cluster.canonical _›).2.2.2.2.2
    | with_reducible apply Cluster.canonical_intro

theorem State.toStage40_good {lc : Nat} (s : State) (hs : Good lc s) :
    Good lc (State.toStage40 s) := by
  unfold State.toStage40
  repeat' first | split | (refine Good.of_view hs ?_; dsimp only [State.view]; done)

theorem State.tested_good {lc : Nat} (kind unitId : Nat) (failed : Bool) (s : State) (hs : Good lc s) :
    Good lc (State.tested kind unitId failed s) := by
  unfold State.tested
  repeat' first | with_reducible assumption | with_reducible apply State.platPend_good

theorem execWaveTestDone_good {lc : Nat} (wave : Nat) (failed : List Nat) (failedBenches : List (Nat × Nat)) (s : State) (hs : Good lc s) :
    GoodOut lc (execWaveTestDone wave failed failedBenches s) := by
  unfold execWaveTestDone
  repeat' first
    | with_reducible refine fun _ => ?_ | with_reducible assumption | with_reducible apply good_foldl | with_reducible apply State.platPend_good
    | with_reducible apply State.tested_good | with_reducible apply State.toStage40_good | with_reducible apply goodOut_next
    | lift_lets -underBinder | (intro t; refine good_elim (l := lc) (a := t) ?_ ?_ <;> [skip; (intro t hh hu; rw [← hu]; clear hu)]) | (intro w)
    | split | (refine Good.of_view hh ?_; dsimp only [State.view]; done)

theorem execDeviceReady_good {lc : Nat} (device : Nat) (failed : List Nat) (s : State) (hs : Good lc s) :
    GoodOut lc (execDeviceReady device failed s) := by
  unfold execDeviceReady
  repeat' first
    | with_reducible refine fun _ => ?_ | with_reducible assumption | with_reducible apply good_foldl | with_reducible apply State.platPend_good
    | with_reducible apply State.tested_good | with_reducible apply State.toStage40_good | with_reducible apply goodOut_next
    | lift_lets -underBinder | (intro t; refine good_elim (l := lc) (a := t) ?_ ?_ <;> [skip; (intro t hh hu; rw [← hu]; clear hu)]) | (intro w)
    | split | (refine Good.of_view hh ?_; dsimp only [State.view]; done)

theorem execEarlyService_good {lc : Nat} (s : State) (hs : Good lc s) :
    GoodOut lc (execEarlyService s) := by
  unfold execEarlyService
  repeat' first
    | with_reducible apply State.openHeldDrawers_good | with_reducible apply State.toStage40_good | with_reducible apply goodOut_next | split
    | (refine Good.of_view hs ?_; dsimp only [State.view]; done)

theorem State.becomeReady_good {lc : Nat} (s : State) (hs : Good lc s) : Good lc (State.becomeReady s) := by
  unfold State.becomeReady
  dsimp only
  refine State.evMgmt_good _ _ _ (State.evOpen_good _ _ _ (State.openHeldDrawers_good _ ?_))
  have h : ∀ (t : State) (x : Boot) (y : FaultSt), Good lc t → Good lc { t with boot := x, flash := { t.flash with warmRow := 0 }, faults := y } :=
    fun t x y ht => ht.of_view rfl
  refine h _ _ _ ?_
  split
  · exact State.takeMastership_good _ hs
  · exact hs

theorem State.reportMismatch_good {lc : Nat} (s : State) (hs : Good lc s) :
    Good lc (State.reportMismatch s) := by
  unfold State.reportMismatch
  repeat' first
    | with_reducible refine fun _ => ?_
    | with_reducible assumption
    | with_reducible apply State.evMgmt_good
    | with_reducible apply State.evPf_good
    | lift_lets -underBinder
    | (intro t; refine good_elim (l := lc) (a := t) ?_ ?_ <;> [skip; (intro t hh hu; rw [← hu]; clear hu)])
    | (intro k; refine canonical_elim (a := k) ?_ ?_ <;> [skip; (intro k hk hu; rw [← hu]; clear hu)])
    | (intro k; refine parcel_elim (a := k) ?_ ?_ <;> [skip; (intro k hk hu; rw [← hu]; clear hu)])
    | (intro k; refine bounded_elim (a := k) ?_ ?_ <;> [skip; (intro k hk hu; rw [← hu]; clear hu)])
    | (intro w)
    | dsimp only [t]
    | dsimp only [k]
    | split
    | dsimp +zetaDelta only
    | (refine Good.of_view hh ?_; dsimp only [State.view]; done)
    | (refine Good.of_view hs ?_; dsimp only [State.view]; done)
    | (refine Good.of_view ‹Good lc _› ?_; dsimp only [State.view]; done)

theorem execTopologyJudge_good {lc : Nat} (s : State) (hs : Good lc s) :
    GoodOut lc (execTopologyJudge s) := by
  unfold execTopologyJudge
  repeat' first
    | with_reducible apply State.becomeReady_good | with_reducible apply State.reportMismatch_good | with_reducible apply goodOut_next
    | lift_lets -underBinder | (intro w) | split | (refine Good.of_view hs ?_; dsimp only [State.view]; done)

end Sys2Proof.Machine
end

