-- ==== Sys2Proof/Laws/SoundBounce.lean ====
section
/-! SUPPORT. Every operation of Machine/Bounce.lean keeps soundness and the life cycle. -/

set_option linter.unusedTactic false
set_option linter.unreachableTactic false
set_option linter.unusedVariables false
set_option linter.unusedSimpArgs false
set_option Elab.async false

namespace Sys2Proof.Machine

theorem State.areaWrite_good {lc : Nat} (p : Nat) (m : BounceMap) (a : Nat) (b : Bytes) (s : State) (hs : Good lc s) :
    Good lc (State.areaWrite p m a b s) := by
  unfold State.areaWrite
  repeat' first | with_reducible assumption | with_reducible apply State.extWrite_good

theorem State.channelSignal_good {lc : Nat} (p : Nat) (m : BounceMap) (stake : Nat) (s : State) (hs : Good lc s) :
    Good lc (State.channelSignal p m stake s) := by
  unfold State.channelSignal
  repeat' first | with_reducible assumption | with_reducible apply State.signalCtx_good

theorem execBounceInRecord_good {lc : Nat} (vf : Nat) (r : BounceRec) (s : State) (hs : Good lc s) :
    GoodOut lc (execBounceInRecord vf r s) := by
  unfold execBounceInRecord
  repeat' first
    | with_reducible refine fun _ => ?_ | with_reducible assumption | with_reducible apply State.areaWrite_good
    | with_reducible apply State.channelSignal_good | with_reducible apply good_modFn | with_reducible apply goodOut_next
    | with_reducible apply goodOut_fault | split | dsimp only | exact (‹Fn.bounded _›).1 | exact (‹Fn.bounded _›).2
    | with_reducible apply Fn.bounded_intro

theorem execBounceOutRecord_good {lc : Nat} (vf : Nat) (s : State) (hs : Good lc s) :
    GoodOut lc (execBounceOutRecord vf s) := by
  unfold execBounceOutRecord
  repeat' first
    | with_reducible refine fun _ => ?_ | with_reducible assumption | with_reducible apply State.channelSignal_good
    | with_reducible apply State.emit_good | with_reducible apply good_modFn | with_reducible apply goodOut_next
    | with_reducible apply goodOut_fault | split | dsimp only | exact (‹Fn.bounded _›).1 | exact (‹Fn.bounded _›).2
    | with_reducible apply Fn.bounded_intro

theorem execBounceMapEffect_good {lc : Nat} (vf : Nat) (s : State) (hs : Good lc s) :
    GoodOut lc (execBounceMapEffect vf s) := by
  unfold execBounceMapEffect
  repeat' first
    | with_reducible refine fun _ => ?_ | with_reducible assumption | with_reducible apply good_modFn | with_reducible apply goodOut_next
    | with_reducible apply goodOut_fault | split | exact (‹Fn.bounded _›).1 | exact (‹Fn.bounded _›).2 | with_reducible apply Fn.bounded_intro

theorem State.writeIndex_good {lc : Nat} (s : State) (hs : Good lc s) :
    Good lc (State.writeIndex s) := by
  unfold State.writeIndex
  repeat' first
    | with_reducible refine fun _ => ?_ | with_reducible assumption | with_reducible apply State.emit_good | with_reducible apply good_foldl
    | with_reducible apply canonical_foldl | with_reducible apply good_modFn | with_reducible apply State.fn_bounded | split | dsimp only
    | exact (‹Fn.bounded _›).1 | exact (‹Fn.bounded _›).2 | with_reducible apply Fn.bounded_intro

theorem State.readIndex_good {lc : Nat} (idx : List (Nat × Nat × Nat)) (s : State) (hs : Good lc s) :
    Good lc (State.readIndex idx s) := by
  unfold State.readIndex
  repeat' first
    | with_reducible refine fun _ => ?_ | with_reducible assumption | with_reducible apply good_foldl | with_reducible apply canonical_foldl
    | with_reducible apply good_modFn | split | exact (‹Fn.bounded _›).1 | exact (‹Fn.bounded _›).2 | with_reducible apply Fn.bounded_intro

theorem State.bounceBad_good {lc : Nat} (s : State) (hs : Good lc s) :
    Good lc (State.bounceBad s) := by
  unfold State.bounceBad
  repeat' first
    | with_reducible refine fun _ => ?_ | with_reducible assumption | with_reducible apply State.evFn_good | with_reducible apply good_foldl
    | with_reducible apply canonical_foldl | with_reducible apply good_modFn | with_reducible apply State.fn_bounded | split | dsimp only
    | exact (‹Fn.bounded _›).1 | exact (‹Fn.bounded _›).2 | with_reducible apply Fn.bounded_intro

end Sys2Proof.Machine
end

