-- ==== Sys2Proof/Laws/SoundContexts.lean ====
section
/-! SUPPORT. Every operation of Machine/Contexts.lean keeps soundness and the life cycle. -/

set_option linter.unusedTactic false
set_option linter.unreachableTactic false
set_option linter.unusedVariables false
set_option linter.unusedSimpArgs false
set_option Elab.async false

namespace Sys2Proof.Machine

theorem execContextStart_good {lc : Nat} (fn : Nat) (s : State) (hs : Good lc s) :
    GoodOut lc (execContextStart fn s) := by
  unfold execContextStart
  repeat' first
    | with_reducible refine fun _ => ?_ | with_reducible assumption | with_reducible apply State.allocStakes_good
    | with_reducible apply State.gated_good | with_reducible apply guarded_good | with_reducible apply good_modCtx
    | with_reducible apply Verdict.no_good | with_reducible apply State.runDrawer_good | with_reducible apply Taken.withPayload_good
    | with_reducible apply Verdict.good_done | with_reducible apply goodOut_next | split

theorem execContextStop_good {lc : Nat} (fn : Nat) (s : State) (hs : Good lc s) :
    GoodOut lc (execContextStop fn s) := by
  unfold execContextStop
  repeat' first
    | with_reducible refine fun _ => ?_ | with_reducible assumption | with_reducible apply State.gated_good | with_reducible apply guarded_good
    | with_reducible apply good_modCtx | with_reducible apply Verdict.no_good | with_reducible apply State.runDrawer_good
    | with_reducible apply Taken.withPayload_good | with_reducible apply Verdict.good_done | with_reducible apply goodOut_next | split

theorem execContextSeed_good {lc : Nat} (fn : Nat) (s : State) (hs : Good lc s) :
    GoodOut lc (execContextSeed fn s) := by
  unfold execContextSeed
  repeat' first
    | with_reducible refine fun _ => ?_ | with_reducible assumption | with_reducible apply State.gated_good | with_reducible apply guarded_good
    | with_reducible apply good_modCtx | with_reducible apply Verdict.no_good | with_reducible apply State.runDrawer_good
    | with_reducible apply Taken.withPayload_good | with_reducible apply Verdict.good_done | with_reducible apply goodOut_next | split

theorem execContextStatus_good {lc : Nat} (fn : Nat) (s : State) (hs : Good lc s) :
    GoodOut lc (execContextStatus fn s) := by
  unfold execContextStatus
  repeat' first
    | with_reducible refine fun _ => ?_ | with_reducible assumption | with_reducible apply State.gated_good | with_reducible apply guarded_good
    | with_reducible apply Verdict.no_good | with_reducible apply State.runDrawer_good | with_reducible apply Taken.withPayload_good
    | with_reducible apply Verdict.good_done | with_reducible apply goodOut_next | split

end Sys2Proof.Machine
end

