-- ==== Sys2Proof/Laws/SoundEntropy.lean ====
section
/-! SUPPORT. Every operation of Machine/Entropy.lean keeps soundness and the life cycle. -/

set_option linter.unusedTactic false
set_option linter.unreachableTactic false
set_option linter.unusedVariables false
set_option linter.unusedSimpArgs false
set_option Elab.async false

namespace Sys2Proof.Machine

theorem State.estimate_good {lc : Nat} (fallback : Bool) (s : State) (hs : Good lc s) :
    Good lc (State.estimate fallback s) := by
  unfold State.estimate
  repeat' first | (refine Good.of_view hs ?_; dsimp only [State.view]; done)

theorem State.evEntropy_good {lc : Nat} (fallback : Bool) (s : State) (hs : Good lc s) :
    Good lc (State.evEntropy fallback s) := by
  unfold State.evEntropy
  repeat' first
    | with_reducible assumption | with_reducible apply State.estimate_good | with_reducible apply State.evMgmt_good
    | with_reducible apply State.evPf_good

theorem State.primaryFailed_good {lc : Nat} (s : State) (hs : Good lc s) :
    Good lc (State.primaryFailed s) := by
  unfold State.primaryFailed
  repeat' first | with_reducible apply State.evEntropy_good | (refine Good.of_view hs ?_; dsimp only [State.view]; done)

theorem execHealthTestFail_good {lc : Nat} (primary rct : Bool) (s : State) (hs : Good lc s) :
    GoodOut lc (execHealthTestFail primary rct s) := by
  unfold execHealthTestFail
  repeat' first
    | with_reducible apply State.evEntropy_good | with_reducible apply State.primaryFailed_good | with_reducible apply goodOut_next | split
    | (refine Good.of_view hs ?_; dsimp only [State.view]; done)

theorem execPrimaryRetest_good {lc : Nat} (pass : Bool) (s : State) (hs : Good lc s) :
    GoodOut lc (execPrimaryRetest pass s) := by
  unfold execPrimaryRetest
  repeat' first
    | with_reducible apply goodOut_next | lift_lets -underBinder | (intro w) | split | (refine Good.of_view hs ?_; dsimp only [State.view]; done)

theorem State.entropyBoundary_good {lc : Nat} (s : State) (hs : Good lc s) :
    Good lc (State.entropyBoundary s) := by
  unfold State.entropyBoundary
  repeat' first
    | with_reducible apply State.evEntropy_good | lift_lets -underBinder
    | (intro t; refine good_elim (l := lc) (a := t) ?_ ?_ <;> [skip; (intro t hh hu; rw [← hu]; clear hu)]) | (intro w) | dsimp only [t] | split
    | (refine Good.of_view hh ?_; dsimp only [State.view]; done) | (refine Good.of_view hs ?_; dsimp only [State.view]; done)

theorem execHubReseed_good {lc : Nat} (ok : Bool) (s : State) (hs : Good lc s) :
    GoodOut lc (execHubReseed ok s) := by
  unfold execHubReseed
  repeat' first
    | with_reducible apply goodOut_next | lift_lets -underBinder | (intro w) | split | (refine Good.of_view hs ?_; dsimp only [State.view]; done)

theorem execClusterGeneratorReseed_good {lc : Nat} (p k : Nat) (ok : Bool) (s : State) (hs : Good lc s) :
    GoodOut lc (execClusterGeneratorReseed p k ok s) := by
  unfold execClusterGeneratorReseed
  repeat' first
    | with_reducible assumption | with_reducible apply State.drawnMany_good | with_reducible apply good_modCtx | with_reducible apply goodOut_next
    | split

theorem State.instantiate_good {lc : Nat} (s : State) (hs : Good lc s) :
    Good lc (State.instantiate s) := by
  unfold State.instantiate
  repeat' first
    | with_reducible assumption | with_reducible apply State.drawn_good | with_reducible apply State.fillSlot_good | lift_lets -underBinder
    | (intro t; refine good_elim (l := lc) (a := t) ?_ ?_ <;> [skip; (intro t hh hu; rw [← hu]; clear hu)]) | (intro w)
    | (refine Good.of_view hh ?_; dsimp only [State.view]; done)

theorem execStartUpTestEnd_good {lc : Nat} (primary pass : Bool) (s : State) (hs : Good lc s) :
    GoodOut lc (execStartUpTestEnd primary pass s) := by
  unfold execStartUpTestEnd
  repeat' first
    | with_reducible assumption | with_reducible apply State.bootStop_good | with_reducible apply State.evEntropy_good
    | with_reducible apply State.instantiate_good | with_reducible apply State.primaryFailed_good | with_reducible apply goodOut_next
    | lift_lets -underBinder | (intro t; refine good_elim (l := lc) (a := t) ?_ ?_ <;> [skip; (intro t hh hu; rw [← hu]; clear hu)]) | (intro w)
    | dsimp only [t] | split | (refine Good.of_view hs ?_; dsimp only [State.view]; done)

theorem execFactoryFuseProgramming_moved {lc : Nat} (s : State) (hs : Good lc s) : MovedOut lc (execFactoryFuseProgramming s) := by
  have h : ∀ t : State, Good lc t → Good 1 { t with flash := { t.flash with lifecycle := 1 } } := by
    intro t ht
    have ht : View.Good lc t.view := ht
    exact { ht with life := rfl }
  unfold execFactoryFuseProgramming
  refine movedOut_next ?_
  split
  · rename_i hc
    have h0 : s.flash.lifecycle = 0 := by
      simp only [Bool.and_eq_true, decide_eq_true_eq] at hc
      exact hc.1.1.1
    have hl : s.flash.lifecycle = lc := hs.life
    refine ⟨1, .inr (.inl ⟨by omega, rfl⟩), ?_⟩
    refine good_faults (State.evMgmt_good _ _ _ (State.evPf_good _ _ _ (h _ ?_)))
    have h1 := State.fillSlot_good 0 (slotAttr 6 0 0 true false 1 lcWork) ((s.fresh.setWidth 384).setWidth 1024) _ (State.drawn_good _ hs)
    have h2 := State.keepBlob_good 8 _ (State.fillSlot_good 8 (slotAttr 5 0 0 false true 0x23 lcWork)
      (((s.drawn.fillSlot 0 (slotAttr 6 0 0 true false 1 lcWork) ((s.fresh.setWidth 384).setWidth 1024)).fresh.setWidth 776).setWidth 1024) _ (State.drawn_good _ h1))
    exact State.keepBlob_good 9 _ (State.fillSlot_good _ _ _ _ (State.drawn_good _ h2))
  · exact hs.moved

end Sys2Proof.Machine
end

