-- ==== Sys2Proof/Laws/SoundOperations.lean ====
section
/-! SUPPORT. Every operation of Machine/Operations.lean keeps soundness and the life cycle. -/

set_option linter.unusedTactic false
set_option linter.unreachableTactic false
set_option linter.unusedVariables false
set_option linter.unusedSimpArgs false
set_option Elab.async false

namespace Sys2Proof.Machine

theorem State.reach_good {lc : Nat} (p c k r : Nat) (modes : List Nat) (g : State → State) (s : State) (hg : ∀ t, Good lc t → Good lc (g t)) (hs : Good lc s) :
    Good lc (State.reach p c k r modes g s) := by
  unfold State.reach
  repeat' first
    | with_reducible refine fun _ => ?_ | with_reducible assumption | with_reducible apply State.faultCtx_good
    | with_reducible apply State.ifUp_good | with_reducible apply hg | split

theorem State.maskRow_good {lc : Nat} (p c k : Nat) (limb round g0 r : Nat) (e : Bytes) (s : State) (hs : Good lc s) :
    Good lc (State.maskRow p c k limb round g0 r e s) := by
  unfold State.maskRow
  repeat' first
    | with_reducible refine fun _ => ?_ | with_reducible assumption | with_reducible apply State.landWrite_good
    | with_reducible apply State.reach_good

theorem execMaskExpand_good {lc : Nat} (p k node : Nat) (s : State) (hs : Good lc s) :
    GoodOut lc (execMaskExpand p k node s) := by
  unfold execMaskExpand
  repeat' first
    | with_reducible refine fun _ => ?_ | with_reducible assumption | with_reducible apply State.discard_good | with_reducible apply good_foldl
    | with_reducible apply State.maskRow_good | with_reducible apply State.operate_good | with_reducible apply goodOut_next | split

theorem State.transform_good {lc : Nat} (p k : Nat) (f : Nat → Nat → List Nat → List Nat) (logN limbs row work : Nat) (src dst : Operand) (slots : List Nat) (s : State) (hs : Good lc s) :
    Good lc (State.transform p k f logN limbs row work src dst slots s) := by
  unfold State.transform
  repeat' first | with_reducible assumption | with_reducible apply State.scribbleWork_good | with_reducible apply State.writeOp_good

theorem execNttFwd_good {lc : Nat} (p k node : Nat) (s : State) (hs : Good lc s) :
    GoodOut lc (execNttFwd p k node s) := by
  unfold execNttFwd
  repeat' first
    | with_reducible refine fun _ => ?_ | with_reducible assumption | with_reducible apply State.operate_good
    | with_reducible apply State.transform_good | with_reducible apply goodOut_next | split

theorem execNttInv_good {lc : Nat} (p k node : Nat) (s : State) (hs : Good lc s) :
    GoodOut lc (execNttInv p k node s) := by
  unfold execNttInv
  repeat' first
    | with_reducible refine fun _ => ?_ | with_reducible assumption | with_reducible apply State.operate_good
    | with_reducible apply State.transform_good | with_reducible apply goodOut_next | split

theorem execKeyswitch_good {lc : Nat} (p k node : Nat) (s : State) (hs : Good lc s) :
    GoodOut lc (execKeyswitch p k node s) := by
  unfold execKeyswitch
  repeat' first
    | with_reducible refine fun _ => ?_ | with_reducible assumption | with_reducible apply State.drawMany_good
    | with_reducible apply State.operate_good | with_reducible apply State.scribbleWork_good | with_reducible apply State.writeOp_good
    | with_reducible apply goodOut_next | split

theorem execRefreshLut_good {lc : Nat} (p k node : Nat) (s : State) (hs : Good lc s) :
    GoodOut lc (execRefreshLut p k node s) := by
  unfold execRefreshLut
  repeat' first
    | with_reducible refine fun _ => ?_ | with_reducible assumption | with_reducible apply State.operate_good
    | with_reducible apply State.scribbleWork_good | with_reducible apply State.writeOp_good | with_reducible apply goodOut_next | split

theorem execClipL2_good {lc : Nat} (p k node : Nat) (s : State) (hs : Good lc s) :
    GoodOut lc (execClipL2 p k node s) := by
  unfold execClipL2
  repeat' first
    | with_reducible refine fun _ => ?_ | with_reducible assumption | with_reducible apply State.discard_good | with_reducible apply good_foldl
    | with_reducible apply State.operate_good | with_reducible apply State.reach_good | with_reducible apply State.scribbleRow_good
    | with_reducible apply State.writeOp_good | with_reducible apply goodOut_next | lift_lets -underBinder
    | (intro t; refine good_elim (l := lc) (a := t) ?_ ?_ <;> [skip; (intro t hh hu; rw [← hu]; clear hu)]) | (intro w) | dsimp only [t] | split

theorem State.addSamples_good {lc : Nat} (p c k pair samples groups : Nat) (mode : Nat) (words : List Nat) (s : State) (hs : Good lc s) :
    Good lc (State.addSamples p c k pair samples groups mode words s) := by
  unfold State.addSamples
  repeat' first
    | with_reducible refine fun _ => ?_ | with_reducible assumption | with_reducible apply good_foldl | with_reducible apply State.landWrite_good
    | with_reducible apply State.reach_good

theorem execSumsq_good {lc : Nat} (p k node : Nat) (s : State) (hs : Good lc s) :
    GoodOut lc (execSumsq p k node s) := by
  unfold execSumsq
  repeat' first
    | with_reducible refine fun _ => ?_ | with_reducible assumption | with_reducible apply State.addSamples_good
    | with_reducible apply State.ifUp_good | with_reducible apply State.operate_good | with_reducible apply State.writeOp_good
    | with_reducible apply goodOut_next | split

theorem execMeanvar_good {lc : Nat} (p k node : Nat) (s : State) (hs : Good lc s) :
    GoodOut lc (execMeanvar p k node s) := by
  unfold execMeanvar
  repeat' first
    | with_reducible assumption | with_reducible apply State.addSamples_good | with_reducible apply State.ifUp_good
    | with_reducible apply State.operate_good | with_reducible apply State.saturate_good | with_reducible apply State.writeOp_good
    | with_reducible apply goodOut_next | lift_lets -underBinder | (intro w) | split

theorem State.noiseRow_good {lc : Nat} (p c k r scale sigma delta first : Nat) (base : State) (s : State) (hbase : Good lc base) (hs : Good lc s) :
    Good lc (State.noiseRow p c k r scale sigma delta first base s) := by
  unfold State.noiseRow
  repeat' first
    | with_reducible assumption | with_reducible apply State.landWrite_good | with_reducible apply State.reach_good | lift_lets -underBinder
    | (intro w) | split

theorem execNoiseGauss_good {lc : Nat} (p k node : Nat) (s : State) (hs : Good lc s) :
    GoodOut lc (execNoiseGauss p k node s) := by
  unfold execNoiseGauss
  repeat' first
    | with_reducible refine fun _ => ?_ | with_reducible assumption | with_reducible apply State.drawMany_good
    | with_reducible apply State.faultCtx_good | with_reducible apply good_foldl | with_reducible apply State.noiseRow_good
    | with_reducible apply State.operate_good | with_reducible apply State.writeOp_good | with_reducible apply goodOut_next | split

theorem State.decodeRow_good {lc : Nat} (p c k r format qScale : Nat) (reset : Bool) (dst : Operand) (off : Nat) (s : State) (hs : Good lc s) :
    Good lc (State.decodeRow p c k r format qScale reset dst off s) := by
  unfold State.decodeRow
  repeat' first
    | with_reducible assumption | with_reducible apply good_modLogical | with_reducible apply State.reach_good
    | with_reducible apply Cluster.resetRow_good | with_reducible apply State.writeSpace_good | lift_lets -underBinder | (intro w) | split

theorem execDecodeCenter_good {lc : Nat} (p k node : Nat) (s : State) (hs : Good lc s) :
    GoodOut lc (execDecodeCenter p k node s) := by
  unfold execDecodeCenter
  repeat' first
    | with_reducible refine fun _ => ?_ | with_reducible assumption | with_reducible apply State.decodeRow_good | with_reducible apply good_foldl
    | with_reducible apply State.operate_good | with_reducible apply goodOut_next | split

theorem execApplyStep_good {lc : Nat} (p k node : Nat) (s : State) (hs : Good lc s) :
    GoodOut lc (execApplyStep p k node s) := by
  unfold execApplyStep
  repeat' first
    | with_reducible refine fun _ => ?_ | with_reducible assumption | with_reducible apply State.operate_good
    | with_reducible apply State.writeOp_good | with_reducible apply goodOut_next | split

theorem State.matRow_good {lc : Nat} (p c k : Nat) (f : TileFormat) (scale r m h ch : Nat) (a b : Nat → Nat → Nat) (s : State) (hs : Good lc s) :
    Good lc (State.matRow p c k f scale r m h ch a b s) := by
  unfold State.matRow
  repeat' first
    | with_reducible refine fun _ => ?_ | with_reducible assumption | with_reducible apply State.landWrite_good
    | with_reducible apply State.reach_good

theorem execMatmul_good {lc : Nat} (p k node : Nat) (s : State) (hs : Good lc s) :
    GoodOut lc (execMatmul p k node s) := by
  unfold execMatmul
  repeat' first
    | with_reducible assumption | with_reducible apply State.drawMany_good | with_reducible apply State.faultCtx_good
    | with_reducible apply good_foldl | with_reducible apply State.matRow_good | with_reducible apply State.operate_good
    | with_reducible apply goodOut_next | lift_lets -underBinder | (intro w) | split

theorem State.seedFailed_good {lc : Nat} (p c : Nat) (statuses : List Nat) (s : State) (hs : Good lc s) :
    Good lc (State.seedFailed p c statuses s) := by
  unfold State.seedFailed
  repeat' first | with_reducible assumption | with_reducible apply State.endRound_good | split

theorem execSeedRecover_good {lc : Nat} (p k node : Nat) (s : State) (hs : Good lc s) :
    GoodOut lc (execSeedRecover p k node s) := by
  unfold execSeedRecover
  repeat' first
    | with_reducible refine fun _ => ?_ | with_reducible assumption | with_reducible apply State.discard_good
    | with_reducible apply State.operate_good | with_reducible apply State.seedFailed_good | with_reducible apply State.writeOp_good
    | with_reducible apply goodOut_next | split

theorem execPairSeed_good {lc : Nat} (p k node : Nat) (s : State) (hs : Good lc s) :
    GoodOut lc (execPairSeed p k node s) := by
  unfold execPairSeed
  repeat' first
    | with_reducible refine fun _ => ?_ | with_reducible assumption | with_reducible apply State.discard_good
    | with_reducible apply State.drawMany_good | with_reducible apply State.operate_good | with_reducible apply State.seedFailed_good
    | with_reducible apply State.writeOp_good | with_reducible apply goodOut_next | split

end Sys2Proof.Machine
end

