-- ==== Sys2Proof/Laws/SoundRounds.lean ====
section
/-! SUPPORT. Every operation of Machine/Rounds.lean keeps soundness and the life cycle. -/

set_option linter.unusedTactic false
set_option linter.unreachableTactic false
set_option linter.unusedVariables false
set_option linter.unusedSimpArgs false
set_option Elab.async false

namespace Sys2Proof.Machine

theorem execRoundOpen_good {lc : Nat} (fn : Nat) (s : State) (hs : Good lc s) :
    GoodOut lc (execRoundOpen fn s) := by
  unfold execRoundOpen
  repeat' first
    | with_reducible assumption | with_reducible apply State.gated_good | with_reducible apply guarded_good | with_reducible apply good_modCtx
    | with_reducible apply Verdict.no_good | with_reducible apply State.runDrawer_good | with_reducible apply Verdict.good_done
    | with_reducible apply goodOut_next | lift_lets -underBinder | (intro w) | split

theorem execRoundMap_good {lc : Nat} (fn : Nat) (s : State) (hs : Good lc s) :
    GoodOut lc (execRoundMap fn s) := by
  unfold execRoundMap
  repeat' first
    | with_reducible assumption | with_reducible apply State.gated_good | with_reducible apply guarded_good | with_reducible apply good_modCtx
    | with_reducible apply Verdict.no_good | with_reducible apply State.runDrawer_good | with_reducible apply Verdict.good_done
    | with_reducible apply goodOut_next | lift_lets -underBinder | (intro w) | split

theorem execRoundClose_good {lc : Nat} (fn : Nat) (s : State) (hs : Good lc s) :
    GoodOut lc (execRoundClose fn s) := by
  unfold execRoundClose
  repeat' first
    | with_reducible refine fun _ => ?_ | with_reducible assumption | with_reducible apply State.gated_good | with_reducible apply guarded_good
    | with_reducible apply good_modCtx | with_reducible apply Verdict.no_good | with_reducible apply State.runDrawer_good
    | with_reducible apply Taken.withPayload_good | with_reducible apply Verdict.good_done | with_reducible apply goodOut_next | split

theorem State.holdFrag_good {lc : Nat} (p c : Nat) (f : Bytes) (s : State) (hs : Good lc s) :
    Good lc (State.holdFrag p c f s) := by
  unfold State.holdFrag
  repeat' first | with_reducible assumption | with_reducible apply good_modCtx

theorem State.forwardAll_good {lc : Nat} (p : Nat) (q : List (Nat × Nat × Nat × Bytes)) (s : State) (kept : List (Nat × Nat × Nat × Bytes))
    (hs : Good lc s) : Good lc (State.forwardAll p q s kept).1 := by
  induction q generalizing s kept with
  | nil => exact hs
  | cons x q ih =>
    unfold State.forwardAll
    split
    · split
      · exact ih _ _ (State.sendSeq_good _ _ _ _ _ _ _ hs)
      · exact ih _ _ hs
    · exact ih _ _ hs

theorem State.forwards_good {lc : Nat} (p : Nat) (s : State) (hs : Good lc s) :
    Good lc (State.forwards p s) := by
  unfold State.forwards
  repeat' first
    | with_reducible refine fun _ => ?_
    | with_reducible assumption
    | with_reducible apply State.forwardAll_good
    | with_reducible apply good_modCtx
    | with_reducible apply canonical_modCtx
    | lift_lets -underBinder
    | (intro t; refine good_elim (l := lc) (a := t) ?_ ?_ <;> [skip; (intro t hh hu; rw [← hu]; clear hu)])
    | (intro k; refine canonical_elim (a := k) ?_ ?_ <;> [skip; (intro k hk hu; rw [← hu]; clear hu)])
    | (intro k; refine parcel_elim (a := k) ?_ ?_ <;> [skip; (intro k hk hu; rw [← hu]; clear hu)])
    | (intro k; refine bounded_elim (a := k) ?_ ?_ <;> [skip; (intro k hk hu; rw [← hu]; clear hu)])
    | (intro w)
    | dsimp only [t]
    | dsimp only [k]
    | split
    | dsimp +zetaDelta only
    | (refine Good.of_view hh ?_; dsimp only [State.view]; done)
    | (refine Good.of_view hs ?_; dsimp only [State.view]; done)
    | (refine Good.of_view ‹Good lc _› ?_; dsimp only [State.view]; done)

theorem execClientFragment_good {lc : Nat} (p ctx : Nat) (frag : Bytes) (s : State) (hs : Good lc s) :
    GoodOut lc (execClientFragment p ctx frag s) := by
  unfold execClientFragment
  repeat' first
    | with_reducible assumption | with_reducible apply State.forwards_good | with_reducible apply State.holdFrag_good
    | with_reducible apply good_modCtx | with_reducible apply goodOut_next | lift_lets -underBinder | (intro w) | split

theorem State.intakeReport_good {lc : Nat} (p c : Nat) (s : State) (hs : Good lc s) :
    Good lc (State.intakeReport p c s) := by
  unfold State.intakeReport
  repeat' first
    | with_reducible assumption | with_reducible apply State.evVf_good | with_reducible apply good_modCtx | lift_lets -underBinder | (intro w)
    | split

theorem execIntakeDeadline_good {lc : Nat} (p ctx : Nat) (s : State) (hs : Good lc s) :
    GoodOut lc (execIntakeDeadline p ctx s) := by
  unfold execIntakeDeadline
  repeat' first | with_reducible assumption | with_reducible apply good_modCtx | with_reducible apply goodOut_next | split

theorem State.toKeeps_good {lc : Nat} (d : RoundDesc) (msgs : List Bytes) (s : State) (hs : Good lc s) :
    Good lc (State.toKeeps d msgs s) := by
  unfold State.toKeeps
  repeat' first
    | with_reducible refine fun _ => ?_ | with_reducible assumption | with_reducible apply State.emit_good | with_reducible apply good_foldl

theorem State.sendReceipt_good {lc : Nat} (p c : Nat) (s : State) (hs : Good lc s) :
    Good lc (State.sendReceipt p c s) := by
  unfold State.sendReceipt
  repeat' first | with_reducible assumption | with_reducible apply good_modCtx | with_reducible apply State.toKeeps_good | split

theorem execFinalReceipt_good {lc : Nat} (p ctx : Nat) (s : State) (hs : Good lc s) :
    GoodOut lc (execFinalReceipt p ctx s) := by
  unfold execFinalReceipt
  repeat' first
    | with_reducible assumption | with_reducible apply good_modCtx | with_reducible apply State.sendReceipt_good
    | with_reducible apply State.toKeeps_good | with_reducible apply goodOut_next | lift_lets -underBinder
    | (intro t; refine good_elim (l := lc) (a := t) ?_ ?_ <;> [skip; (intro t hh hu; rw [← hu]; clear hu)]) | split

theorem State.judgeRound_good {lc : Nat} (p c : Nat) (s : State) (hs : Good lc s) :
    Good lc (State.judgeRound p c s) := by
  unfold State.judgeRound
  repeat' first
    | with_reducible assumption | with_reducible apply State.emit_good | with_reducible apply State.endRound_good | lift_lets -underBinder
    | (intro w) | split

theorem State.closeRoster_good {lc : Nat} (p c : Nat) (s : State) (hs : Good lc s) :
    Good lc (State.closeRoster p c s) := by
  unfold State.closeRoster
  repeat' first | with_reducible assumption | with_reducible apply State.emit_good | with_reducible apply good_modCtx | split

theorem execReceipt_good {lc : Nat} (p ctx : Nat) (msg : Bytes) (s : State) (hs : Good lc s) :
    GoodOut lc (execReceipt p ctx msg s) := by
  unfold execReceipt
  repeat' first
    | with_reducible assumption | with_reducible apply State.closeRoster_good | with_reducible apply State.judgeRound_good
    | with_reducible apply good_modCtx | with_reducible apply goodOut_next | lift_lets -underBinder | (intro w) | split

theorem execSliceResult_good {lc : Nat} (p ctx : Nat) (msg : Bytes) (s : State) (hs : Good lc s) :
    GoodOut lc (execSliceResult p ctx msg s) := by
  unfold execSliceResult
  repeat' first
    | with_reducible assumption | with_reducible apply State.judgeRound_good | with_reducible apply good_modCtx | with_reducible apply goodOut_next
    | lift_lets -underBinder | (intro w) | split

theorem execCloseStakeSignal_good {lc : Nat} (p ctx : Nat) (s : State) (hs : Good lc s) :
    GoodOut lc (execCloseStakeSignal p ctx s) := by
  unfold execCloseStakeSignal
  repeat' first
    | with_reducible assumption | with_reducible apply good_modCtx | with_reducible apply State.signalCtx_good | with_reducible apply goodOut_next
    | split

theorem execCloseDeadline_good {lc : Nat} (p ctx : Nat) (s : State) (hs : Good lc s) :
    GoodOut lc (execCloseDeadline p ctx s) := by
  unfold execCloseDeadline
  repeat' first | with_reducible assumption | with_reducible apply State.endRound_good | with_reducible apply goodOut_next | split

theorem State.lostNotice_good {lc : Nat} (p c : Nat) (s : State) (hs : Good lc s) :
    Good lc (State.lostNotice p c s) := by
  unfold State.lostNotice
  repeat' first
    | with_reducible assumption | with_reducible apply good_foldl | with_reducible apply State.toKeeps_good | lift_lets -underBinder | (intro w)
    | split

end Sys2Proof.Machine
end

