-- ==== Sys2Proof/Laws/SoundSpans.lean ====
section
/-! SUPPORT. Every operation of Machine/Spans.lean keeps soundness and the life cycle. -/

set_option linter.unusedTactic false
set_option linter.unreachableTactic false
set_option linter.unusedVariables false
set_option linter.unusedSimpArgs false
set_option Elab.async false

namespace Sys2Proof.Machine

theorem State.landAll_good {lc : Nat} (p : Nat) (s : State) (hs : Good lc s) :
    Good lc (State.landAll p s) := by
  unfold State.landAll
  repeat' first
    | with_reducible refine fun _ => ?_ | with_reducible assumption | with_reducible apply good_foldl | with_reducible apply State.shelfWrite_good

theorem State.endRod_good {lc : Nat} (s : State) (hs : Good lc s) :
    Good lc (State.endRod s) := by
  unfold State.endRod
  repeat' first
    | with_reducible refine fun _ => ?_ | with_reducible assumption | with_reducible apply good_foldl | with_reducible apply State.landAll_good
    | with_reducible apply good_modCtx | split

theorem State.overrun_good {lc : Nat} (p c : Nat) (s : State) (hs : Good lc s) :
    Good lc (State.overrun p c s) := by
  unfold State.overrun
  repeat' first
    | with_reducible assumption | with_reducible apply State.evBoth_good | with_reducible apply State.faultCtx_good
    | with_reducible apply good_modCtx | lift_lets -underBinder
    | (intro t; refine good_elim (l := lc) (a := t) ?_ ?_ <;> [skip; (intro t hh hu; rw [← hu]; clear hu)]) | (intro w) | dsimp only [t] | split

theorem State.beginReserve_good {lc : Nat} (late : List Nat) (s : State) (hs : Good lc s) :
    Good lc (State.beginReserve late s) := by
  unfold State.beginReserve
  repeat' first
    | with_reducible refine fun _ => ?_ | with_reducible assumption | with_reducible apply good_foldl | with_reducible apply State.overrun_good
    | lift_lets -underBinder | (intro t; refine good_elim (l := lc) (a := t) ?_ ?_ <;> [skip; (intro t hh hu; rw [← hu]; clear hu)]) | split
    | (refine Good.of_view hh ?_; dsimp only [State.view]; done)

theorem execBoundaryReserve_good {lc : Nat} (late : List Nat) (s : State) (hs : Good lc s) :
    GoodOut lc (execBoundaryReserve late s) := by
  unfold execBoundaryReserve
  repeat' first | with_reducible assumption | with_reducible apply State.beginReserve_good | with_reducible apply goodOut_next

theorem State.chainEnd_good {lc : Nat} (p : Nat) (s : State) (hs : Good lc s) :
    Good lc (State.chainEnd p s) := by
  unfold State.chainEnd
  repeat' first
    | with_reducible refine fun _ => ?_ | with_reducible assumption | with_reducible apply State.evBoth_good | with_reducible apply good_modCtx
    | with_reducible apply canonical_modCtx | with_reducible apply good_modParcel | with_reducible apply State.parcel_canonical | split | dsimp only
    | exact (‹Parcel.canonical _›).1 | exact (‹Parcel.canonical _›).2 | with_reducible apply length_map_eq
    | with_reducible apply Parcel.canonical_intro

theorem State.putStakes_good {lc : Nat} (p : Nat) (l : List (Nat × BitVec 32)) (s : State) (hs : Good lc s) :
    Good lc (State.putStakes p l s) := by
  unfold State.putStakes
  repeat' first
    | with_reducible refine fun _ => ?_ | with_reducible assumption | with_reducible apply good_foldl | with_reducible apply canonical_foldl
    | with_reducible apply good_modLogical | split | dsimp only | exact (‹Cluster.canonical _›).2.2.1 _ ‹_› | exact (‹Cluster.canonical _›).1
    | exact (‹Cluster.canonical _›).2.1 | exact (‹Cluster.canonical _›).2.2.2.1 | exact (‹Cluster.canonical _›).2.2.2.2.1
    | exact (‹Cluster.canonical _›).2.2.2.2.2 | with_reducible apply rising_tset | with_reducible apply Cluster.canonical_intro

theorem State.swapOut_good {lc : Nat} (p c : Nat) (s : State) (hs : Good lc s) :
    Good lc (State.swapOut p c s) := by
  unfold State.swapOut
  repeat' first | with_reducible assumption | with_reducible apply good_modCtx

theorem State.putSaved_good {lc : Nat} (p k : Nat) (q : List Operand) (b : Bytes) (s : State) (hs : Good lc s) : Good lc (State.putSaved p k q b s) := by
  induction q generalizing b s with
  | nil => exact hs
  | cons o q ih => exact ih _ _ (State.writeSpace_good _ _ _ _ _ _ _ hs)

theorem State.clearStores_good {lc : Nat} (p : Nat) (s : State) (hs : Good lc s) :
    Good lc (State.clearStores p s) := by
  unfold State.clearStores
  repeat' first
    | with_reducible refine fun _ => ?_
    | with_reducible assumption
    | with_reducible apply Cluster.dropStores_good
    | with_reducible apply good_modClusters
    | with_reducible apply State.parcel_canonical
    | lift_lets -underBinder
    | (intro t; refine good_elim (l := lc) (a := t) ?_ ?_ <;> [skip; (intro t hh hu; rw [← hu]; clear hu)])
    | (intro k; refine canonical_elim (a := k) ?_ ?_ <;> [skip; (intro k hk hu; rw [← hu]; clear hu)])
    | (intro k; refine parcel_elim (a := k) ?_ ?_ <;> [skip; (intro k hk hu; rw [← hu]; clear hu)])
    | (intro k; refine bounded_elim (a := k) ?_ ?_ <;> [skip; (intro k hk hu; rw [← hu]; clear hu)])
    | (intro w)
    | dsimp only [t]
    | dsimp only [k]
    | split
    | dsimp +zetaDelta only
    | (refine Good.of_view hh ?_; dsimp only [State.view]; done)
    | (refine Good.of_view hs ?_; dsimp only [State.view]; done)
    | (refine Good.of_view ‹Good lc _› ?_; dsimp only [State.view]; done)
    | dsimp only
    | exact (‹Cluster.canonical _›).2.2.1 _ ‹_›
    | exact (‹Cluster.canonical _›).1
    | exact (‹Cluster.canonical _›).2.1
    | exact (‹Cluster.canonical _›).2.2.1
    | exact (‹Cluster.canonical _›).2.2.2.1
    | exact (‹Cluster.canonical _›).2.2.2.2.1
    | exact (‹Cluster.canonical _›).2.2.2.2.2
    | exact (‹Parcel.canonical _›).1
    | exact (‹Parcel.canonical _›).2
    | exact (‹Fn.bounded _›).1
    | exact (‹Fn.bounded _›).2
    | with_reducible apply wf_write0
    | with_reducible apply rising_tset
    | with_reducible apply rising_tdel
    | with_reducible apply rising_filter
    | with_reducible apply length_modify_eq
    | with_reducible apply length_set_eq
    | with_reducible apply length_map_eq
    | rfl
    | with_reducible apply Cluster.canonical_intro
    | with_reducible apply Parcel.canonical_intro
    | with_reducible apply Fn.bounded_intro

theorem State.swapIn_good {lc : Nat} (p c : Nat) (s : State) (hs : Good lc s) :
    Good lc (State.swapIn p c s) := by
  unfold State.swapIn
  repeat' first
    | with_reducible refine fun _ => ?_ | with_reducible assumption | with_reducible apply State.clearStores_good
    | with_reducible apply State.drawnMany_good | with_reducible apply good_foldl | with_reducible apply canonical_foldl
    | with_reducible apply good_modClusters | with_reducible apply good_modCtx | with_reducible apply canonical_modCtx
    | with_reducible apply State.putSaved_good | with_reducible apply State.parcel_canonical | split | exact (‹Cluster.canonical _›).2.2.1 _ ‹_›
    | exact (‹Cluster.canonical _›).1 | exact (‹Cluster.canonical _›).2.1 | exact (‹Cluster.canonical _›).2.2.2.1
    | exact (‹Cluster.canonical _›).2.2.2.2.1 | exact (‹Cluster.canonical _›).2.2.2.2.2 | with_reducible apply Cluster.canonical_intro

theorem State.markSpan_good {lc : Nat} (p c : Nat) (s : State) (hs : Good lc s) :
    Good lc (State.markSpan p c s) := by
  unfold State.markSpan
  repeat' first | with_reducible assumption | with_reducible apply good_modCtx

theorem State.enter_good {lc : Nat} (p c : Nat) (s : State) (hs : Good lc s) :
    Good lc (State.enter p c s) := by
  unfold State.enter
  repeat' first
    | with_reducible refine fun _ => ?_ | with_reducible assumption | with_reducible apply State.markSpan_good | with_reducible apply good_modParcel
    | split | exact (‹Parcel.canonical _›).1 | exact (‹Parcel.canonical _›).2 | with_reducible apply Parcel.canonical_intro

theorem State.declaredPreloads_good {lc : Nat} (p : Nat) (s : State) (hs : Good lc s) :
    Good lc (State.declaredPreloads p s) := by
  unfold State.declaredPreloads
  repeat' first
    | with_reducible refine fun _ => ?_ | with_reducible assumption | with_reducible apply good_foldl | with_reducible apply State.ifUp_good
    | with_reducible apply good_modCtx | with_reducible apply State.preload_good | split

theorem State.markSwaps_good {lc : Nat} (s : State) (hs : Good lc s) : Good lc (State.markSwaps s) :=
  good_parcels hs (by simp) (forall_map hs.parcels fun _ hq => hq)

theorem State.leaveRod_good {lc : Nat} (p c : Nat) (s : State) (hs : Good lc s) :
    Good lc (State.leaveRod p c s) := by
  unfold State.leaveRod
  repeat' first
    | with_reducible refine fun _ => ?_
    | with_reducible assumption
    | with_reducible apply State.landAll_good
    | with_reducible apply good_modCtx
    | with_reducible apply canonical_modCtx
    | with_reducible apply State.overrun_good
    | lift_lets -underBinder
    | (intro t; refine good_elim (l := lc) (a := t) ?_ ?_ <;> [skip; (intro t hh hu; rw [← hu]; clear hu)])
    | (intro k; refine canonical_elim (a := k) ?_ ?_ <;> [skip; (intro k hk hu; rw [← hu]; clear hu)])
    | (intro k; refine parcel_elim (a := k) ?_ ?_ <;> [skip; (intro k hk hu; rw [← hu]; clear hu)])
    | (intro k; refine bounded_elim (a := k) ?_ ?_ <;> [skip; (intro k hk hu; rw [← hu]; clear hu)])
    | (intro w)
    | dsimp only [t]
    | dsimp only [k]
    | split
    | dsimp +zetaDelta only
    | (refine Good.of_view hh ?_; dsimp only [State.view]; done)
    | (refine Good.of_view hs ?_; dsimp only [State.view]; done)
    | (refine Good.of_view ‹Good lc _› ?_; dsimp only [State.view]; done)

theorem State.swap_good {lc : Nat} (p : Nat) (s : State) (hs : Good lc s) :
    Good lc (State.swap p s) := by
  unfold State.swap
  repeat' first
    | with_reducible refine fun _ => ?_ | with_reducible assumption | with_reducible apply State.leaveRod_good | with_reducible apply good_modParcel
    | with_reducible apply State.swapIn_good | with_reducible apply State.swapOut_good | with_reducible apply State.parcel_canonical | split
    | dsimp only | exact (‹Parcel.canonical _›).1 | exact (‹Parcel.canonical _›).2 | with_reducible apply Parcel.canonical_intro

theorem execContextSwap_good {lc : Nat} (p : Nat) (s : State) (hs : Good lc s) :
    GoodOut lc (execContextSwap p s) := by
  unfold execContextSwap
  repeat' first | with_reducible assumption | with_reducible apply State.swap_good | with_reducible apply goodOut_next | split

theorem Parcel.spanOn_good (c : Nat) (q : Parcel) (hq : q.canonical) :
    (Parcel.spanOn c q).canonical := by
  unfold Parcel.spanOn
  repeat' first | assumption

theorem State.select_good {lc : Nat} (p : Nat) (s : State) (hs : Good lc s) :
    Good lc (State.select p s) := by
  unfold State.select
  repeat' first
    | with_reducible refine fun _ => ?_ | with_reducible assumption | with_reducible apply State.enter_good | with_reducible apply good_modParcel
    | with_reducible apply Parcel.spanOn_good | with_reducible apply State.swapIn_good | with_reducible apply State.parcel_canonical | split
    | dsimp only | exact (‹Parcel.canonical _›).1 | exact (‹Parcel.canonical _›).2 | with_reducible apply Parcel.canonical_intro

theorem State.selectAll_good {lc : Nat} (s : State) (hs : Good lc s) :
    Good lc (State.selectAll s) := by
  unfold State.selectAll
  repeat' first
    | with_reducible refine fun _ => ?_ | with_reducible assumption | with_reducible apply good_foldl | with_reducible apply canonical_foldl
    | with_reducible apply good_modParcel | with_reducible apply State.select_good | split | exact (‹Parcel.canonical _›).1
    | exact (‹Parcel.canonical _›).2 | with_reducible apply Parcel.canonical_intro

theorem execContextFinish_good {lc : Nat} (p ctx : Nat) (s : State) (hs : Good lc s) :
    GoodOut lc (execContextFinish p ctx s) := by
  unfold execContextFinish
  repeat' first | with_reducible assumption | with_reducible apply good_modCtx | with_reducible apply goodOut_next | split

theorem State.releaseCtx_good {lc : Nat} (p c : Nat) (s : State) (hs : Good lc s) :
    Good lc (State.releaseCtx p c s) := by
  unfold State.releaseCtx
  repeat' first
    | with_reducible assumption | with_reducible apply State.dropHeld_good | with_reducible apply State.endEngines_good
    | with_reducible apply State.freeStakes_good | with_reducible apply good_modCtx

theorem State.endCtx_good {lc : Nat} (p c : Nat) (s : State) (hs : Good lc s) :
    Good lc (State.endCtx p c s) := by
  unfold State.endCtx
  repeat' first
    | with_reducible refine fun _ => ?_ | with_reducible assumption | with_reducible apply State.endRoundOnly_good
    | with_reducible apply State.lostNotice_good | with_reducible apply good_modParcel | with_reducible apply State.releaseCtx_good
    | with_reducible apply State.parcel_canonical | split | dsimp only | exact (‹Parcel.canonical _›).1 | exact (‹Parcel.canonical _›).2
    | with_reducible apply Parcel.canonical_intro

theorem State.finishCtx_good {lc : Nat} (p c : Nat) (s : State) (hs : Good lc s) :
    Good lc (State.finishCtx p c s) := by
  unfold State.finishCtx
  repeat' first | with_reducible assumption | with_reducible apply State.endEngines_good | with_reducible apply State.freeStakes_good

theorem State.unloadCtx_good {lc : Nat} (p c : Nat) (s : State) (hs : Good lc s) :
    Good lc (State.unloadCtx p c s) := by
  unfold State.unloadCtx
  repeat' first
    | with_reducible assumption | with_reducible apply Cluster.dropRows_good | with_reducible apply good_modClusters
    | with_reducible apply good_modCtx | lift_lets -underBinder | (intro w) | split

theorem State.turnCtx_good {lc : Nat} (p c : Nat) (s : State) (hs : Good lc s) :
    Good lc (State.turnCtx p c s) := by
  unfold State.turnCtx
  repeat' first
    | with_reducible assumption | with_reducible apply State.endCtx_good | with_reducible apply State.finishCtx_good
    | with_reducible apply good_modCtx | with_reducible apply State.unloadCtx_good | split

theorem State.turnCtxs_good {lc : Nat} (p : Nat) (s : State) (hs : Good lc s) :
    Good lc (State.turnCtxs p s) := by
  unfold State.turnCtxs
  repeat' first
    | with_reducible refine fun _ => ?_ | with_reducible assumption | with_reducible apply good_foldl | with_reducible apply State.turnCtx_good

theorem execSnapshotDone_good {lc : Nat} (p : Nat) (s : State) (hs : Good lc s) :
    GoodOut lc (execSnapshotDone p s) := by
  unfold execSnapshotDone
  repeat' first
    | with_reducible refine fun _ => ?_ | with_reducible assumption | with_reducible apply State.evVf_good
    | with_reducible apply State.extWrite_good | with_reducible apply good_foldl | with_reducible apply canonical_foldl
    | with_reducible apply good_modParcel | with_reducible apply State.releaseCtx_good | with_reducible apply State.parcel_canonical
    | with_reducible apply goodOut_next | with_reducible apply goodOut_fault | split | dsimp only | exact (‹Parcel.canonical _›).1
    | exact (‹Parcel.canonical _›).2 | with_reducible apply Parcel.canonical_intro

end Sys2Proof.Machine
end

