-- ==== Sys2Proof/Laws/SoundHangs.lean ====
section
/-! SUPPORT. Every operation of Machine/Hangs.lean keeps soundness and the life cycle. -/

set_option linter.unusedTactic false
set_option linter.unreachableTactic false
set_option linter.unusedVariables false
set_option linter.unusedSimpArgs false
set_option Elab.async false

namespace Sys2Proof.Machine

theorem State.noteBlocked_good {lc : Nat} (p c : Nat) (s : State) (hs : Good lc s) :
    Good lc (State.noteBlocked p c s) := by
  unfold State.noteBlocked
  repeat' first | with_reducible assumption | with_reducible apply good_modCtx

theorem State.evHang_good {lc : Nat} (p engines : Nat) (suspects guilty : List Nat) (s : State) (hs : Good lc s) :
    Good lc (State.evHang p engines suspects guilty s) := by
  unfold State.evHang
  repeat' first | with_reducible assumption | with_reducible apply State.evBoth_good

theorem State.rewind_good {lc : Nat} (p c : Nat) (s : State) (hs : Good lc s) :
    Good lc (State.rewind p c s) := by
  unfold State.rewind
  repeat' first | with_reducible assumption | with_reducible apply good_modCtx | with_reducible apply State.putStakes_good

theorem State.startReplay_good {lc : Nat} (p c : Nat) (s : State) (hs : Good lc s) :
    Good lc (State.startReplay p c s) := by
  unfold State.startReplay
  repeat' first
    | with_reducible refine fun _ => ?_ | with_reducible assumption | with_reducible apply good_modClusters | with_reducible apply good_modParcel
    | with_reducible apply State.rewind_good | with_reducible apply State.swapIn_good | with_reducible apply State.parcel_canonical | split
    | exact (‹Cluster.canonical _›).2.2.1 _ ‹_› | exact (‹Cluster.canonical _›).1 | exact (‹Cluster.canonical _›).2.1
    | exact (‹Cluster.canonical _›).2.2.2.1 | exact (‹Cluster.canonical _›).2.2.2.2.1 | exact (‹Cluster.canonical _›).2.2.2.2.2
    | exact (‹Parcel.canonical _›).1 | exact (‹Parcel.canonical _›).2 | with_reducible apply Cluster.canonical_intro
    | with_reducible apply Parcel.canonical_intro

theorem State.markSuspects_good {lc : Nat} (p c : Nat) (l : List Nat) (s : State) (hs : Good lc s) :
    Good lc (State.markSuspects p c l s) := by
  unfold State.markSuspects
  repeat' first
    | with_reducible refine fun _ => ?_ | with_reducible assumption | with_reducible apply good_foldl | with_reducible apply good_modCtx | split

theorem State.onHang_good {lc : Nat} (p c : Nat) (involved : List Nat) (s : State) (hs : Good lc s) :
    Good lc (State.onHang p c involved s) := by
  unfold State.onHang
  repeat' first
    | with_reducible refine fun _ => ?_ | with_reducible assumption | with_reducible apply State.clearStores_good
    | with_reducible apply State.evHang_good | with_reducible apply State.faultCtx_good | with_reducible apply good_foldl
    | with_reducible apply canonical_foldl | with_reducible apply State.markSuspects_good | with_reducible apply good_modParcel
    | with_reducible apply State.startReplay_good | with_reducible apply State.parcel_canonical | split | dsimp only
    | exact (‹Parcel.canonical _›).1 | exact (‹Parcel.canonical _›).2 | with_reducible apply Parcel.canonical_intro

theorem State.releaseSignals_good {lc : Nat} (p : Nat) (l : List (Nat × Nat)) (s : State) (hs : Good lc s) :
    Good lc (State.releaseSignals p l s) := by
  unfold State.releaseSignals
  repeat' first
    | with_reducible refine fun _ => ?_ | with_reducible assumption | with_reducible apply good_foldl | with_reducible apply State.signal_good

theorem State.verdict_good {lc : Nat} (p : Nat) (r : Replay) (s : State) (hs : Good lc s) :
    Good lc (State.verdict p r s) := by
  unfold State.verdict
  repeat' first
    | with_reducible refine fun _ => ?_ | with_reducible assumption | with_reducible apply State.evHang_good
    | with_reducible apply State.faultCtx_good | with_reducible apply good_foldl | with_reducible apply canonical_foldl
    | with_reducible apply good_modParcel | with_reducible apply State.releaseSignals_good | with_reducible apply State.swapIn_good | split
    | exact (‹Parcel.canonical _›).1 | exact (‹Parcel.canonical _›).2 | with_reducible apply Parcel.canonical_intro

theorem State.endReplay_good {lc : Nat} (p : Nat) (r : Replay) (hang : Bool) (s : State) (hs : Good lc s) :
    Good lc (State.endReplay p r hang s) := by
  unfold State.endReplay
  repeat' first
    | with_reducible refine fun _ => ?_ | with_reducible assumption | with_reducible apply State.clearStores_good
    | with_reducible apply good_modParcel | with_reducible apply State.rewind_good | with_reducible apply State.startReplay_good
    | with_reducible apply State.verdict_good | split | exact (‹Parcel.canonical _›).1 | exact (‹Parcel.canonical _›).2
    | with_reducible apply Parcel.canonical_intro

theorem execHangReplayEnd_good {lc : Nat} (p : Nat) (hung : Bool) (s : State) (hs : Good lc s) :
    GoodOut lc (execHangReplayEnd p hung s) := by
  unfold execHangReplayEnd
  repeat' first
    | with_reducible assumption | with_reducible apply State.endReplay_good | with_reducible apply goodOut_next | lift_lets -underBinder | (intro w)
    | split

theorem State.detect_good {lc : Nat} (p : Nat) (s : State) (hs : Good lc s) :
    Good lc (State.detect p s) := by
  unfold State.detect
  repeat' first
    | with_reducible assumption | with_reducible apply State.noteBlocked_good | with_reducible apply State.onHang_good | lift_lets -underBinder
    | (intro w) | split

end Sys2Proof.Machine
end

