-- ==== Sys2Proof/Laws/SoundFaults.lean ====
section
/-! SUPPORT. Every operation of Machine/Faults.lean keeps soundness and the life cycle. -/

set_option linter.unusedTactic false
set_option linter.unreachableTactic false
set_option linter.unusedVariables false
set_option linter.unusedSimpArgs false
set_option Elab.async false

namespace Sys2Proof.Machine

theorem execContextFault_good {lc : Nat} (p ctx cause : Nat) (s : State) (hs : Good lc s) :
    GoodOut lc (execContextFault p ctx cause s) := by
  unfold execContextFault
  repeat' first | with_reducible assumption | with_reducible apply State.faultCtx_good | with_reducible apply goodOut_next | split

theorem execClusterError_good {lc : Nat} (cluster : Nat) (err : ClusterErr) (s : State) (hs : Good lc s) :
    GoodOut lc (execClusterError cluster err s) := by
  unfold execClusterError
  repeat' first | with_reducible assumption | with_reducible apply State.clusterFault_good | with_reducible apply goodOut_next | split

theorem execMemPoison_good {lc : Nat} (p ctx : Nat) (s : State) (hs : Good lc s) :
    GoodOut lc (execMemPoison p ctx s) := by
  unfold execMemPoison
  repeat' first | with_reducible assumption | with_reducible apply State.faultCtx_good | with_reducible apply goodOut_next

theorem State.loseLines_good {lc : Nat} (p x kept : Nat) (s : State) (hs : Good lc s) :
    Good lc (State.loseLines p x kept s) := by
  unfold State.loseLines
  repeat' first
    | with_reducible refine fun _ => ?_ | with_reducible assumption | with_reducible apply good_modParcel | split | dsimp only
    | exact (‹Parcel.canonical _›).1 | exact (‹Parcel.canonical _›).2 | with_reducible apply rising_filter
    | with_reducible apply Parcel.canonical_intro

theorem State.subchGone_good {lc : Nat} (x : Nat) (spare : Option Nat) (s : State) (hs : Good lc s) :
    Good lc (State.subchGone x spare s) := by
  unfold State.subchGone
  repeat' first
    | with_reducible assumption | with_reducible apply State.addJoin_good | with_reducible apply State.platPend_good | lift_lets -underBinder
    | (intro t; refine good_elim (l := lc) (a := t) ?_ ?_ <;> [skip; (intro t hh hu; rw [← hu]; clear hu)]) | split
    | (refine Good.of_view hh ?_; dsimp only [State.view]; done)

theorem execSubchFail_good {lc : Nat} (subch : Nat) (s : State) (hs : Good lc s) :
    GoodOut lc (execSubchFail subch s) := by
  unfold execSubchFail
  repeat' first
    | with_reducible assumption | with_reducible apply State.loseLines_good | with_reducible apply State.parcelFault_good
    | with_reducible apply State.subchGone_good | with_reducible apply goodOut_next | lift_lets -underBinder
    | (intro t; refine good_elim (l := lc) (a := t) ?_ ?_ <;> [skip; (intro t hh hu; rw [← hu]; clear hu)]) | (intro w) | split
    | dsimp +zetaDelta only | (refine Good.of_view hh ?_; dsimp only [State.view]; done)

theorem execSubchDegraded_good {lc : Nat} (subch count : Nat) (s : State) (hs : Good lc s) :
    GoodOut lc (execSubchDegraded subch count s) := by
  unfold execSubchDegraded
  repeat' first
    | with_reducible apply State.evMgmt_good | with_reducible apply State.evPf_good | with_reducible apply goodOut_next | lift_lets -underBinder
    | (intro t; refine good_elim (l := lc) (a := t) ?_ ?_ <;> [skip; (intro t hh hu; rw [← hu]; clear hu)]) | (intro w) | split
    | (refine Good.of_view hh ?_; dsimp only [State.view]; done) | (refine Good.of_view hs ?_; dsimp only [State.view]; done)

theorem execMigrationDone_good {lc : Nat} (subch : Nat) (s : State) (hs : Good lc s) :
    GoodOut lc (execMigrationDone subch s) := by
  unfold execMigrationDone
  repeat' first | with_reducible assumption | with_reducible apply State.subchGone_good | with_reducible apply goodOut_next | split

theorem State.patrol_good {lc : Nat} (s : State) (hs : Good lc s) :
    Good lc (State.patrol s) := by
  unfold State.patrol
  repeat' first | split | (refine Good.of_view hs ?_; dsimp only [State.view]; done)

theorem State.evSpare_good {lc : Nat} (p kind old new logical : Nat) (s : State) (hs : Good lc s) :
    Good lc (State.evSpare p kind old new logical s) := by
  unfold State.evSpare
  repeat' first | with_reducible assumption | with_reducible apply State.evBoth_good | with_reducible apply State.evMgmt_good

theorem State.joinCluster_good {lc : Nat} (old new : Nat) (s : State) (hs : Good lc s) : Good lc (State.joinCluster old new s) := by
  have hk : ∀ (k : Cluster), k.canonical → ∀ (c d : Bool) (f : Nat) (m : List Nat), ({ Cluster.reset with
      awake := true
      stakes := k.stakes
      leaves := if c then Cluster.reset.leaves else k.leaves
      filling := f
      moduli := m } : Cluster).canonical := by
    intro k hk c d f m
    refine ⟨rfl, rfl, nofun, rfl, hk.2.2.2.2.1, ?_⟩
    dsimp only
    split
    · rfl
    · exact hk.2.2.2.2.2
  unfold State.joinCluster
  split
  · exact hs
  · dsimp only
    refine State.evSpare_good _ _ _ _ _ _ (State.platSet_good _ _ _ _ (good_modCluster (good_modCluster (good_modParcel hs fun q hq => hq) ?_)
      fun k hk => hk))
    intro _ _
    refine hk _ ?_ _ false _ _
    split
    · exact State.cluster_canonical hs _
    · exact State.cluster_canonical hs _

theorem State.joinSubch_good {lc : Nat} (old new : Nat) (s : State) (hs : Good lc s) :
    Good lc (State.joinSubch old new s) := by
  unfold State.joinSubch
  repeat' first
    | with_reducible refine fun _ => ?_
    | with_reducible assumption
    | with_reducible apply State.evSpare_good
    | with_reducible apply State.gated_good
    | with_reducible apply good_modClusters
    | with_reducible apply good_modParcel
    | with_reducible apply State.platSet_good
    | with_reducible apply State.parcel_canonical
    | lift_lets -underBinder
    | (intro t; refine good_elim (l := lc) (a := t) ?_ ?_ <;> [skip; (intro t hh hu; rw [← hu]; clear hu)])
    | (intro k; refine canonical_elim (a := k) ?_ ?_ <;> [skip; (intro k hk hu; rw [← hu]; clear hu)])
    | (intro k; refine parcel_elim (a := k) ?_ ?_ <;> [skip; (intro k hk hu; rw [← hu]; clear hu)])
    | (intro k; refine bounded_elim (a := k) ?_ ?_ <;> [skip; (intro k hk hu; rw [← hu]; clear hu)])
    | (intro w)
    | dsimp only [t]
    | dsimp only [k]
    | split
    | dsimp +zetaDelta only
    | (refine Good.of_view hh ?_; dsimp only [State.view]; done)
    | (refine Good.of_view hs ?_; dsimp only [State.view]; done)
    | (refine Good.of_view ‹Good lc _› ?_; dsimp only [State.view]; done)
    | dsimp only
    | exact (‹Cluster.canonical _›).2.2.1 _ ‹_›
    | exact (‹Cluster.canonical _›).1
    | exact (‹Cluster.canonical _›).2.1
    | exact (‹Cluster.canonical _›).2.2.1
    | exact (‹Cluster.canonical _›).2.2.2.1
    | exact (‹Cluster.canonical _›).2.2.2.2.1
    | exact (‹Cluster.canonical _›).2.2.2.2.2
    | exact (‹Parcel.canonical _›).1
    | exact (‹Parcel.canonical _›).2
    | exact (‹Fn.bounded _›).1
    | exact (‹Fn.bounded _›).2
    | with_reducible apply wf_write0
    | with_reducible apply rising_tset
    | with_reducible apply rising_tdel
    | with_reducible apply rising_filter
    | with_reducible apply length_modify_eq
    | with_reducible apply length_set_eq
    | with_reducible apply length_map_eq
    | rfl
    | with_reducible apply Cluster.canonical_intro
    | with_reducible apply Parcel.canonical_intro
    | with_reducible apply Fn.bounded_intro

theorem State.joinSpares_good {lc : Nat} (s : State) (hs : Good lc s) :
    Good lc (State.joinSpares s) := by
  unfold State.joinSpares
  repeat' first
    | with_reducible apply good_foldl | with_reducible apply State.joinCluster_good | with_reducible apply State.joinSubch_good
    | lift_lets -underBinder | (intro w) | split | (refine Good.of_view ‹Good lc _› ?_; dsimp only [State.view]; done)

theorem State.gateClusters_good {lc : Nat} (s : State) (hs : Good lc s) : Good lc (State.gateClusters s) := by
  refine good_clusters hs (by simp) (forall_mapIdx hs.clusters fun i k hk => ?_)
  split
  · exact hk
  · split <;> exact hk

theorem execD2dError_good {lc : Nat} (s : State) (hs : Good lc s) :
    GoodOut lc (execD2dError s) := by
  unfold execD2dError
  repeat' first
    | with_reducible refine fun _ => ?_
    | with_reducible assumption
    | with_reducible apply State.moduleFault_good
    | with_reducible apply Verdict.good_no
    | with_reducible apply goodOut_next
    | with_reducible apply goodOut_fault
    | lift_lets -underBinder
    | (intro t; refine good_elim (l := lc) (a := t) ?_ ?_ <;> [skip; (intro t hh hu; rw [← hu]; clear hu)])
    | (intro k; refine canonical_elim (a := k) ?_ ?_ <;> [skip; (intro k hk hu; rw [← hu]; clear hu)])
    | (intro k; refine parcel_elim (a := k) ?_ ?_ <;> [skip; (intro k hk hu; rw [← hu]; clear hu)])
    | (intro k; refine bounded_elim (a := k) ?_ ?_ <;> [skip; (intro k hk hu; rw [← hu]; clear hu)])
    | (intro w)
    | dsimp only [t]
    | dsimp only [k]
    | split
    | dsimp +zetaDelta only
    | (refine Good.of_view hh ?_; dsimp only [State.view]; done)
    | (refine Good.of_view hs ?_; dsimp only [State.view]; done)
    | (refine Good.of_view ‹Good lc _› ?_; dsimp only [State.view]; done)

theorem execFenceTimeout_good {lc : Nat} (unit : FenceUnit) (s : State) (hs : Good lc s) :
    GoodOut lc (execFenceTimeout unit s) := by
  unfold execFenceTimeout
  repeat' first
    | with_reducible apply State.clusterFault_good | with_reducible apply State.moduleFault_good | with_reducible apply State.parcelFault_good
    | with_reducible apply State.powerDown_good | with_reducible apply goodOut_next | lift_lets -underBinder | (intro w) | split
    | (refine Good.of_view hs ?_; dsimp only [State.view]; done)

theorem execModuleReset_good {lc : Nat} (hubOk : Bool) (s : State) (hs : Good lc s) :
    GoodOut lc (execModuleReset hubOk s) := by
  unfold execModuleReset
  repeat' first
    | with_reducible assumption | with_reducible apply State.flushRings_good | with_reducible apply State.reboot_good
    | with_reducible apply goodOut_next | split

theorem execLockstepMismatch_good {lc : Nat} (pair : Nat) (s : State) (hs : Good lc s) :
    GoodOut lc (execLockstepMismatch pair s) := by
  unfold execLockstepMismatch
  repeat' first
    | with_reducible apply State.evMgmt_good | with_reducible apply State.evPf_good | with_reducible apply State.moduleFault_good
    | with_reducible apply goodOut_next | split | (refine Good.of_view hs ?_; dsimp only [State.view]; done)

theorem State.pairBoundary_good {lc : Nat} (s : State) (hs : Good lc s) :
    Good lc (State.pairBoundary s) := by
  unfold State.pairBoundary
  repeat' first | split | (refine Good.of_view hs ?_; dsimp only [State.view]; done)

theorem execWatchdogMiss_good {lc : Nat} (s : State) (hs : Good lc s) :
    GoodOut lc (execWatchdogMiss s) := by
  unfold execWatchdogMiss
  repeat' first | with_reducible assumption | with_reducible apply State.moduleFault_good | with_reducible apply goodOut_next | split

theorem State.debugOut_good {lc : Nat} (c v : Nat) (s : State) (hs : Good lc s) :
    Good lc (State.debugOut c v s) := by
  unfold State.debugOut
  repeat' first | with_reducible assumption | with_reducible apply State.emit_good | split

theorem execFieldDebugAccess_good {lc : Nat} (a : DebugAccess) (s : State) (hs : Good lc s) :
    GoodOut lc (execFieldDebugAccess a s) := by
  unfold execFieldDebugAccess
  repeat' first
    | with_reducible refine fun _ => ?_ | with_reducible assumption | with_reducible apply State.debugOut_good
    | with_reducible apply good_modCluster | with_reducible apply State.cluster_canonical | with_reducible apply goodOut_next
    | with_reducible apply goodOut_fault | split | exact (‹Cluster.canonical _›).2.2.1 _ ‹_› | exact (‹Cluster.canonical _›).1
    | exact (‹Cluster.canonical _›).2.1 | exact (‹Cluster.canonical _›).2.2.2.1 | exact (‹Cluster.canonical _›).2.2.2.2.1
    | exact (‹Cluster.canonical _›).2.2.2.2.2 | with_reducible apply Cluster.canonical_intro

end Sys2Proof.Machine
end

