-- ==== Sys2Proof/Laws/SoundPower.lean ====
section
/-! SUPPORT. Every operation of Machine/Power.lean keeps soundness and the life cycle. -/

set_option linter.unusedTactic false
set_option linter.unreachableTactic false
set_option linter.unusedVariables false
set_option linter.unusedSimpArgs false
set_option Elab.async false

namespace Sys2Proof.Machine

theorem State.computeRatio_good {lc : Nat} (e : Nat) (s : State) (hs : Good lc s) :
    Good lc (State.computeRatio e s) := by
  unfold State.computeRatio
  repeat' first | (refine Good.of_view hs ?_; dsimp only [State.view]; done)

theorem execInletReading_good {lc : Nat} (dc : Nat) (s : State) (hs : Good lc s) :
    GoodOut lc (execInletReading dc s) := by
  unfold execInletReading
  repeat' first
    | with_reducible assumption | with_reducible apply State.computeRatio_good | with_reducible apply goodOut_next | with_reducible apply good_power
    | exact Good.records ‹_›

theorem execScheduleAck_good {lc : Nat} (s : State) (hs : Good lc s) :
    GoodOut lc (execScheduleAck s) := by
  unfold execScheduleAck
  repeat' first
    | with_reducible assumption | with_reducible apply State.computeRatio_good | with_reducible apply goodOut_next | split
    | with_reducible apply good_power | exact Good.records ‹_›

theorem State.evPower_good {lc : Nat} (phase storeMj : Nat) (s : State) (hs : Good lc s) :
    Good lc (State.evPower phase storeMj s) := by
  unfold State.evPower
  repeat' first | with_reducible assumption | with_reducible apply State.evMgmt_good | with_reducible apply State.evPf_good

theorem State.beginFail_good {lc : Nat} (s : State) (hs : Good lc s) :
    Good lc (State.beginFail s) := by
  unfold State.beginFail
  repeat' first
    | with_reducible assumption | with_reducible apply State.drawMany_good | with_reducible apply State.evPower_good | split
    | with_reducible apply good_power | exact Good.records ‹_›

theorem execPwrWarn_good {lc : Nat} (asserted : Bool) (s : State) (hs : Good lc s) :
    GoodOut lc (execPwrWarn asserted s) := by
  unfold execPwrWarn
  repeat' first
    | with_reducible assumption | with_reducible apply State.beginFail_good | with_reducible apply goodOut_next | split
    | with_reducible apply good_power | exact Good.records ‹_›

theorem State.seeJ1_good {lc : Nat} (mv : Nat) (s : State) (hs : Good lc s) :
    Good lc (State.seeJ1 mv s) := by
  unfold State.seeJ1
  repeat' first | with_reducible assumption | with_reducible apply good_power | exact Good.records ‹_›

theorem execInputUndervoltage_good {lc : Nat} (mv us : Nat) (s : State) (hs : Good lc s) :
    GoodOut lc (execInputUndervoltage mv us s) := by
  unfold execInputUndervoltage
  repeat' first
    | with_reducible assumption | with_reducible apply State.beginFail_good | with_reducible apply State.seeJ1_good
    | with_reducible apply goodOut_next | split

theorem execPowerFailRecovered_good {lc : Nat} (s : State) (hs : Good lc s) : GoodOut lc (execPowerFailRecovered s) := by
  have h : ∀ (t : State) (x : Power) (y : Clock), Good lc t → x.records.length ≤ 1024 → Good lc { t with power := x, clock := y } :=
    fun t x y ht hx => good_clock (good_power ht hx)
  unfold execPowerFailRecovered
  refine goodOut_next ?_
  split
  · exact State.evPower_good _ _ _ (h _ _ _ (State.drawMany_good _ _ hs) hs.records)
  · exact hs

theorem State.saveMeter_good {lc : Nat} (s : State) (hs : Good lc s) :
    Good lc (State.saveMeter s) := by
  unfold State.saveMeter
  repeat' first
    | with_reducible refine fun _ => ?_
    | with_reducible assumption
    | lift_lets -underBinder
    | (intro t; refine good_elim (l := lc) (a := t) ?_ ?_ <;> [skip; (intro t hh hu; rw [← hu]; clear hu)])
    | (intro k; refine canonical_elim (a := k) ?_ ?_ <;> [skip; (intro k hk hu; rw [← hu]; clear hu)])
    | (intro k; refine parcel_elim (a := k) ?_ ?_ <;> [skip; (intro k hk hu; rw [← hu]; clear hu)])
    | (intro k; refine bounded_elim (a := k) ?_ ?_ <;> [skip; (intro k hk hu; rw [← hu]; clear hu)])
    | (intro w)
    | dsimp only [t]
    | dsimp only [k]
    | split
    | dsimp +zetaDelta only
    | (refine Good.of_view hh ?_; dsimp only [State.view]; done)
    | (refine Good.of_view hs ?_; dsimp only [State.view]; done)
    | (refine Good.of_view ‹Good lc _› ?_; dsimp only [State.view]; done)
    | with_reducible apply good_power
    | with_reducible apply good_flash
    | dsimp only
    | exact Nat.zero_le _
    | exact Good.records ‹_›
    | exact Good.life ‹_›
    | exact Good.imgA ‹_›
    | exact Good.imgB ‹_›

theorem execMeterSave_good {lc : Nat} (s : State) (hs : Good lc s) :
    GoodOut lc (execMeterSave s) := by
  unfold execMeterSave
  repeat' first | with_reducible assumption | with_reducible apply State.saveMeter_good | with_reducible apply goodOut_next | split

theorem State.powerStop_good {lc : Nat} (w : BitVec 32) (s : State) (hs : Good lc s) : Good lc (State.powerStop w s) := by
  have h : Good lc (State.saveMeter { s.raiseFault w with faults := { (s.raiseFault w).faults with mgmtWord := w } }) :=
    State.saveMeter_good _ (good_faults (State.raiseFault_good _ _ hs))
  refine State.powerDown_good _ ?_
  split
  · exact State.writeRecord_good _ _ h
  · exact h

theorem execPowerFailStop_good {lc : Nat} (storeMj : Nat) (s : State) (hs : Good lc s) :
    GoodOut lc (execPowerFailStop storeMj s) := by
  unfold execPowerFailStop
  repeat' first
    | with_reducible refine fun _ => ?_
    | with_reducible assumption
    | with_reducible apply State.evPower_good
    | with_reducible apply State.powerStop_good
    | with_reducible apply Verdict.good_no
    | with_reducible apply goodOut_next
    | with_reducible apply goodOut_fault
    | lift_lets -underBinder
    | (intro t; refine good_elim (l := lc) (a := t) ?_ ?_ <;> [skip; (intro t hh hu; rw [← hu]; clear hu)])
    | (intro k; refine canonical_elim (a := k) ?_ ?_ <;> [skip; (intro k hk hu; rw [← hu]; clear hu)])
    | (intro k; refine parcel_elim (a := k) ?_ ?_ <;> [skip; (intro k hk hu; rw [← hu]; clear hu)])
    | (intro k; refine bounded_elim (a := k) ?_ ?_ <;> [skip; (intro k hk hu; rw [← hu]; clear hu)])
    | (intro w)
    | dsimp only [t]
    | dsimp only [k]
    | split
    | dsimp +zetaDelta only
    | (refine Good.of_view hh ?_; dsimp only [State.view]; done)
    | (refine Good.of_view hs ?_; dsimp only [State.view]; done)
    | (refine Good.of_view ‹Good lc _› ?_; dsimp only [State.view]; done)

theorem State.openSwitch_good {lc : Nat} (s : State) (hs : Good lc s) :
    Good lc (State.openSwitch s) := by
  unfold State.openSwitch
  repeat' first | with_reducible assumption | with_reducible apply State.beginFail_good | with_reducible apply good_power | exact Good.records ‹_›

theorem execInputOvervoltage_good {lc : Nat} (mv us : Nat) (s : State) (hs : Good lc s) :
    GoodOut lc (execInputOvervoltage mv us s) := by
  unfold execInputOvervoltage
  repeat' first
    | with_reducible assumption | with_reducible apply State.openSwitch_good | with_reducible apply State.seeJ1_good
    | with_reducible apply goodOut_next | with_reducible apply goodOut_fault | split | with_reducible apply good_power | exact Good.records ‹_›

theorem execOvervoltageRecovery_good {lc : Nat} (mv : Nat) (s : State) (hs : Good lc s) :
    GoodOut lc (execOvervoltageRecovery mv s) := by
  unfold execOvervoltageRecovery
  repeat' first
    | with_reducible assumption | with_reducible apply State.seeJ1_good | with_reducible apply goodOut_next | split
    | with_reducible apply good_power | exact Good.records ‹_›

theorem execPwrCycle_good {lc : Nat} (low : Bool) (ms : Nat) (s : State) (hs : Good lc s) :
    GoodOut lc (execPwrCycle low ms s) := by
  unfold execPwrCycle
  repeat' first
    | with_reducible assumption | with_reducible apply State.openSwitch_good | with_reducible apply goodOut_next | split
    | with_reducible apply good_power | exact Good.records ‹_›

theorem State.coldStart_good {lc : Nat} (mv : Nat) (hubOk : Bool) (s : State) (hs : Good lc s) :
    Good lc (State.coldStart mv hubOk s) := by
  unfold State.coldStart
  repeat' first | with_reducible assumption | with_reducible apply State.reboot_good | with_reducible apply good_power | exact Good.records ‹_›

theorem execInputSwitchClose_good {lc : Nat} (mv : Nat) (hubOk : Bool) (s : State) (hs : Good lc s) :
    GoodOut lc (execInputSwitchClose mv hubOk s) := by
  unfold execInputSwitchClose
  repeat' first | with_reducible assumption | with_reducible apply State.coldStart_good | with_reducible apply goodOut_next | split

theorem execPresentJ1Break_good {lc : Nat} (s : State) (hs : Good lc s) :
    GoodOut lc (execPresentJ1Break s) := by
  unfold execPresentJ1Break
  repeat' first
    | with_reducible assumption | with_reducible apply State.openSwitch_good | with_reducible apply goodOut_next | split
    | with_reducible apply good_power | exact Good.records ‹_›

theorem execPowerOn_good {lc : Nat} (mv : Nat) (hubOk : Bool) (s : State) (hs : Good lc s) :
    GoodOut lc (execPowerOn mv hubOk s) := by
  unfold execPowerOn
  repeat' first
    | with_reducible assumption | with_reducible apply State.coldStart_good | with_reducible apply goodOut_next | split
    | with_reducible apply good_power | exact Good.records ‹_›

theorem execRailFail_good {lc : Nat} (rail timeUs : Nat) (s : State) (hs : Good lc s) :
    GoodOut lc (execRailFail rail timeUs s) := by
  unfold execRailFail
  repeat' first
    | with_reducible assumption | with_reducible apply State.raiseFault_good | with_reducible apply goodOut_next | lift_lets -underBinder
    | (intro t; refine good_elim (l := lc) (a := t) ?_ ?_ <;> [skip; (intro t hh hu; rw [← hu]; clear hu)]) | (intro w) | split
    | (refine Good.of_view hh ?_; dsimp only [State.view]; done)

theorem State.evThrottle_good {lc : Nat} (entry : Nat) (s : State) (hs : Good lc s) :
    Good lc (State.evThrottle entry s) := by
  unfold State.evThrottle
  repeat' first | with_reducible assumption | with_reducible apply State.evMgmt_good | with_reducible apply State.evOpen_good

theorem execThrottleTrigger_good {lc : Nat} (die dc : Nat) (overcurrent : Bool) (s : State) (hs : Good lc s) :
    GoodOut lc (execThrottleTrigger die dc overcurrent s) := by
  unfold execThrottleTrigger
  repeat' first | with_reducible apply goodOut_next | split | (refine Good.of_view hs ?_; dsimp only [State.view]; done)

theorem State.throttleBegin_good {lc : Nat} (s : State) (hs : Good lc s) :
    Good lc (State.throttleBegin s) := by
  unfold State.throttleBegin
  repeat' first | with_reducible apply State.evThrottle_good | split | (refine Good.of_view hs ?_; dsimp only [State.view]; done)

theorem execThermalShutdown_good {lc : Nat} (isDram : Bool) (unit dc : Nat) (s : State) (hs : Good lc s) :
    GoodOut lc (execThermalShutdown isDram unit dc s) := by
  unfold execThermalShutdown
  repeat' first
    | with_reducible assumption | with_reducible apply State.powerStop_good | with_reducible apply goodOut_next | lift_lets -underBinder | (intro w)
    | split

theorem State.evCoolant_good {lc : Nat} (why : Nat) (s : State) (hs : Good lc s) :
    Good lc (State.evCoolant why s) := by
  unfold State.evCoolant
  repeat' first | with_reducible assumption | with_reducible apply State.evMgmt_good | with_reducible apply State.evPf_good

theorem execThermalIdle_good {lc : Nat} (device dc : Nat) (s : State) (hs : Good lc s) :
    GoodOut lc (execThermalIdle device dc s) := by
  unfold execThermalIdle
  repeat' first
    | with_reducible assumption | with_reducible apply State.evCoolant_good | with_reducible apply goodOut_next | split
    | with_reducible apply good_power | exact Good.records ‹_›

theorem execThermalIdleClear_good {lc : Nat} (s : State) (hs : Good lc s) :
    GoodOut lc (execThermalIdleClear s) := by
  unfold execThermalIdleClear
  repeat' first
    | with_reducible apply State.evCoolant_good | with_reducible apply goodOut_next | split
    | (refine Good.of_view hs ?_; dsimp only [State.view]; done)

theorem execCoolantLimit_good {lc : Nat} (inletDc outletDc : Nat) (s : State) (hs : Good lc s) :
    GoodOut lc (execCoolantLimit inletDc outletDc s) := by
  unfold execCoolantLimit
  repeat' first
    | with_reducible assumption | with_reducible apply State.evCoolant_good | with_reducible apply goodOut_next | lift_lets -underBinder
    | (intro t; refine good_elim (l := lc) (a := t) ?_ ?_ <;> [skip; (intro t hh hu; rw [← hu]; clear hu)]) | (intro w) | dsimp only [t] | split
    | with_reducible apply good_power | exact Good.records ‹_›

theorem State.stormReport_good {lc : Nat} (s : State) (hs : Good lc s) :
    Good lc (State.stormReport s) := by
  unfold State.stormReport
  repeat' first
    | with_reducible assumption | with_reducible apply State.evMgmt_good | lift_lets -underBinder
    | (intro t; refine good_elim (l := lc) (a := t) ?_ ?_ <;> [skip; (intro t hh hu; rw [← hu]; clear hu)]) | dsimp only [t] | split
    | (refine Good.of_view hh ?_; dsimp only [State.view]; done)

theorem execTelemetryRefresh_good {lc : Nat} (r : Readings) (s : State) (hs : Good lc s) :
    GoodOut lc (execTelemetryRefresh r s) := by
  unfold execTelemetryRefresh
  repeat' first
    | with_reducible apply State.stormReport_good | with_reducible apply goodOut_next | lift_lets -underBinder
    | (intro t; refine good_elim (l := lc) (a := t) ?_ ?_ <;> [skip; (intro t hh hu; rw [← hu]; clear hu)]) | (intro w) | split
    | (refine Good.of_view hh ?_; dsimp only [State.view]; done) | (refine Good.of_view hs ?_; dsimp only [State.view]; done)

theorem State.meterChain_good {lc : Nat} (mj : Nat) (s : State) (hs : Good lc s) :
    Good lc (State.meterChain mj s) := by
  unfold State.meterChain
  repeat' first | with_reducible assumption | with_reducible apply good_power | exact Good.records ‹_›

theorem State.countClear_good {lc : Nat} (s : State) (hs : Good lc s) :
    Good lc (State.countClear s) := by
  unfold State.countClear
  repeat' first | with_reducible assumption | with_reducible apply good_power | exact Good.records ‹_›

theorem State.powerBoundary_good {lc : Nat} (s : State) (hs : Good lc s) :
    Good lc (State.powerBoundary s) := by
  unfold State.powerBoundary
  repeat' first
    | with_reducible assumption | with_reducible apply State.writeRecord_good | lift_lets -underBinder
    | (intro t; refine good_elim (l := lc) (a := t) ?_ ?_ <;> [skip; (intro t hh hu; rw [← hu]; clear hu)]) | (intro w) | dsimp only [t] | split
    | (refine Good.of_view hh ?_; dsimp only [State.view]; done) | (refine Good.of_view hs ?_; dsimp only [State.view]; done)

theorem State.ratioBoundary_good {lc : Nat} (s : State) (hs : Good lc s) :
    Good lc (State.ratioBoundary s) := by
  unfold State.ratioBoundary
  repeat' first
    | with_reducible apply State.evMgmt_good | with_reducible apply State.evOpen_good | split
    | (refine Good.of_view hs ?_; dsimp only [State.view]; done)

theorem State.throttleBoundary_good {lc : Nat} (s : State) (hs : Good lc s) :
    Good lc (State.throttleBoundary s) := by
  unfold State.throttleBoundary
  repeat' first
    | with_reducible apply State.evThrottle_good | lift_lets -underBinder
    | (intro t; refine good_elim (l := lc) (a := t) ?_ ?_ <;> [skip; (intro t hh hu; rw [← hu]; clear hu)]) | (intro w) | dsimp only [t] | split
    | (refine Good.of_view hh ?_; dsimp only [State.view]; done) | (refine Good.of_view hs ?_; dsimp only [State.view]; done)

theorem State.idleMark_good {lc : Nat} (s : State) (hs : Good lc s) :
    Good lc (State.idleMark s) := by
  unfold State.idleMark
  repeat' first | (refine Good.of_view hs ?_; dsimp only [State.view]; done)

end Sys2Proof.Machine
end

