-- ==== Sys2Proof/Laws/SoundManagement.lean ====
section
/-! SUPPORT. Every operation of Machine/Management.lean keeps soundness and the life cycle. -/

set_option linter.unusedTactic false
set_option linter.unreachableTactic false
set_option linter.unusedVariables false
set_option linter.unusedSimpArgs false
set_option Elab.async false

namespace Sys2Proof.Machine

theorem State.checked_good {lc : Nat} (l : List (Bool × Nat)) (k : Nat × Bytes × State) (s : State) (hk : Good lc k.2.2) (hs : Good lc s) :
    Good lc (State.checked l k s).2.2 := by
  unfold State.checked
  repeat' first | with_reducible assumption | with_reducible apply State.deny_good | split

theorem execMgmtTelemetry_good {lc : Nat} (m : MgmtMsg) (s : State) (hs : Good lc s) :
    GoodOut lc (execMgmtTelemetry m s) := by
  unfold execMgmtTelemetry
  repeat' first
    | with_reducible refine fun _ => ?_ | with_reducible assumption | with_reducible apply State.runMgmt_good
    | with_reducible apply State.sized_good | with_reducible apply goodOut_next

theorem execMgmtEntropy_good {lc : Nat} (m : MgmtMsg) (s : State) (hs : Good lc s) :
    GoodOut lc (execMgmtEntropy m s) := by
  unfold execMgmtEntropy
  repeat' first
    | with_reducible refine fun _ => ?_ | with_reducible assumption | with_reducible apply State.estimate_good
    | with_reducible apply State.runMgmt_good | with_reducible apply State.sized_good | with_reducible apply goodOut_next

theorem execMgmtProfile_good {lc : Nat} (m : MgmtMsg) (s : State) (hs : Good lc s) :
    GoodOut lc (execMgmtProfile m s) := by
  unfold execMgmtProfile
  repeat' first
    | with_reducible refine fun _ => ?_ | with_reducible assumption | with_reducible apply State.checked_good
    | with_reducible apply State.drawMany_good | with_reducible apply State.runMgmt_good | with_reducible apply State.sized_good
    | with_reducible apply goodOut_next

theorem State.setCap_good {lc : Nat} (cap : Nat) (s : State) (hs : Good lc s) :
    Good lc (State.setCap cap s) := by
  unfold State.setCap
  repeat' first | with_reducible assumption | with_reducible apply State.computeRatio_good | with_reducible apply good_power | exact Good.records ‹_›

theorem execMgmtCap_good {lc : Nat} (m : MgmtMsg) (s : State) (hs : Good lc s) :
    GoodOut lc (execMgmtCap m s) := by
  unfold execMgmtCap
  repeat' first
    | with_reducible refine fun _ => ?_ | with_reducible assumption | with_reducible apply State.checked_good
    | with_reducible apply State.runMgmt_good | with_reducible apply State.setCap_good | with_reducible apply State.sized_good
    | with_reducible apply goodOut_next

theorem execMgmtSchedule_good {lc : Nat} (m : MgmtMsg) (s : State) (hs : Good lc s) :
    GoodOut lc (execMgmtSchedule m s) := by
  unfold execMgmtSchedule
  repeat' first
    | with_reducible refine fun _ => ?_ | with_reducible assumption | with_reducible apply State.checked_good
    | with_reducible apply State.runMgmt_good | with_reducible apply goodOut_next | with_reducible apply good_power | exact Good.records ‹_›

theorem execMgmtMeter_good {lc : Nat} (m : MgmtMsg) (s : State) (hs : Good lc s) :
    GoodOut lc (execMgmtMeter m s) := by
  unfold execMgmtMeter
  repeat' first
    | with_reducible refine fun _ => ?_ | with_reducible assumption | with_reducible apply State.checked_good
    | with_reducible apply State.runMgmt_good | with_reducible apply State.sized_good | with_reducible apply goodOut_next

theorem State.modCopy_good {lc : Nat} (b : Bool) (g : FwCopy → FwCopy) (s : State)
    (hg : ∀ c, Memory.wf true c.image = true → Memory.wf true (g c).image = true) (hs : Good lc s) : Good lc (State.modCopy b g s) := by
  unfold State.modCopy
  split
  · exact good_flash hs hs.life hs.imgA (hg _ hs.imgB)
  · exact good_flash hs hs.life (hg _ hs.imgA) hs.imgB

theorem State.setStaging_good {lc : Nat} (v : Option Bool) (s : State) (hs : Good lc s) :
    Good lc (State.setStaging v s) := by
  unfold State.setStaging
  repeat' first
    | with_reducible refine fun _ => ?_
    | with_reducible assumption
    | lift_lets -underBinder
    | (intro t; refine good_elim (l := lc) (a := t) ?_ ?_ <;> [skip; (intro t hh hu; rw [← hu]; clear hu)])
    | (intro k; refine canonical_elim (a := k) ?_ ?_ <;> [skip; (intro k hk hu; rw [← hu]; clear hu)])
    | (intro k; refine parcel_elim (a := k) ?_ ?_ <;> [skip; (intro k hk hu; rw [← hu]; clear hu)])
    | (intro k; refine bounded_elim (a := k) ?_ ?_ <;> [skip; (intro k hk hu; rw [← hu]; clear hu)])
    | (intro w)
    | dsimp only [t]
    | dsimp only [k]
    | split
    | dsimp +zetaDelta only
    | (refine Good.of_view hh ?_; dsimp only [State.view]; done)
    | (refine Good.of_view hs ?_; dsimp only [State.view]; done)
    | (refine Good.of_view ‹Good lc _› ?_; dsimp only [State.view]; done)
    | with_reducible apply good_mgmt
    | dsimp only
    | exact Nat.zero_le _
    | exact Good.tlsNodup ‹_›
    | exact Good.tls ‹_›

theorem execFwBegin_good {lc : Nat} (m : MgmtMsg) (s : State) (hs : Good lc s) :
    GoodOut lc (execFwBegin m s) := by
  unfold execFwBegin
  repeat' first
    | with_reducible refine fun _ => ?_ | with_reducible assumption | with_reducible apply State.checked_good
    | with_reducible apply State.modCopy_good | with_reducible apply State.runMgmt_good | with_reducible apply State.setStaging_good
    | with_reducible apply State.sized_good | with_reducible apply goodOut_next | with_reducible apply goodOut_fault | split | rfl

theorem execFwData_good {lc : Nat} (m : MgmtMsg) (s : State) (hs : Good lc s) :
    GoodOut lc (execFwData m s) := by
  unfold execFwData
  repeat' first
    | with_reducible refine fun _ => ?_ | with_reducible assumption | with_reducible apply State.checked_good
    | with_reducible apply State.modCopy_good | with_reducible apply State.runMgmt_good | with_reducible apply goodOut_next
    | with_reducible apply goodOut_fault | split | with_reducible apply wf_write0

theorem execFwEnd_good {lc : Nat} (m : MgmtMsg) (s : State) (hs : Good lc s) :
    GoodOut lc (execFwEnd m s) := by
  unfold execFwEnd
  repeat' first
    | with_reducible refine fun _ => ?_ | with_reducible assumption | with_reducible apply State.deny_good | with_reducible apply State.evMgmt_good
    | with_reducible apply State.evPf_good | with_reducible apply State.modCopy_good | with_reducible apply State.runMgmt_good
    | with_reducible apply State.setStaging_good | with_reducible apply State.sized_good | with_reducible apply goodOut_next
    | lift_lets -underBinder | (intro w) | split

theorem execFwCommit_good {lc : Nat} (m : MgmtMsg) (s : State) (hs : Good lc s) :
    GoodOut lc (execFwCommit m s) := by
  unfold execFwCommit
  repeat' first
    | with_reducible refine fun _ => ?_ | with_reducible assumption | with_reducible apply State.checked_good
    | with_reducible apply State.runMgmt_good | with_reducible apply State.sized_good | with_reducible apply goodOut_next
    | with_reducible apply good_flash | exact Good.life ‹_› | exact Good.imgA ‹_› | exact Good.imgB ‹_›

theorem execSettingsWrite_good {lc : Nat} (m : MgmtMsg) (s : State) (hs : Good lc s) :
    GoodOut lc (execSettingsWrite m s) := by
  unfold execSettingsWrite
  repeat' first
    | with_reducible refine fun _ => ?_ | with_reducible assumption | with_reducible apply State.checked_good
    | with_reducible apply State.runMgmt_good | with_reducible apply State.sized_good | with_reducible apply goodOut_next
    | with_reducible apply good_flash | exact Good.life ‹_› | exact Good.imgA ‹_› | exact Good.imgB ‹_›

theorem execSurveyWrite_good {lc : Nat} (m : MgmtMsg) (s : State) (hs : Good lc s) :
    GoodOut lc (execSurveyWrite m s) := by
  unfold execSurveyWrite
  repeat' first
    | with_reducible refine fun _ => ?_ | with_reducible apply State.checked_good | with_reducible apply State.runMgmt_good
    | with_reducible apply goodOut_next | split | (refine Good.of_view ‹Good lc _› ?_; dsimp only [State.view]; done)

theorem execTlsCert_good {lc : Nat} (m : MgmtMsg) (s : State) (hs : Good lc s) :
    GoodOut lc (execTlsCert m s) := by
  unfold execTlsCert
  repeat' first
    | with_reducible refine fun _ => ?_ | with_reducible assumption | with_reducible apply State.checked_good | with_reducible apply State.deny_good
    | with_reducible apply State.runMgmt_good | with_reducible apply goodOut_next | split | with_reducible apply good_chest | exact Good.slots ‹_›

theorem State.orderReset_good {lc : Nat} (cold : Bool) (s : State) (hs : Good lc s) :
    Good lc (State.orderReset cold s) := by
  unfold State.orderReset
  repeat' first | (refine Good.of_view hs ?_; dsimp only [State.view]; done)

theorem State.mgmtReset_good {lc : Nat} (cold : Bool) (m : MgmtMsg) (s : State) (hs : Good lc s) :
    Good lc (State.mgmtReset cold m s) := by
  unfold State.mgmtReset
  repeat' first
    | with_reducible refine fun _ => ?_ | with_reducible assumption | with_reducible apply State.checked_good
    | with_reducible apply State.orderReset_good | with_reducible apply State.runMgmt_good | with_reducible apply State.sized_good | split

theorem execModuleResetWarm_good {lc : Nat} (m : MgmtMsg) (s : State) (hs : Good lc s) :
    GoodOut lc (execModuleResetWarm m s) := by
  unfold execModuleResetWarm
  repeat' first | with_reducible assumption | with_reducible apply State.mgmtReset_good | with_reducible apply goodOut_next

theorem execModuleResetCold_good {lc : Nat} (m : MgmtMsg) (s : State) (hs : Good lc s) :
    GoodOut lc (execModuleResetCold m s) := by
  unfold execModuleResetCold
  repeat' first | with_reducible assumption | with_reducible apply State.mgmtReset_good | with_reducible apply goodOut_next

theorem execDrbgReseed_good {lc : Nat} (m : MgmtMsg) (s : State) (hs : Good lc s) :
    GoodOut lc (execDrbgReseed m s) := by
  unfold execDrbgReseed
  repeat' first
    | with_reducible refine fun _ => ?_ | with_reducible apply State.runMgmt_good | with_reducible apply State.sized_good
    | with_reducible apply goodOut_next | (refine Good.of_view ‹Good lc _› ?_; dsimp only [State.view]; done)

theorem execEntropyPattern_good {lc : Nat} (m : MgmtMsg) (s : State) (hs : Good lc s) :
    GoodOut lc (execEntropyPattern m s) := by
  unfold execEntropyPattern
  repeat' first
    | with_reducible refine fun _ => ?_ | with_reducible apply State.checked_good | with_reducible apply State.runMgmt_good
    | with_reducible apply State.sized_good | with_reducible apply goodOut_next
    | (refine Good.of_view ‹Good lc _› ?_; dsimp only [State.view]; done)

theorem execTlsHandshake_good {lc : Nat} (h : TlsHello) (s : State) (hs : Good lc s) : GoodOut lc (execTlsHandshake h s) := by
  unfold execTlsHandshake
  refine goodOut_next ?_
  split
  · exact hs
  · split
    · rename_i k hk
      have hm := List.mem_range.1 (List.mem_of_find?_eq_some hk)
      have hn : k ∉ s.mgmt.tls := by simpa using List.find?_some hk
      split
      · refine State.emit_good _ _ (good_mgmt hs ?_ fun j hj => ?_)
        · exact List.Nodup.append hs.tlsNodup (List.nodup_singleton k) (by simpa using hn)
        · rcases List.mem_append.1 hj with hj | hj
          · exact hs.tls j hj
          · rw [List.mem_singleton.1 hj]
            exact hm
      · exact State.emit_good _ _ hs
    · exact State.emit_good _ _ hs

theorem execEthPacket_good {lc : Nat} (pkt : EthPacket) (s : State) (hs : Good lc s) :
    GoodOut lc (execEthPacket pkt s) := by
  unfold execEthPacket
  repeat' first
    | with_reducible refine fun _ => ?_
    | with_reducible assumption
    | with_reducible apply State.emit_good
    | with_reducible apply Verdict.good_no
    | with_reducible apply goodOut_next
    | with_reducible apply goodOut_fault
    | lift_lets -underBinder
    | (intro t; refine good_elim (l := lc) (a := t) ?_ ?_ <;> [skip; (intro t hh hu; rw [← hu]; clear hu)])
    | (intro k; refine canonical_elim (a := k) ?_ ?_ <;> [skip; (intro k hk hu; rw [← hu]; clear hu)])
    | (intro k; refine parcel_elim (a := k) ?_ ?_ <;> [skip; (intro k hk hu; rw [← hu]; clear hu)])
    | (intro k; refine bounded_elim (a := k) ?_ ?_ <;> [skip; (intro k hk hu; rw [← hu]; clear hu)])
    | (intro w)
    | dsimp only [t]
    | dsimp only [k]
    | split
    | dsimp +zetaDelta only
    | (refine Good.of_view hh ?_; dsimp only [State.view]; done)
    | (refine Good.of_view hs ?_; dsimp only [State.view]; done)
    | (refine Good.of_view ‹Good lc _› ?_; dsimp only [State.view]; done)
    | with_reducible apply good_mgmt
    | dsimp only
    | exact Nat.zero_le _
    | exact Good.tlsNodup ‹_›
    | exact Good.tls ‹_›

end Sys2Proof.Machine
end

