-- ==== Sys2Proof/Laws/SoundSmbus.lean ====
section
/-! SUPPORT. Every operation of Machine/Smbus.lean keeps soundness and the life cycle. -/

set_option linter.unusedTactic false
set_option linter.unreachableTactic false
set_option linter.unusedVariables false
set_option linter.unusedSimpArgs false
set_option Elab.async false

namespace Sys2Proof.Machine

theorem State.evSmbus_good {lc : Nat} (st line : Nat) (s : State) (hs : Good lc s) :
    Good lc (State.evSmbus st line s) := by
  unfold State.evSmbus
  repeat' first | with_reducible assumption | with_reducible apply State.emit_good | with_reducible apply State.evPf_good

theorem State.partnerBack_good {lc : Nat} (s : State) (hs : Good lc s) :
    Good lc (State.partnerBack s) := by
  unfold State.partnerBack
  repeat' first
    | with_reducible refine fun _ => ?_ | with_reducible assumption | with_reducible apply State.emit_good | with_reducible apply State.evSmbus_good
    | with_reducible apply good_foldl | split | with_reducible apply good_smbus | exact Nat.zero_le _

theorem execSmbusLineRecovery_good {lc : Nat} (highAfter : Option Nat) (s : State) (hs : Good lc s) :
    GoodOut lc (execSmbusLineRecovery highAfter s) := by
  unfold execSmbusLineRecovery
  repeat' first
    | with_reducible assumption | with_reducible apply State.emit_good | with_reducible apply goodOut_next | split | with_reducible apply good_smbus
    | exact Good.queue ‹_›

theorem execSmbusTargetTimeout_good {lc : Nat} (sclLowUs noEdgeUs : Nat) (s : State) (hs : Good lc s) :
    GoodOut lc (execSmbusTargetTimeout sclLowUs noEdgeUs s) := by
  unfold execSmbusTargetTimeout
  repeat' first | with_reducible assumption | with_reducible apply State.emit_good | with_reducible apply goodOut_next | split

theorem execSmbusFence_good {lc : Nat} (sdaLow : Bool) (chains : Nat) (s : State) (hs : Good lc s) :
    GoodOut lc (execSmbusFence sdaLow chains s) := by
  unfold execSmbusFence
  repeat' first
    | with_reducible assumption | with_reducible apply State.evSmbus_good | with_reducible apply goodOut_next | split
    | with_reducible apply good_smbus | exact Nat.zero_le _

theorem execSmbusUnfence_good {lc : Nat} (highUs : Nat) (s : State) (hs : Good lc s) :
    GoodOut lc (execSmbusUnfence highUs s) := by
  unfold execSmbusUnfence
  repeat' first
    | with_reducible assumption | with_reducible apply State.evSmbus_good | with_reducible apply goodOut_next | split
    | with_reducible apply good_smbus | exact Good.queue ‹_›

theorem State.retried_good {lc : Nat} (acked : Bool) (s : State) (hs : Good lc s) :
    Good lc (State.retried acked s) := by
  unfold State.retried
  repeat' first
    | with_reducible assumption | with_reducible apply State.emit_good | with_reducible apply State.evSmbus_good | lift_lets -underBinder
    | (intro w) | split | with_reducible apply good_smbus | exact Good.queue ‹_›

theorem execSmbusRetry_good {lc : Nat} (acked : Bool) (s : State) (hs : Good lc s) :
    GoodOut lc (execSmbusRetry acked s) := by
  unfold execSmbusRetry
  repeat' first | with_reducible assumption | with_reducible apply State.retried_good | with_reducible apply goodOut_next

theorem execSmbusProbe_good {lc : Nat} (acked : Bool) (s : State) (hs : Good lc s) : GoodOut lc (execSmbusProbe acked s) := by
  unfold execSmbusProbe
  refine goodOut_next ?_
  split
  · rename_i b q hq
    split
    · have hl : q.length ≤ 64 := by
        have := hs.queue
        rw [hq] at this
        exact le_trans (Nat.le_succ _) this
      have h1 : Good lc ({ s with smbus := { s.smbus with probeChain := s.now } }.emit (.smbus 3 b)) :=
        State.emit_good _ _ (good_smbus hs hs.queue)
      dsimp only
      split
      · exact State.partnerBack_good _ (good_smbus h1 hl)
      · exact h1
    · exact hs
  · exact hs

theorem execTransferAbandon_good {lc : Nat} (lowMs : Nat) (s : State) (hs : Good lc s) :
    GoodOut lc (execTransferAbandon lowMs s) := by
  unfold execTransferAbandon
  repeat' first
    | with_reducible refine fun _ => ?_
    | with_reducible assumption
    | with_reducible apply Verdict.good_no
    | with_reducible apply goodOut_next
    | with_reducible apply goodOut_fault
    | lift_lets -underBinder
    | (intro t; refine good_elim (l := lc) (a := t) ?_ ?_ <;> [skip; (intro t hh hu; rw [← hu]; clear hu)])
    | (intro k; refine canonical_elim (a := k) ?_ ?_ <;> [skip; (intro k hk hu; rw [← hu]; clear hu)])
    | (intro k; refine parcel_elim (a := k) ?_ ?_ <;> [skip; (intro k hk hu; rw [← hu]; clear hu)])
    | (intro k; refine bounded_elim (a := k) ?_ ?_ <;> [skip; (intro k hk hu; rw [← hu]; clear hu)])
    | (intro w)
    | dsimp only [t]
    | dsimp only [k]
    | split
    | dsimp +zetaDelta only
    | (refine Good.of_view hh ?_; dsimp only [State.view]; done)
    | (refine Good.of_view hs ?_; dsimp only [State.view]; done)
    | (refine Good.of_view ‹Good lc _› ?_; dsimp only [State.view]; done)
    | with_reducible apply good_smbus
    | dsimp only
    | exact Nat.zero_le _
    | exact Good.queue ‹_›

theorem execSmbusPacket_good {lc : Nat} (pkt : SmbusPacket) (s : State) (hs : Good lc s) :
    GoodOut lc (execSmbusPacket pkt s) := by
  unfold execSmbusPacket
  repeat' first
    | with_reducible assumption | with_reducible apply State.partnerBack_good | with_reducible apply goodOut_next | lift_lets -underBinder
    | (intro t; refine good_elim (l := lc) (a := t) ?_ ?_ <;> [skip; (intro t hh hu; rw [← hu]; clear hu)]) | (intro w) | split
    | with_reducible apply good_smbus | exact Good.queue ‹_›

theorem State.answerMctp_good {lc : Nat} (msgType : Nat) (f : State → Bytes × State) (s : State) (hf : ∀ x0, Good lc x0 → Good lc (f x0).2) (hs : Good lc s) :
    Good lc (State.answerMctp msgType f s) := by
  unfold State.answerMctp
  repeat' first
    | with_reducible assumption | with_reducible apply State.partnerBack_good | with_reducible apply State.sendSmbus_good | with_reducible apply hf
    | split

theorem execSetEndpointId_good {lc : Nat} (src eid : Nat) (s : State) (hs : Good lc s) :
    GoodOut lc (execSetEndpointId src eid s) := by
  unfold execSetEndpointId
  repeat' first
    | with_reducible refine fun _ => ?_ | with_reducible assumption | with_reducible apply State.answerMctp_good | with_reducible apply goodOut_next
    | split | with_reducible apply good_smbus | exact Good.queue ‹_›

theorem execGetEndpointId_good {lc : Nat} (s : State) (hs : Good lc s) :
    GoodOut lc (execGetEndpointId s) := by
  unfold execGetEndpointId
  repeat' first
    | with_reducible refine fun _ => ?_ | with_reducible assumption | with_reducible apply State.answerMctp_good | with_reducible apply goodOut_next

theorem execGetEndpointUuid_good {lc : Nat} (s : State) (hs : Good lc s) :
    GoodOut lc (execGetEndpointUuid s) := by
  unfold execGetEndpointUuid
  repeat' first
    | with_reducible refine fun _ => ?_ | with_reducible assumption | with_reducible apply State.answerMctp_good | with_reducible apply goodOut_next

theorem execGetMctpVersionSupport_good {lc : Nat} (msgType : Nat) (s : State) (hs : Good lc s) :
    GoodOut lc (execGetMctpVersionSupport msgType s) := by
  unfold execGetMctpVersionSupport
  repeat' first
    | with_reducible refine fun _ => ?_ | with_reducible assumption | with_reducible apply State.answerMctp_good | with_reducible apply goodOut_next
    | split

theorem execGetMessageTypeSupport_good {lc : Nat} (s : State) (hs : Good lc s) :
    GoodOut lc (execGetMessageTypeSupport s) := by
  unfold execGetMessageTypeSupport
  repeat' first
    | with_reducible refine fun _ => ?_ | with_reducible assumption | with_reducible apply State.answerMctp_good | with_reducible apply goodOut_next

theorem execGetVendorMessageSupport_good {lc : Nat} (selector : Nat) (s : State) (hs : Good lc s) :
    GoodOut lc (execGetVendorMessageSupport selector s) := by
  unfold execGetVendorMessageSupport
  repeat' first
    | with_reducible refine fun _ => ?_ | with_reducible assumption | with_reducible apply State.answerMctp_good | with_reducible apply goodOut_next
    | split

theorem execMctpUnsupportedCmd_good {lc : Nat} (cmd : Nat) (s : State) (hs : Good lc s) :
    GoodOut lc (execMctpUnsupportedCmd cmd s) := by
  unfold execMctpUnsupportedCmd
  repeat' first
    | with_reducible refine fun _ => ?_ | with_reducible assumption | with_reducible apply State.answerMctp_good | with_reducible apply goodOut_next

theorem execGetVersion_good {lc : Nat} (s : State) (hs : Good lc s) :
    GoodOut lc (execGetVersion s) := by
  unfold execGetVersion
  repeat' first
    | with_reducible refine fun _ => ?_ | with_reducible assumption | with_reducible apply State.answerMctp_good | with_reducible apply goodOut_next

theorem execGetCapabilities_good {lc : Nat} (s : State) (hs : Good lc s) :
    GoodOut lc (execGetCapabilities s) := by
  unfold execGetCapabilities
  repeat' first
    | with_reducible refine fun _ => ?_ | with_reducible assumption | with_reducible apply State.answerMctp_good | with_reducible apply goodOut_next

theorem execNegotiateAlgorithms_good {lc : Nat} (p384Sha384 : Bool) (s : State) (hs : Good lc s) :
    GoodOut lc (execNegotiateAlgorithms p384Sha384 s) := by
  unfold execNegotiateAlgorithms
  repeat' first
    | with_reducible refine fun _ => ?_ | with_reducible apply State.answerMctp_good | with_reducible apply goodOut_next | split
    | (refine Good.of_view ‹Good lc _› ?_; dsimp only [State.view]; done)

theorem execGetDigests_good {lc : Nat} (s : State) (hs : Good lc s) :
    GoodOut lc (execGetDigests s) := by
  unfold execGetDigests
  repeat' first
    | with_reducible refine fun _ => ?_ | with_reducible assumption | with_reducible apply State.answerMctp_good | with_reducible apply goodOut_next

theorem execGetCertificate_good {lc : Nat} (slot offset length : Nat) (s : State) (hs : Good lc s) :
    GoodOut lc (execGetCertificate slot offset length s) := by
  unfold execGetCertificate
  repeat' first
    | with_reducible assumption | with_reducible apply State.answerMctp_good | with_reducible apply goodOut_next | lift_lets -underBinder
    | (intro w) | split

theorem State.spdmSign_good {lc : Nat} (key : Nat) (request : Bytes) (answer : Bytes → Bytes) (s : State) (hs : Good lc s) :
    Good lc (State.spdmSign key request answer s).2 := by
  unfold State.spdmSign
  repeat' first | with_reducible assumption | with_reducible apply State.drawn_good | split

theorem execChallenge_good {lc : Nat} (slot : Nat) (nonce : BitVec 256) (s : State) (hs : Good lc s) :
    GoodOut lc (execChallenge slot nonce s) := by
  unfold execChallenge
  repeat' first
    | with_reducible refine fun _ => ?_ | with_reducible assumption | with_reducible apply State.answerMctp_good
    | with_reducible apply State.spdmSign_good | with_reducible apply goodOut_next | split

theorem execGetMeasurements_good {lc : Nat} (index : Nat) (nonce : BitVec 256) (s : State) (hs : Good lc s) :
    GoodOut lc (execGetMeasurements index nonce s) := by
  unfold execGetMeasurements
  repeat' first
    | with_reducible refine fun _ => ?_ | with_reducible assumption | with_reducible apply State.answerMctp_good
    | with_reducible apply State.spdmSign_good | with_reducible apply goodOut_next | split

theorem execSpdmUnsupportedRequest_good {lc : Nat} (code : Nat) (s : State) (hs : Good lc s) :
    GoodOut lc (execSpdmUnsupportedRequest code s) := by
  unfold execSpdmUnsupportedRequest
  repeat' first
    | with_reducible refine fun _ => ?_ | with_reducible assumption | with_reducible apply State.answerMctp_good | with_reducible apply goodOut_next

end Sys2Proof.Machine
end

