-- ==== Sys2Proof/Laws/SoundTick.lean ====
section
/-! SUPPORT. Every operation of Machine/Tick.lean keeps soundness and the life cycle. -/

set_option linter.unusedTactic false
set_option linter.unreachableTactic false
set_option linter.unusedVariables false
set_option linter.unusedSimpArgs false
set_option Elab.async false

namespace Sys2Proof.Machine

theorem State.closeKeys_good {lc : Nat} (p : Nat) (s : State) (hs : Good lc s) :
    Good lc (State.closeKeys p s) := by
  unfold State.closeKeys
  repeat' first
    | with_reducible refine fun _ => ?_ | with_reducible assumption | with_reducible apply State.destroySlot_good
    | with_reducible apply State.drawn_good | with_reducible apply good_foldl | with_reducible apply canonical_foldl
    | with_reducible apply good_modParcel | with_reducible apply State.parcel_canonical | split | dsimp only | exact (‹Parcel.canonical _›).1
    | exact (‹Parcel.canonical _›).2 | rfl | with_reducible apply Parcel.canonical_intro

theorem State.parcelRod_good {lc : Nat} (p : Nat) (s : State) (hs : Good lc s) :
    Good lc (State.parcelRod p s) := by
  unfold State.parcelRod
  repeat' first
    | with_reducible assumption | with_reducible apply State.closeKeys_good | with_reducible apply State.declaredPreloads_good
    | with_reducible apply State.forwards_good

theorem State.rodBegin_good {lc : Nat} (idx : List (Nat × Nat × Nat)) (s : State) (hs : Good lc s) :
    Good lc (State.rodBegin idx s) := by
  unfold State.rodBegin
  repeat' first
    | with_reducible refine fun _ => ?_ | with_reducible assumption | with_reducible apply State.completes_good
    | with_reducible apply State.easeBoundary_good | with_reducible apply good_foldl | with_reducible apply State.linkRod_good
    | with_reducible apply State.markSwaps_good | with_reducible apply State.parcelRod_good | with_reducible apply State.patrol_good
    | with_reducible apply State.readIndex_good | with_reducible apply State.throttleBegin_good | split

theorem State.rodEnd_good {lc : Nat} (late : List Nat) (s : State) (hs : Good lc s) :
    Good lc (State.rodEnd late s) := by
  unfold State.rodEnd
  repeat' first
    | with_reducible assumption | with_reducible apply State.beginReserve_good | with_reducible apply State.endRod_good
    | with_reducible apply State.writeIndex_good

theorem execRodBoundary_good {lc : Nat} (idx : List (Nat × Nat × Nat)) (s : State) (hs : Good lc s) :
    GoodOut lc (execRodBoundary idx s) := by
  unfold execRodBoundary
  repeat' first
    | with_reducible assumption | with_reducible apply State.rodBegin_good | with_reducible apply State.rodEnd_good
    | with_reducible apply goodOut_next | lift_lets -underBinder
    | (intro t; refine good_elim (l := lc) (a := t) ?_ ?_ <;> [skip; (intro t hh hu; rw [← hu]; clear hu)]) | split
    | (refine Good.of_view hh ?_; dsimp only [State.view]; done)

theorem Cluster.turnLeaves_good (k : Cluster) (hk : k.canonical) :
    (Cluster.turnLeaves k).canonical := by
  unfold Cluster.turnLeaves
  repeat' first
    | with_reducible refine fun _ => ?_ | with_reducible assumption | split | assumption | dsimp only | exact (‹Cluster.canonical _›).2.2.1 _ ‹_›
    | exact (‹Cluster.canonical _›).1 | exact (‹Cluster.canonical _›).2.1 | exact (‹Cluster.canonical _›).2.2.2.1
    | exact (‹Cluster.canonical _›).2.2.2.2.1 | exact (‹Cluster.canonical _›).2.2.2.2.2 | with_reducible apply length_set_eq
    | with_reducible apply Cluster.canonical_intro

theorem State.backlog_good {lc : Nat} (p k run left : Nat) (s : State) (c : Nat) (hs : Good lc s) :
    Good lc (State.backlog p k run left s c) := by
  unfold State.backlog
  repeat' first | with_reducible assumption | with_reducible apply State.evBoth_good | lift_lets -underBinder | (intro w) | split

theorem State.leafBoundary_good {lc : Nat} (p k : Nat) (s : State) (hs : Good lc s) :
    Good lc (State.leafBoundary p k s) := by
  unfold State.leafBoundary
  repeat' first
    | with_reducible assumption | with_reducible apply State.backlog_good | with_reducible apply State.evBoth_good | with_reducible apply good_foldl
    | with_reducible apply good_modLogical | with_reducible apply Cluster.turnLeaves_good | lift_lets -underBinder
    | (intro t; refine good_elim (l := lc) (a := t) ?_ ?_ <;> [skip; (intro t hh hu; rw [← hu]; clear hu)]) | (intro w) | dsimp only [t] | split

theorem State.leaves_good {lc : Nat} (p : Nat) (s : State) (hs : Good lc s) :
    Good lc (State.leaves p s) := by
  unfold State.leaves
  repeat' first
    | with_reducible assumption | with_reducible apply good_foldl | with_reducible apply State.leafBoundary_good | lift_lets -underBinder
    | (intro w) | split

theorem Parcel.closing_good (q : Parcel) (hq : q.canonical) :
    (Parcel.closing q).canonical := by
  unfold Parcel.closing
  repeat' first
    | with_reducible refine fun _ => ?_ | with_reducible assumption | split | assumption | dsimp only | exact (‹Parcel.canonical _›).1
    | exact (‹Parcel.canonical _›).2 | with_reducible apply length_map_eq | with_reducible apply Parcel.canonical_intro

theorem State.stopDrains_good {lc : Nat} (p : Nat) (s : State) (hs : Good lc s) :
    Good lc (State.stopDrains p s) := by
  unfold State.stopDrains
  repeat' first
    | with_reducible refine fun _ => ?_ | with_reducible assumption | with_reducible apply State.drainPost_good | with_reducible apply good_foldl
    | split

theorem State.endConns_good {lc : Nat} (p : Nat) (s : State) (hs : Good lc s) :
    Good lc (State.endConns p s) := by
  unfold State.endConns
  repeat' first
    | with_reducible refine fun _ => ?_ | with_reducible assumption | with_reducible apply good_foldl | with_reducible apply good_modConn
    | with_reducible apply State.sendClose_good | with_reducible apply State.setConnState_good | split

theorem Cluster.closed_good (k : Cluster) (hk : k.canonical) :
    (Cluster.closed k).canonical := by
  unfold Cluster.closed
  repeat' first
    | with_reducible refine fun _ => ?_ | with_reducible assumption | with_reducible apply Cluster.dropRows_good
    | with_reducible apply Cluster.dropStores_good | with_reducible apply State.leaves_good | lift_lets -underBinder
    | (intro t; refine good_elim (l := lc) (a := t) ?_ ?_ <;> [skip; (intro t hh hu; rw [← hu]; clear hu)])
    | (intro k; refine canonical_elim (a := k) ?_ ?_ <;> [skip; (intro k hk hu; rw [← hu]; clear hu)])
    | (intro k; refine parcel_elim (a := k) ?_ ?_ <;> [skip; (intro k hk hu; rw [← hu]; clear hu)])
    | (intro k; refine bounded_elim (a := k) ?_ ?_ <;> [skip; (intro k hk hu; rw [← hu]; clear hu)]) | (intro w) | dsimp only [t] | dsimp only [k]
    | split | dsimp +zetaDelta only | assumption | exact (‹Cluster.canonical _›).2.2.1 _ ‹_› | exact (‹Cluster.canonical _›).1
    | exact (‹Cluster.canonical _›).2.1 | exact (‹Cluster.canonical _›).2.2.2.1 | rfl | with_reducible apply Cluster.canonical_intro

theorem State.closeStop_good {lc : Nat} (p : Nat) (s : State) (hs : Good lc s) : Good lc (State.closeStop p s) := by
  have he : ∀ t : State, Good lc t → Good lc { t with fabric := { t.fabric with
      eases := t.fabric.eases.map fun (x : Nat × Ease) => if x.1 / 256 = p then (x.1, x.2.cleared) else x } } := by
    intro t ht
    refine good_fabric ht ht.conns (rising_keys ?_ ht.eases)
    rw [List.map_map]
    refine List.map_congr_left fun x _ => ?_
    show (if x.1 / 256 = p then _ else x : Nat × Ease).1 = x.1
    split <;> rfl
  unfold State.closeStop
  dsimp only
  split
  · exact hs
  · exact good_modParcel (good_modClusters (State.endSession_good _ _ _ (he _ (State.endConns_good _ _ (State.stopDrains_good _ _
      (good_foldl hs fun t c ht => State.endRound_good _ _ _ _ ht))))) fun k hk => Cluster.closed_good k hk) fun q hq => hq

theorem Parcel.filled_good (q : Parcel) (hq : q.canonical) :
    (Parcel.filled q).canonical := by
  unfold Parcel.filled
  repeat' first
    | with_reducible refine fun _ => ?_
    | with_reducible assumption
    | lift_lets -underBinder
    | (intro t; refine good_elim (l := lc) (a := t) ?_ ?_ <;> [skip; (intro t hh hu; rw [← hu]; clear hu)])
    | (intro k; refine canonical_elim (a := k) ?_ ?_ <;> [skip; (intro k hk hu; rw [← hu]; clear hu)])
    | (intro k; refine parcel_elim (a := k) ?_ ?_ <;> [skip; (intro k hk hu; rw [← hu]; clear hu)])
    | (intro k; refine bounded_elim (a := k) ?_ ?_ <;> [skip; (intro k hk hu; rw [← hu]; clear hu)])
    | (intro w)
    | dsimp only [t]
    | dsimp only [k]
    | split
    | dsimp +zetaDelta only
    | assumption
    | dsimp only
    | exact (‹Cluster.canonical _›).2.2.1 _ ‹_›
    | exact (‹Cluster.canonical _›).1
    | exact (‹Cluster.canonical _›).2.1
    | exact (‹Cluster.canonical _›).2.2.1
    | exact (‹Cluster.canonical _›).2.2.2.1
    | exact (‹Cluster.canonical _›).2.2.2.2.1
    | exact (‹Cluster.canonical _›).2.2.2.2.2
    | exact (‹Parcel.canonical _›).1
    | exact (‹Parcel.canonical _›).2
    | exact (‹Fn.bounded _›).1
    | exact (‹Fn.bounded _›).2
    | with_reducible apply wf_write0
    | with_reducible apply rising_tset
    | with_reducible apply rising_tdel
    | with_reducible apply rising_filter
    | with_reducible apply length_modify_eq
    | with_reducible apply length_set_eq
    | with_reducible apply length_map_eq
    | rfl
    | with_reducible apply Cluster.canonical_intro
    | with_reducible apply Parcel.canonical_intro
    | with_reducible apply Fn.bounded_intro

theorem State.freeUnits_good {lc : Nat} (p : Nat) (s : State) (hs : Good lc s) :
    Good lc (State.freeUnits p s) := by
  unfold State.freeUnits
  repeat' first
    | with_reducible refine fun _ => ?_ | with_reducible assumption | with_reducible apply good_foldl | with_reducible apply canonical_foldl
    | with_reducible apply State.gated_good | with_reducible apply good_modCluster | with_reducible apply State.platPend_good
    | with_reducible apply State.retirePlat_good | with_reducible apply State.cluster_canonical | with_reducible apply State.parcel_canonical
    | split | exact (‹Cluster.canonical _›).2.2.1 _ ‹_› | exact (‹Cluster.canonical _›).1 | exact (‹Cluster.canonical _›).2.1
    | exact (‹Cluster.canonical _›).2.2.2.1 | exact (‹Cluster.canonical _›).2.2.2.2.1 | exact (‹Cluster.canonical _›).2.2.2.2.2
    | with_reducible apply Cluster.canonical_intro

theorem execCloseFillDone_good {lc : Nat} (p : Nat) (s : State) (hs : Good lc s) :
    GoodOut lc (execCloseFillDone p s) := by
  unfold execCloseFillDone
  repeat' first
    | with_reducible refine fun _ => ?_ | with_reducible assumption | with_reducible apply State.freeUnits_good
    | with_reducible apply good_modParcel | with_reducible apply State.respond_good | with_reducible apply State.setParcelState_good
    | with_reducible apply State.takeAll_good | with_reducible apply State.parcel_canonical | with_reducible apply State.fn_bounded
    | with_reducible apply goodOut_next | with_reducible apply goodOut_fault | split | dsimp only | rfl
    | with_reducible apply Parcel.canonical_intro

theorem State.sharesBoundary_good {lc : Nat} (s : State) (hs : Good lc s) : Good lc (State.sharesBoundary s) := by
  have h1 : ∀ (x : List Nat) (y : HostPort), Good lc { s with
      fns := s.fns.mapIdx fun n f => if n = 0 then f else { f with hostShare := x.getD (n - 1) f.hostShare }, host := y } := fun x y =>
    good_host (good_fns hs List.length_mapIdx (forall_mapIdx hs.fns fun i f hf => by split <;> exact hf))
  have key : ∀ t : State, Good lc t → Good lc (
      let t := { t with fabric := { t.fabric with slices := t.fabric.pendSlices.getD t.fabric.slices, pendSlices := none } }
      if t.host.scaledNext then { t with host := { t.host with scaled := false, scaledNext := false } } else t) := by
    intro t ht
    have h2 : Good lc { t with fabric := { t.fabric with slices := t.fabric.pendSlices.getD t.fabric.slices, pendSlices := none } } :=
      good_fabric ht ht.conns ht.eases
    dsimp only
    split
    · exact good_host h2
    · exact h2
  refine key _ ?_
  split
  · exact h1 _ _
  · exact hs

theorem Parcel.grantTurn_good (q : Parcel) (hq : q.canonical) :
    (Parcel.grantTurn q).canonical := by
  unfold Parcel.grantTurn
  repeat' first
    | with_reducible refine fun _ => ?_
    | with_reducible assumption
    | lift_lets -underBinder
    | (intro t; refine good_elim (l := lc) (a := t) ?_ ?_ <;> [skip; (intro t hh hu; rw [← hu]; clear hu)])
    | (intro k; refine canonical_elim (a := k) ?_ ?_ <;> [skip; (intro k hk hu; rw [← hu]; clear hu)])
    | (intro k; refine parcel_elim (a := k) ?_ ?_ <;> [skip; (intro k hk hu; rw [← hu]; clear hu)])
    | (intro k; refine bounded_elim (a := k) ?_ ?_ <;> [skip; (intro k hk hu; rw [← hu]; clear hu)])
    | (intro w)
    | dsimp only [t]
    | dsimp only [k]
    | split
    | dsimp +zetaDelta only
    | assumption
    | dsimp only
    | exact (‹Cluster.canonical _›).2.2.1 _ ‹_›
    | exact (‹Cluster.canonical _›).1
    | exact (‹Cluster.canonical _›).2.1
    | exact (‹Cluster.canonical _›).2.2.1
    | exact (‹Cluster.canonical _›).2.2.2.1
    | exact (‹Cluster.canonical _›).2.2.2.2.1
    | exact (‹Cluster.canonical _›).2.2.2.2.2
    | exact (‹Parcel.canonical _›).1
    | exact (‹Parcel.canonical _›).2
    | exact (‹Fn.bounded _›).1
    | exact (‹Fn.bounded _›).2
    | with_reducible apply wf_write0
    | with_reducible apply rising_tset
    | with_reducible apply rising_tdel
    | with_reducible apply rising_filter
    | with_reducible apply length_modify_eq
    | with_reducible apply length_set_eq
    | with_reducible apply length_map_eq
    | rfl
    | with_reducible apply Cluster.canonical_intro
    | with_reducible apply Parcel.canonical_intro
    | with_reducible apply Fn.bounded_intro

theorem State.detach_good {lc : Nat} (p : Nat) (s : State) (hs : Good lc s) :
    Good lc (State.detach p s) := by
  unfold State.detach
  repeat' first
    | with_reducible refine fun _ => ?_ | with_reducible assumption | with_reducible apply good_modParcel
    | with_reducible apply State.setParcelState_good | with_reducible apply State.parcel_canonical | split | exact (‹Parcel.canonical _›).1
    | exact (‹Parcel.canonical _›).2 | with_reducible apply Parcel.canonical_intro

theorem State.measured_good {lc : Nat} (p : Nat) (s : State) (hs : Good lc s) :
    Good lc (State.measured p s) := by
  unfold State.measured
  repeat' first
    | with_reducible refine fun _ => ?_ | with_reducible assumption | with_reducible apply State.destroySlot_good | with_reducible apply good_foldl
    | with_reducible apply canonical_foldl | with_reducible apply good_modParcel | with_reducible apply State.newSealedKey_good
    | with_reducible apply State.sendClose_good | with_reducible apply State.setConnState_good | with_reducible apply State.parcel_canonical | split
    | dsimp only | exact (‹Parcel.canonical _›).1 | exact (‹Parcel.canonical _›).2 | with_reducible apply Parcel.canonical_intro

theorem State.opDiscards_good {lc : Nat} (p c : Nat) (s : State) (hs : Good lc s) :
    Good lc (State.opDiscards p c s) := by
  unfold State.opDiscards
  repeat' first
    | with_reducible assumption | with_reducible apply State.evVf_good | with_reducible apply good_modCtx | lift_lets -underBinder | (intro w)
    | split

theorem State.ctxReports_good {lc : Nat} (p c : Nat) (s : State) (hs : Good lc s) :
    Good lc (State.ctxReports p c s) := by
  unfold State.ctxReports
  repeat' first
    | with_reducible assumption | with_reducible apply State.intakeReport_good | with_reducible apply State.opDiscards_good
    | with_reducible apply State.sendReceipt_good

theorem State.platBoundary_good {lc : Nat} (s : State) (hs : Good lc s) :
    Good lc (State.platBoundary s) := by
  unfold State.platBoundary
  repeat' first
    | with_reducible refine fun _ => ?_ | with_reducible assumption | with_reducible apply good_foldl | with_reducible apply State.platSet_good
    | with_reducible apply State.reserveSpares_good | lift_lets -underBinder
    | (intro t; refine good_elim (l := lc) (a := t) ?_ ?_ <;> [skip; (intro t hh hu; rw [← hu]; clear hu)]) | (intro w) | split
    | (refine Good.of_view hh ?_; dsimp only [State.view]; done) | (refine Good.of_view hs ?_; dsimp only [State.view]; done)

theorem State.surveyBoundary_good {lc : Nat} (s : State) (hs : Good lc s) : Good lc (State.surveyBoundary s) := by
  unfold State.surveyBoundary
  split
  · exact good_boot (good_links hs (List.length_map _))
  · exact hs

theorem State.refreshShares_good {lc : Nat} (s : State) (hs : Good lc s) : Good lc (State.refreshShares s) := by
  have h : ∀ (d : Nat) (e : Entropy) (c : Chest), c.slots.map Prod.fst = s.chest.slots.map Prod.fst → Good lc { s with draws := d, entropy := e, chest := c } :=
    fun d e c hc => good_draws (good_entropy (good_chest hs (rising_keys hc hs.slots)))
  unfold State.refreshShares
  dsimp only
  split
  · exact hs
  · refine h _ _ _ ?_
    refine List.ext_getElem (by simp) fun i h1 h2 => ?_
    simp

theorem State.releaseHalts_good {lc : Nat} (s : State) (hs : Good lc s) : Good lc (State.releaseHalts s) :=
  good_clusters hs (by simp) (forall_mapIdx hs.clusters fun i k hk => by split <;> exact hk)

theorem State.clearCounts_good {lc : Nat} (s : State) (hs : Good lc s) :
    Good lc (State.clearCounts s) := by
  unfold State.clearCounts
  repeat' first
    | with_reducible refine fun _ => ?_
    | with_reducible assumption
    | lift_lets -underBinder
    | (intro t; refine good_elim (l := lc) (a := t) ?_ ?_ <;> [skip; (intro t hh hu; rw [← hu]; clear hu)])
    | (intro k; refine canonical_elim (a := k) ?_ ?_ <;> [skip; (intro k hk hu; rw [← hu]; clear hu)])
    | (intro k; refine parcel_elim (a := k) ?_ ?_ <;> [skip; (intro k hk hu; rw [← hu]; clear hu)])
    | (intro k; refine bounded_elim (a := k) ?_ ?_ <;> [skip; (intro k hk hu; rw [← hu]; clear hu)])
    | (intro w)
    | dsimp only [t]
    | dsimp only [k]
    | split
    | dsimp +zetaDelta only
    | (refine Good.of_view hh ?_; dsimp only [State.view]; done)
    | (refine Good.of_view hs ?_; dsimp only [State.view]; done)
    | (refine Good.of_view ‹Good lc _› ?_; dsimp only [State.view]; done)

theorem State.eachParcel_good {lc : Nat} (f : Nat → State → State) (s : State) (hf : ∀ i t, Good lc t → Good lc (f i t)) (hs : Good lc s) :
    Good lc (State.eachParcel f s) := by
  unfold State.eachParcel
  repeat' first | with_reducible refine fun _ => ?_ | with_reducible assumption | with_reducible apply good_foldl | with_reducible apply hf

theorem State.chainOver_good {lc : Nat} (late : List Nat) (mj : Nat) (s : State) (hs : Good lc s) : Good lc (State.chainOver late mj s) := by
  have h : Good lc ((s.rodEnd late).eachParcel State.chainEnd) :=
    State.eachParcel_good _ _ (fun p t ht => State.chainEnd_good p t ht) (State.rodEnd_good _ _ hs)
  have key : ∀ t : State, Good lc t → Good lc (
      let t := if t.working then { t with parcels := t.parcels.map Parcel.filled } else t
      (t.meterChain mj).countClear) := by
    intro t ht
    refine State.countClear_good _ (State.meterChain_good _ _ ?_)
    split
    · exact good_parcels ht (List.length_map _) (forall_map ht.parcels fun q hq => Parcel.filled_good q hq)
    · exact ht
  exact key _ h

theorem State.chainNext_good {lc : Nat} (s : State) (hs : Good lc s) :
    Good lc (State.chainNext s) := by
  unfold State.chainNext
  repeat' first
    | with_reducible refine fun _ => ?_
    | with_reducible assumption
    | lift_lets -underBinder
    | (intro t; refine good_elim (l := lc) (a := t) ?_ ?_ <;> [skip; (intro t hh hu; rw [← hu]; clear hu)])
    | (intro k; refine canonical_elim (a := k) ?_ ?_ <;> [skip; (intro k hk hu; rw [← hu]; clear hu)])
    | (intro k; refine parcel_elim (a := k) ?_ ?_ <;> [skip; (intro k hk hu; rw [← hu]; clear hu)])
    | (intro k; refine bounded_elim (a := k) ?_ ?_ <;> [skip; (intro k hk hu; rw [← hu]; clear hu)])
    | (intro w)
    | dsimp only [t]
    | dsimp only [k]
    | split
    | dsimp +zetaDelta only
    | (refine Good.of_view hh ?_; dsimp only [State.view]; done)
    | (refine Good.of_view hs ?_; dsimp only [State.view]; done)
    | (refine Good.of_view ‹Good lc _› ?_; dsimp only [State.view]; done)

theorem State.linksBoundary_good {lc : Nat} (s : State) (hs : Good lc s) :
    Good lc (State.linksBoundary s) := by
  unfold State.linksBoundary
  repeat' first
    | with_reducible refine fun _ => ?_ | with_reducible assumption | with_reducible apply good_foldl | with_reducible apply State.linkUp_good
    | with_reducible apply State.markerBoundary_good | with_reducible apply State.retryWaiting_good

theorem State.moduleBoundary_good {lc : Nat} (s : State) (hs : Good lc s) :
    Good lc (State.moduleBoundary s) := by
  unfold State.moduleBoundary
  repeat' first
    | with_reducible assumption | with_reducible apply State.clearCounts_good | with_reducible apply State.entropyBoundary_good
    | with_reducible apply State.gateClusters_good | with_reducible apply State.joinSpares_good | with_reducible apply State.pairBoundary_good
    | with_reducible apply State.platBoundary_good | with_reducible apply State.sharesBoundary_good | with_reducible apply State.surveyBoundary_good

theorem State.parcelsBoundary_good {lc : Nat} (s : State) (hs : Good lc s) : Good lc (State.parcelsBoundary s) := by
  have h0 : Good lc { s with parcels := s.parcels.map fun (q : Parcel) => let q := q.grantTurn.closing; { q with contexts := q.contexts.map Context.mapsTurn } } := by
    refine good_parcels hs (by simp) (forall_map hs.parcels fun q hq => ?_)
    have hc := Parcel.closing_good _ (Parcel.grantTurn_good q hq)
    exact ⟨hc.1, by simpa using hc.2⟩
  have h1 := State.eachParcel_good (lc := lc) State.turnCtxs _ (fun p t ht => State.turnCtxs_good p t ht) h0
  have h2 := State.eachParcel_good (lc := lc) State.closeStop _ (fun p t ht => State.closeStop_good p t ht) h1
  have h3 := State.eachParcel_good (lc := lc) State.detach _ (fun p t ht => State.detach_good p t ht) h2
  have h4 := State.eachParcel_good (lc := lc) State.measured _ (fun p t ht => State.measured_good p t ht) h3
  exact State.eachParcel_good _ _ (fun p t ht => good_foldl ht fun u c hu => State.ctxReports_good _ _ _ hu) h4

theorem execChainBoundary_good {lc : Nat} (late : List Nat) (mj : Nat) (idx : List (Nat × Nat × Nat)) (s : State) (hs : Good lc s) :
    GoodOut lc (execChainBoundary late mj idx s) := by
  unfold execChainBoundary
  repeat' first
    | with_reducible refine fun _ => ?_
    | with_reducible assumption
    | with_reducible apply State.bounceBad_good
    | with_reducible apply State.chainNext_good
    | with_reducible apply State.chainOver_good
    | with_reducible apply State.detect_good
    | with_reducible apply State.eachParcel_good
    | with_reducible apply State.idleMark_good
    | with_reducible apply State.leaves_good
    | with_reducible apply State.linksBoundary_good
    | with_reducible apply State.moduleBoundary_good
    | with_reducible apply State.parcelsBoundary_good
    | with_reducible apply State.powerBoundary_good
    | with_reducible apply State.ratioBoundary_good
    | with_reducible apply State.refreshShares_good
    | with_reducible apply State.refusedReport_good
    | with_reducible apply State.releaseHalts_good
    | with_reducible apply State.rodBegin_good
    | with_reducible apply State.selectAll_good
    | with_reducible apply State.throttleBoundary_good
    | with_reducible apply Verdict.good_no
    | with_reducible apply goodOut_next
    | with_reducible apply goodOut_fault
    | lift_lets -underBinder
    | (intro t; refine good_elim (l := lc) (a := t) ?_ ?_ <;> [skip; (intro t hh hu; rw [← hu]; clear hu)])
    | (intro k; refine canonical_elim (a := k) ?_ ?_ <;> [skip; (intro k hk hu; rw [← hu]; clear hu)])
    | (intro k; refine parcel_elim (a := k) ?_ ?_ <;> [skip; (intro k hk hu; rw [← hu]; clear hu)])
    | (intro k; refine bounded_elim (a := k) ?_ ?_ <;> [skip; (intro k hk hu; rw [← hu]; clear hu)])
    | (intro w)
    | dsimp only [t]
    | dsimp only [k]
    | split
    | dsimp +zetaDelta only
    | (refine Good.of_view hh ?_; dsimp only [State.view]; done)
    | (refine Good.of_view hs ?_; dsimp only [State.view]; done)
    | (refine Good.of_view ‹Good lc _› ?_; dsimp only [State.view]; done)
    | dsimp only
    | exact (‹Cluster.canonical _›).2.2.1 _ ‹_›
    | exact (‹Cluster.canonical _›).1
    | exact (‹Cluster.canonical _›).2.1
    | exact (‹Cluster.canonical _›).2.2.1
    | exact (‹Cluster.canonical _›).2.2.2.1
    | exact (‹Cluster.canonical _›).2.2.2.2.1
    | exact (‹Cluster.canonical _›).2.2.2.2.2
    | exact (‹Parcel.canonical _›).1
    | exact (‹Parcel.canonical _›).2
    | exact (‹Fn.bounded _›).1
    | exact (‹Fn.bounded _›).2
    | with_reducible apply wf_write0
    | with_reducible apply rising_tset
    | with_reducible apply rising_tdel
    | with_reducible apply rising_filter
    | with_reducible apply length_modify_eq
    | with_reducible apply length_set_eq
    | with_reducible apply length_map_eq
    | rfl
    | with_reducible apply Cluster.canonical_intro
    | with_reducible apply Parcel.canonical_intro
    | with_reducible apply Fn.bounded_intro
    | with_reducible apply good_fabric
    | dsimp only
    | exact Nat.zero_le _
    | exact Good.conns ‹_›
    | exact Good.eases ‹_›

end Sys2Proof.Machine
end

