-- ==== Sys2Proof/Laws/Timer.lean ====
section
/-! SUPPORT. The chain timer (R23) under every command that keeps it. -/

set_option linter.unusedTactic false
set_option linter.unreachableTactic false
set_option linter.unusedVariables false
set_option linter.unusedSimpArgs false
set_option Elab.async false

namespace Sys2Proof.Machine

/-! Drawer and management commands. -/

/-- A verdict leaves the timer. -/
structure Verdict.Timed (s : State) (v : Verdict) : Prop where
  done : ∀ b u, v = .done b u → u.time = s.time
  long : ∀ u, v = .long u → u.time = s.time

theorem Verdict.timed_no {s : State} {st : Nat} : (Verdict.no st).Timed s := ⟨fun _ _ e => (nomatch e), fun _ e => nomatch e⟩
theorem Verdict.timed_refuse {s : State} {st : Nat} {b : Bytes} : (Verdict.refuse st b).Timed s := ⟨fun _ _ e => (nomatch e), fun _ e => nomatch e⟩
theorem Verdict.timed_wait {s : State} : Verdict.wait.Timed s := ⟨fun _ _ e => (nomatch e), fun _ e => nomatch e⟩
theorem Verdict.timed_done {s u : State} {b : Bytes} (h : u.time = s.time) : (Verdict.done b u).Timed s := ⟨fun _ _ e => by cases e; exact h, fun _ e => nomatch e⟩
theorem Verdict.timed_long {s u : State} (h : u.time = s.time) : (Verdict.long u).Timed s := ⟨fun _ _ e => (nomatch e), fun _ e => by cases e; exact h⟩
theorem guarded_timed {s : State} {l : List (Bool × Nat)} {k : Verdict} (h : k.Timed s) : (guarded l k).Timed s := by
  unfold guarded; split
  · exact Verdict.timed_no
  · exact h
theorem State.gated_timed {s : State} {n op : Nat} {a b : Bool} {k : Verdict} (h : k.Timed s) : (s.gated n op a b k).Timed s := by
  unfold State.gated; split
  · exact Verdict.timed_no
  · exact h
theorem Taken.withPayload_timed {s : State} {n : Nat} {t : Taken} {f : Bytes → Verdict} (h : ∀ b, (f b).Timed s) : (t.withPayload n f).Timed s := by
  unfold Taken.withPayload; split
  · exact Verdict.timed_no
  · exact h _
theorem State.runDrawer_time {n op : Nat} {f : Taken → State → Verdict} (h : ∀ t u, (f t u).Timed u) (s : State) : (s.runDrawer n op f).time = s.time := by
  unfold State.runDrawer
  split
  · rfl
  · rename_i t _
    have k := h t (s.popTaken n)
    dsimp only
    split
    · rfl
    · simp
    · rename_i b v e
      have := k.done b v e
      split <;> simp [this]
    · rename_i v e
      have := k.long v e
      simp [this]
theorem State.runMgmt_time {m : MgmtMsg} {op : Nat} {f : Bytes → State → Nat × Bytes × State} (h : ∀ b u, (f b u).2.2.time = u.time) (s : State) : (s.runMgmt m op f).time = s.time := by
  unfold State.runMgmt
  repeat' split
  all_goals first | rfl | (simp; done) | (dsimp only; rw [State.answerMgmt_time, h])
theorem State.sized_time {n : Nat} {b : Bytes} {k : Nat × Bytes × State} {s : State} (h : k.2.2.time = s.time) : (s.sized n b k).2.2.time = s.time := by
  unfold State.sized; split
  · exact h
  · rfl
theorem State.checked_time {l : List (Bool × Nat)} {k : Nat × Bytes × State} {s : State} (h : k.2.2.time = s.time) : (s.checked l k).2.2.time = s.time := by
  unfold State.checked; split
  · rfl
  · exact h
theorem State.answerMctp_time {n : Nat} {f : State → Bytes × State} (h : ∀ u, (f u).2.time = u.time) (s : State) : (s.answerMctp n f).time = s.time := by
  unfold State.answerMctp; split
  · rfl
  · dsimp only; rw [State.sendSmbus_time, h]; simp

/-! Operations over the shelf and the queues. -/

theorem State.drain_time {p c k r : Nat} {raw reset : Bool} {put : Bytes → State → State} (s : State) (h : ∀ b t, (put b t).time = t.time) : (s.drain p c k r raw reset put).time = s.time := by
  unfold State.drain; dsimp only
  repeat' split
  all_goals simp [h]
theorem State.carry_time {p k q op : Nat} {effect : Descr → State → State} (s : State) (h : ∀ d t, (effect d t).time = t.time) : (s.carry p k q op effect).time = s.time := by
  unfold State.carry
  repeat' split
  all_goals simp [h]
theorem State.operate_time {p k n op : Nat} {effect : Nat → Context → Node → State → State} (s : State) (h : ∀ c x nd t, (effect c x nd t).time = t.time) : (s.operate p k n op effect).time = s.time := by
  unfold State.operate
  split
  · rw [State.ifUp_time _ _ _ _ (fun t => by simp), h]
  · rfl
theorem State.reach_time {p c k r : Nat} {modes : List Nat} {g : State → State} (s : State) (h : ∀ t, (g t).time = t.time) : (s.reach p c k r modes g).time = s.time := by
  unfold State.reach
  refine State.ifUp_time _ _ _ _ fun t => ?_
  split
  · exact h t
  · simp
theorem State.onKind_time {kind : Nat} {m : Msg} {f : State → State} (s : State) (h : ∀ t, (f t).time = t.time) : (s.onKind kind m f).time = s.time := by
  unfold State.onKind; split
  · exact h s
  · rfl
theorem State.answered_time {id : Nat} {m : Msg} {sealIt : Bool} {f : State → State} (s : State) (h : ∀ t, (f t).time = t.time) : (s.answered id m sealIt f).time = s.time := by
  unfold State.answered; dsimp only
  repeat' split
  all_goals simp [h]
@[simp] theorem State.extWriteByte_time (raw : Bool) (p a : Nat) (b : Byte) (s : State) : (s.extWriteByte raw p a b).time = s.time := time_of_clock (by simp)

@[simp] theorem State.writeSlot_time (n : Nat) (o : Sum RespSlot Event) (s : State) : (State.writeSlot n o s).time = s.time := by
  unfold State.writeSlot; dsimp only
  simp only [apply_ite State.time, State.endSession_time, State.emit_time, State.modFn_time, ite_self]
@[simp] theorem State.moduleFault_time (unitId cause : Nat) (s : State) : (State.moduleFault unitId cause s).time = s.time := by
  have k : ∀ (t : State) f, ({ t with faults := f } : State).time = t.time := fun _ _ => rfl
  unfold State.moduleFault; dsimp only; rw [k]; simp
@[simp] theorem State.scribbleWork_time (p k row a n : Nat) (s : State) : (State.scribbleWork p k row a n s).time = s.time := by
  unfold State.scribbleWork; rw [State.scribble_time]
  refine foldl_time _ _ _ fun t r => ?_
  unfold State.scribbleRow; simp
@[simp] theorem State.writeMsg_time (id base context : Nat) (m : Msg) (s : State) : (State.writeMsg id base context m s).time = s.time := by
  first | ((rfl); done) | ((simp [State.writeMsg]); done) | ((unfold State.writeMsg; dsimp only; (repeat' first | (with_reducible rfl) | intro _ | (simp; done) | rw [foldl_time] | rw [State.ifUp_time] | rw [State.reach_time] | rw [State.drain_time] | rw [State.answered_time] | split | simp)); done) | ((unfold State.writeMsg; (repeat' first | (with_reducible rfl) | intro _ | (simp; done) | rw [foldl_time] | rw [State.ifUp_time] | rw [State.reach_time] | rw [State.drain_time] | rw [State.answered_time] | split | simp)); done) | ((unfold State.writeMsg; simp only []; (repeat' first | (with_reducible rfl) | intro _ | (simp; done) | rw [foldl_time] | rw [State.ifUp_time] | rw [State.reach_time] | rw [State.drain_time] | rw [State.answered_time] | split | simp)); done)
@[simp] theorem State.makeVisible_time (id : Nat) (h : HeldMsg) (m : Msg) (s : State) : (State.makeVisible id h m s).time = s.time := by
  first | ((rfl); done) | ((simp [State.makeVisible]); done) | ((unfold State.makeVisible; dsimp only; (repeat' first | (with_reducible rfl) | intro _ | (simp; done) | rw [foldl_time] | rw [State.ifUp_time] | rw [State.reach_time] | rw [State.drain_time] | rw [State.answered_time] | split | simp)); done) | ((unfold State.makeVisible; (repeat' first | (with_reducible rfl) | intro _ | (simp; done) | rw [foldl_time] | rw [State.ifUp_time] | rw [State.reach_time] | rw [State.drain_time] | rw [State.answered_time] | split | simp)); done) | ((unfold State.makeVisible; simp only []; (repeat' first | (with_reducible rfl) | intro _ | (simp; done) | rw [foldl_time] | rw [State.ifUp_time] | rw [State.reach_time] | rw [State.drain_time] | rw [State.answered_time] | split | simp)); done)
@[simp] theorem State.visibleNext_time (id : Nat) (s : State) : (State.visibleNext id s).time = s.time := by
  first | ((rfl); done) | ((simp [State.visibleNext]); done) | ((unfold State.visibleNext; dsimp only; (repeat' first | (with_reducible rfl) | intro _ | (simp; done) | rw [foldl_time] | rw [State.ifUp_time] | rw [State.reach_time] | rw [State.drain_time] | rw [State.answered_time] | split | simp)); done) | ((unfold State.visibleNext; (repeat' first | (with_reducible rfl) | intro _ | (simp; done) | rw [foldl_time] | rw [State.ifUp_time] | rw [State.reach_time] | rw [State.drain_time] | rw [State.answered_time] | split | simp)); done) | ((unfold State.visibleNext; simp only []; (repeat' first | (with_reducible rfl) | intro _ | (simp; done) | rw [foldl_time] | rw [State.ifUp_time] | rw [State.reach_time] | rw [State.drain_time] | rw [State.answered_time] | split | simp)); done)
@[simp] theorem State.hold_time (m : Msg) (by_ : Nat × Nat) (s : State) : (State.hold m by_ s).time = s.time := by
  first | ((rfl); done) | ((simp [State.hold]); done) | ((unfold State.hold; dsimp only; (repeat' first | (with_reducible rfl) | intro _ | (simp; done) | rw [foldl_time] | rw [State.ifUp_time] | rw [State.reach_time] | rw [State.drain_time] | rw [State.answered_time] | split | simp)); done) | ((unfold State.hold; (repeat' first | (with_reducible rfl) | intro _ | (simp; done) | rw [foldl_time] | rw [State.ifUp_time] | rw [State.reach_time] | rw [State.drain_time] | rw [State.answered_time] | split | simp)); done) | ((unfold State.hold; simp only []; (repeat' first | (with_reducible rfl) | intro _ | (simp; done) | rw [foldl_time] | rw [State.ifUp_time] | rw [State.reach_time] | rw [State.drain_time] | rw [State.answered_time] | split | simp)); done)
@[simp] theorem State.attestIn_time (m : Msg) (s : State) : (State.attestIn m s).time = s.time := by
  first | ((rfl); done) | ((simp [State.attestIn]); done) | ((unfold State.attestIn; dsimp only; (repeat' first | (with_reducible rfl) | intro _ | (simp; done) | rw [foldl_time] | rw [State.ifUp_time] | rw [State.reach_time] | rw [State.drain_time] | rw [State.answered_time] | split | simp)); done) | ((unfold State.attestIn; (repeat' first | (with_reducible rfl) | intro _ | (simp; done) | rw [foldl_time] | rw [State.ifUp_time] | rw [State.reach_time] | rw [State.drain_time] | rw [State.answered_time] | split | simp)); done) | ((unfold State.attestIn; simp only []; (repeat' first | (with_reducible rfl) | intro _ | (simp; done) | rw [foldl_time] | rw [State.ifUp_time] | rw [State.reach_time] | rw [State.drain_time] | rw [State.answered_time] | split | simp)); done)
@[simp] theorem State.arrive_time (m : Msg) (s : State) : (State.arrive m s).time = s.time := by
  first | ((rfl); done) | ((simp [State.arrive]); done) | ((unfold State.arrive; dsimp only; (repeat' first | (with_reducible rfl) | intro _ | (simp; done) | rw [foldl_time] | rw [State.ifUp_time] | rw [State.reach_time] | rw [State.drain_time] | rw [State.answered_time] | split | simp)); done) | ((unfold State.arrive; (repeat' first | (with_reducible rfl) | intro _ | (simp; done) | rw [foldl_time] | rw [State.ifUp_time] | rw [State.reach_time] | rw [State.drain_time] | rw [State.answered_time] | split | simp)); done) | ((unfold State.arrive; simp only []; (repeat' first | (with_reducible rfl) | intro _ | (simp; done) | rw [foldl_time] | rw [State.ifUp_time] | rw [State.reach_time] | rw [State.drain_time] | rw [State.answered_time] | split | simp)); done)
theorem execWrite_time {m : Msg} {s t : State} (h : execWrite m s = .next t) : t.time = s.time := by
  cases h; exact State.onKind_time _ fun t => by simp
theorem execReadReq_time {m : Msg} {s t : State} (h : execReadReq m s = .next t) : t.time = s.time := by
  cases h; exact State.onKind_time _ fun t => by simp
theorem execLeaf_time {m : Msg} {s t : State} (h : execLeaf m s = .next t) : t.time = s.time := by
  cases h; exact State.onKind_time _ fun t => by simp
theorem execAttest_time {m : Msg} {s t : State} (h : execAttest m s = .next t) : t.time = s.time := by
  cases h; exact State.onKind_time _ fun t => by simp
theorem execReadResp_time {m : Msg} {s t : State} (h : execReadResp m s = .next t) : t.time = s.time := by
  cases h; refine State.onKind_time _ fun t => ?_
  repeat' first | (simp; done) | (rw [State.answered_time _ (fun u => by (repeat' first | (simp; done) | split | simp))]) | split | simp
theorem execComplete_time {m : Msg} {s t : State} (h : execComplete m s = .next t) : t.time = s.time := by
  cases h; refine State.onKind_time _ fun t => ?_
  repeat' first | (simp; done) | (rw [State.answered_time _ (fun u => by (repeat' first | (simp; done) | split | simp))]) | split | simp
theorem execRefuse_time {m : Msg} {s t : State} (h : execRefuse m s = .next t) : t.time = s.time := by
  cases h; refine State.onKind_time _ fun t => ?_
  repeat' first | (simp; done) | (rw [State.answered_time _ (fun u => by (repeat' first | (simp; done) | split | simp))]) | split | simp
theorem execMsgOpen_time {m : Msg} {s t : State} (h : execMsgOpen m s = .next t) : t.time = s.time := by
  cases h; refine State.onKind_time _ fun t => ?_
  repeat' first | (simp; done) | (rw [State.answered_time _ (fun u => by (repeat' first | (simp; done) | split | simp))]) | split | simp
theorem execOpenAck_time {m : Msg} {s t : State} (h : execOpenAck m s = .next t) : t.time = s.time := by
  cases h; refine State.onKind_time _ fun t => ?_
  repeat' first | (simp; done) | (rw [State.answered_time _ (fun u => by (repeat' first | (simp; done) | split | simp))]) | split | simp
theorem execMsgClose_time {m : Msg} {s t : State} (h : execMsgClose m s = .next t) : t.time = s.time := by
  cases h; refine State.onKind_time _ fun t => ?_
  repeat' first | (simp; done) | (rw [State.answered_time _ (fun u => by (repeat' first | (simp; done) | split | simp))]) | split | simp

@[simp] theorem State.deliver_time (m : Msg) (s : State) : (State.deliver m s).time = s.time := by
  have h : ∀ r : Host.Outcome State Fault Refusal, (∀ t, r = .next t → t.time = s.time) → (match r with | .next t => t | _ => s).time = s.time := by
    intro r hr; split
    · exact hr _ rfl
    · rfl
  unfold State.deliver; refine h _ fun t ht => ?_
  repeat' split at ht
  · exact execWrite_time ht
  · exact execReadReq_time ht
  · exact execLeaf_time ht
  · exact execReadResp_time ht
  · exact execComplete_time ht
  · exact execRefuse_time ht
  · exact execMsgOpen_time ht
  · exact execOpenAck_time ht
  · exact execMsgClose_time ht
  · exact execAttest_time ht
  · cases ht; simp
@[simp] theorem State.messageIn_time (m : Msg) (s : State) : (State.messageIn m s).time = s.time := by
  first | ((rfl); done) | ((simp [State.messageIn]); done) | ((unfold State.messageIn; dsimp only; (repeat' first | (with_reducible rfl) | intro _ | (simp; done) | rw [foldl_time] | rw [State.ifUp_time] | rw [State.reach_time] | rw [State.drain_time] | rw [State.answered_time] | split | simp)); done) | ((unfold State.messageIn; (repeat' first | (with_reducible rfl) | intro _ | (simp; done) | rw [foldl_time] | rw [State.ifUp_time] | rw [State.reach_time] | rw [State.drain_time] | rw [State.answered_time] | split | simp)); done) | ((unfold State.messageIn; simp only []; (repeat' first | (with_reducible rfl) | intro _ | (simp; done) | rw [foldl_time] | rw [State.ifUp_time] | rw [State.reach_time] | rw [State.drain_time] | rw [State.answered_time] | split | simp)); done)
@[simp] theorem State.grainIn_time (l : Nat) (g : BitVec 256) (s : State) : (State.grainIn l g s).time = s.time := by
  first | ((rfl); done) | ((simp [State.grainIn]); done) | ((unfold State.grainIn; dsimp only; (repeat' first | (with_reducible rfl) | intro _ | (simp; done) | rw [foldl_time] | rw [State.ifUp_time] | rw [State.reach_time] | rw [State.drain_time] | rw [State.answered_time] | split | simp)); done) | ((unfold State.grainIn; (repeat' first | (with_reducible rfl) | intro _ | (simp; done) | rw [foldl_time] | rw [State.ifUp_time] | rw [State.reach_time] | rw [State.drain_time] | rw [State.answered_time] | split | simp)); done) | ((unfold State.grainIn; simp only []; (repeat' first | (with_reducible rfl) | intro _ | (simp; done) | rw [foldl_time] | rw [State.ifUp_time] | rw [State.reach_time] | rw [State.drain_time] | rw [State.answered_time] | split | simp)); done)
@[simp] theorem State.flit_time (l : Nat) (symbols : List (BitVec 10)) (s : State) : (State.flit l symbols s).time = s.time := by
  first | ((rfl); done) | ((simp [State.flit]); done) | ((unfold State.flit; dsimp only; (repeat' first | (with_reducible rfl) | intro _ | (simp; done) | rw [foldl_time] | rw [State.ifUp_time] | rw [State.reach_time] | rw [State.drain_time] | rw [State.answered_time] | split | simp)); done) | ((unfold State.flit; (repeat' first | (with_reducible rfl) | intro _ | (simp; done) | rw [foldl_time] | rw [State.ifUp_time] | rw [State.reach_time] | rw [State.drain_time] | rw [State.answered_time] | split | simp)); done) | ((unfold State.flit; simp only []; (repeat' first | (with_reducible rfl) | intro _ | (simp; done) | rw [foldl_time] | rw [State.ifUp_time] | rw [State.reach_time] | rw [State.drain_time] | rw [State.answered_time] | split | simp)); done)
@[simp] theorem State.foldWords_time (p c k : Nat) (f : FoldNode) (r : LeafRec) (s : State) : (State.foldWords p c k f r s).time = s.time := by
  first | ((rfl); done) | ((simp [State.foldWords]); done) | ((unfold State.foldWords; dsimp only; (repeat' first | (with_reducible rfl) | intro _ | (simp; done) | rw [foldl_time] | rw [State.ifUp_time] | rw [State.reach_time] | rw [State.drain_time] | rw [State.answered_time] | split | simp)); done) | ((unfold State.foldWords; (repeat' first | (with_reducible rfl) | intro _ | (simp; done) | rw [foldl_time] | rw [State.ifUp_time] | rw [State.reach_time] | rw [State.drain_time] | rw [State.answered_time] | split | simp)); done) | ((unfold State.foldWords; simp only []; (repeat' first | (with_reducible rfl) | intro _ | (simp; done) | rw [foldl_time] | rw [State.ifUp_time] | rw [State.reach_time] | rw [State.drain_time] | rw [State.answered_time] | split | simp)); done)
@[simp] theorem State.foldOne_time (p c k : Nat) (x : Context) (f : FoldNode) (r : LeafRec) (s : State) : (State.foldOne p c k x f r s).time = s.time := by
  first | ((rfl); done) | ((simp [State.foldOne]); done) | ((unfold State.foldOne; dsimp only; (repeat' first | (with_reducible rfl) | intro _ | (simp; done) | rw [foldl_time] | rw [State.ifUp_time] | rw [State.reach_time] | rw [State.drain_time] | rw [State.answered_time] | split | simp)); done) | ((unfold State.foldOne; (repeat' first | (with_reducible rfl) | intro _ | (simp; done) | rw [foldl_time] | rw [State.ifUp_time] | rw [State.reach_time] | rw [State.drain_time] | rw [State.answered_time] | split | simp)); done) | ((unfold State.foldOne; simp only []; (repeat' first | (with_reducible rfl) | intro _ | (simp; done) | rw [foldl_time] | rw [State.ifUp_time] | rw [State.reach_time] | rw [State.drain_time] | rw [State.answered_time] | split | simp)); done)
@[simp] theorem State.convert_time (enc : Bool) (p base size : Nat) (s : State) : (State.convert enc p base size s).time = s.time := by
  unfold State.convert; refine foldl_time _ _ _ fun t r => ?_
  exact time_of_clock (by simp)
@[simp] theorem State.openWindow_time (p base size : Nat) (s : State) : (State.openWindow p base size s).time = s.time := by
  first | ((rfl); done) | ((simp [State.openWindow]); done) | ((unfold State.openWindow; dsimp only; (repeat' first | (with_reducible rfl) | intro _ | (simp; done) | rw [foldl_time] | rw [State.ifUp_time] | rw [State.reach_time] | rw [State.drain_time] | rw [State.answered_time] | split | simp)); done) | ((unfold State.openWindow; (repeat' first | (with_reducible rfl) | intro _ | (simp; done) | rw [foldl_time] | rw [State.ifUp_time] | rw [State.reach_time] | rw [State.drain_time] | rw [State.answered_time] | split | simp)); done) | ((unfold State.openWindow; simp only []; (repeat' first | (with_reducible rfl) | intro _ | (simp; done) | rw [foldl_time] | rw [State.ifUp_time] | rw [State.reach_time] | rw [State.drain_time] | rw [State.answered_time] | split | simp)); done)
@[simp] theorem State.bootStop_time (stage cause : Nat) (s : State) : (State.bootStop stage cause s).time = s.time := by
  have k : ∀ (t : State) b f, ({ t with boot := b, faults := f } : State).time = t.time := fun _ _ _ => rfl
  unfold State.bootStop; dsimp only; rw [k]; simp
@[simp] theorem State.maskRow_time (p c k : Nat) (limb round g0 r : Nat) (e : Bytes) (s : State) : (State.maskRow p c k limb round g0 r e s).time = s.time := by
  first | ((rfl); done) | ((simp [State.maskRow]); done) | ((unfold State.maskRow; dsimp only; (repeat' first | (with_reducible rfl) | intro _ | (simp; done) | rw [foldl_time] | rw [State.ifUp_time] | rw [State.reach_time] | rw [State.drain_time] | rw [State.answered_time] | split | simp)); done) | ((unfold State.maskRow; (repeat' first | (with_reducible rfl) | intro _ | (simp; done) | rw [foldl_time] | rw [State.ifUp_time] | rw [State.reach_time] | rw [State.drain_time] | rw [State.answered_time] | split | simp)); done) | ((unfold State.maskRow; simp only []; (repeat' first | (with_reducible rfl) | intro _ | (simp; done) | rw [foldl_time] | rw [State.ifUp_time] | rw [State.reach_time] | rw [State.drain_time] | rw [State.answered_time] | split | simp)); done)
@[simp] theorem State.addSamples_time (p c k pair samples groups : Nat) (mode : Nat) (words : List Nat) (s : State) : (State.addSamples p c k pair samples groups mode words s).time = s.time := by
  first | ((rfl); done) | ((simp [State.addSamples]); done) | ((unfold State.addSamples; dsimp only; (repeat' first | (with_reducible rfl) | intro _ | (simp; done) | rw [foldl_time] | rw [State.ifUp_time] | rw [State.reach_time] | rw [State.drain_time] | rw [State.answered_time] | split | simp)); done) | ((unfold State.addSamples; (repeat' first | (with_reducible rfl) | intro _ | (simp; done) | rw [foldl_time] | rw [State.ifUp_time] | rw [State.reach_time] | rw [State.drain_time] | rw [State.answered_time] | split | simp)); done) | ((unfold State.addSamples; simp only []; (repeat' first | (with_reducible rfl) | intro _ | (simp; done) | rw [foldl_time] | rw [State.ifUp_time] | rw [State.reach_time] | rw [State.drain_time] | rw [State.answered_time] | split | simp)); done)
@[simp] theorem State.noiseRow_time (p c k r scale sigma delta first : Nat) (base : State) (s : State) : (State.noiseRow p c k r scale sigma delta first base s).time = s.time := by
  first | ((rfl); done) | ((simp [State.noiseRow]); done) | ((unfold State.noiseRow; dsimp only; (repeat' first | (with_reducible rfl) | intro _ | (simp; done) | rw [foldl_time] | rw [State.ifUp_time] | rw [State.reach_time] | rw [State.drain_time] | rw [State.answered_time] | split | simp)); done) | ((unfold State.noiseRow; (repeat' first | (with_reducible rfl) | intro _ | (simp; done) | rw [foldl_time] | rw [State.ifUp_time] | rw [State.reach_time] | rw [State.drain_time] | rw [State.answered_time] | split | simp)); done) | ((unfold State.noiseRow; simp only []; (repeat' first | (with_reducible rfl) | intro _ | (simp; done) | rw [foldl_time] | rw [State.ifUp_time] | rw [State.reach_time] | rw [State.drain_time] | rw [State.answered_time] | split | simp)); done)
@[simp] theorem State.decodeRow_time (p c k r format qScale : Nat) (reset : Bool) (dst : Operand) (off : Nat) (s : State) : (State.decodeRow p c k r format qScale reset dst off s).time = s.time := by
  first | ((rfl); done) | ((simp [State.decodeRow]); done) | ((unfold State.decodeRow; dsimp only; (repeat' first | (with_reducible rfl) | intro _ | (simp; done) | rw [foldl_time] | rw [State.ifUp_time] | rw [State.reach_time] | rw [State.drain_time] | rw [State.answered_time] | split | simp)); done) | ((unfold State.decodeRow; (repeat' first | (with_reducible rfl) | intro _ | (simp; done) | rw [foldl_time] | rw [State.ifUp_time] | rw [State.reach_time] | rw [State.drain_time] | rw [State.answered_time] | split | simp)); done) | ((unfold State.decodeRow; simp only []; (repeat' first | (with_reducible rfl) | intro _ | (simp; done) | rw [foldl_time] | rw [State.ifUp_time] | rw [State.reach_time] | rw [State.drain_time] | rw [State.answered_time] | split | simp)); done)
@[simp] theorem State.matRow_time (p c k : Nat) (f : TileFormat) (scale r m h ch : Nat) (a b : Nat → Nat → Nat) (s : State) : (State.matRow p c k f scale r m h ch a b s).time = s.time := by
  first | ((rfl); done) | ((simp [State.matRow]); done) | ((unfold State.matRow; dsimp only; (repeat' first | (with_reducible rfl) | intro _ | (simp; done) | rw [foldl_time] | rw [State.ifUp_time] | rw [State.reach_time] | rw [State.drain_time] | rw [State.answered_time] | split | simp)); done) | ((unfold State.matRow; (repeat' first | (with_reducible rfl) | intro _ | (simp; done) | rw [foldl_time] | rw [State.ifUp_time] | rw [State.reach_time] | rw [State.drain_time] | rw [State.answered_time] | split | simp)); done) | ((unfold State.matRow; simp only []; (repeat' first | (with_reducible rfl) | intro _ | (simp; done) | rw [foldl_time] | rw [State.ifUp_time] | rw [State.reach_time] | rw [State.drain_time] | rw [State.answered_time] | split | simp)); done)
@[simp] theorem State.transform_time (p k : Nat) (f : Nat → Nat → List Nat → List Nat) (logN limbs row work : Nat) (src dst : Operand) (slots : List Nat) (s : State) : (State.transform p k f logN limbs row work src dst slots s).time = s.time := by
  unfold State.transform; dsimp only; rw [State.writeOp_time, State.scribbleWork_time]
theorem State.sendPieces_time (p k : Nat) (d : Descr) : ∀ (n off : Nat) (s : State), (State.sendPieces p k d n off s).1.time = s.time
  | 0, _, _ => rfl
  | n + 1, off, s => by
    rw [State.sendPieces]; split
    · rw [State.sendPieces_time p k d n]; simp
    · rfl

@[simp] theorem State.send_time (p k q : Nat) (s : State) : (State.send p k q s).time = s.time := by
  unfold State.send
  repeat' split
  all_goals first | rfl | (simp; done) | (dsimp only; repeat' split) <;> simp [State.sendPieces_time]

theorem State.scribbleRow_time (p k : Nat) (s : State) (r : Nat) : (s.scribbleRow p k r).time = s.time := by
  unfold State.scribbleRow; simp
theorem State.copyRows_time (p k : Nat) (d : Descr) : ∀ (n i : Nat) (s : State), (State.copyRows p k d n i s).time = s.time
  | 0, _, _ => rfl
  | n + 1, i, s => by rw [State.copyRows, State.copyRows_time p k d n]; simp
theorem State.updateEffect_time (p : Nat) (u : Update) (s : State) : (s.updateEffect p u).2.time = s.time := by
  unfold State.updateEffect; dsimp only
  split
  · split <;> simp [State.keepBlob]
  · simp
  · simp
  · simp [State.keepBlob]
  · simp
  · simp
  · simp
theorem State.update_time (vf : Bool) (p : Nat) (b : Bytes) (s : State) : (s.update vf p b).2.2.time = s.time := by
  unfold State.update; dsimp only
  repeat' split
  · rfl
  · rfl
  · exact State.updateEffect_time ..
theorem State.runUpdate_time (src : UpdateSource) (op : Nat) (s : State) : (s.runUpdate src op).time = s.time := by
  unfold State.runUpdate
  repeat' split
  · refine State.runDrawer_time (fun t u => State.gated_timed ?_) _
    split
    · exact Verdict.timed_no
    · dsimp only; split
      · exact Verdict.timed_done (State.update_time ..)
      · exact Verdict.timed_no
  · rfl
  · rfl
  · exact State.runMgmt_time (fun b u => State.update_time ..) _
  · rfl
theorem State.mgmtReset_time (cold : Bool) (m : MgmtMsg) (s : State) : (s.mgmtReset cold m).time = s.time := by
  unfold State.mgmtReset; split
  · rfl
  · exact State.runMgmt_time (fun b u => State.sized_time (State.checked_time rfl)) _
theorem State.spdmSign_time (key : Nat) (r : Bytes) (f : Bytes → Bytes) (s : State) : (s.spdmSign key r f).2.time = s.time := by
  unfold State.spdmSign; split <;> rfl

theorem execModuleInfo_time {fn : Nat} {s after : State} (h : execModuleInfo fn s = .next after) : after.time = s.time := by
  cases h; refine State.runDrawer_time (fun t u => ?_) _
  repeat' first | exact Verdict.timed_no | (with_reducible refine State.gated_timed ?_) | (with_reducible refine Taken.withPayload_timed fun b => ?_) | (with_reducible refine guarded_timed ?_) | exact Verdict.timed_done (by simp) | split

theorem execModulePlat_time {fn : Nat} {s after : State} (h : execModulePlat fn s = .next after) : after.time = s.time := by
  cases h; refine State.runDrawer_time (fun t u => ?_) _
  repeat' first | exact Verdict.timed_no | (with_reducible refine State.gated_timed ?_) | (with_reducible refine Taken.withPayload_timed fun b => ?_) | (with_reducible refine guarded_timed ?_) | exact Verdict.timed_done (by simp) | split

theorem execSpillMap_time {fn : Nat} {s after : State} (h : execSpillMap fn s = .next after) : after.time = s.time := by
  cases h; refine State.runDrawer_time (fun t u => ?_) _
  repeat' first | exact Verdict.timed_no | (with_reducible refine State.gated_timed ?_) | (with_reducible refine Taken.withPayload_timed fun b => ?_) | (with_reducible refine guarded_timed ?_) | exact Verdict.timed_done (by simp) | split

theorem execHostShares_time {fn : Nat} {s after : State} (h : execHostShares fn s = .next after) : after.time = s.time := by
  cases h; refine State.runDrawer_time (fun t u => ?_) _
  refine Taken.withPayload_timed fun b => ?_
  refine State.gated_timed ?_
  refine guarded_timed ?_
  refine Verdict.timed_done ?_
  rfl

theorem execFabricShares_time {fn : Nat} {s after : State} (h : execFabricShares fn s = .next after) : after.time = s.time := by
  cases h; refine State.runDrawer_time (fun t u => ?_) _
  refine Taken.withPayload_timed fun b => ?_
  refine State.gated_timed ?_
  refine guarded_timed ?_
  refine Verdict.timed_done ?_
  rfl

theorem execLinkRetrain_time {fn : Nat} {s after : State} (h : execLinkRetrain fn s = .next after) : after.time = s.time := by
  cases h; refine State.runDrawer_time (fun t u => ?_) _
  repeat' first | exact Verdict.timed_no | exact Verdict.timed_wait | exact Verdict.timed_refuse | (with_reducible refine State.gated_timed ?_) | (with_reducible refine Taken.withPayload_timed fun b => ?_) | (with_reducible refine guarded_timed ?_) | exact Verdict.timed_done (by simp) | exact Verdict.timed_long (by simp) | dsimp only | split

theorem execLinkStatus_time {fn : Nat} {s after : State} (h : execLinkStatus fn s = .next after) : after.time = s.time := by
  cases h; refine State.runDrawer_time (fun t u => ?_) _
  repeat' first | exact Verdict.timed_no | (with_reducible refine State.gated_timed ?_) | (with_reducible refine Taken.withPayload_timed fun b => ?_) | (with_reducible refine guarded_timed ?_) | exact Verdict.timed_done (by simp) | split

theorem execParcelOpen_time {fn : Nat} {s after : State} (h : execParcelOpen fn s = .next after) : after.time = s.time := by
  cases h; refine State.runDrawer_time (fun t u => ?_) _
  repeat' first | exact Verdict.timed_no | exact Verdict.timed_wait | exact Verdict.timed_refuse | (with_reducible refine State.gated_timed ?_) | (with_reducible refine Taken.withPayload_timed fun b => ?_) | (with_reducible refine guarded_timed ?_) | exact Verdict.timed_done (by simp) | exact Verdict.timed_long (by simp) | dsimp only | split

theorem execParcelClose_time {fn : Nat} {s after : State} (h : execParcelClose fn s = .next after) : after.time = s.time := by
  cases h; refine State.runDrawer_time (fun t u => ?_) _
  repeat' first | exact Verdict.timed_no | exact Verdict.timed_wait | exact Verdict.timed_refuse | (with_reducible refine State.gated_timed ?_) | (with_reducible refine Taken.withPayload_timed fun b => ?_) | (with_reducible refine guarded_timed ?_) | exact Verdict.timed_done (by simp) | exact Verdict.timed_long (by simp) | dsimp only | split

theorem execParcelStatus_time {fn : Nat} {s after : State} (h : execParcelStatus fn s = .next after) : after.time = s.time := by
  cases h; refine State.runDrawer_time (fun t u => ?_) _
  repeat' first | exact Verdict.timed_no | exact Verdict.timed_wait | exact Verdict.timed_refuse | (with_reducible refine State.gated_timed ?_) | (with_reducible refine Taken.withPayload_timed fun b => ?_) | (with_reducible refine guarded_timed ?_) | exact Verdict.timed_done (by simp) | exact Verdict.timed_long (by simp) | dsimp only | split

theorem execSessionOpen_time {fn : Nat} {s after : State} (h : execSessionOpen fn s = .next after) : after.time = s.time := by
  cases h; refine State.runDrawer_time (fun t u => ?_) _
  repeat' first | exact Verdict.timed_no | (with_reducible refine State.gated_timed ?_) | (with_reducible refine Taken.withPayload_timed fun b => ?_) | (with_reducible refine guarded_timed ?_) | exact Verdict.timed_done (by simp) | split

theorem execAttestReport_time {fn : Nat} {s after : State} (h : execAttestReport fn s = .next after) : after.time = s.time := by
  cases h; refine State.runDrawer_time (fun t u => ?_) _
  repeat' first | exact Verdict.timed_no | (with_reducible refine State.gated_timed ?_) | (with_reducible refine Taken.withPayload_timed fun b => ?_) | (with_reducible refine guarded_timed ?_) | exact Verdict.timed_done (by simp) | split

theorem execParcelAttach_time {fn : Nat} {s after : State} (h : execParcelAttach fn s = .next after) : after.time = s.time := by
  cases h; refine State.runDrawer_time (fun t u => ?_) _
  repeat' first | exact Verdict.timed_no | (with_reducible refine State.gated_timed ?_) | (with_reducible refine Taken.withPayload_timed fun b => ?_) | (with_reducible refine guarded_timed ?_) | exact Verdict.timed_done (by simp) | split

theorem execBounceMap_time {fn : Nat} {s after : State} (h : execBounceMap fn s = .next after) : after.time = s.time := by
  cases h; refine State.runDrawer_time (fun t u => ?_) _
  repeat' first | exact Verdict.timed_no | (with_reducible refine State.gated_timed ?_) | (with_reducible refine Taken.withPayload_timed fun b => ?_) | (with_reducible refine guarded_timed ?_) | exact Verdict.timed_done (by simp) | split

theorem execDebugConsent_time {fn : Nat} {s after : State} (h : execDebugConsent fn s = .next after) : after.time = s.time := by
  cases h; refine State.runDrawer_time (fun t u => ?_) _
  repeat' first | exact Verdict.timed_no | (with_reducible refine State.gated_timed ?_) | (with_reducible refine Taken.withPayload_timed fun b => ?_) | (with_reducible refine guarded_timed ?_) | exact Verdict.timed_done (by simp) | split

theorem execLotLoad_time {fn : Nat} {s after : State} (h : execLotLoad fn s = .next after) : after.time = s.time := by
  cases h; refine State.runDrawer_time (fun t u => ?_) _
  dsimp only
  split
  · split
    · exact Verdict.timed_no
    · split
      · exact Verdict.timed_no
      · exact State.gated_timed (guarded_timed Verdict.timed_no)
  · split
    · exact Verdict.timed_no
    · split
      · exact Verdict.timed_no
      · refine State.gated_timed (guarded_timed ?_)
        unfold State.lotLoad
        refine guarded_timed ?_
        split
        · exact Verdict.timed_refuse
        · exact Verdict.timed_done (by simp)

theorem execLotUnload_time {fn : Nat} {s after : State} (h : execLotUnload fn s = .next after) : after.time = s.time := by
  cases h; refine State.runDrawer_time (fun t u => ?_) _
  repeat' first | exact Verdict.timed_no | (with_reducible refine State.gated_timed ?_) | (with_reducible refine Taken.withPayload_timed fun b => ?_) | (with_reducible refine guarded_timed ?_) | exact Verdict.timed_done (by simp) | split

theorem execContextStart_time {fn : Nat} {s after : State} (h : execContextStart fn s = .next after) : after.time = s.time := by
  cases h; refine State.runDrawer_time (fun t u => ?_) _
  repeat' first | exact Verdict.timed_no | (with_reducible refine State.gated_timed ?_) | (with_reducible refine Taken.withPayload_timed fun b => ?_) | (with_reducible refine guarded_timed ?_) | exact Verdict.timed_done (by simp) | split

theorem execContextStop_time {fn : Nat} {s after : State} (h : execContextStop fn s = .next after) : after.time = s.time := by
  cases h; refine State.runDrawer_time (fun t u => ?_) _
  repeat' first | exact Verdict.timed_no | (with_reducible refine State.gated_timed ?_) | (with_reducible refine Taken.withPayload_timed fun b => ?_) | (with_reducible refine guarded_timed ?_) | exact Verdict.timed_done (by simp) | split

theorem execContextSeed_time {fn : Nat} {s after : State} (h : execContextSeed fn s = .next after) : after.time = s.time := by
  cases h; refine State.runDrawer_time (fun t u => ?_) _
  repeat' first | exact Verdict.timed_no | (with_reducible refine State.gated_timed ?_) | (with_reducible refine Taken.withPayload_timed fun b => ?_) | (with_reducible refine guarded_timed ?_) | exact Verdict.timed_done (by simp) | split

theorem execContextStatus_time {fn : Nat} {s after : State} (h : execContextStatus fn s = .next after) : after.time = s.time := by
  cases h; refine State.runDrawer_time (fun t u => ?_) _
  repeat' first | exact Verdict.timed_no | (with_reducible refine State.gated_timed ?_) | (with_reducible refine Taken.withPayload_timed fun b => ?_) | (with_reducible refine guarded_timed ?_) | exact Verdict.timed_done (by simp) | split

theorem execRoundOpen_time {fn : Nat} {s after : State} (h : execRoundOpen fn s = .next after) : after.time = s.time := by
  cases h; refine State.runDrawer_time (fun t u => ?_) _
  repeat' first | exact Verdict.timed_no | exact Verdict.timed_wait | exact Verdict.timed_refuse | (with_reducible refine State.gated_timed ?_) | (with_reducible refine Taken.withPayload_timed fun b => ?_) | (with_reducible refine guarded_timed ?_) | exact Verdict.timed_done (by simp) | exact Verdict.timed_long (by simp) | dsimp only | split

theorem execRoundMap_time {fn : Nat} {s after : State} (h : execRoundMap fn s = .next after) : after.time = s.time := by
  cases h; refine State.runDrawer_time (fun t u => ?_) _
  repeat' first | exact Verdict.timed_no | exact Verdict.timed_wait | exact Verdict.timed_refuse | (with_reducible refine State.gated_timed ?_) | (with_reducible refine Taken.withPayload_timed fun b => ?_) | (with_reducible refine guarded_timed ?_) | exact Verdict.timed_done (by simp) | exact Verdict.timed_long (by simp) | dsimp only | split

theorem execRoundClose_time {fn : Nat} {s after : State} (h : execRoundClose fn s = .next after) : after.time = s.time := by
  cases h; refine State.runDrawer_time (fun t u => ?_) _
  repeat' first | exact Verdict.timed_no | (with_reducible refine State.gated_timed ?_) | (with_reducible refine Taken.withPayload_timed fun b => ?_) | (with_reducible refine guarded_timed ?_) | exact Verdict.timed_done (by simp) | split

theorem execConnOpen_time {fn : Nat} {s after : State} (h : execConnOpen fn s = .next after) : after.time = s.time := by
  cases h; refine State.runDrawer_time (fun t u => ?_) _
  repeat' first | exact Verdict.timed_no | exact Verdict.timed_wait | exact Verdict.timed_refuse | (with_reducible refine State.gated_timed ?_) | (with_reducible refine Taken.withPayload_timed fun b => ?_) | (with_reducible refine guarded_timed ?_) | exact Verdict.timed_done (by simp) | exact Verdict.timed_long (by simp) | dsimp only | split

theorem execConnClose_time {fn : Nat} {s after : State} (h : execConnClose fn s = .next after) : after.time = s.time := by
  cases h; refine State.runDrawer_time (fun t u => ?_) _
  repeat' first | exact Verdict.timed_no | (with_reducible refine State.gated_timed ?_) | (with_reducible refine Taken.withPayload_timed fun b => ?_) | (with_reducible refine guarded_timed ?_) | exact Verdict.timed_done (by simp) | split

theorem execConnStatus_time {fn : Nat} {s after : State} (h : execConnStatus fn s = .next after) : after.time = s.time := by
  cases h; refine State.runDrawer_time (fun t u => ?_) _
  repeat' first | exact Verdict.timed_no | (with_reducible refine State.gated_timed ?_) | (with_reducible refine Taken.withPayload_timed fun b => ?_) | (with_reducible refine guarded_timed ?_) | exact Verdict.timed_done (by simp) | split

theorem execEasementGrant_time {fn : Nat} {s after : State} (h : execEasementGrant fn s = .next after) : after.time = s.time := by
  cases h; refine State.runDrawer_time (fun t u => ?_) _
  repeat' first | exact Verdict.timed_no | (with_reducible refine State.gated_timed ?_) | (with_reducible refine Taken.withPayload_timed fun b => ?_) | (with_reducible refine guarded_timed ?_) | exact Verdict.timed_done (by simp) | split

theorem execEasementRevoke_time {fn : Nat} {s after : State} (h : execEasementRevoke fn s = .next after) : after.time = s.time := by
  cases h; refine State.runDrawer_time (fun t u => ?_) _
  repeat' first | exact Verdict.timed_no | exact Verdict.timed_wait | exact Verdict.timed_refuse | (with_reducible refine State.gated_timed ?_) | (with_reducible refine Taken.withPayload_timed fun b => ?_) | (with_reducible refine guarded_timed ?_) | exact Verdict.timed_done (by simp) | exact Verdict.timed_long (by simp) | dsimp only | split

theorem execChestCertify_time {fn : Nat} {s after : State} (h : execChestCertify fn s = .next after) : after.time = s.time := by
  cases h; refine State.runDrawer_time (fun t u => ?_) _
  repeat' first | exact Verdict.timed_no | (with_reducible refine State.gated_timed ?_) | (with_reducible refine Taken.withPayload_timed fun b => ?_) | (with_reducible refine guarded_timed ?_) | exact Verdict.timed_done (by simp) | split

theorem execInstall_time {src : UpdateSource} {s after : State} (h : execInstall src s = .next after) : after.time = s.time := by
  cases h; exact State.runUpdate_time ..

theorem execDestroy_time {src : UpdateSource} {s after : State} (h : execDestroy src s = .next after) : after.time = s.time := by
  cases h; exact State.runUpdate_time ..

theorem execLifecycle_time {src : UpdateSource} {s after : State} (h : execLifecycle src s = .next after) : after.time = s.time := by
  cases h; exact State.runUpdate_time ..

theorem execAuthority_time {src : UpdateSource} {s after : State} (h : execAuthority src s = .next after) : after.time = s.time := by
  cases h; exact State.runUpdate_time ..

theorem execModelKey_time {src : UpdateSource} {s after : State} (h : execModelKey src s = .next after) : after.time = s.time := by
  cases h; exact State.runUpdate_time ..

theorem execFieldChallenge_time {src : UpdateSource} {s after : State} (h : execFieldChallenge src s = .next after) : after.time = s.time := by
  cases h; exact State.runUpdate_time ..

theorem execFieldOpen_time {src : UpdateSource} {s after : State} (h : execFieldOpen src s = .next after) : after.time = s.time := by
  cases h; exact State.runUpdate_time ..

theorem execDrawerOpen_time {fn : Nat} {irqEn : Bool} {ringLog2 : Nat} {s after : State} (h : execDrawerOpen fn irqEn ringLog2 s = .next after) : after.time = s.time := by
  cases h; split <;> simp

theorem execDrawerClose_time {fn : Nat} {irqEn : Bool} {ringLog2 : Nat} {s after : State} (h : execDrawerClose fn irqEn ringLog2 s = .next after) : after.time = s.time := by
  cases h; split <;> simp

theorem execReqTailDoorbell_time {fn : Nat} {value : BitVec 32} {slots : List Slot} {s after : State} (h : execReqTailDoorbell fn value slots s = .next after) : after.time = s.time := by
  cases h; split <;> simp

theorem execRespHeadDoorbell_time {fn : Nat} {value : BitVec 32} {s after : State} (h : execRespHeadDoorbell fn value s = .next after) : after.time = s.time := by
  cases h; split <;> simp

theorem execRegisterWrite_time {fn offset size : Nat} {value : BitVec 64} {s after : State} (h : execRegisterWrite fn offset size value s = .next after) : after.time = s.time := by
  cases h; split <;> simp

theorem execResponseWrite_time {fn : Nat} {s after : State} (h : execResponseWrite fn s = .next after) : after.time = s.time := by
  unfold execResponseWrite at h; dsimp only at h
  split at h
  · split at h
    · cases h; simp
    · cases h; split <;> simp
    · cases h; simp
  · cases h; rfl

theorem execFunctionReset_time {ev : ResetEvent} {s after : State} (h : execFunctionReset ev s = .next after) : after.time = s.time := by
  cases h; repeat' first | (simp; done) | rw [foldl_time] | intro _ | split | simp

theorem execPcieLinkTrained_time {rateGt width : Nat} {s after : State} (h : execPcieLinkTrained rateGt width s = .next after) : after.time = s.time := by
  unfold execPcieLinkTrained at h; (repeat' split at h) <;> (cases h; simp)

theorem execBounceInRecord_time {vf : Nat} {r : BounceRec} {s after : State} (h : execBounceInRecord vf r s = .next after) : after.time = s.time := by
  cases h; repeat' first | (simp; done) | split | simp

theorem execBounceOutRecord_time {vf : Nat} {s after : State} (h : execBounceOutRecord vf s = .next after) : after.time = s.time := by
  cases h; repeat' first | (simp; done) | split | simp

theorem execBounceMapEffect_time {vf : Nat} {s after : State} (h : execBounceMapEffect vf s = .next after) : after.time = s.time := by
  cases h; repeat' first | (simp; done) | split | simp

theorem execBoundaryReserve_time {late : List Nat} {s after : State} (h : execBoundaryReserve late s = .next after) : after.time = s.time := by
  cases h; simp

theorem execContextSwap_time {p : Nat} {s after : State} (h : execContextSwap p s = .next after) : after.time = s.time := by
  cases h; split <;> simp

theorem execContextFinish_time {p ctx : Nat} {s after : State} (h : execContextFinish p ctx s = .next after) : after.time = s.time := by
  cases h; repeat' first | (simp; done) | split | simp

theorem execHangReplayEnd_time {p : Nat} {hung : Bool} {s after : State} (h : execHangReplayEnd p hung s = .next after) : after.time = s.time := by
  cases h; repeat' first | (simp; done) | split | simp

theorem execTileStep_time {p k : Nat} {t : TileStep} {s after : State} (h : execTileStep p k t s = .next after) : after.time = s.time := by
  cases h; simp

theorem execWeightLoad_time {p k addr : Nat} {s after : State} (h : execWeightLoad p k addr s = .next after) : after.time = s.time := by
  cases h; repeat' first | (simp; done) | split | simp

theorem execShelfWrite_time {p k : Nat} {s after : State} (h : execShelfWrite p k s = .next after) : after.time = s.time := by
  cases h; simp

theorem execPairVote_time {p k : Nat} {agree eq0 eq1 : Bool} {s after : State} (h : execPairVote p k agree eq0 eq1 s = .next after) : after.time = s.time := by
  cases h; simp

theorem execPreload_time {p k : Nat} {pl : Preload} {s after : State} (h : execPreload p k pl s = .next after) : after.time = s.time := by
  cases h; repeat' first | (simp; done) | split | simp

theorem execDrain_time {p k row : Nat} {raw reset : Bool} {dst : Nat} {s after : State} (h : execDrain p k row raw reset dst s = .next after) : after.time = s.time := by
  unfold execDrain at h
  first
    | (cases h; (repeat' (first | (with_reducible rfl) | (simp; done) | exact Verdict.timed_no | exact Verdict.timed_refuse | exact Verdict.timed_wait | (with_reducible apply guarded_timed) | (with_reducible apply State.gated_timed) | (with_reducible apply Taken.withPayload_timed) | (with_reducible apply Verdict.timed_done) | (with_reducible apply Verdict.timed_long) | (with_reducible apply State.sized_time) | (with_reducible apply State.checked_time) | (with_reducible refine State.runMgmt_time ?_ _) | (with_reducible refine State.answerMctp_time ?_ _) | (with_reducible refine State.runDrawer_time ?_ _) | (with_reducible refine State.operate_time _ ?_) | (with_reducible refine State.carry_time _ ?_) | (with_reducible refine State.drain_time _ ?_) | (with_reducible refine State.reach_time _ ?_) | (with_reducible refine State.ifUp_time _ _ _ _ ?_) | intro _ | (rw [foldl_time]) | split | dsimp only | simp)); done)
    | ((repeat' split at h) <;> (cases h; (repeat' (first | (with_reducible rfl) | (simp; done) | exact Verdict.timed_no | exact Verdict.timed_refuse | exact Verdict.timed_wait | (with_reducible apply guarded_timed) | (with_reducible apply State.gated_timed) | (with_reducible apply Taken.withPayload_timed) | (with_reducible apply Verdict.timed_done) | (with_reducible apply Verdict.timed_long) | (with_reducible apply State.sized_time) | (with_reducible apply State.checked_time) | (with_reducible refine State.runMgmt_time ?_ _) | (with_reducible refine State.answerMctp_time ?_ _) | (with_reducible refine State.runDrawer_time ?_ _) | (with_reducible refine State.operate_time _ ?_) | (with_reducible refine State.carry_time _ ?_) | (with_reducible refine State.drain_time _ ?_) | (with_reducible refine State.reach_time _ ?_) | (with_reducible refine State.ifUp_time _ _ _ _ ?_) | intro _ | (rw [foldl_time]) | split | dsimp only | simp))); done)

theorem execNodeStart_time {p k node : Nat} {s after : State} (h : execNodeStart p k node s = .next after) : after.time = s.time := by
  cases h; repeat' first | (simp; done) | split | simp

theorem execNodeComplete_time {p k node : Nat} {s after : State} (h : execNodeComplete p k node s = .next after) : after.time = s.time := by
  cases h; repeat' first | (simp; done) | split | simp

theorem execFold_time {p k node : Nat} {s after : State} (h : execFold p k node s = .next after) : after.time = s.time := by
  cases h; refine State.operate_time _ fun c x nd t => ?_
  repeat' first | (simp; done) | split | simp

theorem execFoldRecord_time {p k : Nat} {s after : State} (h : execFoldRecord p k s = .next after) : after.time = s.time := by
  cases h; repeat' first | (simp; done) | split | simp

theorem execMaskExpand_time {p k node : Nat} {s after : State} (h : execMaskExpand p k node s = .next after) : after.time = s.time := by
  cases h; refine State.operate_time _ fun c x nd t => ?_
  repeat' first | (simp; done) | (refine State.reach_time _ fun u => ?_) | (refine State.ifUp_time _ _ _ _ fun u => ?_) | rw [foldl_time] | intro _ | split | simp

theorem execNttFwd_time {p k node : Nat} {s after : State} (h : execNttFwd p k node s = .next after) : after.time = s.time := by
  cases h; refine State.operate_time _ fun c x nd t => ?_
  repeat' first | (simp; done) | split | simp

theorem execNttInv_time {p k node : Nat} {s after : State} (h : execNttInv p k node s = .next after) : after.time = s.time := by
  cases h; refine State.operate_time _ fun c x nd t => ?_
  repeat' first | (simp; done) | split | simp

theorem execKeyswitch_time {p k node : Nat} {s after : State} (h : execKeyswitch p k node s = .next after) : after.time = s.time := by
  cases h; refine State.operate_time _ fun c x nd t => ?_
  repeat' first | (simp; done) | split | simp

theorem execRefreshLut_time {p k node : Nat} {s after : State} (h : execRefreshLut p k node s = .next after) : after.time = s.time := by
  cases h; refine State.operate_time _ fun c x nd t => ?_
  repeat' first | (simp; done) | split | simp

theorem execClipL2_time {p k node : Nat} {s after : State} (h : execClipL2 p k node s = .next after) : after.time = s.time := by
  cases h; refine State.operate_time _ fun c x nd t => ?_
  dsimp only; split
  · refine State.reach_time _ fun u => ?_
    split <;> split <;> simp [State.scribbleRow_time]
  · rfl

theorem execSumsq_time {p k node : Nat} {s after : State} (h : execSumsq p k node s = .next after) : after.time = s.time := by
  cases h; refine State.operate_time _ fun c x nd t => ?_
  dsimp only; split
  · refine (State.ifUp_time _ _ _ _ fun u => ?_).trans (by simp)
    split <;> simp
  · rfl

theorem execMeanvar_time {p k node : Nat} {s after : State} (h : execMeanvar p k node s = .next after) : after.time = s.time := by
  unfold execMeanvar at h; cases h
  split
  · split
    · dsimp only; split
      · rfl
      · refine State.operate_time _ fun c x nd t => ?_
        split
        · refine (State.ifUp_time _ _ _ _ fun u => ?_).trans (by simp)
          split <;> simp
        · rfl
    · rfl
  · rfl

theorem execNoiseGauss_time {p k node : Nat} {s after : State} (h : execNoiseGauss p k node s = .next after) : after.time = s.time := by
  cases h; refine State.operate_time _ fun c x nd t => ?_
  repeat' first | (simp; done) | (refine State.reach_time _ fun u => ?_) | (refine State.ifUp_time _ _ _ _ fun u => ?_) | rw [foldl_time] | intro _ | split | simp

theorem execDecodeCenter_time {p k node : Nat} {s after : State} (h : execDecodeCenter p k node s = .next after) : after.time = s.time := by
  unfold execDecodeCenter at h
  first
    | (cases h; (repeat' (first | (with_reducible rfl) | (simp; done) | exact Verdict.timed_no | exact Verdict.timed_refuse | exact Verdict.timed_wait | (with_reducible apply guarded_timed) | (with_reducible apply State.gated_timed) | (with_reducible apply Taken.withPayload_timed) | (with_reducible apply Verdict.timed_done) | (with_reducible apply Verdict.timed_long) | (with_reducible apply State.sized_time) | (with_reducible apply State.checked_time) | (with_reducible refine State.runMgmt_time ?_ _) | (with_reducible refine State.answerMctp_time ?_ _) | (with_reducible refine State.runDrawer_time ?_ _) | (with_reducible refine State.operate_time _ ?_) | (with_reducible refine State.carry_time _ ?_) | (with_reducible refine State.drain_time _ ?_) | (with_reducible refine State.reach_time _ ?_) | (with_reducible refine State.ifUp_time _ _ _ _ ?_) | intro _ | (rw [foldl_time]) | split | dsimp only | simp)); done)
    | ((repeat' split at h) <;> (cases h; (repeat' (first | (with_reducible rfl) | (simp; done) | exact Verdict.timed_no | exact Verdict.timed_refuse | exact Verdict.timed_wait | (with_reducible apply guarded_timed) | (with_reducible apply State.gated_timed) | (with_reducible apply Taken.withPayload_timed) | (with_reducible apply Verdict.timed_done) | (with_reducible apply Verdict.timed_long) | (with_reducible apply State.sized_time) | (with_reducible apply State.checked_time) | (with_reducible refine State.runMgmt_time ?_ _) | (with_reducible refine State.answerMctp_time ?_ _) | (with_reducible refine State.runDrawer_time ?_ _) | (with_reducible refine State.operate_time _ ?_) | (with_reducible refine State.carry_time _ ?_) | (with_reducible refine State.drain_time _ ?_) | (with_reducible refine State.reach_time _ ?_) | (with_reducible refine State.ifUp_time _ _ _ _ ?_) | intro _ | (rw [foldl_time]) | split | dsimp only | simp))); done)

theorem execApplyStep_time {p k node : Nat} {s after : State} (h : execApplyStep p k node s = .next after) : after.time = s.time := by
  cases h; refine State.operate_time _ fun c x nd t => ?_
  repeat' first | (simp; done) | split | simp

theorem execMatmul_time {p k node : Nat} {s after : State} (h : execMatmul p k node s = .next after) : after.time = s.time := by
  cases h; refine State.operate_time _ fun c x nd t => ?_
  repeat' first | (simp; done) | (refine State.reach_time _ fun u => ?_) | (refine State.ifUp_time _ _ _ _ fun u => ?_) | rw [foldl_time] | intro _ | split | simp

theorem execSeedRecover_time {p k node : Nat} {s after : State} (h : execSeedRecover p k node s = .next after) : after.time = s.time := by
  cases h; refine State.operate_time _ fun c x nd t => ?_
  repeat' first | (simp; done) | split | simp

theorem execPairSeed_time {p k node : Nat} {s after : State} (h : execPairSeed p k node s = .next after) : after.time = s.time := by
  cases h; refine State.operate_time _ fun c x nd t => ?_
  repeat' first | (simp; done) | split | simp

theorem execDescriptorPush_time {p k q : Nat} {d : Descr} {s after : State} (h : execDescriptorPush p k q d s = .next after) : after.time = s.time := by
  cases h; split <;> simp

theorem execCopy_time {p k q : Nat} {s after : State} (h : execCopy p k q s = .next after) : after.time = s.time := by
  cases h; exact State.carry_time _ fun d t => State.copyRows_time ..

theorem execCopy2d_time {p k q : Nat} {s after : State} (h : execCopy2d p k q s = .next after) : after.time = s.time := by
  cases h; exact State.carry_time _ fun d t => State.copyRows_time ..

theorem execFill_time {p k q : Nat} {s after : State} (h : execFill p k q s = .next after) : after.time = s.time := by
  cases h; exact State.carry_time _ fun d t => by simp

theorem execSend_time {p k q : Nat} {s after : State} (h : execSend p k q s = .next after) : after.time = s.time := by
  cases h; simp

theorem execRodMark_time {p k q : Nat} {s after : State} (h : execRodMark p k q s = .next after) : after.time = s.time := by
  cases h; repeat' first | (simp; done) | split | simp

theorem execCarryComplete_time {p k q i : Nat} {s after : State} (h : execCarryComplete p k q i s = .next after) : after.time = s.time := by
  cases h; repeat' first | (simp; done) | split | simp

theorem execStakeWaitMet_time {p k q : Nat} {s after : State} (h : execStakeWaitMet p k q s = .next after) : after.time = s.time := by
  cases h; repeat' first | (simp; done) | split | simp

theorem execLeafDeliver_time {p k conn : Nat} {header data : Bytes} {s after : State} (h : execLeafDeliver p k conn header data s = .next after) : after.time = s.time := by
  cases h; repeat' first | (simp; done) | split | simp

theorem execLeafDeliveryResume_time {p k : Nat} {s after : State} (h : execLeafDeliveryResume p k s = .next after) : after.time = s.time := by
  cases h; repeat' first | (simp; done) | split | simp

theorem execClientFragment_time {p ctx : Nat} {frag : Bytes} {s after : State} (h : execClientFragment p ctx frag s = .next after) : after.time = s.time := by
  cases h; repeat' first | (simp; done) | split | simp

theorem execIntakeDeadline_time {p ctx : Nat} {s after : State} (h : execIntakeDeadline p ctx s = .next after) : after.time = s.time := by
  cases h; repeat' first | (simp; done) | split | simp

theorem execFinalReceipt_time {p ctx : Nat} {s after : State} (h : execFinalReceipt p ctx s = .next after) : after.time = s.time := by
  cases h; repeat' first | (simp; done) | split | simp

theorem execReceipt_time {p ctx : Nat} {msg : Bytes} {s after : State} (h : execReceipt p ctx msg s = .next after) : after.time = s.time := by
  cases h; repeat' first | (simp; done) | split | simp

theorem execCloseStakeSignal_time {p ctx : Nat} {s after : State} (h : execCloseStakeSignal p ctx s = .next after) : after.time = s.time := by
  cases h; repeat' first | (simp; done) | split | simp

theorem execSliceResult_time {p ctx : Nat} {msg : Bytes} {s after : State} (h : execSliceResult p ctx msg s = .next after) : after.time = s.time := by
  cases h; repeat' first | (simp; done) | split | simp

theorem execCloseDeadline_time {p ctx : Nat} {s after : State} (h : execCloseDeadline p ctx s = .next after) : after.time = s.time := by
  cases h; repeat' first | (simp; done) | split | simp

theorem execSignalDetect_time {link : Nat} {s after : State} (h : execSignalDetect link s = .next after) : after.time = s.time := by
  cases h; split <;> simp

theorem execTrainingTimeout_time {link : Nat} {s after : State} (h : execTrainingTimeout link s = .next after) : after.time = s.time := by
  cases h; repeat' first | (simp; done) | split | simp

theorem execTrainingRetry_time {link : Nat} {s after : State} (h : execTrainingRetry link s = .next after) : after.time = s.time := by
  cases h; split <;> simp

theorem execHello_time {link module linkId _width : Nat} {digest : BitVec 128} {s after : State} (h : execHello link module linkId _width digest s = .next after) : after.time = s.time := by
  cases h; simp

theorem execEcho_time {link : Nat} {reply : Bool} {sentPs turnPs nowPs : Nat} {s after : State} (h : execEcho link reply sentPs turnPs nowPs s = .next after) : after.time = s.time := by
  cases h; repeat' first | (simp; done) | split | simp

theorem execFlit_time {link : Nat} {symbols : List (BitVec 10)} {s after : State} (h : execFlit link symbols s = .next after) : after.time = s.time := by
  cases h; simp

theorem execNak_time {link seq : Nat} {s after : State} (h : execNak link seq s = .next after) : after.time = s.time := by
  cases h; split <;> simp

theorem execNakRepeat_time {link : Nat} {s after : State} (h : execNakRepeat link s = .next after) : after.time = s.time := by
  cases h; split <;> simp

theorem execReplayTimeout_time {link : Nat} {s after : State} (h : execReplayTimeout link s = .next after) : after.time = s.time := by
  cases h; repeat' first | (simp; done) | split | simp

theorem execLaneFail_time {link lane : Nat} {s after : State} (h : execLaneFail link lane s = .next after) : after.time = s.time := by
  cases h; repeat' first | (simp; done) | split | simp

theorem execFlitLockLoss_time {link : Nat} {s after : State} (h : execFlitLockLoss link s = .next after) : after.time = s.time := by
  cases h; split <;> simp

theorem execRelockRouteLoss_time {link : Nat} {s after : State} (h : execRelockRouteLoss link s = .next after) : after.time = s.time := by
  cases h; repeat' first | (simp; done) | split | simp

theorem execRelockDone_time {link : Nat} {s after : State} (h : execRelockDone link s = .next after) : after.time = s.time := by
  cases h; repeat' first | (simp; done) | split | simp

theorem execRelockTimeout_time {link : Nat} {s after : State} (h : execRelockTimeout link s = .next after) : after.time = s.time := by
  cases h; split <;> simp

theorem execCredit_time {link first chain rod : Nat} {grants : List Nat} {s after : State} (h : execCredit link first chain rod grants s = .next after) : after.time = s.time := by
  cases h; simp

theorem execMarker_time {link : Nat} {m : MarkerGrain} {s after : State} (h : execMarker link m s = .next after) : after.time = s.time := by
  unfold execMarker at h
  first
    | (cases h; (repeat' (first | (with_reducible rfl) | (simp; done) | exact Verdict.timed_no | exact Verdict.timed_refuse | exact Verdict.timed_wait | (with_reducible apply guarded_timed) | (with_reducible apply State.gated_timed) | (with_reducible apply Taken.withPayload_timed) | (with_reducible apply Verdict.timed_done) | (with_reducible apply Verdict.timed_long) | (with_reducible apply State.sized_time) | (with_reducible apply State.checked_time) | (with_reducible refine State.runMgmt_time ?_ _) | (with_reducible refine State.answerMctp_time ?_ _) | (with_reducible refine State.runDrawer_time ?_ _) | (with_reducible refine State.operate_time _ ?_) | (with_reducible refine State.carry_time _ ?_) | (with_reducible refine State.drain_time _ ?_) | (with_reducible refine State.reach_time _ ?_) | (with_reducible refine State.ifUp_time _ _ _ _ ?_) | intro _ | (rw [foldl_time]) | split | dsimp only | simp)); done)
    | ((repeat' split at h) <;> (cases h; (repeat' (first | (with_reducible rfl) | (simp; done) | exact Verdict.timed_no | exact Verdict.timed_refuse | exact Verdict.timed_wait | (with_reducible apply guarded_timed) | (with_reducible apply State.gated_timed) | (with_reducible apply Taken.withPayload_timed) | (with_reducible apply Verdict.timed_done) | (with_reducible apply Verdict.timed_long) | (with_reducible apply State.sized_time) | (with_reducible apply State.checked_time) | (with_reducible refine State.runMgmt_time ?_ _) | (with_reducible refine State.answerMctp_time ?_ _) | (with_reducible refine State.runDrawer_time ?_ _) | (with_reducible refine State.operate_time _ ?_) | (with_reducible refine State.carry_time _ ?_) | (with_reducible refine State.drain_time _ ?_) | (with_reducible refine State.reach_time _ ?_) | (with_reducible refine State.ifUp_time _ _ _ _ ?_) | intro _ | (rw [foldl_time]) | split | dsimp only | simp))); done)

theorem execMarkerHoldover_time  {s after : State} (h : execMarkerHoldover  s = .next after) : after.time = s.time := by
  cases h; split <;> simp

theorem execMarkerLost_time  {s after : State} (h : execMarkerLost  s = .next after) : after.time = s.time := by
  cases h; split <;> simp

theorem execMasterTakeover_time  {s after : State} (h : execMasterTakeover  s = .next after) : after.time = s.time := by
  cases h; repeat' first | (simp; done) | split | simp

theorem execMessageVisible_time {conn : Nat} {s after : State} (h : execMessageVisible conn s = .next after) : after.time = s.time := by
  cases h; split <;> simp

theorem execConnTimeout_time {conn : Nat} {s after : State} (h : execConnTimeout conn s = .next after) : after.time = s.time := by
  cases h; split <;> simp

theorem execOpenResend_time {conn : Nat} {s after : State} (h : execOpenResend conn s = .next after) : after.time = s.time := by
  cases h; split <;> simp

theorem execOpenTimeout_time {conn : Nat} {s after : State} (h : execOpenTimeout conn s = .next after) : after.time = s.time := by
  cases h; split <;> simp

theorem execClosingTimeout_time {conn : Nat} {s after : State} (h : execClosingTimeout conn s = .next after) : after.time = s.time := by
  cases h; split <;> simp

theorem execFetchResend_time {conn seq : Nat} {s after : State} (h : execFetchResend conn seq s = .next after) : after.time = s.time := by
  cases h; repeat' first | (simp; done) | split | simp

theorem execSpillFetchDone_time {conn recConn recBootGen recCount : Nat} {recSealed : Bytes} {recTag : BitVec 128} {s after : State} (h : execSpillFetchDone conn recConn recBootGen recCount recSealed recTag s = .next after) : after.time = s.time := by
  cases h; repeat' first | (simp; done) | split | simp

theorem execRevokeDrainDone_time {ease ns : Nat} {s after : State} (h : execRevokeDrainDone ease ns s = .next after) : after.time = s.time := by
  cases h; repeat' first | (simp; done) | split | simp

theorem execRevokeDrainLimit_time {ease : Nat} {s after : State} (h : execRevokeDrainLimit ease s = .next after) : after.time = s.time := by
  cases h; repeat' first | (simp; done) | rw [foldl_time] | intro _ | split | simp

theorem execCloseFillDone_time {p : Nat} {s after : State} (h : execCloseFillDone p s = .next after) : after.time = s.time := by
  cases h; repeat' first | (simp; done) | split | simp

theorem execSnapshotDone_time {p : Nat} {s after : State} (h : execSnapshotDone p s = .next after) : after.time = s.time := by
  cases h; repeat' first | (simp; done) | rw [foldl_time] | intro _ | split | simp

theorem execContextFault_time {p ctx cause : Nat} {s after : State} (h : execContextFault p ctx cause s = .next after) : after.time = s.time := by
  cases h; split <;> simp

theorem execClusterError_time {cluster : Nat} {err : ClusterErr} {s after : State} (h : execClusterError cluster err s = .next after) : after.time = s.time := by
  cases h; repeat' first | (simp; done) | split | simp

theorem execMemPoison_time {p ctx : Nat} {s after : State} (h : execMemPoison p ctx s = .next after) : after.time = s.time := by
  cases h; simp

theorem execSubchFail_time {subch : Nat} {s after : State} (h : execSubchFail subch s = .next after) : after.time = s.time := by
  cases h; repeat' first | (simp; done) | split | simp

theorem execSubchDegraded_time {subch count : Nat} {s after : State} (h : execSubchDegraded subch count s = .next after) : after.time = s.time := by
  cases h; repeat' first | (simp; done) | split | simp

theorem execMigrationDone_time {subch : Nat} {s after : State} (h : execMigrationDone subch s = .next after) : after.time = s.time := by
  cases h; repeat' first | (simp; done) | split | simp

theorem execD2dError_time  {s after : State} (h : execD2dError  s = .next after) : after.time = s.time := by
  cases h; split <;> simp

theorem execFenceTimeout_time {unit : FenceUnit} {s t : State} (hu : unit ≠ .module) (h : execFenceTimeout unit s = .next t) : t.time = s.time := by
  cases h; split
  · split <;> simp
  · split
    · rfl
    · split
      · split <;> simp
      · simp
  · split <;> simp
  · exact absurd rfl hu

theorem execLockstepMismatch_time {pair : Nat} {s after : State} (h : execLockstepMismatch pair s = .next after) : after.time = s.time := by
  cases h; repeat' first | (simp; done) | split | simp

theorem execWatchdogMiss_time  {s after : State} (h : execWatchdogMiss  s = .next after) : after.time = s.time := by
  cases h; split <;> simp

theorem execPwrWarn_time {asserted : Bool} {s after : State} (h : execPwrWarn asserted s = .next after) : after.time = s.time := by
  cases h; split <;> simp

theorem execInputUndervoltage_time {mv us : Nat} {s after : State} (h : execInputUndervoltage mv us s = .next after) : after.time = s.time := by
  cases h; repeat' first | (simp; done) | split | simp

theorem execPowerFailRecovered_time  {s after : State} (h : execPowerFailRecovered  s = .next after) : after.time = s.time := by
  cases h; split <;> simp

theorem execInputOvervoltage_time {mv us : Nat} {s after : State} (h : execInputOvervoltage mv us s = .next after) : after.time = s.time := by
  unfold execInputOvervoltage at h
  first
    | (cases h; (repeat' (first | (with_reducible rfl) | (simp; done) | exact Verdict.timed_no | exact Verdict.timed_refuse | exact Verdict.timed_wait | (with_reducible apply guarded_timed) | (with_reducible apply State.gated_timed) | (with_reducible apply Taken.withPayload_timed) | (with_reducible apply Verdict.timed_done) | (with_reducible apply Verdict.timed_long) | (with_reducible apply State.sized_time) | (with_reducible apply State.checked_time) | (with_reducible refine State.runMgmt_time ?_ _) | (with_reducible refine State.answerMctp_time ?_ _) | (with_reducible refine State.runDrawer_time ?_ _) | (with_reducible refine State.operate_time _ ?_) | (with_reducible refine State.carry_time _ ?_) | (with_reducible refine State.drain_time _ ?_) | (with_reducible refine State.reach_time _ ?_) | (with_reducible refine State.ifUp_time _ _ _ _ ?_) | intro _ | (rw [foldl_time]) | split | dsimp only | simp)); done)
    | ((repeat' split at h) <;> (cases h; (repeat' (first | (with_reducible rfl) | (simp; done) | exact Verdict.timed_no | exact Verdict.timed_refuse | exact Verdict.timed_wait | (with_reducible apply guarded_timed) | (with_reducible apply State.gated_timed) | (with_reducible apply Taken.withPayload_timed) | (with_reducible apply Verdict.timed_done) | (with_reducible apply Verdict.timed_long) | (with_reducible apply State.sized_time) | (with_reducible apply State.checked_time) | (with_reducible refine State.runMgmt_time ?_ _) | (with_reducible refine State.answerMctp_time ?_ _) | (with_reducible refine State.runDrawer_time ?_ _) | (with_reducible refine State.operate_time _ ?_) | (with_reducible refine State.carry_time _ ?_) | (with_reducible refine State.drain_time _ ?_) | (with_reducible refine State.reach_time _ ?_) | (with_reducible refine State.ifUp_time _ _ _ _ ?_) | intro _ | (rw [foldl_time]) | split | dsimp only | simp))); done)

theorem execPwrCycle_time {low : Bool} {ms : Nat} {s after : State} (h : execPwrCycle low ms s = .next after) : after.time = s.time := by
  cases h; repeat' first | (simp; done) | split | simp

theorem execPresentJ1Break_time  {s after : State} (h : execPresentJ1Break  s = .next after) : after.time = s.time := by
  cases h; split <;> simp

theorem execThrottleTrigger_time {die dc : Nat} {overcurrent : Bool} {s after : State} (h : execThrottleTrigger die dc overcurrent s = .next after) : after.time = s.time := by
  cases h; split <;> simp

theorem execThermalIdle_time {device dc : Nat} {s after : State} (h : execThermalIdle device dc s = .next after) : after.time = s.time := by
  cases h; repeat' first | (simp; done) | split | simp

theorem execThermalIdleClear_time  {s after : State} (h : execThermalIdleClear  s = .next after) : after.time = s.time := by
  cases h; split <;> simp

theorem execCoolantLimit_time {inletDc outletDc : Nat} {s after : State} (h : execCoolantLimit inletDc outletDc s = .next after) : after.time = s.time := by
  cases h; repeat' first | (simp; done) | split | simp

theorem execCableOverdraw_time {link : Nat} {s after : State} (h : execCableOverdraw link s = .next after) : after.time = s.time := by
  cases h; simp

theorem execInletReading_time {dc : Nat} {s after : State} (h : execInletReading dc s = .next after) : after.time = s.time := by
  cases h; rfl

theorem execTelemetryRefresh_time {r : Readings} {s after : State} (h : execTelemetryRefresh r s = .next after) : after.time = s.time := by
  cases h; split <;> simp

theorem execScheduleAck_time  {s after : State} (h : execScheduleAck  s = .next after) : after.time = s.time := by
  cases h; repeat' first | (simp; done) | split | simp

theorem execMeterSave_time  {s after : State} (h : execMeterSave  s = .next after) : after.time = s.time := by
  cases h; split <;> simp

theorem execMgmtTelemetry_time {m : MgmtMsg} {s after : State} (h : execMgmtTelemetry m s = .next after) : after.time = s.time := by
  cases h; exact State.runMgmt_time (fun b u => State.sized_time rfl) _

theorem execMgmtEntropy_time {m : MgmtMsg} {s after : State} (h : execMgmtEntropy m s = .next after) : after.time = s.time := by
  cases h; exact State.runMgmt_time (fun b u => State.sized_time rfl) _

theorem execMgmtProfile_time {m : MgmtMsg} {s after : State} (h : execMgmtProfile m s = .next after) : after.time = s.time := by
  cases h; exact State.runMgmt_time (fun b u => State.sized_time (State.checked_time rfl)) _

theorem execMgmtCap_time {m : MgmtMsg} {s after : State} (h : execMgmtCap m s = .next after) : after.time = s.time := by
  cases h; exact State.runMgmt_time (fun b u => State.sized_time (State.checked_time rfl)) _

theorem execMgmtSchedule_time {m : MgmtMsg} {s after : State} (h : execMgmtSchedule m s = .next after) : after.time = s.time := by
  cases h; exact State.runMgmt_time (fun b u => State.checked_time (by repeat' first | (simp; done) | split | simp)) _

theorem execMgmtMeter_time {m : MgmtMsg} {s after : State} (h : execMgmtMeter m s = .next after) : after.time = s.time := by
  cases h; exact State.runMgmt_time (fun b u => State.sized_time (State.checked_time rfl)) _

theorem execFwBegin_time {m : MgmtMsg} {s after : State} (h : execFwBegin m s = .next after) : after.time = s.time := by
  cases h; exact State.runMgmt_time (fun b u => State.sized_time (State.checked_time rfl)) _

theorem execFwData_time {m : MgmtMsg} {s after : State} (h : execFwData m s = .next after) : after.time = s.time := by
  cases h; exact State.runMgmt_time (fun b u => State.checked_time (by repeat' first | (simp; done) | split | simp)) _

theorem execFwEnd_time {m : MgmtMsg} {s after : State} (h : execFwEnd m s = .next after) : after.time = s.time := by
  cases h; refine State.runMgmt_time (fun b u => State.sized_time ?_) _
  split
  · rfl
  · dsimp only
    split
    · rfl
    · split
      · rfl
      · simp [State.modCopy, State.setStaging]

theorem execFwCommit_time {m : MgmtMsg} {s after : State} (h : execFwCommit m s = .next after) : after.time = s.time := by
  cases h; exact State.runMgmt_time (fun b u => State.sized_time (State.checked_time rfl)) _

theorem execSettingsWrite_time {m : MgmtMsg} {s after : State} (h : execSettingsWrite m s = .next after) : after.time = s.time := by
  cases h; exact State.runMgmt_time (fun b u => State.sized_time (State.checked_time rfl)) _

theorem execSurveyWrite_time {m : MgmtMsg} {s after : State} (h : execSurveyWrite m s = .next after) : after.time = s.time := by
  cases h; exact State.runMgmt_time (fun b u => State.checked_time (by repeat' first | (simp; done) | split | simp)) _

theorem execTlsCert_time {m : MgmtMsg} {s after : State} (h : execTlsCert m s = .next after) : after.time = s.time := by
  cases h; refine State.runMgmt_time (fun b u => ?_) _
  split
  · rfl
  · exact State.checked_time rfl

theorem execModuleResetWarm_time {m : MgmtMsg} {s after : State} (h : execModuleResetWarm m s = .next after) : after.time = s.time := by
  cases h; exact State.mgmtReset_time ..

theorem execModuleResetCold_time {m : MgmtMsg} {s after : State} (h : execModuleResetCold m s = .next after) : after.time = s.time := by
  cases h; exact State.mgmtReset_time ..

theorem execDrbgReseed_time {m : MgmtMsg} {s after : State} (h : execDrbgReseed m s = .next after) : after.time = s.time := by
  cases h; exact State.runMgmt_time (fun b u => State.sized_time rfl) _

theorem execEntropyPattern_time {m : MgmtMsg} {s after : State} (h : execEntropyPattern m s = .next after) : after.time = s.time := by
  cases h; exact State.runMgmt_time (fun b u => State.sized_time (State.checked_time rfl)) _

theorem execMgmtLinkRetrain_time {m : MgmtMsg} {s after : State} (h : execMgmtLinkRetrain m s = .next after) : after.time = s.time := by
  cases h; simp

theorem execMgmtLinkStatus_time {m : MgmtMsg} {s after : State} (h : execMgmtLinkStatus m s = .next after) : after.time = s.time := by
  cases h; exact State.runMgmt_time (fun b u => State.sized_time rfl) _

theorem execTlsHandshake_time {h : TlsHello} {s after : State} (h : execTlsHandshake h s = .next after) : after.time = s.time := by
  cases h; repeat' first | (simp; done) | split | simp

theorem execEthPacket_time {pkt : EthPacket} {s after : State} (h : execEthPacket pkt s = .next after) : after.time = s.time := by
  cases h; repeat' first | (simp; done) | split | simp

theorem execSetEndpointId_time {src eid : Nat} {s after : State} (h : execSetEndpointId src eid s = .next after) : after.time = s.time := by
  cases h; exact State.answerMctp_time (fun u => by repeat' first | rfl | split) _

theorem execGetEndpointId_time  {s after : State} (h : execGetEndpointId  s = .next after) : after.time = s.time := by
  cases h; exact State.answerMctp_time (fun u => rfl) _

theorem execGetEndpointUuid_time  {s after : State} (h : execGetEndpointUuid  s = .next after) : after.time = s.time := by
  cases h; exact State.answerMctp_time (fun u => rfl) _

theorem execGetMctpVersionSupport_time {msgType : Nat} {s after : State} (h : execGetMctpVersionSupport msgType s = .next after) : after.time = s.time := by
  cases h; exact State.answerMctp_time (fun u => by repeat' first | rfl | split) _

theorem execGetMessageTypeSupport_time  {s after : State} (h : execGetMessageTypeSupport  s = .next after) : after.time = s.time := by
  cases h; exact State.answerMctp_time (fun u => rfl) _

theorem execGetVendorMessageSupport_time {selector : Nat} {s after : State} (h : execGetVendorMessageSupport selector s = .next after) : after.time = s.time := by
  cases h; exact State.answerMctp_time (fun u => by repeat' first | rfl | split) _

theorem execMctpUnsupportedCmd_time {cmd : Nat} {s after : State} (h : execMctpUnsupportedCmd cmd s = .next after) : after.time = s.time := by
  cases h; exact State.answerMctp_time (fun u => rfl) _

theorem execGetVersion_time  {s after : State} (h : execGetVersion  s = .next after) : after.time = s.time := by
  cases h; exact State.answerMctp_time (fun u => rfl) _

theorem execGetCapabilities_time  {s after : State} (h : execGetCapabilities  s = .next after) : after.time = s.time := by
  cases h; exact State.answerMctp_time (fun u => rfl) _

theorem execNegotiateAlgorithms_time {p384Sha384 : Bool} {s after : State} (h : execNegotiateAlgorithms p384Sha384 s = .next after) : after.time = s.time := by
  cases h; exact State.answerMctp_time (fun u => by repeat' first | rfl | split) _

theorem execGetDigests_time  {s after : State} (h : execGetDigests  s = .next after) : after.time = s.time := by
  cases h; exact State.answerMctp_time (fun u => rfl) _

theorem execGetCertificate_time {slot offset length : Nat} {s after : State} (h : execGetCertificate slot offset length s = .next after) : after.time = s.time := by
  unfold execGetCertificate at h
  first
    | (cases h; (repeat' (first | (with_reducible rfl) | (simp; done) | exact Verdict.timed_no | exact Verdict.timed_refuse | exact Verdict.timed_wait | (with_reducible apply guarded_timed) | (with_reducible apply State.gated_timed) | (with_reducible apply Taken.withPayload_timed) | (with_reducible apply Verdict.timed_done) | (with_reducible apply Verdict.timed_long) | (with_reducible apply State.sized_time) | (with_reducible apply State.checked_time) | (with_reducible refine State.runMgmt_time ?_ _) | (with_reducible refine State.answerMctp_time ?_ _) | (with_reducible refine State.runDrawer_time ?_ _) | (with_reducible refine State.operate_time _ ?_) | (with_reducible refine State.carry_time _ ?_) | (with_reducible refine State.drain_time _ ?_) | (with_reducible refine State.reach_time _ ?_) | (with_reducible refine State.ifUp_time _ _ _ _ ?_) | intro _ | (rw [foldl_time]) | split | dsimp only | simp)); done)
    | ((repeat' split at h) <;> (cases h; (repeat' (first | (with_reducible rfl) | (simp; done) | exact Verdict.timed_no | exact Verdict.timed_refuse | exact Verdict.timed_wait | (with_reducible apply guarded_timed) | (with_reducible apply State.gated_timed) | (with_reducible apply Taken.withPayload_timed) | (with_reducible apply Verdict.timed_done) | (with_reducible apply Verdict.timed_long) | (with_reducible apply State.sized_time) | (with_reducible apply State.checked_time) | (with_reducible refine State.runMgmt_time ?_ _) | (with_reducible refine State.answerMctp_time ?_ _) | (with_reducible refine State.runDrawer_time ?_ _) | (with_reducible refine State.operate_time _ ?_) | (with_reducible refine State.carry_time _ ?_) | (with_reducible refine State.drain_time _ ?_) | (with_reducible refine State.reach_time _ ?_) | (with_reducible refine State.ifUp_time _ _ _ _ ?_) | intro _ | (rw [foldl_time]) | split | dsimp only | simp))); done)

theorem execChallenge_time {slot : Nat} {nonce : BitVec 256} {s after : State} (h : execChallenge slot nonce s = .next after) : after.time = s.time := by
  cases h; refine State.answerMctp_time (fun u => ?_) _
  split
  · rfl
  · exact State.spdmSign_time ..

theorem execGetMeasurements_time {index : Nat} {nonce : BitVec 256} {s after : State} (h : execGetMeasurements index nonce s = .next after) : after.time = s.time := by
  cases h; refine State.answerMctp_time (fun u => ?_) _
  dsimp only; split
  · rfl
  · exact State.spdmSign_time ..

theorem execSpdmUnsupportedRequest_time {code : Nat} {s after : State} (h : execSpdmUnsupportedRequest code s = .next after) : after.time = s.time := by
  cases h; exact State.answerMctp_time (fun u => rfl) _

theorem execSmbusLineRecovery_time {highAfter : Option Nat} {s after : State} (h : execSmbusLineRecovery highAfter s = .next after) : after.time = s.time := by
  cases h; repeat' first | (simp; done) | split | simp

theorem execSmbusTargetTimeout_time {sclLowUs noEdgeUs : Nat} {s after : State} (h : execSmbusTargetTimeout sclLowUs noEdgeUs s = .next after) : after.time = s.time := by
  cases h; split <;> simp

theorem execSmbusFence_time {sdaLow : Bool} {chains : Nat} {s after : State} (h : execSmbusFence sdaLow chains s = .next after) : after.time = s.time := by
  cases h; split <;> simp

theorem execSmbusUnfence_time {highUs : Nat} {s after : State} (h : execSmbusUnfence highUs s = .next after) : after.time = s.time := by
  cases h; repeat' first | (simp; done) | split | simp

theorem execSmbusRetry_time {acked : Bool} {s after : State} (h : execSmbusRetry acked s = .next after) : after.time = s.time := by
  cases h; simp

theorem execSmbusProbe_time {acked : Bool} {s after : State} (h : execSmbusProbe acked s = .next after) : after.time = s.time := by
  cases h; repeat' first | (simp; done) | split | simp

theorem execSmbusPacket_time {pkt : SmbusPacket} {s after : State} (h : execSmbusPacket pkt s = .next after) : after.time = s.time := by
  cases h; repeat' first | (simp; done) | split | simp

theorem execHealthTestFail_time {primary rct : Bool} {s after : State} (h : execHealthTestFail primary rct s = .next after) : after.time = s.time := by
  cases h; repeat' first | (simp; done) | split | simp

theorem execPrimaryRetest_time {pass : Bool} {s after : State} (h : execPrimaryRetest pass s = .next after) : after.time = s.time := by
  cases h; repeat' first | (simp; done) | split | simp

theorem execHubReseed_time {ok : Bool} {s after : State} (h : execHubReseed ok s = .next after) : after.time = s.time := by
  cases h; repeat' first | (simp; done) | split | simp

theorem execClusterGeneratorReseed_time {p k : Nat} {ok : Bool} {s after : State} (h : execClusterGeneratorReseed p k ok s = .next after) : after.time = s.time := by
  cases h; repeat' first | (simp; done) | split | simp

theorem execFieldChallengeExpiry_time  {s after : State} (h : execFieldChallengeExpiry  s = .next after) : after.time = s.time := by
  cases h; repeat' first | (simp; done) | split | simp

theorem execWaveWake_time {wave : Nat} {s after : State} (h : execWaveWake wave s = .next after) : after.time = s.time := by
  cases h; split <;> simp

theorem execWaveTestDone_time {wave : Nat} {failed : List Nat} {failedBenches : List (Nat × Nat)} {s after : State} (h : execWaveTestDone wave failed failedBenches s = .next after) : after.time = s.time := by
  cases h; split
  · rw [State.toStage40_time]
    change (List.foldl _ _ _ : State).time = _
    refine foldl_time _ _ _ fun t c => ?_
    dsimp only; split <;> rfl
  · rfl

theorem execDeviceReady_time {device : Nat} {failed : List Nat} {s after : State} (h : execDeviceReady device failed s = .next after) : after.time = s.time := by
  cases h; repeat' first | (simp; done) | rw [foldl_time] | intro _ | split | simp

theorem execEarlyService_time  {s after : State} (h : execEarlyService  s = .next after) : after.time = s.time := by
  cases h; split <;> simp

theorem execTopologyJudge_time  {s after : State} (h : execTopologyJudge  s = .next after) : after.time = s.time := by
  cases h; repeat' first | (simp; done) | split | simp

theorem execVfEnable_time {n : Nat} {s after : State} (h : execVfEnable n s = .next after) : after.time = s.time := by
  cases h; repeat' first | (simp; done) | rw [foldl_time] | intro _ | split | simp

theorem execTrainingComplete_time {link : Nat} {good : BitVec 4} {s after : State} (h : execTrainingComplete link good s = .next after) : after.time = s.time := by
  cases h; repeat' first | (simp; done) | split | simp

theorem execOvervoltageRecovery_time {mv : Nat} {s after : State} (h : execOvervoltageRecovery mv s = .next after) : after.time = s.time := by
  cases h; split <;> simp

theorem execTransferAbandon_time {lowMs : Nat} {s after : State} (h : execTransferAbandon lowMs s = .next after) : after.time = s.time := by
  cases h; split <;> simp

theorem execStartUpTestEnd_time {primary pass : Bool} {s after : State} (h : execStartUpTestEnd primary pass s = .next after) : after.time = s.time := by
  cases h; repeat' first | (simp; done) | split | simp

theorem execFactoryFuseProgramming_time  {s after : State} (h : execFactoryFuseProgramming  s = .next after) : after.time = s.time := by
  cases h; split <;> simp

theorem execDiePowerUp_time {die : Nat} {s after : State} (h : execDiePowerUp die s = .next after) : after.time = s.time := by
  cases h; repeat' first | (simp; done) | rw [foldl_time] | intro _ | split | simp

theorem execFieldDebugAccess_time {a : DebugAccess} {s after : State} (h : execFieldDebugAccess a s = .next after) : after.time = s.time := by
  cases h; repeat' first | (simp; done) | split | simp

end Sys2Proof.Machine
end

