-- ==== Sys2Proof/Laws/Answers.lean ====
section
/-! SUPPORT. Drawer answers: their lengths, and what a request that runs leaves of the settings (R203, R219). -/

set_option linter.unusedTactic false
set_option linter.unreachableTactic false
set_option linter.unusedVariables false
set_option linter.unusedSimpArgs false
set_option Elab.async false

namespace Sys2Proof.Machine

theorem len_info (s : State) : s.infoBytes.length = 40 := by
  simp [State.infoBytes, length_le, length_zeros]

theorem len_plat (s : State) : s.platBytes.length = 1536 := by
  simp [State.platBytes, cat, length_le, length_zeros, List.length_flatMap, List.map_const']

theorem len_take4096 (s : State) : s.aliasChain.length ≤ 4096 := by simp [State.aliasChain]

theorem len_sig (k m d) : (signature k m d).length = 96 := by simp [signature, length_padTo]

theorem len_report (p d) (s : State) : (s.report p d).length ≤ 4912 := by
  have h0 := len_take4096 s
  have h8 : ∀ f : Nat → Bytes, (∀ k, (f k).length = 56) → ((List.range 8).flatMap f).length = 448 := by
    intro f hf; simp [List.length_flatMap, hf]
  rw [State.report]
  simp only [List.length_append, State.aliasSign, len_sig]
  have : (s.reportBody p d).length = 720 := by
    simp only [State.reportBody, cat, List.flatten_cons, List.flatten_nil, List.length_append, length_le, length_zeros, List.length_nil]
    rw [h8]
    all_goals try rfl
    intro k; split <;> (try split) <;> simp [length_le, length_zeros]
  omega

theorem len_cert (p u n) (s : State) : (s.certificate p u n).length ≤ 4912 := by
  have := len_take4096 s
  simp only [State.certificate, List.length_append, State.aliasSign, len_sig, cat, List.flatten_cons, List.flatten_nil, length_le, length_zeros, List.length_nil, length_padTo]
  omega

theorem shares_ok {p0 : Nat → Bool} {h cur : List Nat} (hp : ∀ p < 16, p0 p = true → h.getD p 0 = cur.getD p 0) :
    ((List.range 16).any fun p => p0 p && h.getD p 0 != cur.getD p 0) = false := by
  simp only [List.any_eq_false, List.mem_range]
  intro p hp' hh; simp only [Bool.and_eq_true, bne_iff_ne] at hh; exact hh.2 (hp p hp' hh.1)

theorem popShares (fn : Nat) (s : State) : (s.popTaken fn).sharesNext = s.sharesNext := by
  simp only [State.sharesNext, State.popTaken_host]; congr 1
  simp only [State.popTaken, State.modFn]
  apply List.ext_getElem?; intro i
  simp only [List.map_drop, List.getElem?_drop, List.getElem?_map, List.getElem?_modify]
  cases s.fns[1 + i]? <;> simp; split <;> rfl

theorem sealedPop (fn p) (s : State) : (s.popTaken fn).sealedRound p = s.sealedRound p := rfl

end Sys2Proof.Machine
end

