-- ==== Sys2Proof/Laws/Updates.lean ====
section
/-! SUPPORT. What an update leaves of the chest, the slots, the memory and the life cycle (R227, R231, R244). -/

set_option linter.unusedTactic false
set_option linter.unreachableTactic false
set_option linter.unusedVariables false
set_option linter.unusedSimpArgs false
set_option Elab.async false

namespace Sys2Proof.Machine

theorem runUpdate_p (s : State) (src : UpdateSource) (b : Bytes) (u : Update) (op : Nat) (ho : s.Offers src b) (hu : u = parseUpdate b) (hl : b.length = 192 + u.bodyBytes) :
    s.runUpdate src op = if updateRow b = op then
      (match firstFail (s.updateChecks src.isVf src.parcel u) with
        | some st => src.answer s st [] (src.base s)
        | none => src.answer s stOk ((src.base s).updateEffect src.parcel u).1 ((src.base s).updateEffect src.parcel u).2) else s := by
  cases src with
  | drawer fn =>
    obtain ⟨t, h1, h2, h3, h4⟩ := ho
    have hb : t.bytes = b := by simp [Taken.bytes, h2]
    have e : (s.popTaken fn).updateChecks (fn != 0) (parcelOf fn) u = s.updateChecks (fn != 0) (parcelOf fn) u := rfl
    have e' : (b.length ≠ 192 + u.bodyBytes) = False := by simp [hl]
    simp only [State.runUpdate, h1, hb, UpdateSource.isVf, UpdateSource.parcel, UpdateSource.base, UpdateSource.answer]
    split
    · cases hf : firstFail (s.updateChecks (fn != 0) (parcelOf fn) u) with
      | none =>
        have hfit : t.fits ((s.popTaken fn).updateEffect (parcelOf fn) u).1 = true := by
          have : ((s.popTaken fn).updateEffect (parcelOf fn) u).1.length ≤ 81 := by
            unfold State.updateEffect; dsimp only; split <;> simp [cat, length_le, length_zeros]
          simp [Taken.fits]; right; omega
        rw [State.runDrawer_done h1 (body := ((s.popTaken fn).updateEffect (parcelOf fn) u).1) (v := ((s.popTaken fn).updateEffect (parcelOf fn) u).2) ?_ hfit]
        simp only [State.gated, State.gate_popTaken, h3, h2, State.update, ← hu, e', if_false, e, hf, if_true]
      | some st =>
        have hst : st ≠ stOk := by
          simp only [firstFail, Option.map_eq_some_iff] at hf
          obtain ⟨x, hx, rfl⟩ := hf
          have := List.mem_of_find?_eq_some hx
          simp only [State.updateChecks, List.mem_cons, List.not_mem_nil, or_false] at this
          rcases this with rfl | rfl | rfl | rfl | rfl | rfl | rfl | rfl | rfl | rfl | rfl | rfl <;> (dsimp only; decide)
        rw [State.runDrawer_refuse h1 (st := st) (body := []) ?_]
        simp only [State.gated, State.gate_popTaken, h3, h2, State.update, ← hu, e', if_false, e, hf, State.deny, hst, Verdict.no]
    · rfl
  | mgmt m =>
    obtain ⟨⟨h1, h2, h3, h4⟩, h5⟩ := ho
    simp only [State.runUpdate, h5, UpdateSource.isVf, UpdateSource.parcel, UpdateSource.base, UpdateSource.answer]
    have e' : (b.length ≠ 192 + u.bodyBytes) = False := by simp [hl]
    split
    · simp only [State.runMgmt, h1, h2, h3, h5, State.update, ← hu, e', if_false]
      have h4' : ¬ mgmtMost m.path < b.length := by rw [h5] at h4; omega
      cases hf : firstFail (s.updateChecks false 0 u) with
      | none => simp [h4']
      | some st => simp [h4', State.deny]
    · rfl

theorem fill_other (i j a v) (s : State) (h : j ≠ i) : (s.fillSlot i a v).slotVal j = s.slotVal j ∧ (s.fillSlot i a v).slotAttrs j = s.slotAttrs j := by
  simp [State.fillSlot, State.slotVal, State.slotAttrs, tget_tset_ne _ _ h]

theorem blob_val (i j) (s : State) : (s.keepBlob i).slotVal j = s.slotVal j ∧ (s.keepBlob i).slotAttrs j = s.slotAttrs j := ⟨rfl, rfl⟩

theorem store_val (p u j) (s : State) : (s.storeCounter p u).slotVal j = s.slotVal j ∧ (s.storeCounter p u).slotAttrs j = s.slotAttrs j := by
  unfold State.storeCounter; repeat' split
  all_goals exact ⟨rfl, rfl⟩

theorem store_now (p u) (s : State) : (s.storeCounter p u).now = s.now := by
  unfold State.storeCounter; repeat' split
  all_goals rfl

theorem store_len (p u) (s : State) : (s.storeCounter p u).parcels.length = s.parcels.length := by
  unfold State.storeCounter; repeat' split
  all_goals simp

theorem trans_life (t) (s : State) : ((s.transitionKeys t).transitionFuses t).flash.lifecycle = t := by
  unfold State.transitionFuses; dsimp only; repeat' split
  all_goals rfl

theorem keys_chal (t) (s : State) : (s.transitionKeys t).chest.challenge = s.chest.challenge := by
  unfold State.transitionKeys
  refine foldl_keeps (fun s : State => s.chest.challenge) _ (fun u i => ?_) _ _
  dsimp only; split
  · rfl
  · unfold State.destroySlot; dsimp only; repeat' split
    all_goals simp [State.emptySlot]

theorem trans_chal (t) (s : State) : ((s.transitionKeys t).transitionFuses t).chest.challenge = s.chest.challenge := by
  unfold State.transitionFuses; dsimp only; repeat' split
  all_goals simp [keys_chal]

theorem extPuts_slot (p j) (b : Bytes) : ∀ a (s : State), (s.extPuts p a b).slotVal j = s.slotVal j := by
  induction b with
  | nil => intros; rfl
  | cons x r ih => intro a s; simp only [State.extPuts]; rw [ih]; rfl

theorem extPuts_len (p) (b : Bytes) : ∀ a (s : State), (s.extPuts p a b).parcels.length = s.parcels.length := by
  induction b with
  | nil => intros; rfl
  | cons x r ih => intro a s; simp only [State.extPuts]; rw [ih]; simp [State.extPut]

theorem conv_slot (e p a b j) (s : State) : (s.convert e p a b).slotVal j = s.slotVal j := by
  unfold State.convert; exact foldl_keeps (fun s : State => s.slotVal j) _ (fun u i => extPuts_slot ..) _ _

theorem conv_len (e p a b) (s : State) : (s.convert e p a b).parcels.length = s.parcels.length := by
  unfold State.convert; exact foldl_keeps (fun s : State => s.parcels.length) _ (fun u i => extPuts_len ..) _ _

theorem keys_parcels (t) (s : State) : (s.transitionKeys t).parcels = s.parcels := by
  unfold State.transitionKeys
  refine foldl_keeps State.parcels _ (fun u i => ?_) _ _
  dsimp only; split <;> simp

theorem fuses_parcels (t) (s : State) : (s.transitionFuses t).parcels = s.parcels := by
  unfold State.transitionFuses; dsimp only; repeat' split
  all_goals rfl

theorem keys_counters (t) (s : State) : (s.transitionKeys t).chest.counters = s.chest.counters := by
  unfold State.transitionKeys
  refine foldl_keeps (fun s : State => s.chest.counters) _ (fun u i => ?_) _ _
  dsimp only; split
  · rfl
  · unfold State.destroySlot; dsimp only; repeat' split
    all_goals simp [State.emptySlot]

theorem fuses_counters (t) (s : State) : (s.transitionFuses t).chest.counters = s.chest.counters := by
  unfold State.transitionFuses; dsimp only; repeat' split
  all_goals simp

theorem extPuts_chest (p) (b : Bytes) : ∀ a (s : State), (s.extPuts p a b).chest = s.chest := by
  induction b with
  | nil => intros; rfl
  | cons x r ih => intro a s; simp only [State.extPuts]; rw [ih]; rfl

theorem extPuts_tc (p j) (b : Bytes) : ∀ a (s : State), ((s.extPuts p a b).parcel j).tenantCounter = (s.parcel j).tenantCounter := by
  induction b with
  | nil => intros; rfl
  | cons x r ih =>
    intro a s; simp only [State.extPuts]; rw [ih]; simp only [State.extPut]
    simp only [State.modParcel, State.parcel, List.getD_eq_getElem?_getD, List.getElem?_modify]
    cases s.parcels[j]? <;> simp; split <;> rfl

theorem conv_chest (e p a b) (s : State) : (s.convert e p a b).chest = s.chest := by
  unfold State.convert; exact foldl_keeps State.chest _ (fun u i => extPuts_chest ..) _ _

theorem conv_tc (e p a b j) (s : State) : ((s.convert e p a b).parcel j).tenantCounter = (s.parcel j).tenantCounter := by
  unfold State.convert; exact foldl_keeps (fun s : State => (s.parcel j).tenantCounter) _ (fun u i => extPuts_tc ..) _ _

end Sys2Proof.Machine
end

