-- ==== Sys2Proof/Laws/Ports.lean ====
section
/-! SUPPORT. What the port leaves: a function that closes, a slot that is written, the reset scope (R198, R205, R216). -/

set_option linter.unusedTactic false
set_option linter.unreachableTactic false
set_option linter.unusedVariables false
set_option linter.unusedSimpArgs false
set_option Elab.async false

namespace Sys2Proof.Machine

theorem modFn_congr {m : Nat} {s : State} {g g' : Fn → Fn} (h : g (s.fn m) = g' (s.fn m)) : s.modFn m g = s.modFn m g' := by
  simp only [State.modFn]; congr 1
  apply List.ext_getElem?; intro i
  simp only [List.getElem?_modify]
  by_cases hi : m = i
  · subst hi
    simp only [State.fn, List.getD_eq_getElem?_getD] at h
    cases hx : s.fns[m]? with
    | none => rfl
    | some x => rw [hx] at h; simp at h; simp [h]
  · simp [hi]

theorem destroySlot_outbox {i : Nat} (h : 128 ≤ i) (w) (s : State) : (s.destroySlot i w).outbox = s.outbox := by
  unfold State.destroySlot; split
  · simp only [h, if_true, State.evPf, State.evFn]
    repeat' split
    all_goals rfl
  · rfl

theorem endSession_outbox (n w : Nat) (s : State) : (s.endSession n w).outbox = s.outbox := by
  unfold State.endSession; dsimp only; split
  · have hp : ∀ p i, 128 ≤ parcelSlot p i := fun p i => by simp [parcelSlot]; try omega
    simp only [List.foldl, State.modParcel, destroySlot_outbox (hp _ _)]; rfl
  · rfl

theorem writeSlot_spec (n : Nat) (o : Sum RespSlot Event) (s : State) (hl : n < s.fns.length) :
    ((s.fn n).respTail ≠ BitVec.allOnes 32 → (s.writeSlot n o).parcels = s.parcels ∧ (s.writeSlot n o).chest = s.chest ∧
      ((s.writeSlot n o).fn n).events = (s.fn n).popOut.events) ∧
    (s.writeSlot n o).clusters = s.clusters ∧
    ((s.writeSlot n o).fn n).respTail = (s.fn n).respTail + 1 ∧ ((s.writeSlot n o).fn n).responses = (s.fn n).popOut.responses ∧
    ∃ fl ct tag, .ringSlot n ((s.fn n).respTail.toNat % 2 ^ (s.fn n).ringLog2) (slotParts (s.fn n).gen o).1 (slotParts (s.fn n).gen o).2.1 (slotParts (s.fn n).gen o).2.2.1 (slotParts (s.fn n).gen o).2.2.2.1 fl ct tag ∈ (s.writeSlot n o).outbox := by
  have hp : ∀ f : Fn, ({ f.popOut with respTail := f.respTail + 1 } : Fn) = { f.popOut with respTail := f.respTail + 1 } := fun _ => rfl
  have hne : (s.fn n).respTail ≠ BitVec.allOnes 32 → (s.fn n).respTail + 1 ≠ 0 := by
    intro hw h; apply hw; have := congrArg (· - 1) h; simpa using this
  obtain ⟨pay, ctp, ptag, ct, fl, tg, e⟩ : ∃ (pay : Bytes) (ctp : Bytes) (ptag : BitVec 128) (ct : Bytes) (fl : Nat) (tg : BitVec 128),
      s.writeSlot n o = (
        let s1 := if pay.isEmpty then s else s.emit (.respPayload n ctp ptag)
        let s2 := s1.emit (.ringSlot n ((s.fn n).respTail.toNat % (s.fn n).ring) (slotParts (s.fn n).gen o).1 (slotParts (s.fn n).gen o).2.1 (slotParts (s.fn n).gen o).2.2.1 (slotParts (s.fn n).gen o).2.2.2.1 fl ct tg)
        let s3 := s2.modFn n fun f => { f.popOut with respTail := f.respTail + 1 }
        let s4 := if (s.fn n).irqEn && !(s.fn n).msixSent then
            if (s.fn n).msixMask then s3.modFn n fun f => { f with msixPend := true }
            else (s3.modFn n fun f => { f with msixSent := true }).emit (.msix n)
          else s3
        if (s4.fn n).respTail = 0 then s4.endSession n 1 else s4) := ⟨_, _, _, _, _, _, rfl⟩
  rw [e]; clear e
  generalize h1 : (if pay.isEmpty then s else s.emit (.respPayload n ctp ptag)) = s1
  have f1 : s1.fns = s.fns ∧ s1.parcels = s.parcels ∧ s1.clusters = s.clusters ∧ s1.chest = s.chest := by subst h1; split <;> simp
  dsimp only
  generalize h2 : State.emit _ s1 = s2
  have f2 : s2.fns = s.fns ∧ s2.parcels = s.parcels ∧ s2.clusters = s.clusters ∧ s2.chest = s.chest := by subst h2; simpa using f1
  have o2 : .ringSlot n ((s.fn n).respTail.toNat % (s.fn n).ring) (slotParts (s.fn n).gen o).1 (slotParts (s.fn n).gen o).2.1 (slotParts (s.fn n).gen o).2.2.1 (slotParts (s.fn n).gen o).2.2.2.1 fl ct tg ∈ s2.outbox := by
    subst h2; simp [State.emit]
  generalize h3 : State.modFn n _ s2 = s3
  have f3 : s3.parcels = s.parcels ∧ s3.clusters = s.clusters ∧ s3.chest = s.chest ∧ (s3.fn n) = { (s.fn n).popOut with respTail := (s.fn n).respTail + 1 } ∧ s3.outbox = s2.outbox := by
    subst h3; refine ⟨by simpa using f2.2.1, by simpa using f2.2.2.1, by simpa using f2.2.2.2, ?_, rfl⟩
    rw [State.modFn_fn (by rw [f2.1]; exact hl)]; simp [State.fn, f2.1]
  generalize h4 : (if ((s.fn n).irqEn && !(s.fn n).msixSent) = true then _ else s3) = s4
  have f4 : s4.parcels = s.parcels ∧ s4.clusters = s.clusters ∧ s4.chest = s.chest ∧ (s4.fn n).respTail = (s.fn n).respTail + 1 ∧ (s4.fn n).responses = (s.fn n).popOut.responses ∧ (s4.fn n).events = (s.fn n).popOut.events ∧ (∀ x ∈ s3.outbox, x ∈ s4.outbox) := by
    have q : ∀ g : Fn → Fn, (∀ f, (g f).respTail = f.respTail) → (∀ f, (g f).responses = f.responses) → (∀ f, (g f).events = f.events) →
        ((s3.modFn n g).fn n).respTail = (s.fn n).respTail + 1 ∧ ((s3.modFn n g).fn n).responses = (s.fn n).popOut.responses ∧ ((s3.modFn n g).fn n).events = (s.fn n).popOut.events := by
      intro g a b c
      rw [modFn_keep Fn.respTail _ _ _ _ a, modFn_keep Fn.responses _ _ _ _ b, modFn_keep Fn.events _ _ _ _ c, f3.2.2.2.1]; exact ⟨rfl, rfl, rfl⟩
    subst h4; split
    · split
      · have := q (fun f => { f with msixPend := true }) (fun _ => rfl) (fun _ => rfl) (fun _ => rfl)
        exact ⟨by simpa using f3.1, by simpa using f3.2.1, by simpa using f3.2.2.1, this.1, this.2.1, this.2.2, fun x hx => hx⟩
      · have := q (fun f => { f with msixSent := true }) (fun _ => rfl) (fun _ => rfl) (fun _ => rfl)
        exact ⟨by simpa using f3.1, by simpa using f3.2.1, by simpa using f3.2.2.1, this.1, this.2.1, this.2.2, fun x hx => by simp [State.emit]; left; exact hx⟩
    · rw [f3.2.2.2.1]; exact ⟨f3.1, f3.2.1, f3.2.2.1, rfl, rfl, rfl, fun x hx => hx⟩
  have hO : ∀ x ∈ s4.outbox, x ∈ (if (s4.fn n).respTail = 0 then s4.endSession n 1 else s4).outbox := by
    intro x hx; split
    · rw [endSession_outbox]; exact hx
    · exact hx
  refine ⟨fun hw => ?_, ?_, ?_, ?_, fl, ct, tg, hO _ (f4.2.2.2.2.2.2 _ (by rw [f3.2.2.2.2]; exact o2))⟩
  · rw [if_neg (by rw [f4.2.2.2.1]; exact hne hw)]
    exact ⟨f4.1, f4.2.2.1, f4.2.2.2.2.2.1⟩
  · split
    · rw [State.endSession_clusters]; exact f4.2.1
    · exact f4.2.1
  · rw [← f4.2.2.2.1]; split
    · exact endSession_keep Fn.respTail (fun _ _ _ => rfl) (fun _ _ => rfl) ..
    · rfl
  · rw [← f4.2.2.2.2.1]; split
    · exact endSession_keep Fn.responses (fun _ _ _ => rfl) (fun _ _ => rfl) ..
    · rfl

theorem closeDrawer_keep {α : Type} (π : Fn → α) (h : ∀ (f : Fn) n e, π { f with eventCount := n, events := e } = π f)
    (m w n) (s : State) (hn : n ≠ m) : π ((s.closeDrawer m w).fn n) = π (s.fn n) := by
  unfold State.closeDrawer; split
  · unfold State.endSession; dsimp only; split
    · simp only [List.foldl, State.modParcel_fn]
      rw [destroySlot_keep π h, destroySlot_keep π h, destroySlot_keep π h, destroySlot_keep π h, State.modFn_fn_ne hn, State.modFn_fn_ne hn]
    · rw [State.modFn_fn_ne hn]
  · rfl

theorem closeDrawer_len (m w) (s : State) : (s.closeDrawer m w).fns.length = s.fns.length := by
  unfold State.closeDrawer; split
  · rw [endSession_len]; simp
  · rfl

theorem closeDrawer_self (m w) (s : State) (hl : m < s.fns.length) (he : (s.fn m).enable = true) :
    ((s.closeDrawer m w).fn m).enable = false ∧ ((s.closeDrawer m w).fn m).active = false ∧ ((s.closeDrawer m w).fn m).session = false ∧ ((s.closeDrawer m w).fn m).gen = nextGen (s.fn m).gen := by
  simp only [State.closeDrawer, he, if_true]
  have k : ∀ {α : Type} (π : Fn → α) (h : ∀ (f : Fn) n e, π { f with eventCount := n, events := e } = π f)
      (h2 : ∀ (f : Fn) b, π { f with session := false, bounce := b } = π f), π ((State.endSession m w (s.modFn m fun f => { f with enable := false, active := false, openHeld := false, gen := nextGen f.gen, unread := [] })).fn m) = π { s.fn m with enable := false, active := false, openHeld := false, gen := nextGen (s.fn m).gen, unread := [] } := by
    intro α π h h2; rw [endSession_keep π h h2, State.modFn_fn hl]
  exact ⟨k Fn.enable (fun _ _ _ => rfl) (fun _ _ => rfl), k Fn.active (fun _ _ _ => rfl) (fun _ _ => rfl), endSession_session _ _ _ (by simpa using hl), k Fn.gen (fun _ _ _ => rfl) (fun _ _ => rfl)⟩

theorem closes_other {α : Type} (π : Fn → α) (h : ∀ (f : Fn) n e, π { f with eventCount := n, events := e } = π f) (w n) (l : List Nat) (hn : n ∉ l) (s : State) :
    π ((l.foldl (fun t n => t.closeDrawer n w) s).fn n) = π (s.fn n) := by
  induction l generalizing s with
  | nil => rfl
  | cons a l ih =>
    simp only [List.mem_cons, not_or] at hn
    rw [List.foldl_cons, ih hn.2, closeDrawer_keep π h _ _ _ _ hn.1]

theorem closes_len (w) (l : List Nat) (s : State) : (l.foldl (fun t n => t.closeDrawer n w) s).fns.length = s.fns.length :=
  foldl_keeps (fun s : State => s.fns.length) _ (fun b a => closeDrawer_len ..) _ _

theorem closes_self (w n) (l : List Nat) (hn : n ∈ l) (hd : l.Nodup) (s : State) (hl : n < s.fns.length) (he : (s.fn n).enable = true) :
    let t := l.foldl (fun t n => t.closeDrawer n w) s
    (t.fn n).enable = false ∧ (t.fn n).active = false ∧ (t.fn n).session = false ∧ (t.fn n).gen = nextGen (s.fn n).gen := by
  induction l generalizing s with
  | nil => simp at hn
  | cons a l ih =>
    dsimp only [List.foldl_cons]
    rw [List.nodup_cons] at hd
    by_cases ha : n = a
    · subst ha
      have := closeDrawer_self n w s hl he
      rw [closes_other Fn.enable (fun _ _ _ => rfl) _ _ _ hd.1, closes_other Fn.active (fun _ _ _ => rfl) _ _ _ hd.1, closes_other Fn.session (fun _ _ _ => rfl) _ _ _ hd.1, closes_other Fn.gen (fun _ _ _ => rfl) _ _ _ hd.1]
      exact this
    · have hn' : n ∈ l := by simpa [ha] using hn
      have := ih hn' hd.2 (s.closeDrawer a w) (by rw [closeDrawer_len]; exact hl) (by rw [closeDrawer_keep Fn.enable (fun _ _ _ => rfl) _ _ _ _ ha]; exact he)
      rw [closeDrawer_keep Fn.gen (fun _ _ _ => rfl) _ _ _ _ ha] at this
      exact this

theorem closes_fields (w) (l : List Nat) (s : State) : let t := l.foldl (fun t n => t.closeDrawer n w) s
    t.clusters = s.clusters ∧ t.boot = s.boot ∧ t.clock = s.clock ∧ t.host = s.host := by
  have h : ∀ (m : Nat) (s : State), (s.closeDrawer m w).clusters = s.clusters ∧ (s.closeDrawer m w).boot = s.boot ∧ (s.closeDrawer m w).clock = s.clock ∧ (s.closeDrawer m w).host = s.host := by
    intro m s; unfold State.closeDrawer; split <;> simp
  exact ⟨foldl_keeps State.clusters _ (fun b a => (h a b).1) _ _, foldl_keeps State.boot _ (fun b a => (h a b).2.1) _ _, foldl_keeps State.clock _ (fun b a => (h a b).2.2.1) _ _, foldl_keeps State.host _ (fun b a => (h a b).2.2.2) _ _⟩

theorem setVfs_fn (k i : Nat) (s : State) (hi : i < s.fns.length) : (s.setVfs k).fn i = if i = 0 then s.fn i else { s.fn i with present := decide (i ≤ k) } := by
  simp only [State.setVfs, State.fn, List.getD_eq_getElem?_getD, List.getElem?_mapIdx]
  rw [List.getElem?_eq_getElem hi]; simp

theorem signalCtx_keep (p c i a : Nat) (s : State) : (s.signalCtx p c i a).fns = s.fns := by simp

end Sys2Proof.Machine
end

