-- ==== Sys2Proof/Laws/Turns.lean ====
section
/-! SUPPORT. Contexts in time: what a swap, a preload and a replay leave of a parcel (R28, R302). -/

set_option linter.unusedTactic false
set_option linter.unreachableTactic false
set_option linter.unusedVariables false
set_option linter.unusedSimpArgs false
set_option Elab.async false

namespace Sys2Proof.Machine

theorem time_fabric (t : State) (f : Fabric) : State.time { t with fabric := f } = t.time := rfl

theorem foldl_fix {σ α : Type} (f : σ → α → σ) (s : σ) : ∀ (l : List α), (∀ a ∈ l, f s a = s) → l.foldl f s = s
  | [], _ => rfl
  | a :: l, h => by rw [List.foldl_cons, h a (by simp)]; exact foldl_fix f s l fun b hb => h b (by simp [hb])

theorem len_of (s : State) {l : Nat} (h : Good l s) : s.parcels.length = 16 ∧ s.clusters.length = 64 ∧ s.fns.length = 17 := ⟨h.parcels16, h.clusters64, h.fns17⟩

theorem good_of (s : State) (h : s.Sound) : Good s.flash.lifecycle s := (good_iff _ _).2 ⟨rfl, h⟩

theorem foldl_one {σ : Type} (f : σ → Nat → σ) (p : Nat) : ∀ (l : List Nat) (s : σ), (∀ t, ∀ q ∈ l, q ≠ p → f t q = t) → p ∈ l → l.Nodup → l.foldl f s = f s p
  | [], _, _, h, _ => by simp at h
  | a :: l, s, hf, h, hn => by
    rw [List.foldl_cons]
    by_cases e : a = p
    · subst e; exact foldl_fix f _ l fun b hb => hf _ b (by simp [hb]) fun e => by subst e; simp [hb] at hn
    · rw [hf s a (by simp) e]; exact foldl_one f p l s (fun t q hq => hf t q (by simp [hq])) (by simpa [Ne.symm e] using h) (by simpa using hn.of_cons)

theorem extPuts_replay (p q : Nat) : ∀ (b : Bytes) (a : Nat) (s : State), ((s.extPuts p a b).parcel q).replay = (s.parcel q).replay
  | [], _, _ => rfl
  | b :: r, a, s => by rw [State.extPuts, extPuts_replay p q r]; exact modParcel_replay fun _ => rfl

theorem extWriteByte_replay (raw p a b q) (s : State) : ((s.extWriteByte raw p a b).parcel q).replay = (s.parcel q).replay := by
  unfold State.extWriteByte
  split
  · split
    · exact modParcel_replay fun _ => rfl
    · split
      · exact modParcel_replay fun _ => rfl
      · exact extPuts_replay ..
  · exact modParcel_replay fun _ => rfl

theorem extWrite_replay (raw p q) : ∀ (b : Bytes) (a : Nat) (s : State), ((s.extWrite raw p a b).parcel q).replay = (s.parcel q).replay
  | [], _, _ => rfl
  | b :: r, a, s => by rw [State.extWrite, extWrite_replay raw p q r]; exact extWriteByte_replay ..

theorem writeSpace_replay (raw p k sp a b q) (s : State) : ((s.writeSpace raw p k sp a b).parcel q).replay = (s.parcel q).replay := by
  unfold State.writeSpace
  split
  · rfl
  · split
    · simp
    · simp
    · simp
    · exact extWrite_replay ..
    · split
      · exact extWrite_replay ..
      · rfl
    · rfl

theorem putSaved_replay (p k q) : ∀ (l : List Operand) (b : Bytes) (s : State), ((State.putSaved p k l b s).parcel q).replay = (s.parcel q).replay
  | [], _, _ => rfl
  | o :: l, b, s => by rw [State.putSaved, putSaved_replay p k q l]; exact writeSpace_replay ..

theorem modCtx_replay (p c g q) (s : State) : ((s.modCtx p c g).parcel q).replay = (s.parcel q).replay := modParcel_replay fun _ => rfl

theorem putStakes_replay (p q) (l) (s : State) : ((State.putStakes p l s).parcel q).replay = (s.parcel q).replay :=
  foldl_keeps (fun s : State => (s.parcel q).replay) _ (fun b a => by simp) l s

theorem rewind_replay (p c q) (s : State) : ((State.rewind p c s).parcel q).replay = (s.parcel q).replay := by
  unfold State.rewind; dsimp only; rw [putStakes_replay, modCtx_replay]

theorem swapIn_replay (p c q) (s : State) : ((State.swapIn p c s).parcel q).replay = (s.parcel q).replay := by
  unfold State.swapIn; dsimp only; split
  · simp [State.clearStores]
  · rw [State.drawnMany_parcel, modCtx_replay, State.modClusters_parcel]
    rw [foldl_keeps (fun s : State => (s.parcel q).replay) _ (fun b a => putSaved_replay ..)]
    simp [State.clearStores]

theorem map_getD (l : List Nat) : (List.range l.length).map (fun i => l.getD i 0) = l := by
  apply List.ext_getElem
  · simp
  · intro i h1 h2; simp [h2]

end Sys2Proof.Machine
end

