-- ==== Sys2Proof/Laws/Rounds.lean ====
section
/-! SUPPORT. What the steps of a round leave of a context (R116 to R135). -/

set_option linter.unusedTactic false
set_option linter.unreachableTactic false
set_option linter.unusedVariables false
set_option linter.unusedSimpArgs false
set_option Elab.async false

namespace Sys2Proof.Machine

theorem copyRows_fold (p k : Nat) (d : Descr) : ∀ (n i : Nat) (s : State), s.copyRows p k d n i =
    (List.range' i n).foldl (fun t i => t.writeSpace (d.srcSpace == 4) p k d.dstSpace (d.dstAddr + i * d.dstStride) (t.readSpace p k d.srcSpace (d.srcAddr + i * d.srcStride) d.length)) s
  | 0, _, _ => rfl
  | n + 1, i, s => by rw [State.copyRows, copyRows_fold p k d n]; rfl

theorem modRound_round {g : Round → Round} {x : Context} {r : Round} (h : x.round = some r) : (Context.modRound g x).round = some (g r) := by
  simp only [Context.modRound, h, Option.map_some]

theorem modCtx_ctx_eq {p c : Nat} {g : Context → Context} {s : State} (h : p < s.parcels.length ∧ c < (s.parcel p).contexts.length) : (s.modCtx p c g).ctx p c = g (s.ctx p c) :=
  State.modCtx_ctx h.1 h.2

theorem modCtx_range {p c : Nat} {g : Context → Context} {s : State} (h : p < s.parcels.length ∧ c < (s.parcel p).contexts.length) :
    p < (s.modCtx p c g).parcels.length ∧ c < ((s.modCtx p c g).parcel p).contexts.length := by
  refine ⟨by simpa [State.modCtx, State.modParcel] using h.1, ?_⟩
  rw [State.modCtx, State.modParcel_parcel h.1]
  simpa [Parcel.modCtx] using h.2

theorem keepRound_round {p c : Nat} {r : Round} {s : State} (h : s.keepRound p c = some r) : (s.ctx p c).round = some r ∧ (s.ctx p c).started = true ∧ r.outcome = none := by
  unfold State.keepRound at h
  cases hr : (s.ctx p c).round with
  | none => simp [hr] at h
  | some v =>
    simp only [hr] at h
    split at h
    · simp only [Option.some.injEq] at h; subst h
      rename_i hc; simp only [Bool.and_eq_true, Option.isNone_iff_eq_none] at hc
      exact ⟨rfl, hc.2, hc.1.1⟩
    · simp at h

theorem endRoundOnly_round {p c n : Nat} {r : Round} {s : State} (hl : p < s.parcels.length ∧ c < (s.parcel p).contexts.length) (h : (s.ctx p c).round = some r) :
    ((s.endRoundOnly p c n).ctx p c).round = some (if r.outcome.isSome then r else r.ended n) := by
  unfold State.endRoundOnly
  simp only [h]
  split
  · exact h
  · split
    · rw [State.evRoundClosed, State.evVf_ctx, modCtx_ctx_eq hl]
    · rw [modCtx_ctx_eq hl]

theorem endRound_round {p c n : Nat} {r : Round} {s : State} (hl : p < s.parcels.length ∧ c < (s.parcel p).contexts.length) (h : (s.ctx p c).round = some r) :
    ((s.endRound p c n).ctx p c).round = some (if r.outcome.isSome then r else r.ended n) := by
  unfold State.endRound
  split
  · dsimp only
    split
    · exact endRoundOnly_round hl h
    · rw [State.dropHeld_ctx]; exact endRoundOnly_round hl h
  · rename_i hc
    simp only [Context.roundOpen, h, Bool.not_eq_true] at hc
    cases ho : r.outcome with
    | none => simp [ho] at hc
    | some v => simp [h]
structure SameRound (r r' : Round) : Prop where
  desc : r'.desc = r.desc
  statuses : r'.statuses = r.statuses
  results : r'.results = r.results
  finals : r'.finals = r.finals

theorem judge_round {p c : Nat} {r : Round} {s : State} (hl : p < s.parcels.length ∧ c < (s.parcel p).contexts.length) (h : (s.ctx p c).round = some r) :
    ∃ r', ((s.judgeRound p c).ctx p c).round = some r' ∧ SameRound r r' := by
  have he : ∀ n (t : State), t.parcels = s.parcels → ∃ r', ((t.endRound p c n).ctx p c).round = some r' ∧ SameRound r r' := by
    intro n t ht
    have hp : ∀ q, t.parcel q = s.parcel q := fun q => by simp [State.parcel, ht]
    refine ⟨_, endRound_round (by rw [ht, hp]; exact hl) (by rw [State.ctx, hp]; exact h), ?_⟩
    split <;> exact ⟨rfl, rfl, rfl, rfl⟩
  unfold State.judgeRound
  simp only [h]
  split
  · exact ⟨r, h, rfl, rfl, rfl, rfl⟩
  · split
    · exact he 1 s rfl
    · split
      · exact ⟨r, h, rfl, rfl, rfl, rfl⟩
      · split
        · exact he 0 _ rfl
        · exact he 3 _ rfl

theorem roster_round {p c : Nat} {r : Round} {s : State} (hl : p < s.parcels.length ∧ c < (s.parcel p).contexts.length) (h : (s.ctx p c).round = some r) :
    ∃ r', ((s.closeRoster p c).ctx p c).round = some r' ∧ SameRound r r' ∧ p < (s.closeRoster p c).parcels.length ∧ c < ((s.closeRoster p c).parcel p).contexts.length := by
  unfold State.closeRoster
  cases hk : s.keepRound p c with
  | none => exact ⟨r, h, ⟨rfl, rfl, rfl, rfl⟩, hl⟩
  | some v =>
    dsimp only
    split
    · have hm : ∃ r', ((s.modCtx p c (Context.modRound fun r => { r with rosterClosed := true })).ctx p c).round = some r' ∧ SameRound r r' := by
        rw [modCtx_ctx_eq hl]; exact ⟨_, modRound_round h, rfl, rfl, rfl, rfl⟩
      obtain ⟨r', h1, h2⟩ := hm
      split
      · exact ⟨r', h1, h2, (modCtx_range hl).1, (modCtx_range hl).2⟩
      · exact ⟨r', h1, h2, (modCtx_range hl).1, (modCtx_range hl).2⟩
    · exact ⟨r, h, ⟨rfl, rfl, rfl, rfl⟩, hl⟩

theorem fix_stands (l : List Nat) (r : Round) {u v : Nat} (h : tget u r.statuses = some v) : tget u (r.fix l).statuses = some v := by
  unfold Round.fix
  dsimp only
  have : ∀ (l : List Nat) (m : Tbl Nat), tget u m = some v → tget u (l.foldl (fun m w =>
      let u := w % 2 ^ 20
      if r.desc.clients ≤ u || (tget u m).isSome then m else tset u (w / 2 ^ 20 % 16) m) m) = some v := by
    intro l
    induction l with
    | nil => intro m h; exact h
    | cons w l ih =>
      intro m h
      rw [List.foldl_cons]
      refine ih _ ?_
      dsimp only
      split
      · exact h
      · rename_i hc
        have hu : u ≠ w % 2 ^ 20 := fun e => hc (by rw [← e, h]; simp)
        rw [tget_tset_ne _ _ hu]; exact h
  exact this l _ h

end Sys2Proof.Machine
end

