-- ==== Sys2Proof/Laws/Stations.lean ====
section
/-! SUPPORT. What the stations send and take leaves of a link (R146 to R149). -/

set_option linter.unusedTactic false
set_option linter.unreachableTactic false
set_option linter.unusedVariables false
set_option linter.unusedSimpArgs false
set_option Elab.async false

namespace Sys2Proof.Machine

theorem State.foldl_emit_links {α : Type} (f : α → Output) (l : List α) : ∀ s : State, (l.foldl (fun t x => t.emit (f x)) s).links = s.links :=
  foldl_links fun _ _ => rfl
/-- What sending grains leaves of a link: everything but the numbers sent. -/
structure Sends {α : Type} (π : Link → α) : Prop where
  set : ∀ k a b c, π { k with txNext := a, window := b, txQueue := c } = π k
  queue : ∀ k c, π { k with txQueue := c } = π k

theorem Link.flush_keep {α : Type} {π : Link → α} (h : Sends π) : ∀ n k, π (k.flush n).1 = π k
  | 0, k => rfl
  | n + 1, k => by
    unfold Link.flush; split
    · rfl
    · exact (Link.flush_keep h n _).trans (h.set k _ _ _)

theorem State.flushLink_link {α : Type} {π : Link → α} (h : Sends π) (l n : Nat) (s : State) : π ((s.flushLink l).link n) = π (s.link n) := by
  unfold State.flushLink; dsimp only
  rw [link_of_links n (State.foldl_emit_links _ _ _)]
  by_cases e : n = l
  · subst e
    by_cases hn : n < s.links.length
    · rw [State.modLink_link hn]; exact Link.flush_keep h _ _
    · simp [State.modLink, State.link, List.getD_eq_getElem?_getD, List.getElem?_eq_none (Nat.le_of_not_lt hn)]
  · rw [State.modLink_link_ne e]

theorem State.sendGrain_link {α : Type} {π : Link → α} (h : Sends π) (l kd : Nat) (b : Bytes) (n : Nat) (s : State) : π ((s.sendGrain l kd b).link n) = π (s.link n) := by
  unfold State.sendGrain; dsimp only; split
  · rw [show ∀ (t : State) o, (t.emit o).link n = t.link n from fun _ _ => rfl, State.flushLink_link h, modLink_keep π]
    exact fun k => h.queue k _
  · rfl

theorem State.sendNak_link {α : Type} {π : Link → α} (h : Sends π) (hn : ∀ k a, π { k with naks := a } = π k) (l n : Nat) (s : State) : π ((s.sendNak l).link n) = π (s.link n) := by
  unfold State.sendNak; rw [State.sendGrain_link h, modLink_keep π]; exact fun k => hn k _

theorem State.ack_link {α : Type} {π : Link → α} (h : Sends π) (hw : ∀ k b, π { k with window := b } = π k) (l a n : Nat) (s : State) : π ((s.ack l a).link n) = π (s.link n) := by
  unfold State.ack; split
  · rfl
  · dsimp only; split
    · rw [State.flushLink_link h, modLink_keep π]; exact fun k => hw k _
    · rfl

theorem State.replayFrom_links (l q : Nat) (s : State) : (s.replayFrom l q).links = (s.modLink l fun k => { k with replays := k.replays + 1 }).links :=
  State.foldl_emit_links _ _ _

theorem State.trainingEnds_link (l n : Nat) (s : State) : (s.trainingEnds l).link n = s.link n := by
  unfold State.trainingEnds; split
  · exact link_of_links n (by simp)
  · rfl

theorem trains_of {l : Nat} {s t u : State} (h : State.Trains l t u) (hn : t.now = s.now) (ht : t.time = s.time) (ho : ∀ n ≠ l, (t.link n).state = (s.link n).state) : State.Trains l s u :=
  ⟨⟨h.state.1, h.state.2.trans hn⟩, h.fresh, h.numbers, fun n e => (h.others n e).trans (ho n e), h.time.trans ht⟩

theorem trains_mod {l : Nat} {s u : State} {g : Link → Link} (h : State.Trains l (s.modLink l g) u) : State.Trains l s u :=
  trains_of h rfl rfl fun n e => by rw [State.modLink_link_ne e]

theorem State.enterTraining_link {α : Type} {π : Link → α} (h : Steady π) (hs : ∀ k v, π { k with state := v } = π k)
    (ht : ∀ k c, π { k with trainChain := c, trained := false, helloOk := false, echoes := 0, minRtt := 0, routeLost := false, rxNext := 0, txNext := 0, window := [], txQueue := [], rxGrains := [], scrambler := 0, nakPend := false } = π k)
    (l : Nat) (why : LinkCause) (n : Nat) (s : State) : π ((s.enterTraining l why).link n) = π (s.link n) := by
  unfold State.enterTraining
  rw [modLink_keep π _ _ _ _ (fun k => ht k _), State.setLinkState_link h, modLink_keep π _ _ _ _ (fun k => hs k _)]

theorem setState_keep {α : Type} {π : Link → α} (h : Steady π) (hs : ∀ k v, π { k with state := v } = π k) (l v : Nat) (why : LinkCause) (n : Nat) (s : State) :
    π ((s.setLinkState l v why).link n) = π (s.link n) := by
  rw [State.setLinkState_link h, modLink_keep π _ _ _ _ (fun k => hs k _)]

end Sys2Proof.Machine
end

