-- ==== Sys2Proof/Laws/Messages.lean ====
section
/-! SUPPORT. What messages, answers and timers leave of the connections, the parcels and the fabric (R160 to R193). -/

set_option linter.unusedTactic false
set_option linter.unreachableTactic false
set_option linter.unusedVariables false
set_option linter.unusedSimpArgs false
set_option Elab.async false

namespace Sys2Proof.Machine

theorem Conn.skip_rx : ∀ (n : Nat) (k : Conn), k.rxNext ≤ (Conn.skip n k).rxNext
  | 0, k => Nat.le_refl _
  | n + 1, k => by
    rw [Conn.skip]; split
    · split
      · exact Nat.le_trans (Nat.le_succ _) (Conn.skip_rx n (k.pass true))
      · exact Nat.le_refl _
    · exact Nat.le_refl _

theorem skip_tag : ∀ (n : Nat) (k : Conn), (Conn.skip n k).tagFails = k.tagFails
  | 0, k => rfl
  | n + 1, k => by
    rw [Conn.skip]; split
    · split
      · exact skip_tag n (k.pass true)
      · rfl
    · rfl

theorem row_seq {s : State} {m : Msg} {i : Instr}
    (h : (i = .write m ∧ m.kind = kWrite) ∨ (i = .readReq m ∧ m.kind = kReadReq) ∨ (i = .leaf m ∧ m.kind = kLeaf) ∨ (i = .attest m ∧ m.kind = kAttest)) (hd : m.dstModule = s.boot.moduleId) :
    exec i s = .next (s.arrive m) := by
  rcases h with ⟨rfl, h⟩ | ⟨rfl, h⟩ | ⟨rfl, h⟩ | ⟨rfl, h⟩ <;>
    simp [exec, execWrite, execReadReq, execLeaf, execAttest, State.onKind, h, hd]

theorem refuseArrived_mem (m : Msg) (c : Nat) (s : State) : (s.refuseArrived m c).parcels = s.parcels ∧ (s.refuseArrived m c).clusters = s.clusters ∧
    (consuming c = false → (s.refuseArrived m c).fabric.conns = s.fabric.conns) := by
  unfold State.refuseArrived; dsimp only; split
  · rename_i h; simp at h; simp [h.1]
  · simp [State.refuse_conns]

theorem ease_heard (id n : Nat) (s : State) : (s.heard id).ease n = s.ease n := by
  simp [State.heard, State.touchConn, State.ease, State.modConn, State.putConn]; repeat' split
  all_goals rfl

theorem heard_parcels (id : Nat) (s : State) : (s.heard id).parcels = s.parcels ∧ (s.heard id).clusters = s.clusters := by simp [State.heard, State.touchConn]

theorem easeFails_congr {s t : State} {m : Msg} {k j : Conn} (hs : s.conn? m.conn = some k) (ht : t.conn? m.conn = some j) (hj : j = { k with lastChain := j.lastChain, lastUse := j.lastUse })
    (he : ∀ n, t.ease n = s.ease n) (hp : t.parcels = s.parcels) : t.easeFails m = s.easeFails m ∧ t.admittedBy m = s.admittedBy m ∧ t.clearMsg m = s.clearMsg m := by
  have hc : t.clearMsg m = s.clearMsg m := by simp only [State.clearMsg, hs, ht]; rw [hj]
  have hq : ∀ p, t.parcel p = s.parcel p := fun p => by simp [State.parcel, hp]
  have hx : ∀ p c, t.ctx p c = s.ctx p c := fun p c => by simp [State.ctx, hq]
  have ek : ∀ e, sourceOk e j m = sourceOk e k m := fun e => by rw [hj]; rfl
  have el : j.leafEase = k.leafEase := by rw [hj]
  have eg : j.leafGen = k.leafGen := by rw [hj]
  refine ⟨?_, ?_, hc⟩
  · simp only [State.easeFails, State.leafFails, State.accessFails, hc, State.conn_of hs, State.conn_of ht, he, hq, el, eg, ek, State.stakeBound, hx]
    rfl
  · simp only [State.admittedBy, hc, State.conn_of hs, State.conn_of ht, he, el]

theorem setConn_some {id : Nat} {k : Conn} {s : State} (h : s.conn? id = some k) (v : Nat) (w : ConnCause) : (s.setConnState id v w).conn? id = some { k with state := v } := by
  rw [State.setConnState_look, State.modConn_look, if_pos rfl, h]; rfl

theorem mod_some {id : Nat} {k : Conn} {s : State} {g : Conn → Conn} (h : s.conn? id = some k) : (s.modConn id g).conn? id = some (g k) := by
  rw [State.modConn_look, if_pos rfl, h]; rfl

theorem look_toStation (m : Msg) (n : Nat) (s : State) : (s.toStation m).conn? n = s.conn? n := look_of_fabric (State.toStation_conns ..) n

theorem look_refuse (m : Msg) (c n : Nat) (s : State) : (s.refuse m c).conn? n = s.conn? n := look_of_fabric (State.refuse_conns ..) n

theorem steady_publish (p k : Nat) (h d : Bytes) (s : State) : (s.publish p k h d).fabric = s.fabric ∧ (s.publish p k h d).parcels = s.parcels := by simp [State.publish]

theorem signal_fabric (p i a : Nat) (s : State) : (s.signal p i a).fabric = s.fabric := by simp

theorem stationSignal_look {id : Nat} {k : Conn} {s : State} (h : s.conn? id = some k) (c : Option Nat) (i a : Nat) :
    ∃ d, (s.stationSignal id c i a).conn? id = some { k with dropped := d } := by
  unfold State.stationSignal; dsimp only
  repeat' split
  all_goals first
    | exact ⟨k.dropped, (look_of_fabric (by simp) id).trans h⟩
    | exact ⟨_, mod_some h⟩

theorem State.writeMsg_look {id : Nat} {k : Conn} {s : State} (h : s.conn? id = some k) (b c : Nat) (m : Msg) :
    ∃ d, (s.writeMsg id b c m).conn? id = some { k with dropped := d } := by
  unfold State.writeMsg; dsimp only; split
  · exact stationSignal_look ((look_of_fabric (by simp) id).trans h) ..
  · exact ⟨k.dropped, (look_of_fabric (by simp) id).trans h⟩

theorem pass_rx (k : Conn) : k.rxNext < ((k.pass false).skip 256).rxNext := Nat.lt_of_lt_of_le (Nat.lt_succ_self _) (Conn.skip_rx 256 (k.pass false))

theorem go_rx {id : Nat} {k : Conn} {t : State} (h : t.conn? id = some k) (x : HeldMsg) :
    k.rxNext < ((((t.modConn id fun k => (k.pass false).skip 256).touchConn id).countDrained x).conn id).rxNext := by
  have e := mod_some (g := fun k : Conn => (k.pass false).skip 256) h
  have e2 : (((t.modConn id fun k => (k.pass false).skip 256).touchConn id).countDrained x).conn? id = some { ((k.pass false).skip 256) with lastUse := (t.modConn id fun k => (k.pass false).skip 256).fabric.useCount + 1 } := by
    refine (look_of_fabric (s := (t.modConn id fun k => (k.pass false).skip 256).touchConn id) rfl id).trans ?_
    rw [State.touchConn_look, if_pos rfl, e]; rfl
  rw [State.conn_of e2]; exact pass_rx k

theorem look_of {s t : State} {id : Nat} {k : Conn} (h : s.conn? id = some k) (e : t.fabric.conns = s.fabric.conns) : t.conn? id = some k := (look_of_fabric e id).trans h

theorem sendClose_look {id : Nat} {k : Conn} {s : State} (h : s.conn? id = some k) :
    ∃ b, (s.sendClose id).conn? id = some { k with closeSent := b } ∧ (k.peerKnown = true → b = true) := by
  unfold State.sendClose; dsimp only; rw [State.conn_of h]; split
  · rename_i e
    refine ⟨k.closeSent, h, fun e2 => ?_⟩
    simpa [e2] using e
  · refine ⟨true, ?_, fun _ => rfl⟩
    exact mod_some (g := fun k => { k with closeSent := true }) (look_of h (by simp [State.handOver, State.toStation_conns]))

theorem sendClose_mem (id : Nat) (s : State) : (s.sendClose id).parcels = s.parcels ∧ (s.sendClose id).clusters = s.clusters := by
  unfold State.sendClose; dsimp only; split <;> simp [State.handOver]

theorem setConn_mem {id v : Nat} {w : ConnCause} {s : State} (h : (s.conn id).state ≠ 2 ∧ (s.conn id).state ≠ 3) :
    (s.setConnState id v w).parcels = s.parcels ∧ (s.setConnState id v w).clusters = s.clusters := by
  unfold State.setConnState; dsimp only; split
  · exact ⟨rfl, rfl⟩
  · rw [if_neg (by simp [h.1, h.2])]; split <;> simp

theorem tryClose_look {id : Nat} {k : Conn} {s : State} (h : s.conn? id = some k) :
    ∃ b v, (s.tryClose id).conn? id = some { k with closeSent := b, state := v } ∧ (v = k.state ∨ (k.state = 4 ∧ v = 6)) := by
  unfold State.tryClose; dsimp only; rw [State.conn_of h]; split
  · rename_i e; simp at e
    obtain ⟨b, hb, _⟩ := sendClose_look h
    rw [State.conn_of hb]; split
    · exact ⟨b, 6, setConn_some hb .., .inr ⟨e.1, rfl⟩⟩
    · exact ⟨b, k.state, hb, .inl rfl⟩
  · exact ⟨k.closeSent, k.state, h, .inl rfl⟩

theorem tryClose_mem {id : Nat} {k : Conn} {s : State} (h : s.conn? id = some k) :
    (s.tryClose id).parcels = s.parcels ∧ (s.tryClose id).clusters = s.clusters := by
  unfold State.tryClose; dsimp only; rw [State.conn_of h]; split
  · rename_i e; simp at e
    obtain ⟨b, hb, _⟩ := sendClose_look h
    rw [State.conn_of hb]; split
    · have := setConn_mem (v := 6) (w := .peer) (s := s.sendClose id) (id := id) (by rw [State.conn_of hb]; simp [e.1])
      rw [this.1, this.2]; exact sendClose_mem id s
    · exact sendClose_mem id s
  · exact ⟨rfl, rfl⟩

theorem bothVerified_look {id : Nat} {k : Conn} {s : State} (h : s.conn? id = some k) :
    ∃ v, (s.bothVerified id).conn? id = some { k with state := v } := by
  unfold State.bothVerified; dsimp only; rw [State.conn_of h]; split
  · exact ⟨3, setConn_some h ..⟩
  · exact ⟨k.state, h⟩

theorem sendSeq_look {id : Nat} {k : Conn} {s : State} (h : s.conn? id = some k) (kind : Nat) (sg : Bool) (arg : Nat) (dst : Option Nat) (body : Bytes) :
    ∃ k', (s.sendSeq id kind sg arg dst body).conn? id = some k' ∧ k'.state = k.state := by
  have h1 : ∀ m : Msg, ((s.modConn id fun k => { k with txNext := k.txNext + 1, outst := k.outst ++ [{ Outst.reset with msg := m, sentChain := s.now }] }).touchConn id |>.toStation m).conn? id =
      some { k with txNext := k.txNext + 1, outst := k.outst ++ [{ Outst.reset with msg := m, sentChain := s.now }], lastUse := (s.modConn id fun k => { k with txNext := k.txNext + 1, outst := k.outst ++ [{ Outst.reset with msg := m, sentChain := s.now }] }).fabric.useCount + 1 } := by
    intro m; rw [look_toStation, State.touchConn_look, if_pos rfl, mod_some h]; rfl
  exact ⟨_, h1 _, rfl⟩

theorem keysConfirmed_look {id : Nat} {k : Conn} {s : State} (h : s.conn? id = some k) :
    ((s.keysConfirmed id).conn id).state = if k.attested then 2 else 3 := by
  unfold State.keysConfirmed; dsimp only; rw [State.conn_of h]; split
  · have a := mod_some (g := fun k => { k with lastChain := s.now }) (setConn_some h 2 .peer)
    obtain ⟨k', b, c⟩ := sendSeq_look a kAttest false 0 none (((s.setConnState id 2 .peer).modConn id fun k => { k with lastChain := s.now }).report (connParcel id) (bindingData s.boot.moduleId k.peerModule k.ephPub k.peerEph))
    exact (congrArg Conn.state (State.conn_of (look_of b rfl))).trans c
  · rw [State.conn_of (mod_some (setConn_some h 3 .peer))]

theorem handOver_conns (id : Nat) (m : Msg) (s : State) : (s.handOver id m).fabric.conns = s.fabric.conns := State.toStation_conns ..

theorem sendAck_look {id : Nat} {k : Conn} {s : State} (h : s.conn? id = some k) : (s.sendAck id).conn? id = some { k with ackSent := true } := by
  unfold State.sendAck; dsimp only
  exact look_of (mod_some (g := fun k => { k with ackSent := true }) h) (State.toStation_conns ..)

theorem answered_go {s : State} {id : Nat} {k : Conn} {m : Msg} {sealIt : Bool} (f : State → State) (hk : s.conn? id = some k) (hc : k.carries m.kind = true)
    (h1 : sealIt = true → (k.encrypt || m.viaGlobal) = true → m.enc = true) (h0 : sealIt = false → m.enc = false) (h2 : m.enc = true → tagOk k.rxKey m = true) :
    s.answered id m sealIt f = f ((s.modConn id fun k => { k with lastChain := s.now, tagFails := if m.enc then 0 else k.tagFails }).touchConn id) := by
  unfold State.answered; dsimp only; rw [State.conn_of hk]
  rw [if_neg (by simp [hc]), if_neg (by
    intro h; simp at h
    have := h1 h.1.2 (by simpa using h.1.1); rw [this] at h; simp at h), if_neg (by
    intro h; simp at h; have := h0 h.1; rw [this] at h; simp at h), if_neg (by
    intro h; simp at h; have := h2 h.1; rw [this] at h; simp at h)]

theorem answered_look {s : State} {id : Nat} {k : Conn} {m : Msg} (hk : s.conn? id = some k) :
    ∃ a b, ((s.modConn id fun k => { k with lastChain := s.now, tagFails := if m.enc then 0 else k.tagFails }).touchConn id).conn? id =
      some { k with lastChain := s.now, tagFails := a, lastUse := b } := by
  refine ⟨if m.enc then 0 else k.tagFails, (s.modConn id fun k => { k with lastChain := s.now, tagFails := if m.enc then 0 else k.tagFails }).fabric.useCount + 1, ?_⟩
  rw [State.touchConn_look, if_pos rfl, mod_some hk]; rfl

theorem extPuts_fab (f : Fabric) (p : Nat) (b : Bytes) : ∀ (a : Nat) (s : State), State.extPuts p a b { s with fabric := f } = { State.extPuts p a b s with fabric := f } := by
  induction b with
  | nil => intro _ _; rfl
  | cons x r ih => intro a s; exact ih (a + 1) (s.extPut p a x)

theorem extWriteByte_fab (f : Fabric) (raw : Bool) (p a : Nat) (b : Byte) (s : State) : State.extWriteByte raw p a b { s with fabric := f } = { State.extWriteByte raw p a b s with fabric := f } := by
  unfold State.extWriteByte
  rw [show State.inWindow p a { s with fabric := f } = State.inWindow p a s from rfl, show State.windowDead p { s with fabric := f } = State.windowDead p s from rfl]
  split
  · split
    · rfl
    · split
      · rfl
      · exact extPuts_fab f p _ _ s
  · rfl

theorem extWrite_fab (f : Fabric) (raw : Bool) (p : Nat) (b : Bytes) : ∀ (a : Nat) (s : State), State.extWrite raw p a b { s with fabric := f } = { State.extWrite raw p a b s with fabric := f } := by
  induction b with
  | nil => intro _ _; rfl
  | cons x r ih => intro a s; rw [State.extWrite, extWriteByte_fab, ih]; rfl

theorem modClusters_fab (f : Fabric) (g : Cluster → Cluster) (l : List Nat) : ∀ s : State, State.modClusters l g { s with fabric := f } = { State.modClusters l g s with fabric := f } := by
  induction l with
  | nil => intro _; rfl
  | cons x l ih => intro s; exact ih (s.modCluster x g)

theorem writeSpace_fab (f : Fabric) (raw : Bool) (p k sp a : Nat) (b : Bytes) (s : State) : State.writeSpace raw p k sp a b { s with fabric := f } = { State.writeSpace raw p k sp a b s with fabric := f } := by
  unfold State.writeSpace
  rw [show State.replaying p { s with fabric := f } = State.replaying p s from rfl, show State.areaOff p { s with fabric := f } = State.areaOff p s from rfl]
  split
  · rfl
  · split
    · exact modClusters_fab f _ _ s
    · exact modClusters_fab f _ _ s
    · exact modClusters_fab f _ _ s
    · exact extWrite_fab ..
    · cases State.areaOff p s with
      | none => rfl
      | some m => exact extWrite_fab ..
    · rfl

theorem modConn_only (id : Nat) (g : Conn → Conn) (s : State) : s.modConn id g = { s with fabric := (s.modConn id g).fabric } := by
  unfold State.modConn; split <;> rfl

theorem touchConn_only (id : Nat) (s : State) : s.touchConn id = { s with fabric := (s.touchConn id).fabric } := by
  unfold State.touchConn; exact modConn_only ..

theorem foldl_other {α β : Type} (π : State → β) {g : State → α → State} {l : List α} (h : ∀ t, ∀ x ∈ l, π (g t x) = π t) : ∀ s : State, π (l.foldl g s) = π s := by
  induction l with
  | nil => intro _; rfl
  | cons x l ih => intro s; exact (ih (fun t y hy => h t y (.tail _ hy)) _).trans (h s x (.head _))

theorem endRound_host (p c o : Nat) (s : State) : (s.endRound p c o).host = s.host := by
  unfold State.endRound State.endRoundOnly; dsimp only; repeat' split
  all_goals first | rfl | simp [State.evRoundClosed]

theorem groupLoss_host (p a b : Nat) (s : State) : (s.groupLoss p a b).host = s.host := by
  unfold State.groupLoss
  refine foldl_other (π := State.host) (fun t c _ => ?_) s
  unfold State.loseMember; repeat' split
  all_goals simp [endRound_host]

theorem State.reportPeer_fabric (m : Nat) (s : State) : (s.reportPeer m).fabric = s.fabric := by
  unfold State.reportPeer; dsimp only; split
  · rfl
  · simp

theorem retirePlat_rest (c k : Nat) (b : Option Nat) (s : State) : (s.retirePlat c k b).parcels = s.parcels ∧ (s.retirePlat c k b).clusters = s.clusters := by
  unfold State.retirePlat; split <;> exact ⟨rfl, rfl⟩

theorem modParcel_keepx {α : Type} (π : Parcel → α) (m n : Nat) (g : Parcel → Parcel) (s : State) (h : ∀ k, π (g k) = π k) : π ((s.modParcel m g).parcel n) = π (s.parcel n) := by
  simp only [State.modParcel, State.parcel, List.getD_eq_getElem?_getD, List.getElem?_modify]
  cases s.parcels[n]? <;> simp; split <;> simp [h]

theorem extPuts_contexts (p q : Nat) (b : Bytes) : ∀ (a : Nat) (s : State), ((s.extPuts p a b).parcel q).contexts = (s.parcel q).contexts ∧ (s.extPuts p a b).parcels.length = s.parcels.length := by
  induction b with
  | nil => intro _ _; exact ⟨rfl, rfl⟩
  | cons x r ih =>
    intro a s; obtain ⟨h1, h2⟩ := ih (a + 1) (s.extPut p a x)
    exact ⟨h1.trans (modParcel_keepx Parcel.contexts p q _ s fun _ => rfl), h2.trans (by simp [State.extPut, State.modParcel])⟩

theorem extWriteByte_contexts (raw : Bool) (p q a : Nat) (b : Byte) (s : State) : ((s.extWriteByte raw p a b).parcel q).contexts = (s.parcel q).contexts ∧ (s.extWriteByte raw p a b).parcels.length = s.parcels.length := by
  unfold State.extWriteByte; split
  · split
    · exact ⟨modParcel_keepx Parcel.contexts p q _ s fun _ => rfl, by simp [State.modParcel]⟩
    · split
      · exact ⟨modParcel_keepx Parcel.contexts p q _ s fun _ => rfl, by simp [State.extPut, State.modParcel]⟩
      · exact extPuts_contexts ..
  · exact ⟨modParcel_keepx Parcel.contexts p q _ s fun _ => rfl, by simp [State.extPut, State.modParcel]⟩

theorem extWrite_contexts (raw : Bool) (p q : Nat) (b : Bytes) : ∀ (a : Nat) (s : State), ((s.extWrite raw p a b).parcel q).contexts = (s.parcel q).contexts := by
  induction b with
  | nil => intro _ _; rfl
  | cons x r ih => intro a s; exact (ih (a + 1) _).trans (extWriteByte_contexts ..).1

theorem extWrite_plen (raw : Bool) (p : Nat) (b : Bytes) : ∀ (a : Nat) (s : State), (s.extWrite raw p a b).parcels.length = s.parcels.length := by
  induction b with
  | nil => intro _ _; rfl
  | cons x r ih => intro a s; exact (ih (a + 1) _).trans (extWriteByte_contexts raw p 0 a x s).2

theorem freeUnits_facts (p : Nat) (s : State) : (s.freeUnits p).parcels = s.parcels ∧ (s.freeUnits p).clusters.length = s.clusters.length ∧
    (∀ c ∉ (s.parcel p).clusters, (s.freeUnits p).cluster c = s.cluster c) ∧
    (∀ c ∈ (s.parcel p).clusters, c < s.clusters.length → ((s.freeUnits p).cluster c).errored = false ∧ ((s.freeUnits p).cluster c).halted = false) := by
  unfold State.freeUnits; dsimp only
  generalize (s.parcel p).clusters = l
  generalize (s.parcel p).subchs = xs
  have h2 : ∀ u : State, ∀ {β : Type} (π : State → β), (∀ t : State, ∀ a b c, π (t.platPend a b c) = π t) →
      π (xs.foldl (fun t x => if t.faults.subchFailed.contains x && t.plat.subchs.getD x 2 = 0 then t.platPend 1 x 3 else t) u) = π u := by
    intro u β π h
    refine foldl_other π (fun t x _ => ?_) u
    split
    · exact h ..
    · rfl
  set G : State → Nat → State := fun t c =>
    (if (t.cluster c).errored then t.retirePlat c 0 (t.cluster c).badBench else t).modCluster c fun u => { u with fenced := u.errored, gated := u.errored, errored := false, badBench := none, halted := false } with hG
  have step : ∀ (t : State) (c : Nat), (G t c).parcels = t.parcels ∧ (G t c).clusters.length = t.clusters.length ∧ (∀ d, d ≠ c → (G t c).cluster d = t.cluster d) ∧
      (c < t.clusters.length → ((G t c).cluster c).errored = false ∧ ((G t c).cluster c).halted = false) := by
    intro t c
    have key : ∀ u : State, u.parcels = t.parcels → u.clusters = t.clusters →
        (u.modCluster c fun u => { u with fenced := u.errored, gated := u.errored, errored := false, badBench := none, halted := false }).parcels = t.parcels ∧
        (u.modCluster c fun u => { u with fenced := u.errored, gated := u.errored, errored := false, badBench := none, halted := false }).clusters.length = t.clusters.length ∧
        (∀ d, d ≠ c → (u.modCluster c fun u => { u with fenced := u.errored, gated := u.errored, errored := false, badBench := none, halted := false }).cluster d = t.cluster d) ∧
        (c < t.clusters.length → ((u.modCluster c fun u => { u with fenced := u.errored, gated := u.errored, errored := false, badBench := none, halted := false }).cluster c).errored = false ∧
          ((u.modCluster c fun u => { u with fenced := u.errored, gated := u.errored, errored := false, badBench := none, halted := false }).cluster c).halted = false) := by
      intro u hp hc
      refine ⟨hp, by simp [hc], fun d hd => ?_, fun h => ?_⟩
      · rw [State.modCluster_cluster_ne hd]; simp [State.cluster, hc]
      · rw [State.modCluster_cluster (by rw [hc]; exact h)]; exact ⟨rfl, rfl⟩
    rw [hG]; dsimp only
    split
    · exact key _ (retirePlat_rest ..).1 (retirePlat_rest ..).2
    · exact key _ rfl rfl
  have all : ∀ (l : List Nat) (t : State), (l.foldl G t).parcels = t.parcels ∧ (l.foldl G t).clusters.length = t.clusters.length ∧ (∀ d, d ∉ l → (l.foldl G t).cluster d = t.cluster d) ∧
      (∀ c < t.clusters.length, (c ∈ l ∨ (t.cluster c).errored = false ∧ (t.cluster c).halted = false) → ((l.foldl G t).cluster c).errored = false ∧ ((l.foldl G t).cluster c).halted = false) := by
    intro l
    induction l with
    | nil => intro t; exact ⟨rfl, rfl, fun _ _ => rfl, fun c _ h => h.resolve_left (by simp)⟩
    | cons x l ih =>
      intro t
      obtain ⟨a, b, c, d⟩ := ih (G t x)
      obtain ⟨a', b', c', d'⟩ := step t x
      refine ⟨a.trans a', b.trans b', fun e he => ?_, fun e he h => ?_⟩
      · simp at he; exact (c e he.2).trans (c' e he.1)
      · refine d e (by omega) ?_
        by_cases hx : e = x
        · subst hx; exact .inr (d' he)
        · rw [c' e hx]
          rcases h with h | h
          · simp [hx] at h; exact .inl h
          · exact .inr h
  obtain ⟨a, b, c, d⟩ := all l s
  refine ⟨(h2 _ State.parcels fun _ _ _ _ => rfl).trans a, (h2 _ (fun t => t.clusters.length) fun _ _ _ _ => rfl).trans b, fun e he => ?_, fun e he hl => ?_⟩
  · exact (h2 _ (fun t => t.cluster e) fun _ _ _ _ => rfl).trans (c e he)
  · rw [h2 _ (fun t => t.cluster e) fun _ _ _ _ => rfl]; exact d e hl (.inl he)

theorem foldl_id {α β : Type} {g : α → β → α} {l : List β} (a : α) (h : ∀ x ∈ l, g a x = a) : l.foldl g a = a := by
  induction l with
  | nil => rfl
  | cons x l ih => rw [List.foldl, h x (.head _)]; exact ih fun y hy => h y (.tail _ hy)

end Sys2Proof.Machine
end

