-- ==== Sys2Proof/Laws/Containment.lean ====
section
/-! SUPPORT. What a fault leaves (R295 to R305). -/

set_option linter.unusedTactic false
set_option linter.unreachableTactic false
set_option linter.unusedVariables false
set_option linter.unusedSimpArgs false
set_option Elab.async false

namespace Sys2Proof.Machine

theorem modFn_self {n : Nat} {g : Fn → Fn} {s : State} (h : n < s.fns.length) : (s.modFn n g).fn n = g (s.fn n) := State.modFn_fn h

theorem raiseFault_last (w : BitVec 32) (s : State) (h : 0 < s.fns.length) : ((s.raiseFault w).fn 0).lastFault = w := by
  unfold State.raiseFault; dsimp only
  rw [evMgmt_fn]
  have a : (((s.modFn 0 fun f => { f with lastFault := w, lastFaultChain := s.now }).evFn 0 0x1401 [w.toNat, s.now]).fn 0).lastFault = w := by
    rw [evFn_keep Fn.lastFault (fun _ _ _ => rfl), State.modFn_fn h]
  refine (foldl_other (fun t : State => (t.fn 0).lastFault) (fun t x _ => ?_) _).trans a
  split
  · rw [evFn_keep Fn.lastFault (fun _ _ _ => rfl), State.modFn_fn_ne (by omega)]
  · rfl

theorem faultCtxWith_other (p c q d : Nat) (w : BitVec 32) (s : State) (h : q ≠ p ∨ d ≠ c) : (s.faultCtxWith p c w).ctx q d = s.ctx q d := by
  unfold State.faultCtxWith State.ctx State.modCtx
  by_cases hq : q = p
  · subst hq
    have hd : d ≠ c := h.resolve_left (by simp)
    by_cases hl : q < s.parcels.length
    · rw [State.modParcel_parcel hl]; simp only [Parcel.modCtx, Parcel.ctx]
      exact getD_modify_ne _ _ hd
    · simp [State.modParcel, State.parcel, List.getD_eq_getElem?_getD, List.getElem?_eq_none (Nat.le_of_not_lt hl)]
  · rw [State.modParcel_parcel_ne hq]

theorem faultCtxWith_self {p c : Nat} {w : BitVec 32} {s : State} (h : p < s.parcels.length ∧ c < (s.parcel p).contexts.length) :
    ((s.faultCtxWith p c w).ctx p c).state = (if (s.ctx p c).state = 0 then 0 else 5) ∧ ((s.ctx p c).started = true → ((s.faultCtxWith p c w).ctx p c).fault = w) := by
  unfold State.faultCtxWith
  rw [State.modCtx_ctx h.1 h.2]
  by_cases h0 : (s.ctx p c).state = 0
  · simp [h0, Context.started]
  · by_cases h5 : (s.ctx p c).state = 5
    · simp [h5, Context.started]
    · simp [h0, h5]

theorem faultCtxWith_range {p c q d : Nat} {w : BitVec 32} {s : State} (h : q < s.parcels.length ∧ d < (s.parcel q).contexts.length) :
    q < (s.faultCtxWith p c w).parcels.length ∧ d < ((s.faultCtxWith p c w).parcel q).contexts.length := by
  unfold State.faultCtxWith State.modCtx
  refine ⟨by simpa [State.modParcel] using h.1, ?_⟩
  by_cases hq : q = p
  · subst hq; rw [State.modParcel_parcel h.1]; simpa [Parcel.modCtx] using h.2
  · rw [State.modParcel_parcel_ne hq]; exact h.2

theorem sound_ctx {s : State} (h : s.Sound) {p c : Nat} (hp : p < 16) (hc : c < 8) : p < s.parcels.length ∧ c < (s.parcel p).contexts.length := by
  have hl : p < s.parcels.length := by rw [h.units.2.1]; exact hp
  refine ⟨hl, ?_⟩
  have := (h.canonical.1 (s.parcel p) (by simp [State.parcel, List.getD_eq_getElem?_getD, List.getElem?_eq_getElem hl])).2
  omega

theorem modClusters_in (g : Cluster → Cluster) (π : Cluster → Prop) (hg : ∀ u, π (g u)) : ∀ (l : List Nat) (s : State) (k : Nat), k ∈ l ∨ π (s.cluster k) → k < s.clusters.length → π ((s.modClusters l g).cluster k)
  | [], s, k, h, _ => h.resolve_left (by simp)
  | x :: l, s, k, h, hk => by
    refine modClusters_in g π hg l (s.modCluster x g) k ?_ (by simpa using hk)
    by_cases e : k = x
    · subst e; exact .inr (by rw [State.modCluster_cluster hk]; exact hg _)
    · rw [State.modCluster_cluster_ne e]; rcases h with h | h
      · simp [e] at h; exact .inl h
      · exact .inr h

theorem modClusters_out (g : Cluster → Cluster) : ∀ (l : List Nat) (s : State) (k : Nat), k ∉ l → (s.modClusters l g).cluster k = s.cluster k
  | [], _, _, _ => rfl
  | x :: l, s, k, h => by
    simp at h
    exact (modClusters_out g l (s.modCluster x g) k h.2).trans (State.modCluster_cluster_ne h.1)

theorem modClusters_keepc {α : Type} (π : Cluster → α) (g : Cluster → Cluster) (hg : ∀ u, π (g u) = π u) : ∀ (l : List Nat) (s : State) (k : Nat), π ((s.modClusters l g).cluster k) = π (s.cluster k)
  | [], _, _ => rfl
  | x :: l, s, k => by
    refine (modClusters_keepc π g hg l (s.modCluster x g) k).trans ?_
    simp only [State.modCluster, State.cluster, List.getD_eq_getElem?_getD, List.getElem?_modify]
    cases s.clusters[k]? <;> simp; split <;> simp [hg]

theorem retireCluster_rest (c : Nat) (b : Option Nat) (s : State) : (s.retireCluster c b).parcels = s.parcels ∧ (s.retireCluster c b).clusters = s.clusters ∧ (s.retireCluster c b).fns = s.fns := by
  unfold State.retireCluster State.retirePlat; repeat' split
  all_goals exact ⟨rfl, rfl, rfl⟩

theorem fold_fault_state (p k : Nat) (w : BitVec 32) (x : Nat) : ∀ (l : List Nat) (s : State), l.Nodup → (p < s.parcels.length ∧ x < (s.parcel p).contexts.length) →
    (x ∈ l → (s.ctx p x).started = true → k < (s.ctx p x).width →
      ((l.foldl (fun u x => if (u.ctx p x).started && decide (k < (u.ctx p x).width) then u.faultCtxWith p x w else u) s).ctx p x).state = 5 ∧
      ((l.foldl (fun u x => if (u.ctx p x).started && decide (k < (u.ctx p x).width) then u.faultCtxWith p x w else u) s).ctx p x).fault = w) ∧
    (x ∉ l → (l.foldl (fun u x => if (u.ctx p x).started && decide (k < (u.ctx p x).width) then u.faultCtxWith p x w else u) s).ctx p x = s.ctx p x)
  | [], _, _, _ => ⟨fun h => absurd h (by simp), fun _ => rfl⟩
  | y :: l, s, hn, hr => by
    simp only [List.nodup_cons] at hn
    have st : ∀ {q d}, (q < s.parcels.length ∧ d < (s.parcel q).contexts.length) →
        (q < (if (s.ctx p y).started && decide (k < (s.ctx p y).width) then s.faultCtxWith p y w else s).parcels.length ∧
         d < ((if (s.ctx p y).started && decide (k < (s.ctx p y).width) then s.faultCtxWith p y w else s).parcel q).contexts.length) := by
      intro q d h; split
      · exact faultCtxWith_range h
      · exact h
    obtain ⟨i1, i2⟩ := fold_fault_state p k w x l _ hn.2 (st hr)
    refine ⟨fun hx h1 h2 => ?_, fun hx => ?_⟩
    · by_cases e : x = y
      · subst e
        rw [List.foldl, i2 hn.1, h1, decide_eq_true h2]
        simp only [Bool.and_self, if_true]
        have a := faultCtxWith_self (w := w) hr
        refine ⟨?_, a.2 h1⟩
        rw [a.1, if_neg]; intro h0; rw [Context.started, h0] at h1; exact absurd h1 (by decide)
      · have e2 : (if (s.ctx p y).started && decide (k < (s.ctx p y).width) then s.faultCtxWith p y w else s).ctx p x = s.ctx p x := by
          split
          · exact faultCtxWith_other _ _ _ _ _ _ (.inr e)
          · rfl
        rw [List.foldl]
        exact i1 (by simpa [e] using hx) (by rw [e2]; exact h1) (by rw [e2]; exact h2)
    · simp at hx
      rw [List.foldl, i2 hx.2]; split
      · exact faultCtxWith_other _ _ _ _ _ _ (.inr hx.1)
      · rfl

theorem fold_fault_fns (p k : Nat) (w : BitVec 32) (l : List Nat) (s : State) :
    (l.foldl (fun u x => if (u.ctx p x).started && decide (k < (u.ctx p x).width) then u.faultCtxWith p x w else u) s).fns = s.fns ∧
    (l.foldl (fun u x => if (u.ctx p x).started && decide (k < (u.ctx p x).width) then u.faultCtxWith p x w else u) s).clusters = s.clusters :=
  ⟨foldl_other State.fns (fun t x _ => by split <;> simp) s, foldl_other State.clusters (fun t x _ => by split <;> simp) s⟩

theorem ownerOf_lt {c p : Nat} {s : State} (h : s.ownerOf c = some p) : p < 16 := by
  have := List.mem_of_find?_eq_some h; simpa using this

theorem writeSlot_faults (n : Nat) (x : Sum RespSlot Event) (s : State) : (s.writeSlot n x).faults = s.faults := by
  unfold State.writeSlot; dsimp only
  simp only [apply_ite State.faults, State.endSession_faults, State.emit_faults, State.modFn_faults, ite_self]

theorem responseWrite_faults {n : Nat} {s t : State} (h : execResponseWrite n s = .next t) : t.faults = s.faults := by
  unfold execResponseWrite at h; dsimp only at h
  split at h
  · split at h
    · cases h; exact writeSlot_faults ..
    · cases h; split
      · rfl
      · exact writeSlot_faults ..
    · cases h; rfl
  · cases h; rfl

theorem flushRing_faults (n : Nat) : ∀ (k : Nat) (s : State), (s.flushRing n k).faults = s.faults := by
  intro k
  induction k with
  | zero => intro _; rfl
  | succ k ih =>
    intro s; rw [State.flushRing]; split
    · rename_i t h; exact (ih t).trans (responseWrite_faults h)
    · rfl

theorem wiped_word (s : State) : s.wiped.faults.mgmtWord = s.faults.mgmtWord := by rw [State.wiped]

theorem powerDown_faults (s : State) : (s.powerDown).faults.mgmtWord = s.flushRings.faults.mgmtWord := by
  unfold State.powerDown; generalize s.flushRings = t; exact wiped_word t

theorem flushRings_faults (s : State) : s.flushRings.faults = s.faults := foldl_other State.faults (fun t n _ => flushRing_faults _ _ t) _

theorem parcelFault_facts (p cause : Nat) (s : State) (h : s.Sound) (hp : p < 16) :
    (((s.parcelFault p cause).parcel p).refusing = true) ∧ ((s.parcelFault p cause).fn 0).lastFault = faultWord 3 p cause ∧
    (∀ c < 8, (s.ctx p c).state ≠ 0 → ((s.parcelFault p cause).ctx p c).state = 5) ∧ (∀ q ≠ p, (s.parcelFault p cause).parcel q = s.parcel q) ∧
    (∀ k ∈ (s.parcel p).clusters, k < 64 → ((s.parcelFault p cause).cluster k).fenced = true) ∧ (s.parcelFault p cause).faults = s.faults := by
  unfold State.parcelFault; dsimp only
  set w := faultWord 3 p cause
  generalize hv : (s.raiseFault w).modClusters (s.parcel p).clusters (fun k => { k with fenced := true, inflight := [], pairStall := false }) = v
  have vp : v.parcels = s.parcels := by subst hv; simp
  have vl : (v.fn 0).lastFault = w := by
    subst hv; rw [State.modClusters_fn]; exact raiseFault_last w s (by rw [h.units.1]; omega)
  have vf : v.faults = s.faults := by subst hv; simp
  have vc : ∀ k ∈ (s.parcel p).clusters, k < 64 → (v.cluster k).fenced = true := by
    intro k hk hl; subst hv
    exact modClusters_in _ (fun u => u.fenced = true) (fun _ => rfl) _ _ _ (.inl hk) (by simp [h.units.2.2.1, hl])
  have fold : ∀ (l : List Nat) (t : State), l.Nodup → t.parcels.length = 16 → (∀ x < 8, x < (t.parcel p).contexts.length) →
      ((l.foldl (fun u x => u.faultCtxWith p x w) t).parcels.length = 16) ∧
      (∀ x < 8, x ∈ l → (t.ctx p x).state ≠ 0 → ((l.foldl (fun u x => u.faultCtxWith p x w) t).ctx p x).state = 5) ∧
      (∀ x, x ∉ l → (l.foldl (fun u x => u.faultCtxWith p x w) t).ctx p x = t.ctx p x) ∧ (∀ q ≠ p, (l.foldl (fun u x => u.faultCtxWith p x w) t).parcel q = t.parcel q) := by
    intro l
    induction l with
    | nil => intro t _ h1 _; exact ⟨h1, fun _ _ h => absurd h (by simp), fun _ _ => rfl, fun _ _ => rfl⟩
    | cons y l ih =>
      intro t hn h1 h2
      simp only [List.nodup_cons] at hn
      have hr : ∀ x < 8, p < t.parcels.length ∧ x < (t.parcel p).contexts.length := fun x hx => ⟨by omega, h2 x hx⟩
      obtain ⟨a, b, c, d⟩ := ih (t.faultCtxWith p y w) hn.2 (by simpa [State.faultCtxWith, State.modCtx, State.modParcel] using h1) (fun x hx => (faultCtxWith_range (hr x hx)).2)
      refine ⟨a, fun x hx hm h0 => ?_, fun x hx => ?_, fun q hq => (d q hq).trans ?_⟩
      · by_cases e : x = y
        · subst e; rw [List.foldl, c x hn.1, (faultCtxWith_self (hr x hx)).1, if_neg h0]
        · exact b x hx (by simpa [e] using hm) (by rw [faultCtxWith_other _ _ _ _ _ _ (.inr e)]; exact h0)
      · simp at hx; rw [List.foldl, c x hx.2]; exact faultCtxWith_other _ _ _ _ _ _ (.inr hx.1)
      · unfold State.faultCtxWith State.modCtx; exact State.modParcel_parcel_ne hq
  obtain ⟨a, b, c, d⟩ := fold (List.range 8) v List.nodup_range (by rw [vp, h.units.2.1]) (fun x hx => by rw [State.parcel, vp]; exact (sound_ctx h hp hx).2)
  refine ⟨?_, ?_, fun x hx h0 => ?_, fun q hq => ?_, fun k hk hl => ?_, ?_⟩
  · rw [State.modParcel_parcel (by omega)]
  · rw [State.modParcel_fn]
    exact (foldl_other (fun t : State => (t.fn 0).lastFault) (fun t x _ => by simp) v).trans vl
  · have e : ∀ t : State, p < t.parcels.length → (t.modParcel p fun q => { q with refusing := true }).ctx p x = t.ctx p x := by
      intro t ht; simp [State.ctx, State.modParcel_parcel ht, Parcel.ctx]
    rw [e _ (by omega)]; exact b x hx (by simpa using hx) (by simpa [State.ctx, State.parcel, vp] using h0)
  · rw [State.modParcel_parcel_ne hq, d q hq, State.parcel, vp]; rfl
  · rw [State.modParcel_cluster]
    exact (foldl_other (fun t : State => (t.cluster k).fenced) (fun t x _ => by simp) v).trans (vc k hk hl)
  · rw [State.modParcel_faults]
    exact (foldl_other State.faults (fun t x _ => by simp) v).trans vf

theorem subchGone_rest (x : Nat) (_u : Unit) (t : State) : (∀ n, (t.subchGone x (some n)).fns = t.fns) ∧ (∀ n, (t.subchGone x (some n)).parcels = t.parcels) ∧
    (∀ n, (t.subchGone x (some n)).clusters = t.clusters) ∧ (∀ n, x ∈ (t.subchGone x (some n)).faults.subchFailed) :=
  ⟨fun _ => rfl, fun _ => rfl, fun _ => rfl, fun n => by simp [State.subchGone, State.addJoin]⟩

theorem loseGone_fn (p x kp n : Nat) (u : State) : (((u.loseLines p x kp).subchGone x (some n)).fn 0).lastFault = (u.fn 0).lastFault := rfl

theorem loseGone_ne {q p : Nat} (h : q ≠ p) (x kp n : Nat) (u : State) : ((u.loseLines p x kp).subchGone x (some n)).parcel q = u.parcel q := by
  have : ((u.loseLines p x kp).subchGone x (some n)).parcel q = (u.loseLines p x kp).parcel q := rfl
  rw [this]; exact State.modParcel_parcel_ne h

theorem loseGone_ref {p : Nat} {u : State} (h : p < u.parcels.length) (x kp n : Nat) : (((u.loseLines p x kp).subchGone x (some n)).parcel p).refusing = (u.parcel p).refusing := by
  have : ((u.loseLines p x kp).subchGone x (some n)).parcel p = (u.loseLines p x kp).parcel p := rfl
  rw [this, State.loseLines, State.modParcel_parcel h]

theorem loseGone_ctx {p : Nat} {u : State} (h : p < u.parcels.length) (x kp n : Nat) : (((u.loseLines p x kp).subchGone x (some n)).parcel p).contexts = (u.parcel p).contexts := by
  have : ((u.loseLines p x kp).subchGone x (some n)).parcel p = (u.loseLines p x kp).parcel p := rfl
  rw [this, State.loseLines, State.modParcel_parcel h]

theorem loseGone_cl (p x kp n : Nat) (u : State) : ((u.loseLines p x kp).subchGone x (some n)).clusters = u.clusters := rfl

theorem loseGone_mem (p x kp n : Nat) (u : State) : x ∈ ((u.loseLines p x kp).subchGone x (some n)).faults.subchFailed := by simp [State.subchGone, State.addJoin]

theorem powerDown_off (s : State) : (s.powerDown).power.off = true := rfl

theorem moduleFault_facts {s : State} (h0 : 0 < s.fns.length) (u w : Nat) : ∃ t, s.moduleFault u w = t ∧ t.faults.mgmtWord = faultWord 4 u w ∧ t.faults.order = some (s.faults.order.getD (s.now, false)) ∧
        (t.fn 0).lastFault = faultWord 4 u w ∧ t.parcels = s.parcels ∧ t.clusters = s.clusters := by
  have hm : s.moduleFault u w = { s.raiseFault (faultWord 4 u w) with faults := { (s.raiseFault (faultWord 4 u w)).faults with
    order := some (s.faults.order.getD (s.now, false))
    mgmtWord := faultWord 4 u w } } := by rw [State.moduleFault]
  have hf : ∀ (t : State) f, State.fn 0 { t with faults := f } = t.fn 0 := fun _ _ => rfl
  have hg : ∀ (t : State) f, State.faults { t with faults := f } = f := fun _ _ => rfl
  have hp : ∀ (t : State) f, State.parcels { t with faults := f } = t.parcels := fun _ _ => rfl
  have hc : ∀ (t : State) f, State.clusters { t with faults := f } = t.clusters := fun _ _ => rfl
  refine ⟨_, rfl, ?_, ?_, ?_, ?_, ?_⟩
  · rw [hm, hg]
  · rw [hm, hg]
  · rw [hm, hf]; exact raiseFault_last _ s h0
  · rw [hm, hp, State.raiseFault_parcels]
  · rw [hm, hc, State.raiseFault_clusters]

end Sys2Proof.Machine
end

