-- ==== Sys2Proof/Laws/PowerStage.lean ====
section
/-! SUPPORT. What power failure, a reset and the sensors leave (R277, R305, R331, R336, R351). -/

set_option linter.unusedTactic false
set_option linter.unreachableTactic false
set_option linter.unusedVariables false
set_option linter.unusedSimpArgs false
set_option Elab.async false

namespace Sys2Proof.Machine

theorem evPower_frames (ph mj : Nat) (s : State) : (s.evPower ph mj).power = s.power ∧ (s.evPower ph mj).parcels = s.parcels ∧ (s.evPower ph mj).clusters = s.clusters ∧
    (s.evPower ph mj).clock = s.clock ∧ (s.evPower ph mj).flash = s.flash := by simp [State.evPower]

theorem beginFail_facts (s : State) (P : Power → Prop) (hP : ∀ p a b c d, P p → P { p with dirtyNow := a, clearRun := b, fail := c, failDue := d }) (h : P s.power) :
    P s.beginFail.power ∧ (s.power.off = false → s.beginFail.power.fail = true) ∧ (s.power.off = false → s.power.fail = false → s.beginFail.power.failDue = true) ∧
    s.beginFail.parcels = s.parcels ∧ s.beginFail.clusters = s.clusters ∧ s.beginFail.clock = s.clock := by
  unfold State.beginFail; dsimp only
  split
  · rename_i h1
    simp only [Bool.or_eq_true] at h1
    refine ⟨hP s.power true 0 s.power.fail s.power.failDue h, fun h2 => ?_, fun h2 h3 => ?_, rfl, rfl, rfl⟩
    · rcases h1 with h1 | h1
      · exact h1
      · exact absurd h2 (by simp [h1])
    · rcases h1 with h1 | h1
      · exact absurd h3 (by simp [h1])
      · exact absurd h2 (by simp [h1])
  · obtain ⟨a, b, c, d, _⟩ := evPower_frames 0 (({ s with power := { s.power with dirtyNow := true, clearRun := 0 } } : State).fresh.toNat % 2 ^ 32)
      { ({ s with power := { s.power with dirtyNow := true, clearRun := 0 } } : State).drawMany 1 with power := { s.power with dirtyNow := true, clearRun := 0, fail := true, failDue := true } }
    refine ⟨?_, fun _ => ?_, fun _ _ => ?_, ?_, ?_, ?_⟩
    · exact a ▸ hP s.power true 0 true true h
    · exact (congrArg Power.fail a)
    · exact (congrArg Power.failDue a)
    · exact b
    · exact c
    · exact d

theorem beginFail_time (s : State) : s.beginFail.time = s.time := by
  have := (beginFail_facts s (fun _ => True) (fun _ _ _ _ _ _ => trivial) trivial).2.2.2.2.2
  exact time_of_clock this

theorem openSwitch_facts (s : State) : s.openSwitch.power.switch = false ∧ s.openSwitch.power.present = s.power.present ∧ s.openSwitch.power.ovOpen = s.power.ovOpen ∧ s.openSwitch.power.cycleLow = s.power.cycleLow ∧
    (s.power.off = false → s.openSwitch.power.fail = true) := by
  unfold State.openSwitch
  have := beginFail_facts { s with power := { s.power with switch := false } } (fun p => p.switch = false ∧ p.present = s.power.present ∧ p.ovOpen = s.power.ovOpen ∧ p.cycleLow = s.power.cycleLow)
    (fun _ _ _ _ _ h => h) ⟨rfl, rfl, rfl, rfl⟩
  exact ⟨this.1.1, this.1.2.1, this.1.2.2.1, this.1.2.2.2, this.2.1⟩

theorem writeRecord_keep (r : MeterRec) (s : State) : (s.writeRecord r).flash = s.flash ∧ (s.writeRecord r).faults = s.faults ∧ (s.writeRecord r).power.off = s.power.off ∧ (s.writeRecord r).clock = s.clock ∧ (s.writeRecord r).power.switch = s.power.switch ∧
    (s.writeRecord r).power.fail = s.power.fail ∧ (s.writeRecord r).parcels = s.parcels ∧ (s.writeRecord r).longs = s.longs := by
  unfold State.writeRecord
  refine ⟨?_, ?_, ?_, ?_, ?_, ?_, ?_, ?_⟩
  · rw [State.evMgmt_flash]; rfl
  · rw [State.evMgmt_faults]; rfl
  · rw [State.evMgmt_power]
  · rw [State.evMgmt_clock]; rfl
  · rw [State.evMgmt_power]
  · rw [State.evMgmt_power]
  · rw [State.evMgmt_parcels]; rfl
  · rw [State.evMgmt_longs]; rfl

theorem flushRing_flash (n : Nat) (k : Nat) (s : State) : (s.flushRing n k).flash = s.flash := by
  induction k generalizing s with
  | zero => rfl
  | succ k ih =>
    rw [State.flushRing]; split
    · rename_i t h; refine (ih t).trans ?_
      unfold execResponseWrite at h; dsimp only at h
      have ws : ∀ (x : Sum RespSlot Event), (s.writeSlot n x).flash = s.flash := by
        intro x; unfold State.writeSlot; dsimp only
        simp only [apply_ite State.flash, State.endSession_flash, State.emit_flash, State.modFn_flash, ite_self]
      split at h
      · split at h
        · cases h; exact ws _
        · cases h; split
          · rfl
          · exact ws _
        · cases h; rfl
      · cases h; rfl
    · rfl

theorem flushRings_flash (s : State) : s.flushRings.flash = s.flash := foldl_other State.flash (fun t n _ => flushRing_flash _ _ t) _

theorem powerDown_keep (s : State) : s.powerDown.power.off = true ∧ s.powerDown.flash = s.flash ∧ s.powerDown.faults.mgmtWord = s.faults.mgmtWord := by
  have h1 := flushRings_flash s
  have h2 := flushRings_faults s
  unfold State.powerDown; generalize s.flushRings = t at *
  have e : ∀ u : State, u.wiped.flash = u.flash := fun u => by rw [State.wiped]
  refine ⟨rfl, ?_, ?_⟩
  · exact (e t).trans h1
  · exact (wiped_word t).trans (congrArg FaultSt.mgmtWord h2)

theorem powerStop_facts (w : BitVec 32) (s : State) : (s.powerStop w).power.off = true ∧ (s.powerStop w).flash.meterSaved = s.power.meter ∧ (s.powerStop w).faults.mgmtWord = w := by
  unfold State.powerStop; dsimp only
  have e1 := State.raiseFault_power w s
  generalize s.raiseFault w = t at *
  obtain ⟨a, b, c⟩ := powerDown_keep (if (({ t with faults := { t.faults with mgmtWord := w } } : State).saveMeter).power.recOpen then
    (({ t with faults := { t.faults with mgmtWord := w } } : State).saveMeter).writeRecord (({ t with faults := { t.faults with mgmtWord := w } } : State).saveMeter).closedRecord
    else ({ t with faults := { t.faults with mgmtWord := w } } : State).saveMeter)
  refine ⟨a, ?_, ?_⟩
  · rw [b]; split
    · rw [(writeRecord_keep ..).1]; exact congrArg Power.meter e1
    · exact congrArg Power.meter e1
  · rw [c]; split
    · rw [(writeRecord_keep ..).2.1]; rfl
    · rfl

def calm (s : State) := (s.power.off, s.power.switch, s.power.fail, s.parcels, s.longs, s.clock)

theorem calm_of {s t : State} (h1 : t.power = s.power) (h2 : t.parcels = s.parcels) (h3 : t.longs = s.longs) (h4 : t.clock = s.clock) : calm t = calm s := by
  simp only [calm, h1, h2, h3, h4]

theorem calm_evPf (c : Nat) (d : List Nat) (s : State) : calm (s.evPf c d) = calm s := calm_of (State.evPf_power ..) (State.evPf_parcels ..) (State.evPf_longs ..) (State.evPf_clock ..)

theorem calm_evFn (n c : Nat) (d : List Nat) (s : State) : calm (s.evFn n c d) = calm s := calm_of (State.evFn_power ..) (State.evFn_parcels ..) (State.evFn_longs ..) (State.evFn_clock ..)

theorem calm_evMgmt (c : Nat) (d : List Nat) (s : State) : calm (s.evMgmt c d) = calm s := calm_of (State.evMgmt_power ..) (State.evMgmt_parcels ..) (State.evMgmt_longs ..) (State.evMgmt_clock ..)

theorem calm_raise (w : BitVec 32) (s : State) : calm (s.raiseFault w) = calm s := calm_of (State.raiseFault_power ..) (State.raiseFault_parcels ..) (State.raiseFault_longs ..) (State.raiseFault_clock ..)

theorem calm_chest (t : State) (c : Chest) : calm { t with chest := c } = calm t := rfl

theorem calm_boot (t : State) (b : Boot) (f : FaultSt) : calm { t with boot := b, faults := f } = calm t := rfl

theorem calm_boot1 (t : State) (b : Boot) : calm { t with boot := b } = calm t := rfl

theorem calm_plat (t : State) (b : Plat) : calm { t with plat := b } = calm t := rfl

theorem calm_fill (i : Nat) (a : BitVec 32) (v : BitVec 1024) (s : State) : calm (s.fillSlot i a v) = calm s := rfl

theorem calm_destroy (i : Nat) (w : KeyCause) (s : State) : calm (s.destroySlot i w) = calm s :=
  calm_of (State.destroySlot_power ..) (State.destroySlot_parcels ..) (State.destroySlot_longs ..) (State.destroySlot_clock ..)

theorem calm_openBlobs (s : State) : calm s.openBlobs = calm s := by
  unfold State.openBlobs; dsimp only; rw [calm_chest]; exact (foldl_other calm (fun t i _ => calm_destroy ..) s)

theorem calm_bad (a b : Nat) (s : State) : calm (s.evSettingsBad a b) = calm s := by
  unfold State.evSettingsBad; rw [calm_evMgmt, calm_evPf]

theorem calm_readSettings (s : State) : calm s.readSettings = calm s := by
  unfold State.readSettings; dsimp only; split
  · rw [calm_bad]; rfl
  · rfl

theorem calm_bootStop (a b : Nat) (s : State) : calm (s.bootStop a b) = calm s := by
  unfold State.bootStop; dsimp only; rw [calm_boot, calm_raise]

theorem calm_deriveKeys (s : State) : calm s.deriveKeys = calm s := by
  unfold State.deriveKeys; split
  · rfl
  · dsimp only
    rw [calm_chest, calm_fill, calm_fill, calm_fill, calm_fill, calm_fill]

theorem calm_readSurvey (s : State) : calm s.readSurvey = calm s := by
  unfold State.readSurvey; split
  · rfl
  · split
    · exact calm_bad ..
    · rfl

theorem calm_evOpen (c : Nat) (d : List Nat) (s : State) : calm (s.evOpen c d) = calm s := by
  unfold State.evOpen
  first
    | exact foldl_other calm (fun t x _ => by first | exact calm_evFn .. | (split <;> first | exact calm_evFn .. | rfl)) _
    | exact (foldl_other calm (fun t x _ => by first | exact calm_evFn .. | (split <;> first | exact calm_evFn .. | rfl)) _).trans (calm_evPf ..)

theorem calm_evPlat (a b c d : Nat) (s : State) : calm (s.evPlat a b c d) = calm s := by unfold State.evPlat; rw [calm_evMgmt, calm_evOpen]

theorem calm_platSet (a b c : Nat) (s : State) : calm (s.platSet a b c) = calm s := by
  unfold State.platSet; dsimp only; split
  · rfl
  · rw [calm_evPlat]; rfl

theorem calm_reserve (s : State) : calm s.reserveSpares = calm s := by
  have h : ∀ b t die, calm (State.reserveOn b t die) = calm t := by
    intro b t die; unfold State.reserveOn; dsimp only; split
    · split
      · exact calm_evPlat ..
      · rfl
    · refine foldl_other calm (fun u x _ => ?_) t
      split <;> split <;> first | rfl | exact calm_platSet ..
  unfold State.reserveSpares
  exact (foldl_other calm (fun t d _ => h ..) _).trans (foldl_other calm (fun t d _ => h ..) _)

theorem calm_platCold (s : State) : calm s.platCold = calm s := by
  unfold State.platCold; dsimp only; split
  · rw [calm_bad]; rfl
  · rfl

theorem calm_closeAbrupt (s : State) : calm s.closeAbrupt = calm s := by
  unfold State.closeAbrupt; dsimp only; split
  · have := writeRecord_keep { s.power.savedRec with flags := s.power.savedRec.flags ||| 2 } s
    simp only [calm, this.2.2.1, this.2.2.2.1, this.2.2.2.2.1, this.2.2.2.2.2.1, this.2.2.2.2.2.2.1, this.2.2.2.2.2.2.2]
  · rfl

theorem calm_bootRom (s : State) : calm s.bootRom = calm s := by
  unfold State.bootRom; dsimp only
  have h0 : calm s.openBlobs.readSettings = calm s := (calm_readSettings _).trans (calm_openBlobs s)
  generalize s.openBlobs.readSettings = t at *
  split
  · exact (calm_bootStop ..).trans h0
  · rw [calm_closeAbrupt]
    have key : ∀ (u : State) (c : Prop) [Decidable c], calm u = calm s → calm (if c then u.deriveKeys.readSurvey.platCold else u.deriveKeys.readSurvey.reserveSpares) = calm s := by
      intro u c _ hu; split
      · rw [calm_platCold, calm_readSurvey, calm_deriveKeys]; exact hu
      · rw [calm_reserve, calm_readSurvey, calm_deriveKeys]; exact hu
    exact key _ _ ((calm_boot1 ..).trans h0)

theorem calm_reboot (o ok : Bool) (s : State) : calm (s.reboot o ok) = (s.power.off, s.power.switch, false, State.reset.parcels, [], Clock.reset) := by
  unfold State.reboot; dsimp only
  have e : ∀ f b n, calm { s.wiped with flash := f, boot := b, entropy := n } = (s.power.off, s.power.switch, false, State.reset.parcels, [], Clock.reset) := by
    intro f b n; rw [State.wiped]; rfl
  split
  · rw [calm_bootStop, e]
  · rw [calm_bootRom, e]

theorem evCoolant_frames (w : Nat) (s : State) : (s.evCoolant w).power = s.power ∧ (s.evCoolant w).clock = s.clock := by simp [State.evCoolant]

theorem find_first {p : Nat → Bool} {n r : Nat} (h : (List.range n).find? p = some r) : r < n ∧ p r = true ∧ ∀ i < r, p i = false := by
  rw [List.find?_range_eq_some] at h
  exact ⟨List.mem_range.1 h.2.1, h.1, fun i hi => by simpa using h.2.2 i hi⟩

theorem ratioFor_facts (v : Variant) (t e : Nat) : ratioFor v t e ≤ 63 ∧ (∀ i < ratioFor v t e, ratioMeets (wFull v t) (wIdle v) e i = false) ∧
    (capUnmetFor v t e = false → ratioMeets (wFull v t) (wIdle v) e (ratioFor v t e) = true) := by
  unfold ratioFor capUnmetFor
  cases h : (List.range 64).find? (ratioMeets (wFull v t) (wIdle v) e) with
  | some r =>
    obtain ⟨a, b, c⟩ := find_first h
    exact ⟨by simp; omega, c, fun _ => b⟩
  | none =>
    rw [List.find?_eq_none] at h
    refine ⟨by simp, fun i hi => ?_, fun h2 => ?_⟩
    · simp at hi; simpa using h i (by simp; omega)
    · simp only [Bool.not_eq_eq_eq_not, Bool.not_false, List.any_eq_true] at h2
      obtain ⟨x, hx, hy⟩ := h2; exact absurd hy (h x hx)

theorem computeRatio_time (e : Nat) (s : State) : (s.computeRatio e).time = s.time := rfl

theorem storm_frames (s : State) : s.stormReport.power = s.power ∧ s.stormReport.clock = s.clock ∧ s.stormReport.mgmt.reports = 0 := by
  unfold State.stormReport; dsimp only; split
  · exact ⟨rfl, rfl, rfl⟩
  · have a := State.evMgmt_power 0x1405 (s.mgmt.storm ++ [s.now]) s
    have b := State.evMgmt_clock 0x1405 (s.mgmt.storm ++ [s.now]) s
    generalize s.evMgmt 0x1405 (s.mgmt.storm ++ [s.now]) = t at *
    exact ⟨a, b, rfl⟩

def coolA (b1 : Bool) (w n : Nat) (t : State) : State := if b1 then { t with power := { t.power with coolantChain := some n } }.evCoolant w else t

def coolB (b2 : Bool) (t : State) : State := if b2 then { t with power := { t.power with hotOutlet := 0 } }.evCoolant 2 else t

theorem coolA_facts (b1 : Bool) (w n : Nat) (t : State) : (coolA b1 w n t).power.sensors = t.power.sensors ∧ (coolA b1 w n t).clock = t.clock ∧
    (b1 = true → (coolA b1 w n t).power.coolantChain = some n) ∧ (b1 = false → (coolA b1 w n t).power.coolantChain = t.power.coolantChain) := by
  obtain ⟨a, b⟩ := evCoolant_frames w { t with power := { t.power with coolantChain := some n } }
  unfold coolA
  cases b1
  · simp
  · rw [if_pos rfl, a, b]; simp

theorem coolB_facts (b2 : Bool) (t : State) : (coolB b2 t).power.sensors = t.power.sensors ∧ (coolB b2 t).clock = t.clock ∧
    (coolB b2 t).power.coolantChain = t.power.coolantChain ∧ (b2 = true → (coolB b2 t).power.hotOutlet = 0) := by
  obtain ⟨a, b⟩ := evCoolant_frames 2 { t with power := { t.power with hotOutlet := 0 } }
  unfold coolB
  cases b2
  · simp
  · rw [if_pos rfl, a, b]; simp

theorem coolAB (b1 b2 : Bool) (w n : Nat) (t : State) : (coolB b2 (coolA b1 w n t)).power.sensors = t.power.sensors ∧ (coolB b2 (coolA b1 w n t)).time = t.time ∧
    (b1 = true → (coolB b2 (coolA b1 w n t)).power.coolantChain = some n) ∧ (b1 = false → (coolB b2 (coolA b1 w n t)).power.coolantChain = t.power.coolantChain) ∧
    (b2 = true → (coolB b2 (coolA b1 w n t)).power.hotOutlet = 0) := by
  obtain ⟨a, b, c, d⟩ := coolA_facts b1 w n t
  obtain ⟨a2, b2, c2, d2⟩ := coolB_facts b2 (coolA b1 w n t)
  exact ⟨a2.trans a, time_of_clock (b2.trans b), fun h => c2.trans (c h), fun h => c2.trans (d h), d2⟩

end Sys2Proof.Machine
end

