-- ==== Sys2Proof/Laws/Managing.lean ====
section
/-! SUPPORT. Management answers, the SMBus and its partner (R323, R330). -/

set_option linter.unusedTactic false
set_option linter.unreachableTactic false
set_option linter.unusedVariables false
set_option linter.unusedSimpArgs false
set_option Elab.async false

namespace Sys2Proof.Machine

theorem rb_le {v : Nat} : v < 2 ^ 64 → leNat (le 8 v) = v := fun h => by rw [leNat_le]; exact Nat.mod_eq_of_lt h

theorem runMgmt_hears {s : State} {m : MgmtMsg} (h : s.Hears m) (op : Nat) (f : Bytes → State → Nat × Bytes × State) : s.runMgmt m op f = (f m.body s).2.2.answerMgmt m op (f m.body s).1 (f m.body s).2.1 := by
  unfold State.runMgmt
  rw [if_neg (by simp [h.path]), if_neg (by simp [h.flags, h.reserved]), if_neg (Nat.not_lt.2 h.size)]

theorem sized_eq {n : Nat} {b : Bytes} (h : b.length = n) (k : Nat × Bytes × State) (s : State) : s.sized n b k = k := if_pos h

theorem checked_nil (k : Nat × Bytes × State) (s : State) : s.checked [] k = k := rfl

theorem checked_cons (b : Bool) (st : Nat) (l : List (Bool × Nat)) (k : Nat × Bytes × State) (s : State) : s.checked ((b, st) :: l) k = if b = true then s.deny st else s.checked l k := by
  unfold State.checked firstFail; cases b <;> simp

theorem mctp_open {s : State} (h : s.busOn = true) (n : Nat) (f : State → Bytes × State) : s.answerMctp n f = (f s.partnerBack).2.sendSmbus (.mctp n (f s.partnerBack).1) (le 1 n ++ (f s.partnerBack).1) := by
  unfold State.answerMctp; rw [if_neg (by simp [h])]

theorem ev_smbus (a b : Nat) (s : State) : (s.evSmbus a b).smbus = s.smbus ∧ (s.evSmbus a b).clock = s.clock := by
  unfold State.evSmbus; exact ⟨State.evPf_smbus 0x1502 [a, b, s.smbus.discards] s, State.evPf_clock 0x1502 [a, b, s.smbus.discards] s⟩

theorem evSmbus_outbox (a b : Nat) (s : State) : ∃ e, (s.evSmbus a b).outbox = s.outbox ++ [e] :=
  ⟨.mgmtEvent 0x1502 s.now [a, b, s.smbus.discards], by unfold State.evSmbus; simp [State.emit]⟩

theorem emit_fold (l : List Bytes) : ∀ s : State, (l.foldl (fun t b => t.emit (.smbus 0 b)) s).outbox = s.outbox ++ l.map (.smbus 0 ·) ∧ (l.foldl (fun t b => t.emit (.smbus 0 b)) s).smbus = s.smbus := by
  induction l with
  | nil => intro s; simp
  | cons b l ih => intro s; obtain ⟨x, y⟩ := ih (s.emit (.smbus 0 b)); exact ⟨x.trans (by simp [State.emit]), y⟩

theorem partnerBack_facts (s : State) (h : s.smbus.noPartner = true) : s.partnerBack.smbus = { s.smbus with noPartner := false, queue := [], retries := 0, transfer := s.smbus.queue.getLast? } ∧
    ∃ e, s.partnerBack.outbox = s.outbox ++ s.smbus.queue.map (.smbus 0 ·) ++ [e] := by
  unfold State.partnerBack
  rw [if_pos h]
  dsimp only
  obtain ⟨x, y⟩ := emit_fold s.smbus.queue { s with smbus := { s.smbus with noPartner := false, queue := [], retries := 0, transfer := s.smbus.queue.getLast? } }
  refine ⟨(ev_smbus ..).1.trans y, ?_⟩
  obtain ⟨e, he⟩ := evSmbus_outbox 3 2 (s.smbus.queue.foldl (fun t b => t.emit (.smbus 0 b)) { s with smbus := { s.smbus with noPartner := false, queue := [], retries := 0, transfer := s.smbus.queue.getLast? } })
  exact ⟨e, he.trans (by rw [x])⟩

theorem find_least {p : Nat → Bool} {n k : Nat} (hk : k < n) (h : p k = true) (hb : ∀ i < k, p i = false) : (List.range n).find? p = some k := by
  rw [List.find?_range_eq_some]
  exact ⟨h, List.mem_range.2 hk, fun j hj => by simp [hb j hj]⟩

end Sys2Proof.Machine
end

