-- ==== Sys2Proof/Laws/BringingUp.lean ====
section
/-! SUPPORT. Noise sources and bring-up (R266, R277 to R291). -/

set_option linter.unusedTactic false
set_option linter.unreachableTactic false
set_option linter.unusedVariables false
set_option linter.unusedSimpArgs false
set_option Elab.async false

namespace Sys2Proof.Machine

theorem estimate_keep {α : Type} (π : State → α) (f : Bool) (s : State) (h : ∀ d e, π { s with draws := d, entropy := e } = π s) : π (s.estimate f) = π s := h _ _

theorem estimated_keep (n : Nat) (d : BitVec 1024) (x : Source) : (x.estimated n d).state = x.state ∧ (x.estimated n d).rctFails = x.rctFails ∧ (x.estimated n d).aptFails = x.aptFails := by
  unfold Source.estimated; split <;> exact ⟨rfl, rfl, rfl⟩

theorem evEntropy_entropy (f : Bool) (s : State) : (s.evEntropy f).entropy = (s.estimate f).entropy := by
  unfold State.evEntropy; simp

theorem evEntropy_boot (f : Bool) (s : State) : (s.evEntropy f).boot = s.boot := by
  unfold State.evEntropy; simp; rfl

theorem evEntropy_clock (f : Bool) (s : State) : (s.evEntropy f).clock = s.clock := by
  unfold State.evEntropy; simp; rfl

theorem estimate_true (s : State) : (s.estimate true).entropy = { s.entropy with fallback := s.entropy.fallback.estimated s.now s.fresh } := rfl

theorem estimate_false (s : State) : (s.estimate false).entropy = { s.entropy with primary := s.entropy.primary.estimated s.now s.fresh } := rfl

theorem failed_facts (r : Bool) (x : Source) : (x.failed r).state = x.state ∧ (x.failed r).rctFails = x.rctFails + b2n r ∧ (x.failed r).aptFails = x.aptFails + b2n (!r) := by
  unfold Source.failed; cases r <;> exact ⟨rfl, rfl, rfl⟩

theorem toFallback_facts (e : Entropy) : e.toFallback.primary = e.primary ∧ e.toFallback.retestChain = e.retestChain ∧ e.toFallback.fallback.state = (if e.fallback.state = 4 then 4 else 1) ∧ e.toFallback.instantiated = e.instantiated := by
  unfold Entropy.toFallback; split
  · rename_i h; exact ⟨rfl, rfl, h, rfl⟩
  · exact ⟨rfl, rfl, rfl, rfl⟩

theorem primaryFailed_facts (s : State) : s.primaryFailed.entropy.primary.state = 4 ∧ s.primaryFailed.entropy.primary.rctFails = s.entropy.primary.rctFails ∧
    s.primaryFailed.entropy.primary.aptFails = s.entropy.primary.aptFails ∧ s.primaryFailed.entropy.retestChain = s.now ∧
    s.primaryFailed.entropy.fallback.state = (if s.entropy.fallback.state = 4 then 4 else 1) ∧ s.primaryFailed.boot = s.boot ∧ s.primaryFailed.clock = s.clock := by
  unfold State.primaryFailed
  dsimp only
  rw [evEntropy_entropy, evEntropy_boot, evEntropy_clock, estimate_false]
  obtain ⟨a, b, c⟩ := estimated_keep (State.now { s with entropy := Entropy.toFallback { s.entropy with primary := { s.entropy.primary with state := 4 }, retestChain := s.now, selectNext := false } })
    (State.fresh { s with entropy := Entropy.toFallback { s.entropy with primary := { s.entropy.primary with state := 4 }, retestChain := s.now, selectNext := false } })
    (Entropy.toFallback { s.entropy with primary := { s.entropy.primary with state := 4 }, retestChain := s.now, selectNext := false }).primary
  obtain ⟨x, y, z, w⟩ := toFallback_facts { s.entropy with primary := { s.entropy.primary with state := 4 }, retestChain := s.now, selectNext := false }
  refine ⟨a.trans ?_, b.trans ?_, c.trans ?_, y, z, rfl, rfl⟩ <;> rw [x]

theorem bootStop_stage (a b : Nat) (s : State) : (s.bootStop a b).boot.stage = a := rfl

theorem bootStop_entropy (a b : Nat) (s : State) : (s.bootStop a b).entropy = s.entropy := by
  have h := State.raiseFault_entropy (faultWord 4 4 b) s
  have k : ∀ (t : State) w, ({ t with boot := { t.boot with stage := a, stopWord := w }, faults := { t.faults with mgmtWord := w } } : State).entropy = t.entropy := fun _ _ => rfl
  exact (k _ _).trans h

theorem instantiate_facts (s : State) : s.instantiate.entropy.primary = s.entropy.primary ∧ s.instantiate.entropy.fallback = s.entropy.fallback ∧ s.instantiate.entropy.instantiated = true ∧
    s.instantiate.entropy.lastReseed = s.now ∧ s.instantiate.slotFilled 6 = true := ⟨rfl, rfl, rfl, rfl, by simp [State.slotFilled, State.instantiate, State.fillSlot]⟩

def bp (s : State) : Boot × Power := (s.boot, s.power)

theorem bp_mk {s t : State} (h1 : t.boot = s.boot) (h2 : t.power = s.power) : bp t = bp s := by simp [bp, h1, h2]

theorem takeOne_bp (n : Nat) (x : Slot) (s : State) : bp (s.takeOne n x) = bp s := by
  apply bp_mk <;> (unfold State.takeOne; dsimp only; repeat' split) <;> simp

theorem takeSlots_bp (n : Nat) : ∀ (k : Nat) (s : State), bp (s.takeSlots n k) = bp s
  | 0, _ => rfl
  | k + 1, s => by
    rw [State.takeSlots]; split
    · rfl
    · split
      · rw [takeSlots_bp n k]; refine (takeOne_bp ..).trans ?_; simp [bp]
      · rfl

theorem takeAll_bp (n : Nat) (s : State) : bp (s.takeAll n) = bp s := takeSlots_bp ..

theorem foldl_bp {α : Type} {g : State → α → State} {l : List α} (h : ∀ t x, bp (g t x) = bp t) : ∀ s : State, bp (l.foldl g s) = bp s := by
  induction l with
  | nil => intro _; rfl
  | cons x l ih => intro s; exact (ih _).trans (h s x)

theorem answerRetrain_bp (l v : Nat) (s : State) : bp (s.answerRetrain l v) = bp s := by
  unfold State.answerRetrain; dsimp only
  refine (foldl_bp ?_ _).trans rfl
  intro t x; split
  · split
    · simp [bp]
    · refine (takeAll_bp ..).trans ?_; simp [bp]
  · rfl

theorem toStation_bp (m : Msg) (s : State) : bp (s.toStation m) = bp s := by
  unfold State.toStation; split <;> rfl

theorem leaveUp_bp (l : Nat) (s : State) : bp (s.leaveUp l) = bp s := by
  unfold State.leaveUp; dsimp only
  exact (foldl_bp (fun t m => toStation_bp m t) _).trans rfl

theorem evLink_bp (l c : Nat) (d : List Nat) (s : State) : bp (s.evLink l c d) = bp s := by
  unfold State.evLink; dsimp only
  split <;> split <;> simp [bp]

theorem setLinkState_bp (l v : Nat) (why : LinkCause) (s : State) : bp (s.setLinkState l v why) = bp s := by
  unfold State.setLinkState; dsimp only; split
  · rfl
  · split <;> split <;> simp only [answerRetrain_bp, leaveUp_bp, evLink_bp] <;> rfl

theorem enterTraining_bp (l : Nat) (why : LinkCause) (s : State) : bp (s.enterTraining l why) = bp s := (setLinkState_bp l 0 why s)

theorem enterTraining_keep {α : Type} {π : Link → α} (h : Steady π) (hs : ∀ k v, π { k with state := v } = π k)
    (ht : ∀ k n, π { k with trainChain := n, trained := false, helloOk := false, echoes := 0, minRtt := 0, routeLost := false, rxNext := 0, txNext := 0, window := [], txQueue := [], rxGrains := [], scrambler := 0, nakPend := false } = π k)
    (l n : Nat) (why : LinkCause) (s : State) : π ((s.enterTraining l why).link n) = π (s.link n) := by
  unfold State.enterTraining
  exact (modLink_keep π _ _ _ _ (fun k => ht k _)).trans ((State.setLinkState_link h ..).trans (modLink_keep π _ _ _ _ (fun k => hs k _)))

theorem enterTraining_len (l : Nat) (why : LinkCause) (s : State) : (s.enterTraining l why).links.length = s.links.length := by
  unfold State.enterTraining; simp [State.setLinkState_len]

theorem mayTrain_step (l n : Nat) (why : LinkCause) (s : State) : (s.enterTraining l why).mayTrain n = s.mayTrain n := by
  have a := enterTraining_bp l why s
  simp only [bp, Prod.mk.injEq] at a
  have b := enterTraining_keep (π := Link.cable) ⟨fun _ _ => rfl, fun _ _ => rfl, fun _ _ _ => rfl, fun _ _ => rfl⟩ (fun _ _ => rfl) (fun _ _ => rfl) l n why s
  have c := enterTraining_keep (π := Link.supply) ⟨fun _ _ => rfl, fun _ _ => rfl, fun _ _ _ => rfl, fun _ _ => rfl⟩ (fun _ _ => rfl) (fun _ _ => rfl) l n why s
  simp only [State.mayTrain, a.1, a.2, b, c]

def trainIf (t : State) (l : Nat) : State := if t.mayTrain l then t.enterTraining l .training else t

theorem trainIf_may (l n : Nat) (s : State) : (trainIf s l).mayTrain n = s.mayTrain n ∧ (trainIf s l).links.length = s.links.length ∧ (trainIf s l).time = s.time ∧ (trainIf s l).boot = s.boot := by
  unfold trainIf; split
  · have a := enterTraining_bp l .training s
    simp only [bp, Prod.mk.injEq] at a
    exact ⟨mayTrain_step .., enterTraining_len .., by simp, a.1⟩
  · exact ⟨rfl, rfl, rfl, rfl⟩

theorem trainIf_state (l n : Nat) (s : State) (h : l < s.links.length) : ((trainIf s l).link n).state = if n = l ∧ s.mayTrain l = true then 0 else (s.link n).state := by
  unfold trainIf
  by_cases hm : s.mayTrain l = true
  · rw [if_pos hm]
    have T := State.enterTraining_trains h .training
    by_cases hn : n = l
    · subst hn; rw [if_pos ⟨rfl, hm⟩]; exact T.state.1
    · rw [if_neg (by simp [hn])]; exact T.others n hn
  · rw [if_neg hm, if_neg (by simp [hm])]

theorem fold_train (l : List Nat) : ∀ (s : State), (∀ x ∈ l, x < s.links.length) → (l.foldl trainIf s).boot = s.boot ∧ (l.foldl trainIf s).time = s.time ∧
    ∀ n, ((l.foldl trainIf s).link n).state = if n ∈ l ∧ s.mayTrain n = true then 0 else (s.link n).state := by
  induction l with
  | nil => intro s _; simp
  | cons x l ih =>
    intro s h
    obtain ⟨a, b, c, d⟩ := trainIf_may x 0 s
    obtain ⟨i, j, k⟩ := ih (trainIf s x) (fun y hy => by rw [b]; exact h y (.tail _ hy))
    refine ⟨i.trans d, j.trans c, fun n => (k n).trans ?_⟩
    rw [trainIf_state x n s (h x (.head _)), (trainIf_may x n s).1]
    by_cases h1 : n = x
    · subst h1; by_cases h2 : s.mayTrain n = true <;> simp [h2]
    · by_cases h2 : s.mayTrain n = true <;> simp [h1, h2]

theorem modClusters_awake : ∀ (l : List Nat) (s : State) (k : Nat), k < s.clusters.length →
    ((s.modClusters l fun u => { u with awake := true }).cluster k).awake = if k ∈ l then true else (s.cluster k).awake
  | [], _, _, _ => by simp [State.modClusters]
  | x :: l, s, k, h => by
    refine (modClusters_awake l (s.modCluster x fun u => { u with awake := true }) k (by simpa using h)).trans ?_
    by_cases hk : k = x
    · subst hk; rw [State.modCluster_cluster h]; by_cases hl : k ∈ l <;> simp [hl]
    · rw [State.modCluster_cluster_ne hk]; simp [hk]

theorem toStage40_facts (s : State) : s.toStage40.boot.waves = s.boot.waves ∧ s.toStage40.boot.devicesReady = s.boot.devicesReady ∧ (s.toStage40.boot.stage = s.boot.stage ∨ s.toStage40.boot.stage = 0x40) ∧
    s.toStage40.time = s.time ∧ s.toStage40.plat.pending = s.plat.pending := by
  unfold State.toStage40; split
  · exact ⟨rfl, rfl, .inr rfl, rfl, rfl⟩
  · exact ⟨rfl, rfl, .inl rfl, rfl, rfl⟩

theorem foldl_app {α β : Type} (π : State → β) {g : State → α → State} {l : List α} (h : ∀ t x, π (g t x) = π t) : ∀ s : State, π (l.foldl g s) = π s := by
  induction l with
  | nil => intro _; rfl
  | cons x l ih => intro s; exact (ih _).trans (h s x)

theorem fold_pend {g : State → Nat → State} {v : Nat → Nat × Nat × Nat} (hk : ∀ t x y, y ∈ t.plat.pending → y ∈ (g t x).plat.pending) (hv : ∀ t x, v x ∈ (g t x).plat.pending) :
    ∀ (l : List Nat) (s : State), (∀ y ∈ s.plat.pending, y ∈ (l.foldl g s).plat.pending) ∧ ∀ x ∈ l, v x ∈ (l.foldl g s).plat.pending
  | [], s => ⟨fun _ h => h, fun _ h => by cases h⟩
  | a :: l, s => by
    obtain ⟨x, y⟩ := fold_pend hk hv l (g s a)
    refine ⟨fun z hz => x z (hk s a z hz), fun z hz => ?_⟩
    rcases List.mem_cons.1 hz with rfl | hz
    · exact x _ (hv s z)
    · exact y z hz

theorem memSpan {a n x : Nat} : x ∈ span a n ↔ a ≤ x ∧ x < a + n := by
  simp only [span, List.mem_map, List.mem_range]
  constructor
  · rintro ⟨y, h, rfl⟩; omega
  · intro h; exact ⟨x - a, by omega, by omega⟩

theorem becomeReady_facts (s : State) : s.becomeReady.boot.stage = 0x50 ∧ s.becomeReady.boot.ready = true ∧ s.becomeReady.flash.warmRow = 0 ∧ s.becomeReady.faults.trayCycles = 0 := by
  have o : ∀ t : State, t.openHeldDrawers.boot = t.boot ∧ t.openHeldDrawers.flash = t.flash ∧ t.openHeldDrawers.faults = t.faults := fun t => by
    unfold State.openHeldDrawers; split <;> exact ⟨rfl, rfl, rfl⟩
  unfold State.becomeReady
  dsimp only
  have m1 : ∀ (t : State) d e, (State.evMgmt 0x1304 d (State.evOpen 0x1304 e t)).boot = t.boot := fun t d e => by simp
  have m2 : ∀ (t : State) d e, (State.evMgmt 0x1304 d (State.evOpen 0x1304 e t)).flash = t.flash := fun t d e => by simp
  have m3 : ∀ (t : State) d e, (State.evMgmt 0x1304 d (State.evOpen 0x1304 e t)).faults = t.faults := fun t d e => by simp
  rw [m1, m2, m3, (o _).1, (o _).2.1, (o _).2.2]
  exact ⟨rfl, rfl, rfl, rfl⟩

theorem mismatch_facts (s : State) : s.reportMismatch.boot.stage = s.boot.stage ∧ s.reportMismatch.boot.judged = s.boot.judged ∧ s.reportMismatch.boot.ready = s.boot.ready := by
  unfold State.reportMismatch
  dsimp only
  repeat' split
  all_goals first
    | exact ⟨rfl, rfl, rfl⟩
    | (rw [State.evMgmt_boot, State.evPf_boot]; exact ⟨rfl, rfl, rfl⟩)

end Sys2Proof.Machine
end

