-- ==== Sys2Proof/Laws/Bytes.lean ====
section
/-! SUPPORT. Bytes that are written are read back (R47, R250). -/

set_option linter.unusedTactic false
set_option linter.unreachableTactic false
set_option linter.unusedVariables false
set_option linter.unusedSimpArgs false
set_option Elab.async false

namespace Sys2Proof.Machine

theorem read0_write0_off {m : Memory} (h : Memory.wf true m = true) (a k n : Nat) (b : Bytes) (hd : k + n ≤ a ∨ a + b.length ≤ k) : Memory.read0 k n (Memory.write0 a b m) = Memory.read0 k n m := by
  unfold Memory.read0
  refine List.map_congr_left fun i hi => ?_
  rw [get0_write0 h, if_neg (by simp at hi; omega)]

theorem extWrite_out (raw : Bool) (p : Nat) : ∀ (b : Bytes) (a : Nat) (s : State), (∀ i < b.length, s.inWindow p (a + i) = false) → s.extWrite raw p a b = s.modParcel p fun q => { q with mem := Memory.write a b q.mem }
  | [], a, s, _ => by
    simp only [State.extWrite, Memory.write, State.modParcel]
    rw [show (fun q : Parcel => { q with mem := q.mem }) = id from rfl, List.modify_id]
  | x :: b, a, s, h => by
    have h0 := h 0 (by simp)
    simp only [Nat.add_zero] at h0
    have e : s.extWriteByte raw p a x = s.extPut p a x := by unfold State.extWriteByte; rw [if_neg (by simp [h0])]
    have hw : ∀ k, (s.extPut p a x).inWindow p k = s.inWindow p k := by
      intro k
      unfold State.inWindow State.extPut
      have : ((s.modParcel p fun q => { q with mem := tset a x q.mem }).parcel p).window = (s.parcel p).window := by
        by_cases hl : p < s.parcels.length
        · rw [State.modParcel_parcel hl]
        · simp [State.modParcel, State.parcel, List.getD_eq_getElem?_getD, List.getElem?_eq_none (Nat.le_of_not_lt hl)]
      rw [this]
    rw [State.extWrite, e, extWrite_out raw p b (a + 1) (s.extPut p a x) (fun i hi => by rw [hw]; have := h (i + 1) (by simpa using hi); rwa [show a + 1 + i = a + (i + 1) by omega])]
    simp only [State.extPut, State.modParcel, List.modify_modify_eq]
    rfl

end Sys2Proof.Machine
end

