-- ==== Sys2Proof/WellFormed.lean ====
section
/-! DEFINITION. Which commands are well formed: every index operand names something that the module has. Operand values that the
spec lets a sender choose freely (a payload, a message, a register value) are not restricted: the meanings check them. -/

namespace Sys2Proof

/-- A PCIe function: PF0 or VF1 to VF16 (R195). -/
def okFn (n : Nat) : Bool := n ≤ 16
/-- A virtual function (R195). -/
def okVf (n : Nat) : Bool := 1 ≤ n && n ≤ 16
/-- A parcel (R249). -/
def okParcel (n : Nat) : Bool := n < 16
/-- A logical cluster (R46). -/
def okLogical (n : Nat) : Bool := n < 64
/-- One of the four image queues (R58). -/
def okQueue (n : Nat) : Bool := n < 4
/-- A local context (R251). -/
def okCtx (n : Nat) : Bool := n < 8
/-- A Traverse link (R136). -/
def okLink (n : Nat) : Bool := n < 48
/-- A connection ID (R167). -/
def okConn (n : Nat) : Bool := n < 2 ^ 20
/-- A physical cluster (R8). -/
def okCluster (n : Nat) : Bool := n < 64
/-- A subchannel (R9). -/
def okSubch (n : Nat) : Bool := n < 64
/-- An easement ID (R188). -/
def okEase (n : Nat) : Bool := n < 4096
/-- A wave of clusters (R280). -/
def okWave (n : Nat) : Bool := 1 ≤ n && n ≤ 8
/-- A memory device (R9). -/
def okDevice (n : Nat) : Bool := n < 16
/-- A die: compute dies 0 to 3 and the hub (R8). -/
def okDie (n : Nat) : Bool := n < 5
/-- A lane of a link (R136). -/
def okLane (n : Nat) : Bool := n < 4
/-- A tile row of a shelf (R52). -/
def okRow (n : Nat) : Bool := n < 256

/-- A command is well formed. -/
def Instr.wellFormed : Instr → Bool
  | .moduleInfo fn => okFn fn
  | .modulePlat fn => okFn fn
  | .spillMap fn => okFn fn
  | .hostShares fn => okFn fn
  | .fabricShares fn => okFn fn
  | .linkRetrain fn => okFn fn
  | .linkStatus fn => okFn fn
  | .parcelOpen fn => okFn fn
  | .parcelClose fn => okFn fn
  | .parcelStatus fn => okFn fn
  | .sessionOpen fn => okFn fn
  | .attestReport fn => okFn fn
  | .parcelAttach fn => okFn fn
  | .bounceMap fn => okFn fn
  | .debugConsent fn => okFn fn
  | .lotLoad fn => okFn fn
  | .lotUnload fn => okFn fn
  | .contextStart fn => okFn fn
  | .contextStop fn => okFn fn
  | .contextSeed fn => okFn fn
  | .contextStatus fn => okFn fn
  | .roundOpen fn => okFn fn
  | .roundMap fn => okFn fn
  | .roundClose fn => okFn fn
  | .connOpen fn => okFn fn
  | .connClose fn => okFn fn
  | .connStatus fn => okFn fn
  | .easementGrant fn => okFn fn
  | .easementRevoke fn => okFn fn
  | .chestCertify fn => okFn fn
  | .install _ => true
  | .destroy _ => true
  | .lifecycle _ => true
  | .authority _ => true
  | .modelKey _ => true
  | .fieldChallenge _ => true
  | .fieldOpen _ => true
  | .drawerOpen fn _ _ => okFn fn
  | .drawerClose fn _ _ => okFn fn
  | .reqTailDoorbell fn _ _ => okFn fn
  | .respHeadDoorbell fn _ => okFn fn
  | .registerWrite fn _ _ _ => okFn fn
  | .responseWrite fn => okFn fn
  | .functionReset _ => true
  | .pcieLinkTrained _ _ => true
  | .bounceInRecord vf _ => okVf vf
  | .bounceOutRecord vf => okVf vf
  | .bounceMapEffect vf => okVf vf
  | .chainBoundary _ _ _ => true
  | .rodBoundary _ => true
  | .boundaryReserve _ => true
  | .contextSwap p => okParcel p
  | .contextFinish p ctx => okParcel p && okCtx ctx
  | .hangReplayEnd p _ => okParcel p
  | .tileStep p k _ => okParcel p && okLogical k
  | .weightLoad p k _ => okParcel p && okLogical k
  | .shelfWrite p k => okParcel p && okLogical k
  | .pairVote p k _ _ _ => okParcel p && okLogical k
  | .preload p k _ => okParcel p && okLogical k
  | .drain p k row _ _ _ => okParcel p && okLogical k && okRow row
  | .nodeStart p k _ => okParcel p && okLogical k
  | .nodeComplete p k _ => okParcel p && okLogical k
  | .fold p k _ => okParcel p && okLogical k
  | .foldRecord p k => okParcel p && okLogical k
  | .maskExpand p k _ => okParcel p && okLogical k
  | .nttFwd p k _ => okParcel p && okLogical k
  | .nttInv p k _ => okParcel p && okLogical k
  | .keyswitch p k _ => okParcel p && okLogical k
  | .refreshLut p k _ => okParcel p && okLogical k
  | .clipL2 p k _ => okParcel p && okLogical k
  | .sumsq p k _ => okParcel p && okLogical k
  | .meanvar p k _ => okParcel p && okLogical k
  | .noiseGauss p k _ => okParcel p && okLogical k
  | .decodeCenter p k _ => okParcel p && okLogical k
  | .applyStep p k _ => okParcel p && okLogical k
  | .matmul p k _ => okParcel p && okLogical k
  | .seedRecover p k _ => okParcel p && okLogical k
  | .pairSeed p k _ => okParcel p && okLogical k
  | .descriptorPush p k q _ => okParcel p && okLogical k && okQueue q
  | .copy p k q => okParcel p && okLogical k && okQueue q
  | .copy2d p k q => okParcel p && okLogical k && okQueue q
  | .fill p k q => okParcel p && okLogical k && okQueue q
  | .send p k q => okParcel p && okLogical k && okQueue q
  | .rodMark p k q => okParcel p && okLogical k && okQueue q
  | .carryComplete p k q _ => okParcel p && okLogical k && okQueue q
  | .stakeWaitMet p k q => okParcel p && okLogical k && okQueue q
  | .leafDeliver p k conn _ _ => okParcel p && okLogical k && okConn conn
  | .leafDeliveryResume p k => okParcel p && okLogical k
  | .clientFragment p ctx _ => okParcel p && okCtx ctx
  | .intakeDeadline p ctx => okParcel p && okCtx ctx
  | .finalReceipt p ctx => okParcel p && okCtx ctx
  | .receipt p ctx _ => okParcel p && okCtx ctx
  | .closeStakeSignal p ctx => okParcel p && okCtx ctx
  | .sliceResult p ctx _ => okParcel p && okCtx ctx
  | .closeDeadline p ctx => okParcel p && okCtx ctx
  | .signalDetect link => okLink link
  | .trainingTimeout link => okLink link
  | .trainingRetry link => okLink link
  | .hello link _ _ _ _ => okLink link
  | .echo link _ _ _ _ => okLink link
  | .flit link _ => okLink link
  | .nak link _ => okLink link
  | .nakRepeat link => okLink link
  | .replayTimeout link => okLink link
  | .laneFail link lane => okLink link && okLane lane
  | .flitLockLoss link => okLink link
  | .relockRouteLoss link => okLink link
  | .relockDone link => okLink link
  | .relockTimeout link => okLink link
  | .credit link _ _ _ _ => okLink link
  | .marker link _ => okLink link
  | .chainStep _ => true
  | .markerHoldover => true
  | .markerLost => true
  | .masterTakeover => true
  | .write _ => true
  | .readReq _ => true
  | .leaf _ => true
  | .readResp _ => true
  | .complete _ => true
  | .refuse _ => true
  | .msgOpen _ => true
  | .openAck _ => true
  | .msgClose _ => true
  | .attest _ => true
  | .messageVisible conn => okConn conn
  | .connTimeout conn => okConn conn
  | .openResend conn => okConn conn
  | .openTimeout conn => okConn conn
  | .closingTimeout conn => okConn conn
  | .fetchResend conn _ => okConn conn
  | .spillFetchDone conn _ _ _ _ _ => okConn conn
  | .revokeDrainDone ease _ => okEase ease
  | .revokeDrainLimit ease => okEase ease
  | .closeFillDone p => okParcel p
  | .snapshotDone p => okParcel p
  | .contextFault p ctx _ => okParcel p && okCtx ctx
  | .clusterError cluster _ => okCluster cluster
  | .memPoison p ctx => okParcel p && okCtx ctx
  | .subchFail subch => okSubch subch
  | .subchDegraded subch _ => okSubch subch
  | .migrationDone subch => okSubch subch
  | .d2dError => true
  | .fenceTimeout _ => true
  | .moduleReset _ => true
  | .lockstepMismatch _ => true
  | .watchdogMiss => true
  | .pwrWarn _ => true
  | .inputUndervoltage _ _ => true
  | .powerFailRecovered => true
  | .powerFailStop _ => true
  | .inputOvervoltage _ _ => true
  | .pwrCycle _ _ => true
  | .inputSwitchClose _ _ => true
  | .presentJ1Break => true
  | .powerOn _ _ => true
  | .railFail _ _ => true
  | .throttleTrigger die _ _ => okDie die
  | .thermalShutdown _ _ _ => true
  | .thermalIdle device _ => okDevice device
  | .thermalIdleClear => true
  | .coolantLimit _ _ => true
  | .cableOverdraw link => okLink link
  | .inletReading _ => true
  | .telemetryRefresh _ => true
  | .scheduleAck => true
  | .meterSave => true
  | .mgmtTelemetry _ => true
  | .mgmtEntropy _ => true
  | .mgmtProfile _ => true
  | .mgmtCap _ => true
  | .mgmtSchedule _ => true
  | .mgmtMeter _ => true
  | .fwBegin _ => true
  | .fwData _ => true
  | .fwEnd _ => true
  | .fwCommit _ => true
  | .settingsWrite _ => true
  | .surveyWrite _ => true
  | .tlsCert _ => true
  | .moduleResetWarm _ => true
  | .moduleResetCold _ => true
  | .drbgReseed _ => true
  | .entropyPattern _ => true
  | .mgmtLinkRetrain _ => true
  | .mgmtLinkStatus _ => true
  | .tlsHandshake _ => true
  | .ethPacket _ => true
  | .setEndpointId _ _ => true
  | .getEndpointId => true
  | .getEndpointUuid => true
  | .getMctpVersionSupport _ => true
  | .getMessageTypeSupport => true
  | .getVendorMessageSupport _ => true
  | .mctpUnsupportedCmd _ => true
  | .getVersion => true
  | .getCapabilities => true
  | .negotiateAlgorithms _ => true
  | .getDigests => true
  | .getCertificate _ _ _ => true
  | .challenge _ _ => true
  | .getMeasurements _ _ => true
  | .spdmUnsupportedRequest _ => true
  | .smbusLineRecovery _ => true
  | .smbusTargetTimeout _ _ => true
  | .smbusFence _ _ => true
  | .smbusUnfence _ => true
  | .smbusRetry _ => true
  | .smbusProbe _ => true
  | .smbusPacket _ => true
  | .healthTestFail _ _ => true
  | .primaryRetest _ => true
  | .hubReseed _ => true
  | .clusterGeneratorReseed p k _ => okParcel p && okLogical k
  | .fieldChallengeExpiry => true
  | .ebxelStart => true
  | .waveWake wave => okWave wave
  | .waveTestDone wave _ _ => okWave wave
  | .deviceReady device _ => okDevice device
  | .earlyService => true
  | .topologyJudge => true
  | .vfEnable _ => true
  | .trainingComplete link _ => okLink link
  | .overvoltageRecovery _ => true
  | .transferAbandon _ => true
  | .startUpTestEnd _ _ => true
  | .factoryFuseProgramming => true
  | .diePowerUp die => okDie die
  | .fieldDebugAccess _ => true

end Sys2Proof
end

