-- ==== Sys2Proof/Tests/Slice0.lean ====
section
/-! SUPPORT. The model's own tests: an ill-formed command for each check of WellFormed, a few values that the spec works out itself, single steps of
commands, and for each statement of Certificates/Slice0/Obligations.lean, clause by clause, a concrete state and operands that meet its hypotheses. -/

set_option Elab.async false

namespace Sys2Proof.Tests

open Machine

/-! Ill-formed commands. -/

theorem test_wf_fn : (Instr.moduleInfo 17).wellFormed = false ∧ (Instr.moduleInfo 16).wellFormed = true := by decide
theorem test_wf_vf : (Instr.bounceOutRecord 0).wellFormed = false ∧ (Instr.bounceOutRecord 16).wellFormed = true := by decide
theorem test_wf_parcel : (Instr.contextSwap 16).wellFormed = false ∧ (Instr.contextSwap 15).wellFormed = true := by decide
theorem test_wf_logical : (Instr.foldRecord 0 64).wellFormed = false ∧ (Instr.foldRecord 0 63).wellFormed = true := by decide
theorem test_wf_queue : (Instr.copy 0 0 4).wellFormed = false ∧ (Instr.copy 0 0 3).wellFormed = true := by decide
theorem test_wf_ctx : (Instr.contextFinish 0 8).wellFormed = false ∧ (Instr.contextFinish 0 7).wellFormed = true := by decide
theorem test_wf_link : (Instr.signalDetect 48).wellFormed = false ∧ (Instr.signalDetect 47).wellFormed = true := by decide
theorem test_wf_conn : (Instr.connTimeout 1048576).wellFormed = false ∧ (Instr.connTimeout 1048575).wellFormed = true := by decide
theorem test_wf_cluster : (Instr.clusterError 64 .trestle).wellFormed = false ∧ (Instr.clusterError 63 .trestle).wellFormed = true := by decide
theorem test_wf_subch : (Instr.subchFail 64).wellFormed = false ∧ (Instr.subchFail 63).wellFormed = true := by decide
theorem test_wf_ease : (Instr.revokeDrainLimit 4096).wellFormed = false ∧ (Instr.revokeDrainLimit 4095).wellFormed = true := by decide
theorem test_wf_wave : (Instr.waveWake 0).wellFormed = false ∧ (Instr.waveWake 8).wellFormed = true := by decide
theorem test_wf_device : (Instr.deviceReady 16 []).wellFormed = false ∧ (Instr.deviceReady 15 []).wellFormed = true := by decide
theorem test_wf_die : (Instr.throttleTrigger 5 0 false).wellFormed = false ∧ (Instr.throttleTrigger 4 0 false).wellFormed = true := by decide
theorem test_wf_lane : (Instr.laneFail 0 4).wellFormed = false ∧ (Instr.laneFail 0 3).wellFormed = true := by decide
theorem test_wf_row : (Instr.drain 0 0 256 false false 0).wellFormed = false ∧ (Instr.drain 0 0 255 false false 0).wellFormed = true := by decide

/-! Small states from which the witnesses and the single steps are built. -/

/-- A slot that every master may use in every working life-cycle state. -/
def openSlot : SlotCell := { SlotCell.reset with attr := BitVec.ofNat 32 (5 + 2 ^ 24 * lcWork + 2 ^ 16 * 127) }

/-- An image of four clusters in role `r` that declares stakes 0 to 3 of logical cluster 0, with a close stake 3. -/
def image (r : Nat) : LotImage :=
  { ledger := ⟨0x0A5ED6E1, 1, 64, 1024000, 1, 0, 4, 4, r, 0, 0, 16, 0, 0, 0⟩
    entries := [], ledgerExact := true, moduli := [], preloads := [], nodes := []
    stakes := [⟨0, true, false⟩, ⟨1, true, false⟩, ⟨2, true, false⟩, ⟨3, true, true⟩]
    plan := [], swapMap := [], sliceMap := [], benchSlots := [], conns := [], resultConn := none, holdBytes := 0
    trailer := ⟨0x0A5E51C0, 1, 1, 8, 0, 0, zeros 96⟩ }

/-- A context with an image of role `r` in state `v`. -/
def ctxOf (v r : Nat) : Context :=
  { Context.reset with state := v, image := some (image r), clusters := List.replicate 4 { CtxCluster.reset with queues := List.replicate 4 Queue.reset } }

/-- Parcel 0 with four clusters and four subchannels, ATTACHED, with context 0 as given and running. -/
def parcelOn (x : Context) : Parcel :=
  { Parcel.reset with
    state := 2, clusters := [0, 1, 2, 3], subchs := [0, 1, 2, 3], hostShare := 55000, fabricShare := 781, everAttached := true
    contexts := x :: List.replicate 7 Context.reset, running := some 0 }

/-- Four local stakes of context 0. -/
def someStakes : Tbl Stake := [(0, ⟨0, 0, true⟩), (1, ⟨0, 0, true⟩), (2, ⟨0, 0, true⟩), (3, ⟨0, 0, true⟩)]

/-- A ready module in chain 100,000 whose parcel 0 runs context `x`. -/
def upWith (x : Context) : State :=
  { State.reset with
    power := { Power.reset with present := true, switch := true, off := false }
    boot := { Boot.reset with stage := 0x50, ready := true, moduleId := 5, wavesAwake := 8, waves := 8, diesUp := 4 }
    clock := { Clock.reset with running := true, chain := 100000 }
    flash := { Flash.reset with lifecycle := 3 }
    entropy := { Entropy.reset with instantiated := true, primary := { Source.reset with state := 2 }, lastReseed := 100000 }
    chest := { Chest.reset with slots := ([3, 4, 5, 8, 9, 10, 11] ++ (List.range 16).map (128 + ·)).map fun i => (i, openSlot) }
    host := { HostPort.reset with linkUp := true, numVfs := 16 }
    fns := List.replicate 17 { Fn.reset with present := true, enable := true, active := true }
    parcels := parcelOn x :: List.replicate 15 Parcel.reset
    clusters := List.replicate 64 { Cluster.reset with awake := true, stakes := someStakes } }

/-- The module with a started fold context. -/
def up : State := upWith (ctxOf 2 2)

/-- A taken request with an indirect payload. -/
def taken (op : Nat) (b : Bytes) : Taken := { Taken.reset with opcode := op, indirect := true, respMax := 8192, payload := .bytes b }

/-- Function `fn` has this request to execute next. -/
def asking (fn : Nat) (t : Taken) (s : State) : State := s.modFn fn fun f => { f with taken := [t], unanswered := 1 }

/-- What `State.Asks` says, as a test. -/
theorem asks_of {s : State} {fn op n : Nat} {pf vf : Bool} {t : Taken} {b : Bytes}
    (h : s.front fn op = some t ∧ t.payload = .bytes b ∧ t.indirect = true ∧ b.length = n ∧ s.gate fn op pf vf = none) :
    s.Asks fn op n pf vf t b :=
  ⟨h.1, by simp [Taken.plain, h.2.1, h.2.2.1, h.2.2.2.1], h.2.2.2.2⟩

/-- What `State.Hears` says, as a test. -/
theorem hears_of {s : State} {m : MgmtMsg} (h : s.pathOpen m = true ∧ m.flags = 0 ∧ m.reserved = 0 ∧ m.body.length ≤ mgmtMost m.path) : s.Hears m :=
  ⟨h.1, h.2.1, h.2.2.1, h.2.2.2⟩

/-- What `State.Sound` says, as a test. -/
theorem sound_of {s : State}
    (h : (s.fns.length = 17 ∧ s.parcels.length = 16 ∧ s.clusters.length = 64 ∧ s.links.length = 48) ∧
      ((∀ f ∈ s.fns, f.unanswered ≤ 64 ∧ f.events.length ≤ 256) ∧ s.smbus.queue.length ≤ 64 ∧ s.power.records.length ≤ 1024 ∧ s.mgmt.tls.length ≤ 4) ∧
      ((∀ q ∈ s.parcels, rising q.mem = true ∧ q.contexts.length = 8) ∧
        (∀ k ∈ s.clusters, Memory.wf true k.scratch = true ∧ rising k.benches = true ∧ (∀ x ∈ k.benches, Memory.wf true x.2 = true) ∧ rising k.rows = true
          ∧ rising k.stakes = true ∧ k.leaves.length = 2) ∧ rising s.fabric.conns = true ∧ rising s.fabric.eases = true
        ∧ rising s.chest.slots = true ∧ Memory.wf true s.flash.fwA.image = true ∧ Memory.wf true s.flash.fwB.image = true) ∧
      (s.mgmt.tls.Nodup ∧ ∀ k ∈ s.mgmt.tls, k < 4)) : s.Sound :=
  ⟨h.1, ⟨h.2.1.1, h.2.1.2⟩, ⟨h.2.2.1.1, h.2.2.1.2⟩, h.2.2.2⟩

theorem test_up_sound : up.Sound := sound_of (by decide +kernel)

/-- The module with a request that function `fn` executes next. -/
def asked (fn op : Nat) (b : Bytes) (s : State) : State := asking fn (taken op b) s

/-- A connection of parcel 0 in state `v` to module 6. -/
def connOf (v : Nat) : Conn := { Conn.reset with gen := 1, state := v, peerModule := 6, window := 16, peerConn := 9, peerGen := 1 }

/-- The module with connection 0 as given. -/
def withConn (k : Conn) (s : State) : State := { s with fabric := { s.fabric with conns := [(0, k)] } }

/-- The module with easement 0 as given. -/
def withEase (e : Ease) (s : State) : State := { s with fabric := { s.fabric with eases := [(0, e)] } }

/-- A valid easement for any source of module 6. -/
def someEase : Ease := { Ease.reset with valid := true, read := true, write := true, gen := 1, srcModule := 6, srcCount := 1, base := 0, size := 4096, used := true }

/-- Clause by clause: `module.info`, `module.plat`, `link.status`, `parcel.status`, `context.status`. -/
theorem wit_QueriesAndReports_1 :
    (asked 0 0x01 [] up).Asks 0 0x01 0 true true (taken 0x01 []) [] ∧
    (asked 0 0x02 [] up).Asks 0 0x02 0 true true (taken 0x02 []) [] ∧
    (asked 0 0x07 [] up).Asks 0 0x07 0 true false (taken 0x07 []) [] ∧
    ((asked 1 0x12 (zeros 8) up).Asks 1 0x12 8 true true (taken 0x12 (zeros 8)) (zeros 8) ∧ fld 0 1 (zeros 8) = parcelOf 1 ∧
      (asked 1 0x12 (zeros 8) up).parcelBusy 0 = false) ∧
    ((asked 1 0x35 (zeros 8) up).Asks 1 0x35 8 false true (taken 0x35 (zeros 8)) (zeros 8) ∧
      (taken 0x35 (zeros 8)).fits ((asked 1 0x35 (zeros 8) up).contextStatus (parcelOf 1) (fld 0 1 (zeros 8))) = true) :=
  ⟨asks_of (by decide +kernel), asks_of (by decide +kernel), asks_of (by decide +kernel), ⟨asks_of (by decide +kernel), by decide +kernel⟩,
    ⟨asks_of (by decide +kernel), by decide +kernel⟩⟩

/-- `conn.status`, `attest.report`, `chest.certify`. -/
theorem wit_QueriesAndReports_2 :
    ((asked 1 0x52 (zeros 8) (withConn (connOf 3) up)).Asks 1 0x52 8 false true (taken 0x52 (zeros 8)) (zeros 8) ∧ connParcel (fld 0 4 (zeros 8)) = parcelOf 1 ∧
      (asked 1 0x52 (zeros 8) (withConn (connOf 3) up)).connLive 0 = true) ∧
    ((asked 1 0x21 (zeros 32) up).Asks 1 0x21 32 false true (taken 0x21 (zeros 32)) (zeros 32) ∧ (asked 1 0x21 (zeros 32) up).canSign = true ∧
      4952 ≤ (taken 0x21 (zeros 32)).respMax) ∧
    ((asked 1 0x71 (1 :: zeros 39) up).Asks 1 0x71 40 false true (taken 0x71 (1 :: zeros 39)) (1 :: zeros 39) ∧ allZero (cut 1 7 (1 :: zeros 39)) = true ∧
      (asked 1 0x71 (1 :: zeros 39) up).canDraw = true ∧ (asked 1 0x71 (1 :: zeros 39) up).slotUse (parcelSlot (parcelOf 1) 0) 5 = true) :=
  ⟨⟨asks_of (by decide +kernel), by decide +kernel⟩, ⟨asks_of (by decide +kernel), by decide +kernel⟩, ⟨asks_of (by decide +kernel), by decide +kernel⟩⟩

/-- `spill.map`, `host.shares`, `fabric.shares`, `debug.consent`: each with the tables that are in force already, or a change that they allow. -/
theorem wit_SettingsTaken_1 :
    ((asked 0 0x03 (zeros 8 ++ le 8 201326592) up).Asks 0 0x03 16 true false (taken 0x03 (zeros 8 ++ le 8 201326592)) (zeros 8 ++ le 8 201326592) ∧
      fld 8 8 (zeros 8 ++ le 8 201326592) = 201326592 ∧ up.host.spilled = []) ∧
    (let b := (List.range 16).flatMap fun _ => le 4 55000
     (asked 0 0x04 b up).Asks 0 0x04 64 true false (taken 0x04 b) b ∧ ((List.range 16).map fun i => fld (4 * i) 4 b).sum ≤ 880000 ∧
      ∀ p < 16, (up.parcel p).isOpen = true → ((List.range 16).map fun i => fld (4 * i) 4 b).getD p 0 = up.sharesNext.getD p 0) ∧
    (let b := (List.range 16).flatMap fun _ => le 2 781
     (asked 0 0x05 b up).Asks 0 0x05 32 true false (taken 0x05 b) b ∧ ((List.range 16).map fun i => fld (2 * i) 2 b).sum ≤ 12500 ∧
      ∀ p < 16, (up.parcel p).isOpen = true → ((List.range 16).map fun i => fld (2 * i) 2 b).getD p 0 = (up.fabric.pendSlices.getD up.fabric.slices).getD p 0) ∧
    ((asked 1 0x24 (15 :: zeros 7) up).Asks 1 0x24 8 false true (taken 0x24 (15 :: zeros 7)) (15 :: zeros 7) ∧ fld 0 4 (15 :: zeros 7) < 16 ∧
      up.sealedRound 0 = false) :=
  ⟨⟨asks_of (by decide +kernel), by decide +kernel⟩, ⟨asks_of (by decide +kernel), by decide +kernel⟩, ⟨asks_of (by decide +kernel), by decide +kernel⟩,
    ⟨asks_of (by decide +kernel), by decide +kernel⟩⟩

/-- A `bounce.map` payload: one slot each way of 4,096 bytes, with stakes 0 to 2 and 0. -/
def mapBytes : Bytes := cat [zeros 16, le 4 1, le 4 1, le 4 4096, zeros 2, le 2 0, le 2 1, le 2 2, le 2 0, zeros 6]

theorem wit_SettingsTaken_2 :
    (asked 1 0x23 mapBytes up).Asks 1 0x23 44 false true (taken 0x23 mapBytes) mapBytes ∧ allZero (cut 29 1 mapBytes) = true ∧
      allZero (cut 38 6 mapBytes) = true ∧ (asked 1 0x23 mapBytes up).mapOk (parcelOf 1) (parseMap mapBytes) = true :=
  ⟨asks_of (by decide +kernel), by decide +kernel⟩

/-- `parcel.open` of parcel 1 with clusters and subchannels 4 to 7. -/
def openBytes : Bytes := cat [[1, 0], zeros 6, le 8 0xF0, le 8 0xF0, zeros 48]

/-- The module with parcel 0 as given. -/
def withParcel (q : Parcel) (s : State) : State := { s with parcels := s.parcels.set 0 q }

theorem wit_ParcelLife_open_close :
    ((asked 0 0x10 openBytes up).Asks 0 0x10 72 true false (taken 0x10 openBytes) openBytes ∧ fld 0 1 openBytes = 1 ∧
      (asked 0 0x10 openBytes up).parcelBusy 1 = false ∧
      firstFail ((asked 0 0x10 openBytes up).openChecks 1 false (bitsOf 64 (fld 8 8 openBytes)) (bitsOf 64 (fld 16 8 openBytes))) = none) ∧
    ((asked 1 0x11 (zeros 8) up).Asks 1 0x11 8 true true (taken 0x11 (zeros 8)) (zeros 8) ∧ fld 0 1 (zeros 8) = parcelOf 1 ∧
      (up.parcel 0).isOpen = true ∧ up.parcelBusy 0 = false) :=
  ⟨⟨asks_of (by decide +kernel), by decide +kernel⟩, ⟨asks_of (by decide +kernel), by decide +kernel⟩⟩

/-- A first attach, a later one, and a session. -/
theorem wit_ParcelLife_attach_session :
    (∃ s : State, s.Asks 1 0x22 72 false true (taken 0x22 (zeros 72)) (zeros 72) ∧
      Config.sha384 (cut 40 32 (zeros 72)) = (s.parcel 0).ownerDigest ∧ bit 0 (fld 0 1 (zeros 72)) = (s.parcel 0).everAttached ∧ s.canDraw = true) ∧
    (∃ s : State, s.Asks 1 0x22 72 false true (taken 0x22 (1 :: zeros 71)) (1 :: zeros 71) ∧
      Config.sha384 (cut 40 32 (1 :: zeros 71)) = (s.parcel 0).ownerDigest ∧ bit 0 (fld 0 1 (1 :: zeros 71)) = (s.parcel 0).everAttached ∧
      allZero (cut 8 32 (1 :: zeros 71)) = true) ∧
    ((asked 1 0x20 (zeros 64) up).Asks 1 0x20 64 false true (taken 0x20 (zeros 64)) (zeros 64) ∧ (asked 1 0x20 (zeros 64) up).canDraw = true ∧
      (asked 1 0x20 (zeros 64) up).canSign = true ∧ 4984 ≤ (taken 0x20 (zeros 64)).respMax) :=
  ⟨⟨asked 1 0x22 (zeros 72) (withParcel { Parcel.reset with state := 1, ownerDigest := Config.sha384 (cut 40 32 (zeros 72)) } up),
      asks_of (by decide +kernel), rfl, by decide +kernel⟩,
    ⟨asked 1 0x22 (1 :: zeros 71) (withParcel { Parcel.reset with state := 3, everAttached := true, ownerDigest := Config.sha384 (cut 40 32 (1 :: zeros 71)) } up),
      asks_of (by decide +kernel), rfl, by decide +kernel⟩,
    asks_of (by decide +kernel), by decide +kernel⟩
/-- A `lot.load` request for context 0. -/
def lotReq : Taken := { taken 0x30 [] with payload := .lot (zeros 8) (image 2) }

/-- A loaded image whose first eight bytes are plain zeros, into an empty context; every check of the image passes and its ledger fits. -/
theorem wit_LotsAndContexts_load :
    let s := asking 1 lotReq (upWith Context.reset)
    s.front 1 0x30 = some lotReq ∧ s.gate 1 0x30 false true = none ∧ (s.parcel 0).refusing = false ∧ s.sealedRound 0 = false ∧ (s.ctx 0 0).state = 0 ∧
      s.slotUse (verifySlot 0 (image 2).trailer) 5 = true ∧ firstFail (s.imageChecks 0 0 (image 2)) = none ∧ s.shortfall 0 0 (image 2) = none := by
  decide +kernel

/-- `lot.unload` of a finished context, `context.start` of a loaded one, `context.stop` and `context.seed` of a started one. -/
theorem wit_LotsAndContexts_rest :
    (let s := asked 1 0x31 (zeros 8) (upWith (ctxOf 3 2))
     s.Asks 1 0x31 8 false true (taken 0x31 (zeros 8)) (zeros 8) ∧ s.sealedRound 0 = false ∧ (s.ctx 0 0).state = 3 ∧ (s.ctx 0 0).pendStart = false ∧
      (s.ctx 0 0).pendUnload = false) ∧
    (let s := asked 1 0x32 (cat [zeros 2, le 2 1024, zeros 4]) (upWith (ctxOf 1 2))
     s.Asks 1 0x32 8 false true (taken 0x32 (cat [zeros 2, le 2 1024, zeros 4])) (cat [zeros 2, le 2 1024, zeros 4]) ∧ (s.parcel 0).refusing = false ∧
      (s.ctx 0 0).state = 1 ∧ (s.ctx 0 0).pendUnload = false ∧ (s.ctx 0 0).pendStart = false ∧ (s.ctx 0 0).image = some (image 2)) ∧
    (let s := asked 1 0x33 (zeros 8) up
     s.Asks 1 0x33 8 false true (taken 0x33 (zeros 8)) (zeros 8) ∧ (s.ctx 0 0).state = 2 ∧ (s.ctx 0 0).pendStop = false) ∧
    (let s := asked 1 0x34 (zeros 40) up
     s.Asks 1 0x34 40 false true (taken 0x34 (zeros 40)) (zeros 40) ∧ (s.ctx 0 0).state = 2) :=
  ⟨⟨asks_of (by decide +kernel), by decide +kernel⟩, ⟨asks_of (by decide +kernel), by decide +kernel⟩, ⟨asks_of (by decide +kernel), by decide +kernel⟩,
    ⟨asks_of (by decide +kernel), by decide +kernel⟩⟩

/-- A slice map entry that another module owns. -/
def entryBytes : Bytes := cat [le 8 0, le 4 128, le 4 128, le 2 6, [0, 1, 0, 1, 1, 0, 1, 0], zeros 6]

/-- The `round.open` payload of a quorum round in which parcel 0 of module 5 folds and module 6 keeps. -/
def roundBytes : Bytes :=
  cat [zeros 8, le 4 7, [1, 2], le 2 1, le 4 2, le 2 2, le 2 2, le 8 100100, le 8 100200, le 4 1, le 2 4, zeros 2, zeros 16, zeros 8, entryBytes,
    le 4 (5 + 2 ^ 18 * 2), le 4 (6 + 2 ^ 18 * 3)]

/-- An open round of id 7 in the role `r`. -/
def roundOf (r : Nat) : Round :=
  { Round.reset with desc := { parseRound (roundBytes.drop 8) with role := r } }

/-- A started context of role `r` with that round open. -/
def inRound (r : Nat) : Context := { ctxOf 2 r with round := some (roundOf r) }

/-- The same entry in the next revision. -/
def newEntry : Bytes := cat [le 8 0, le 4 128, le 4 128, le 2 6, [0, 1, 0, 1, 1, 0, 1, 1], zeros 6]

theorem wit_RoundCommands :
    (let s := asked 1 0x40 roundBytes up
     let d := parseRound (roundBytes.drop 8)
     s.front 1 0x40 = some (taken 0x40 roundBytes) ∧ roundBytes.length = 72 + 32 * d.mapCount + 4 * d.memberCount ∧ allZero (cut 1 7 roundBytes) = true ∧
      s.gate 1 0x40 false true = none ∧ (s.parcel 0).refusing = false ∧ s.roundFormatOk 0 d = true ∧ s.mapFormatOk 0 (s.ctx 0 0) d = true ∧
      (s.ctx 0 0).state = 2 ∧ (s.ctx 0 0).role = d.role ∧ (s.ctx 0 0).roundOpen = false ∧ (s.ctx 0 0).mode = d.mode ∧ d.mode = 1) ∧
    (let b := cat [zeros 4, le 4 7, le 2 1, zeros 6, newEntry]
     let s := asked 1 0x41 b (upWith (inRound 2))
     s.front 1 0x41 = some (taken 0x41 b) ∧ b.length = 16 + 32 * fld 8 2 b ∧ s.gate 1 0x41 false true = none ∧ (s.ctx 0 0).round = some (roundOf 2) ∧
      (roundOf 2).outcome = none ∧ (roundOf 2).desc.roundId = fld 4 4 b ∧ 0 < fld 8 2 b ∧ fld 8 2 b ≤ 4096 ∧
      revisionOk (roundOf 2).desc.mode ((roundOf 2).pendMaps.getD (roundOf 2).desc.maps) (parseEntries (fld 8 2 b) (b.drop 16)) = true) := by
  decide +kernel

theorem wit_RoundCommands_close :
    let b := cat [zeros 4, le 4 7]
    let s := asked 1 0x42 b (upWith (inRound 2))
    s.Asks 1 0x42 8 false true (taken 0x42 b) b ∧ (s.ctx 0 0).round = some (roundOf 2) ∧ (roundOf 2).outcome = none ∧ (roundOf 2).desc.role = 2 ∧
      (roundOf 2).desc.roundId = fld 4 4 b :=
  ⟨asks_of (by decide +kernel), by decide +kernel⟩

/-- `conn.open` to parcel 0 of module 6, in plain, window 16. -/
def connBytes : Bytes := cat [le 2 6, [0, 0], le 2 16, le 2 0, le 2 0, le 2 0, zeros 84]
/-- A grant of 4,096 bytes from 0 to module 6. -/
def grantBytes : Bytes := cat [le 2 7, le 2 0, [0, 0], le 2 6, le 2 1, zeros 6, le 8 0, le 8 4096]

theorem wit_PeerCommands :
    (let s := asked 1 0x50 connBytes up
     s.Asks 1 0x50 96 false true (taken 0x50 connBytes) connBytes ∧ (parseOpen connBytes).flags < 4 ∧ (parseOpen connBytes).completeStake < 8192 ∧
      (parseOpen connBytes).leafEase < 4096 ∧ s.draining 0 = false ∧ s.openArgsBad 0 (parseOpen connBytes) = false ∧
      groupOf (parseOpen connBytes).peerModule = groupOf s.boot.moduleId ∧ s.freeConn 0 = some 0 ∧ s.canReside 0 = true ∧
      ((s.liveConns 0).filter s.isPinned).length < 256 ∧ s.canDraw = true ∧ s.slotUse 4 1 = true) ∧
    (let s := asked 1 0x51 (zeros 8) (withConn (connOf 3) up)
     s.Asks 1 0x51 8 false true (taken 0x51 (zeros 8)) (zeros 8) ∧ connParcel 0 = 0 ∧ s.connLive 0 = true) ∧
    (let s := asked 1 0x60 grantBytes up
     s.Asks 1 0x60 32 false true (taken 0x60 grantBytes) grantBytes ∧ grantReserved grantBytes = false ∧ grantOk (s.parcel 0) grantBytes = true ∧
      s.freeEase 0 = some 0) ∧
    (let s := asked 1 0x61 (zeros 8) (withEase someEase up)
     s.Asks 1 0x61 8 false true (taken 0x61 (zeros 8)) (zeros 8) ∧ s.draining 0 = false ∧ (s.ease 0).valid = true) ∧
    (let s := asked 0 0x06 (47 :: zeros 7) up
     s.Asks 0 0x06 8 true false (taken 0x06 (47 :: zeros 7)) (47 :: zeros 7) ∧ fld 0 1 (47 :: zeros 7) = 47 ∧ (s.longs.any fun x => x.link == 47) = false ∧
      s.isTraining 47 = false) :=
  ⟨⟨asks_of (by decide +kernel), by decide +kernel⟩, ⟨asks_of (by decide +kernel), by decide +kernel⟩, ⟨asks_of (by decide +kernel), by decide +kernel⟩,
    ⟨asks_of (by decide +kernel), by decide +kernel⟩, ⟨asks_of (by decide +kernel), by decide +kernel⟩⟩

/-- A DESTROY update of authority 2 for slot 9, as PF0 offers it and as management sends it; the drawer's and the port's. -/
def updateBytes (op : Byte) (auth : Byte) (slot : Nat) : Bytes := cat [le 4 0x0A5EC4E5, [1, op, auth, 0], le 2 slot, zeros 6, le 8 3, zeros 168]

/-- The module with one TLS session. -/
def managed (s : State) : State := { s with mgmt := { s.mgmt with tls := [0] } }
/-- A management message. -/
def msgOf (b : Bytes) : MgmtMsg := ⟨.tls 0, 1, 0, 0, b⟩

theorem wit_UpdatesChecked :
    (asked 0 0x70 (updateBytes 2 2 9) up).Offers (.drawer 0) (updateBytes 2 2 9) ∧ (managed up).Offers (.mgmt (msgOf (updateBytes 2 2 9))) (updateBytes 2 2 9) ∧
      (updateBytes 2 2 9).length = 192 + (parseUpdate (updateBytes 2 2 9)).bodyBytes :=
  ⟨⟨taken 0x70 (updateBytes 2 2 9), by decide +kernel⟩, ⟨hears_of (by decide +kernel), rfl⟩, by decide +kernel⟩

/-- Each operation, a rising slot table, a parcel in range and each authority. -/
theorem wit_UpdateEffects :
    (∀ op ∈ [1, 2, 3, 4, 5, 6, 7], (parseUpdate (updateBytes (BitVec.ofNat 8 op) 2 9)).op = op) ∧ rising up.chest.slots = true ∧ 0 < up.parcels.length ∧
      (parseUpdate (updateBytes 2 0 9)).authority = 0 ∧ (parseUpdate (updateBytes 2 2 9)).authority = 2 ∧ 2 < up.chest.counters.length ∧
      (8 : Nat) ≠ (parseUpdate (updateBytes 2 2 9)).abs 0 := by
  decide +kernel

/-- The drawer of VF1 as given. -/
def withFn (f : Fn) (s : State) : State := { s with fns := s.fns.set 1 f }
/-- An open drawer. -/
def openFn : Fn := { Fn.reset with present := true, enable := true, active := true }
/-- A closed drawer. -/
def shutFn : Fn := { Fn.reset with present := true }

theorem wit_DrawerOpensAndCloses :
    (up.reachable 16 = true ∧ 16 < up.fns.length ∧ (up.fn 16).enable = true) ∧ ((withFn shutFn up).reachable 1 = true ∧ ((withFn shutFn up).fn 1).enable = false) := by
  decide +kernel

theorem wit_RegistersAndDoorbells :
    (withFn shutFn up).reachable 1 = true ∧ 1 < up.fns.length ∧ ((withFn shutFn up).fn 1).enable = false ∧ ((withFn shutFn up).fn 1).active = false ∧
      up.reachable 1 = true ∧ (up.fn 1).enable = true ∧ (up.fn 1).active = true ∧ (131072 : BitVec 64).toNat.testBit 17 = true ∧
      ((64 : BitVec 32) - (up.fn 1).reqHead).toNat ≤ 2 ^ (up.fn 1).ringLog2 ∧ 2 ^ (up.fn 1).ringLog2 < ((65 : BitVec 32) - (up.fn 1).reqHead).toNat ∧
      ((0 : BitVec 32) - (up.fn 1).respHead).toNat ≤ ((up.fn 1).respTail - (up.fn 1).respHead).toNat ∧
      ((up.fn 1).respTail - (up.fn 1).respHead).toNat < ((1 : BitVec 32) - (up.fn 1).respHead).toNat := by
  decide +kernel

/-- A drawer with a response, one with an event only, a full ring. -/
theorem wit_ResponseWritten :
    (let s := withFn { openFn with responses := [{ RespSlot.reset with gen := 1 }], respTail := BitVec.allOnes 32, respHead := BitVec.allOnes 32 } up
     (s.fn 1).active = true ∧ ((s.fn 1).respTail - (s.fn 1).respHead).toNat < 2 ^ (s.fn 1).ringLog2 ∧
      (s.fn 1).responses.filter (fun r => r.gen == (s.fn 1).gen) = [{ RespSlot.reset with gen := 1 }]) ∧
    (let s := withFn { openFn with events := [Event.reset] } up
     ((s.fn 1).respTail - (s.fn 1).respHead).toNat < 2 ^ (s.fn 1).ringLog2 ∧ (s.fn 1).responses.filter (fun r => r.gen == (s.fn 1).gen) = [] ∧
      (s.fn 1).events = [Event.reset] ∧ s.holdsEvents 1 = false) ∧
    (let s := withFn { openFn with respTail := 64 } up
     2 ^ (s.fn 1).ringLog2 ≤ ((s.fn 1).respTail - (s.fn 1).respHead).toNat) ∧ (up.fn 16).present = true := by
  decide +kernel

theorem wit_PortEvents : up.fns.length = 17 ∧ 32 * 16 < 1024 ∧ 1024 ≤ 64 * 16 := by decide +kernel

/-- Bounce channels of VF1: one slot each way, an IN record ready, or an OUT record due, or a later mapping waiting. -/
def bounceFn (b : Bounce) : Fn := { openFn with session := true, bounce := b }
/-- A live mapping. -/
def liveBounce : Bounce := { Bounce.reset with map := some (parseMap mapBytes), live := true }
theorem wit_BounceMoves :
    (let s := withFn (bounceFn { liveBounce with inTail := 1 }) up
     s.channel 1 = some (parseMap mapBytes, { liveBounce with inTail := 1 }) ∧ s.inDue (parcelOf 1) (parseMap mapBytes) { liveBounce with inTail := 1 } = true) ∧
    (let b := { liveBounce with readyBase := BitVec.allOnes 32 }
     let s := withFn (bounceFn b) up
     s.channel 1 = some (parseMap mapBytes, b) ∧ s.outDue (parcelOf 1) (parseMap mapBytes) b = true) ∧
    (let b := { liveBounce with next := some (parseMap mapBytes) }
     let s := withFn (bounceFn b) up
     s.channel 1 = some (parseMap mapBytes, b) ∧ b.next = some (parseMap mapBytes) ∧ s.clock.rod = 0 ∧ b.moved = false) := by
  decide +kernel

/-- The module in rod `r` of its chain. -/
def inRod (r : Nat) (s : State) : State := { s with clock := { s.clock with rod := r } }
/-- The module throttled. -/
def throttled (s : State) : State := { s with clock := { s.clock with throttle := true } }

theorem wit_ChainsRodsAndOverruns_1 :
    ((inRod 3 up).clock.running = true ∧ (inRod 3 up).clock.rod = 3 ∧ (inRod 2 up).clock.rod < 3 ∧ up.clock.reserve = false) ∧
    (∀ p < 16, up.holder p = (if p = 0 then some (0, ctxOf 2 2) else none)) ∧ up.queuesLate 0 (ctxOf 2 2) = false := by
  decide +kernel

theorem wit_ChainsRodsAndOverruns_2 :
    (throttled up).Sound ∧ (throttled up).clock.throttle = true ∧ (throttled up).clock.running = true ∧ (throttled up).clock.reserve = false ∧
      (throttled up).holder 0 = some (0, ctxOf 2 2) ∧ 0 ∈ [0] ∧ ∀ q < 16, q ≠ 0 → (throttled up).holder q = none :=
  ⟨sound_of (by decide +kernel), by decide +kernel⟩

/-- A context whose one node is complete on every logical cluster. -/
def nodeOf (op : Nat) (ps : NodeParams) : Node := ⟨op, 15, 0, 0, 0, 0, 0, 0, 15, 0, 0, ps⟩

/-- A started fold context with one node in state `st` on each logical cluster. -/
def workCtx (nd : Node) (st : Nat) : Context :=
  { ctxOf 2 2 with
    image := some { image 2 with nodes := [nd], sliceMap := [parseEntry entryBytes] }
    clusters := List.replicate 4 { CtxCluster.reset with
      nodes := [⟨st, 0⟩], queues := List.replicate 4 Queue.reset, preloaded := true, generator := some 1 } }

/-- A scratch operand of no bytes. -/
def op0 : Operand := ⟨1, 0, 0, 0⟩
/-- A `SUMSQ` node of no samples. -/
def sumNode : Node := nodeOf 0x21 (.sumsq 0 0 1 0 op0 op0 0)

theorem wit_SwapsAndReplays_1 :
    (let s := inRod 3 (withParcel { parcelOn (ctxOf 2 2) with running := none, idleRods := true, swapReady := true } up)
     s.Sound ∧ s.working = true ∧ s.clock.rod = 3 ∧ (s.parcel 0).swapReady = true ∧ (s.parcel 0).swapWanted = true ∧ (s.parcel 0).swapTo = none ∧
      (s.parcel 0).running = none ∧ nextAfter (s.parcel 0).lastRan (s.parcel 0).runnable = some 0) ∧
    (let x := workCtx sumNode 3
     (upWith x).runner 0 = some (0, x) ∧ x.pendFinish = false ∧ ((upWith x).parcel 0).replay = none ∧ x.graphDone = true) :=
  ⟨⟨sound_of (by decide +kernel), by decide +kernel⟩, by decide +kernel⟩

theorem wit_SwapsAndReplays_2 :
    let r := { Replay.reset with pending := [0, 1] }
    let s := withParcel { parcelOn (ctxOf 2 2) with replay := some r } up
    s.Sound ∧ (s.parcel 0).replay = some r ∧ r.pending = 0 :: 1 :: [] ∧ r.started + (s.ctx 0 0).replayChains ≤ s.now :=
  ⟨sound_of (by decide +kernel), by decide +kernel⟩

/-- A row of a mode. -/
def rowIn (mode : Nat) : Row := { Row.reset with ctrl := rowCtrl mode 0 false false 0 0 }
/-- The module with physical cluster `c` changed. -/
def withCluster (c : Nat) (g : Cluster → Cluster) (s : State) : State := s.modCluster c g
/-- The module with rows 0 and 1 of cluster 0 in a mode, and a modulus table. -/
def rowsOn (mode : Nat) (s : State) : State := withCluster 0 (fun k => { k with rows := [(0, rowIn mode), (1, rowIn mode)], moduli := [2013265921] }) s

/-- A tile step of one input row to row 0. -/
def step0 (f : TileFormat) : TileStep := ⟨f, 4096, .scratch 0, 1, 0, 0, 0⟩

theorem wit_TrestleIssues :
    up.acting 0 0 = some (0, ctxOf 2 2) ∧
    ((rowsOn 3 up).acting 0 0 = some (0, ctxOf 2 2) ∧ tileNames (step0 .addPath) = true ∧ ((rowsOn 3 up).lead 0 0).hasWeights (step0 .addPath) = true ∧
      ((rowsOn 3 up).lead 0 0).accepts (step0 .addPath) 0 = true) ∧
    (tileNames (step0 .int16) = true ∧ (up.lead 0 0).hasWeights (step0 .int16) = false) ∧ 2031616 + 65536 ≤ 2097152 := by
  decide +kernel

/-- An output row for row 0. -/
def row0 : ShelfWrite := { ShelfWrite.reset with values := List.replicate 128 (2 ^ 63 - 1) }

theorem wit_OutputRowLands :
    let s := withCluster 0 (fun k => { k with inflight := [row0] }) (rowsOn 3 up)
    0 < s.clusters.length ∧ s.landing 0 0 = some (0, ctxOf 2 2) ∧ s.live 0 0 = [0] ∧ (s.cluster 0).inflight = row0 :: [] ∧ row0.ctx = 0 ∧
      rowRefuses 0 ((s.cluster 0).row row0.row) = false ∧ s.replaying 0 = false ∧ rowMode ((s.cluster 0).row row0.row).ctrl = 3 := by
  decide +kernel

/-- A pair of clusters 0 and 1 that waits for a vote, with cluster 2 of the same die as the spare. -/
def paired : State :=
  let s := withParcel { parcelOn (ctxOf 2 2) with paired := true } up
  let s := withCluster 1 (fun k => { k with inflight := [row0], pairStall := true }) (withCluster 0 (fun k => { k with inflight := [row0], pairStall := true }) s)
  { s with plat := { s.plat with clusters := s.plat.clusters.set 8 { PlatCluster.reset with state := 1 } } }

theorem wit_VoteDecides :
    paired.live 0 0 = [0, 1] ∧ paired.votePending 0 0 = true ∧ paired.voteAhead (min 0 1) = false ∧ paired.spareCluster (dieOf 0) = some 8 ∧
      (paired.cluster 0).inflight.head? = some row0 ∧ (paired.cluster 1).inflight.head? = some row0 ∧ paired.runner 0 = some (0, ctxOf 2 2) := by
  decide +kernel

/-- A preload of zeros into row 15 as `INT64`. -/
def pre15 : Preload := ⟨15, 3, 32, 0, 0, 1, [0]⟩

theorem wit_AccessPort :
    (rowsOn 3 up).Sound ∧ (rowsOn 3 up).acting 0 0 = some (0, ctxOf 2 2) ∧ (rowsOn 3 up).live 0 0 = [0] ∧ (rowsOn 3 up).replaying 0 = false ∧
      (preloadOk ((rowsOn 3 up).cluster 0).moduli (ctxOf 2 2).rows pre15 = true ∧ twoRow pre15.mode = false ∧ pre15.mode ≠ 5 ∧
        (rowsOn 3 up).rowBusy 0 0 pre15.row = false ∧ rowHeld (((rowsOn 3 up).cluster 0).row pre15.row).ctrl = false) ∧
      ((rowsOn 3 up).rowBusy 0 0 0 = false ∧ 2096128 + 1024 ≤ 2097152 ∧ rowRefuses 0 (((rowsOn 3 up).cluster 0).row 0) = false ∧
        rowMode (((rowsOn 3 up).cluster 0).row 0).ctrl ≠ 7) :=
  ⟨sound_of (by decide +kernel), by decide +kernel⟩

/-- A node that signals when it completes. -/
def sigNode : Node := { sumNode with flags := 2, signalStake := 1, signalAdd := 1 }
/-- A node that waits for stake 0 to reach 1. -/
def waitNode : Node := { sumNode with flags := 1, waitStake := 0, waitValue := 1 }
/-- A `FOLD` node of the slice map's only entry. -/
def foldNode : Node := nodeOf 0x01 (.fold 7 1 0 0 [0])

theorem wit_NodesStartAndComplete :
    (∀ nd ∈ [sumNode, sigNode, waitNode, foldNode], (workCtx nd 0).node 0 = some nd ∧ bit 0 nd.clusterMask = true) ∧
    (let x := workCtx sumNode 0
     (upWith x).acting 0 0 = some (0, x) ∧ x.nodeState 0 0 = 0 ∧ (x.on 0).preloaded = true ∧ x.turnOf 0 0 = true ∧ (upWith x).nodeWait 0 sumNode = true) ∧
    (let x := workCtx waitNode 0
     (upWith x).acting 0 0 = some (0, x) ∧ (upWith x).nodeWait 0 waitNode = false) ∧
    (∀ nd ∈ [sumNode, sigNode], (upWith (workCtx nd 2)).landing 0 0 = some (0, workCtx nd 2) ∧ (workCtx nd 2).nodeState 0 0 = 2 ∧ isFold nd = false) ∧
    bit 1 sumNode.flags = false ∧ bit 1 sigNode.flags = true ∧
    (upWith (workCtx foldNode 1)).working? 0 0 0 0x01 = some (0, workCtx foldNode 1, foldNode) := by
  decide +kernel

/-- One parameter block of each operation of the catalog but `FOLD`. -/
def someParams : List NodeParams :=
  [.nttFwd 8 1 64 0 op0 op0 [0], .nttInv 8 1 64 0 op0 op0 [0], .keyswitch 8 1 1 1 0 64 0 op0 op0 op0 op0 0 [0, 0] 0,
    .refreshLut 8 1 1 8 1 64 0 0 0 op0 op0 op0 op0 0 [0], .applyStep 0 0 0 0 0 op0 op0 op0 0, .maskExpand 7 0 0 1 0 op0 0 0, .sumsq 0 0 1 0 op0 op0 0,
    .meanvar 0 0 1 0 op0 op0 0, .noiseGauss 0 2 0 0 0 0 0 op0 0, .noiseGauss 0 2 0 0 0 0 1 op0 0, .matmul 1 0 1 1 128 op0 op0 0,
    .clipL2 1 0 0 1 0 0 ⟨1, 0, 4, 0⟩ op0 0, .decodeCenter 0 2 0 0 0 op0 0, .seedRecover 0 2 1 0 0 op0 op0 0, .pairSeed 1 0 0 op0 op0 op0]

/-- Each of them can be at work. -/
theorem wit_operations_work :
    ∀ ps ∈ someParams, let nd := nodeOf (paramsOpcode ps) ps
      (upWith (workCtx nd 1)).working? 0 0 0 (paramsOpcode ps) = some (0, workCtx nd 1, nd) ∧ nd.params = ps := by
  decide +kernel

/-- The module with a node of these parameters at work and rows 0 and 1 in a mode. -/
def atWork (ps : NodeParams) (mode : Nat) : State := rowsOn mode (upWith (workCtx (nodeOf (paramsOpcode ps) ps) 1))

/-- The rows that the row operations name take their writes. -/
theorem wit_RowOperations_rows :
    (atWork (.maskExpand 7 0 0 1 0 op0 0 0) 1).rowsTake 0 0 0 [1, 2] (span 0 1) ∧
    (atWork (.sumsq 0 0 1 0 op0 op0 0) 6).rowsTake 0 0 0 [6] ((List.range 1).map fun i => 0 + 2 * i) ∧
    (atWork (.meanvar 0 0 1 0 op0 op0 0) 7).rowsTake 0 0 0 [7] ((List.range 1).map fun i => 0 + 2 * i) ∧
    (atWork (.noiseGauss 0 2 0 0 0 0 0 op0 0) 2).rowsTake 0 0 0 [1, 2] (span 0 2) ∧
    (atWork (.noiseGauss 0 2 0 0 0 0 1 op0 0) 4).rowsTake 0 0 0 [1, 2, 3, 4, 5, 6, 7] (span 0 2) ∧
    (atWork (.matmul 1 0 1 1 128 op0 op0 0) 3).rowsTake 0 0 0 (formatModes (matFormat 1)) (span 0 (1 * colGroups 128)) ∧
    (atWork (.clipL2 1 0 0 1 0 0 ⟨1, 0, 4, 0⟩ op0 0) 6).rowsTake 0 0 0 [6] [0] ∧
    (atWork (.decodeCenter 0 2 0 0 0 op0 0) 2).rowsTake 0 0 0 [1, 2] (span 0 2) := by
  unfold State.rowsTake; decide +kernel

/-- The word 2^19 in scratch at 0, and a zero there. -/
theorem wit_RowOperations_rest :
    (atWork (.matmul 1 0 1 1 128 op0 op0 0) 3).matSlots 0 0 0 1 (colGroups 128) (matFormat 1) = true ∧
    ((workCtx (nodeOf 0x23 (.noiseGauss 0 2 0 0 0 0 0 op0 0)) 1).on 0).generator = some 1 ∧
    (let s := withCluster 0 (fun k => { k with scratch := [(2, 8)] }) (atWork (.clipL2 1 0 0 1 0 0 ⟨1, 0, 4, 0⟩ op0 0) 6)
     ((s.words 0 0 ⟨1, 0, 4, 0⟩ 1).map (sgn 32)).any tooLarge = true) ∧
    (let s := atWork (.clipL2 1 0 0 1 0 0 ⟨1, 0, 4, 0⟩ op0 0) 6
     clip 0 1 0 (fun _ => 0) ((s.words 0 0 ⟨1, 0, 4, 0⟩ 1).map (sgn 32)) = some [0]) ∧
    (let x := { workCtx (nodeOf 0x23 (.noiseGauss 0 2 0 0 0 0 0 op0 0)) 1 with
        clusters := List.replicate 4 { CtxCluster.reset with nodes := [⟨1, 0⟩], queues := List.replicate 4 Queue.reset, preloaded := true } }
     (upWith x).working? 0 0 0 0x23 = some (0, x, nodeOf 0x23 (.noiseGauss 0 2 0 0 0 0 0 op0 0)) ∧ (x.on 0).generator = none) := by
  decide +kernel

theorem wit_DecodeRuns :
    let ps := NodeParams.decodeCenter 0 2 0 0 0 op0 0
    let x := workCtx (nodeOf 0x24 ps) 1
    ((x.nodeRows (nodeOf 0x24 ps)).any ((atWork ps 2).rowBusy 0 0)) = false ∧
      (let s := withCluster 0 (fun k => { k with inflight := [row0] }) (atWork ps 2)
       s.working? 0 0 0 0x24 = some (0, x, nodeOf 0x24 ps) ∧ ((x.nodeRows (nodeOf 0x24 ps)).any (s.rowBusy 0 0)) = true) := by
  decide +kernel
/-- The header of a fold record of a round, class 1, limb 0, coordinate 0. -/
def recHead (round : Nat) : Bytes := cat [le 4 round, [1, 1, 0, 0], le 8 0, le 4 512, le 4 1, zeros 8]

/-- A record longer than a free leaf with 8,185 granules used can take; a held record; an empty leaf. -/
theorem wit_LeavesAndFolds_deliver :
    (0 < up.clusters.length ∧ up.live 0 0 = [0] ∧ (up.parcel 0).isOpen = true ∧ (recHead 7).length = 32 ∧ (zeros 512).length % 512 = 0 ∧ zeros 512 ≠ [] ∧
      (zeros 512).length ≤ 8192 ∧ (up.cluster 0).leaves.length = 2 ∧ (up.cluster 0).filling < 2 ∧ (up.cluster 0).heldRecs = [] ∧
      (up.cluster 0).fill.granules + granulesOf (zeros 512) ≤ 8192 ∧ (up.cluster 0).fill.entries < 8192) ∧
    (let s := withCluster 0 (fun k => { k with leaves := [{ Leaf.reset with granules := 8185 }, Leaf.reset] }) up
     s.live 0 0 = [0] ∧ (s.cluster 0).leaves.length = 2 ∧ 8192 < (s.cluster 0).fill.granules + granulesOf (zeros 512)) ∧
    (let s := withCluster 0 (fun k => { k with heldRecs := [(0, recHead 7, zeros 512)] }) up
     s.live 0 0 = [0] ∧ (s.cluster 0).heldRecs = (0, recHead 7, zeros 512) :: [] ∧ (s.cluster 0).fill.granules + granulesOf (zeros 512) ≤ 8192 ∧
      (s.cluster 0).fill.entries < 8192) := by
  decide +kernel

/-- A `FOLD` node of round 8. -/
def foldNode8 : Node := nodeOf 0x01 (.fold 8 1 0 0 [8])
/-- A context with both `FOLD` nodes, in these states. -/
def foldCtx (a b : Nat) (r : Option Round) : Context :=
  { ctxOf 2 2 with
    image := some { image 2 with nodes := [foldNode, foldNode8], sliceMap := [parseEntry entryBytes] }
    clusters := List.replicate 4 { CtxCluster.reset with nodes := [⟨a, 0⟩, ⟨b, 0⟩], queues := List.replicate 4 Queue.reset, preloaded := true }
    round := r }
/-- The module with that context, row 0 in `RING32`, and a record of a round in the reading leaf of cluster 0. -/
def folding (x : Context) (round : Nat) : State :=
  withCluster 0 (fun k => { k with leaves := [Leaf.reset, { Leaf.reset with recs := [{ LeafRec.reset with header := recHead round, data := zeros 512 }] }] })
    (rowsOn 1 (upWith x))
/-- The record. -/
def oneRec (round : Nat) : LeafRec := { LeafRec.reset with header := recHead round, data := zeros 512 }

theorem wit_LeavesAndFolds_fold :
    (∀ x ∈ [foldCtx 2 2 none, foldCtx 1 2 none, foldCtx 2 2 (some { roundOf 2 with outcome := some 2 })],
      (folding x 7).acting 0 0 = some (0, x) ∧ (folding x 7).replaying 0 = false ∧
        (x.foldNodes 0).any (fun f => 2 ≤ f.state && bit (folding x 7).clock.rod f.node.rodMask) = true ∧ ((folding x 7).lead 0 0).nextRec false = some (0, oneRec 7)) ∧
    (foldCtx 2 2 (some { roundOf 2 with outcome := some 2 })).roundOver (oneRec 7) = true ∧
    ((foldCtx 2 2 none).roundOver (oneRec 9) = false ∧ foldPlan ((foldCtx 2 2 none).foldNodes 0) (oneRec 9) = .discard 0 ∧
      ((folding (foldCtx 2 2 none) 9).lead 0 0).nextRec false = some (0, oneRec 9)) ∧
    foldPlan ((foldCtx 1 2 none).foldNodes 0) (oneRec 7) = .wait ∧
    (let f : FoldNode := ⟨0, 2, foldNode, 7, 1, 0, 0, 128, [0]⟩
     foldPlan ((foldCtx 2 2 none).foldNodes 0) (oneRec 7) = .fold f ∧ (foldCtx 2 2 none).holdsSum = false ∧ bit 1 f.node.flags = false ∧
      ∀ q ∈ f.recRows (oneRec 7), rowRefuses 0 ((folding (foldCtx 2 2 none) 7).rowOf 0 0 q) = false) := by
  decide +kernel

/-- A descriptor of 64 bytes within scratch. -/
def descr (op : Nat) : Descr := ⟨op, 0, if op = 3 then 0 else 1, if op = 4 then 6 else 1, 64, 0, 4096, 1, 0, 0, 0, 0, 0, 0, 0, 0, 0, 0, 0, 0⟩
/-- The `ROD_MARK`. -/
def mark : Descr := ⟨0, 0, 0, 0, 0, 0, 0, 0, 0, 0, 0, 0, 0, 0, 0, 0, 0, 0, 0, 0⟩
/-- A context whose queue 0 on each cluster is as given. -/
def queueCtx (u : Queue) : Context :=
  { ctxOf 2 2 with clusters := List.replicate 4 { CtxCluster.reset with queues := u :: List.replicate 3 Queue.reset } }
/-- A queue with this descriptor in its program; one with this descriptor pushed before its mark; one with it in flight. -/
def planned (d : Descr) : Queue := { Queue.reset with descs := [d, mark] }
/-- A queue with this descriptor pushed before its mark. -/
def pushed (d : Descr) : Queue := { Queue.reset with descs := [mark], pushed := [d] }
/-- A queue with this descriptor in flight. -/
def flying (d : Descr) : Queue := { Queue.reset with descs := [mark], inflight := [d] }

theorem wit_CarriesRun :
    (∀ op ∈ [1, 2, 3], let x := queueCtx (planned (descr op))
      (upWith x).ready 0 0 0 op = some (0, x, descr op) ∧ (upWith x).headOk 0 x (x.queue 0 0) (descr op) = true) ∧
    (∀ op ∈ [1, 2, 3, 4], let d := { descr op with reserved := 1 }; let x := queueCtx (pushed d)
      (upWith x).ready 0 0 0 op = some (0, x, d) ∧ (upWith x).headOk 0 x (x.queue 0 0) d = false) ∧
    (let x := queueCtx { Queue.reset with descs := [mark] }
     (upWith x).ready 0 0 0 0 = some (0, x, mark) ∧ (x.queue 0 0).inflight = [] ∧ (upWith x).acting 0 0 = some (0, x) ∧
      (upWith x).queueBlocked 0 (x.queue 0 0) = none) ∧
    (∀ d ∈ [descr 1, { descr 1 with flags := 4, signalStake := 1, signalAdd := 1 }], let x := queueCtx (flying d)
      (upWith x).landing 0 0 = some (0, x) ∧ (x.queue 0 0).inflight[0]? = some d) ∧
    dSignal (descr 1) = false ∧ dSignal { descr 1 with flags := 4, signalStake := 1, signalAdd := 1 } = true := by
  decide +kernel

theorem wit_CopyMovesBytes :
    let x := queueCtx (planned (descr 1))
    (upWith x).Sound ∧ (upWith x).live 0 0 = [0] ∧ (upWith x).ready 0 0 0 1 = some (0, x, descr 1) ∧ (upWith x).headOk 0 x (x.queue 0 0) (descr 1) = true ∧
      (descr 1).srcSpace = 1 ∧ (descr 1).dstSpace = 1 :=
  ⟨sound_of (by decide +kernel), by decide +kernel⟩

/-- The context of one `SEND` of 64 bytes on connection 0. -/
def sendCtx : Context := queueCtx (planned (descr 4))

/-- The connection not OPEN; spilled; at its last number; with no room in its window; with room for all, and with room for one of two pieces. -/
theorem wit_SendsPieces :
    (∀ k ∈ [connOf 2, connOf 3, { connOf 3 with txNext := 2 ^ 32 - 1 }, { connOf 3 with txNext := 16 }],
      (withConn k (upWith sendCtx)).ready 0 0 0 4 = some (0, sendCtx, descr 4) ∧
        (withConn k (upWith sendCtx)).headOk 0 sendCtx (sendCtx.queue 0 0) (descr 4) = true ∧ (withConn k (upWith sendCtx)).replaying 0 = false) ∧
    ((withConn (connOf 2) up).conn 0).state ≠ 3 ∧ dSignal (descr 4) = false ∧
    (let s := { withConn (connOf 3) (upWith sendCtx) with host := { HostPort.reset with spilled := [0] } }
     (s.conn 0).state = 3 ∧ s.resident 0 = false) ∧
    (let s := withConn { connOf 3 with txNext := 2 ^ 32 - 1 } (upWith sendCtx)
     s.resident 0 = true ∧ (s.conn 0).txNext = 2 ^ 32 - 1) ∧
    (let s := withConn { connOf 3 with txNext := 16 } (upWith sendCtx)
     (s.conn 0).txNext ≠ 2 ^ 32 - 1 ∧ (s.sendPieces 0 0 (descr 4) 2048 0).2 = (sendCtx.queue 0 0).sent ∧ 0 < (descr 4).length) ∧
    (let s := withConn (connOf 3) (upWith sendCtx)
     (s.conn 0).txNext ≠ 2 ^ 32 - 1 ∧ (s.sendPieces 0 0 (descr 4) 2048 0).2 = 8192 ∧ (descr 4).length ≤ 8192) ∧
    (let d := { descr 4 with length := 8196 }
     let x := queueCtx (planned d)
     let s := withConn { connOf 3 with window := 1 } (upWith x)
     s.ready 0 0 0 4 = some (0, x, d) ∧ (s.sendPieces 0 0 d 2048 0).2 = 8192 ∧ 8192 < d.length) := by
  decide +kernel

/-- A round in which parcel 0 of module 5 is the only intake, and folds for itself; module 6 keeps. -/
def desc1 : RoundDesc :=
  { parseRound (roundBytes.drop 8) with
    role := 1, members := [5 + 2 ^ 18, 6 + 2 ^ 18 * 3] }
/-- An intake context with that round. -/
def intakeCtx (r : Round) : Context := { ctxOf 2 1 with image := some { image 1 with holdBytes := 4096 }, round := some r }
/-- A client fragment of 128 coordinates with its check. -/
def fragOf (check : Nat) : Bytes :=
  cat [le 4 0x0A5EF0A1, [1, 1, 0, 0], le 4 7, le 4 0, le 8 0, le 4 512, le 2 0, le 2 1, le 4 check, zeros 28, zeros 512]
/-- A fold whose value is known at each step. -/
def strictFold (f : Nat → Byte → Nat) : Nat → Bytes → Nat
  | c, [] => c
  | 0, b :: l => strictFold f (f 0 b) l
  | c + 1, b :: l => strictFold f (f (c + 1) b) l

theorem strictFold_eq (f : Nat → Byte → Nat) (l : Bytes) (c : Nat) : strictFold f c l = l.foldl f c := by
  induction l generalizing c with
  | nil => cases c <;> rfl
  | cons b l ih => cases c <;> exact ih _

/-- A fragment whose check holds. -/
def goodFrag : Bytes := fragOf 2178370388

theorem test_crc32c_fragment : crc32c (goodFrag.take 32 ++ zeros 4 ++ goodFrag.drop 36) = 2178370388 := by
  rw [crc32c, ← strictFold_eq]; decide +kernel

/-- CRC-32C of the digits 1 to 9 (its standard check value). -/
theorem test_crc32c_check : crc32c (ascii "123456789") = 0xE3069283 := by decide +kernel

theorem test_fragment_intact : (upWith (intakeCtx { Round.reset with desc := desc1 })).fragIntact 0 desc1 goodFrag = true := by
  unfold State.fragIntact; rw [test_crc32c_fragment]; decide +kernel

theorem wit_IntakeMeetsFragments_held :
    (upWith (intakeCtx { Round.reset with desc := desc1 })).fragFails 0 4096 (some { Round.reset with desc := desc1 }) goodFrag = none := by
  simp only [State.fragFails, test_fragment_intact]; decide +kernel

theorem wit_IntakeMeetsFragments :
    let r := { Round.reset with desc := desc1 }
    let x := intakeCtx r
    up.clock.reserve = false ∧ (upWith x).holder 0 = some (0, x) ∧ x.role = 1 ∧ (upWith x).fragFails 0 4096 x.round (zeros 64) = some 0 ∧
      x.intakeCounts.length = 9 ∧ x.round = some r ∧
      (let r' := { r with desc := { desc1 with intakeDeadline := 100000 } }
       let s := upWith (intakeCtx r')
       (s.ctx 0 0).round = some r' ∧ r'.outcome = none ∧ r'.desc.role = 1 ∧ r'.deadlinePassed = false ∧ r'.desc.intakeDeadline ≤ s.now ∧
        0 < s.parcels.length ∧ 0 < (s.parcel 0).contexts.length) := by
  decide +kernel

/-- A keep's round whose one intake is module 5. -/
def keepRound : Round := { Round.reset with desc := { desc1 with role := 3 } }
/-- A keep context with that round. -/
def keepCtx : Context := { ctxOf 2 3 with round := some keepRound }
/-- A FINAL receipt of module 5 with client 1 dropped. -/
def receipt5 : Bytes := cat [le 4 7, le 2 5, le 2 1, le 4 1, zeros 4, le 4 (1 + 2 ^ 20)]

theorem wit_ReceiptsFixStatuses :
    (let r := { Round.reset with desc := desc1, deadlinePassed := true }
     let s := upWith (intakeCtx r)
     (s.ctx 0 0).round = some r ∧ r.outcome = none ∧ r.deadlinePassed = true ∧ r.finalSent = false ∧ r.newStatus = [] ∧ s.forwardsVisible 0 r = true) ∧
    (upWith keepCtx).keepRound 0 0 = some keepRound ∧ receipt5.length = 16 + 4 * fld 8 4 receipt5 ∧ fld 0 4 receipt5 = keepRound.desc.roundId ∧
    ((keepRound.desc.ofRole 1).any fun x => memberModule x == fld 4 2 receipt5) = true ∧ fld 0 4 (zeros 16) ≠ keepRound.desc.roundId := by
  decide +kernel

/-- A slice result of module 6 for the round's one root entry. -/
def result6 : Bytes := cat [le 4 7, le 2 6, [0, 1], le 8 0, le 4 128, zeros 44]

theorem wit_RoundsEnd :
    (64 ≤ result6.length ∧ fld 0 4 result6 = keepRound.desc.roundId ∧ (keepRound.roots.any fun e => e.owner == fld 4 2 result6 &&
      e.limbFirst == fld 6 1 result6 && e.coordFirst == fld 8 8 result6 && (keepRound.resultOf e).isNone) = true) ∧
    (let r := { roundOf 2 with closeTaken := some 99999 }
     let s := upWith { ctxOf 2 2 with round := some r }
     (s.ctx 0 0).round = some r ∧ (s.ctx 0 0).image = some (image 2) ∧ (image 2).stakes.find? (·.close) = some ⟨3, true, true⟩ ∧ r.outcome = none ∧
      r.closeTaken ≠ none ∧ r.closeSignalled = false ∧ s.clock.rod = 0 ∧ ∀ k < (s.parcel 0).logical, (s.lead 0 k).beforeClose r.desc.roundId = false) ∧
    (let r := { roundOf 2 with desc := { (roundOf 2).desc with closeDeadline := 100000 } }
     let s := upWith { ctxOf 2 2 with round := some r }
     (s.ctx 0 0).round = some r ∧ r.outcome = none ∧ r.desc.closeDeadline ≤ s.now ∧ 0 < s.parcels.length ∧ 0 < (s.parcel 0).contexts.length) := by
  decide +kernel
/-- The survey of one group: all 32 modules with all links, and a key of zeros. -/
def someSurvey : Survey := { groups := 1, counter := 1, entries := (List.range 32).map fun m => (m, 1, 2 ^ 48 - 1, zeros 96), bytes := [] }
/-- The module with this survey in force. -/
def surveyed (s : State) : State := { s with boot := { s.boot with survey := some someSurvey } }
/-- The module with link 3 as given. -/
def withLink (k : Link) (s : State) : State := { s with links := s.links.set 3 k }
/-- A trained link in state `v`. -/
def linkOf (v : Nat) : Link := { Link.reset with state := v, width := 4, trained := true, trainChain := 50000 }

theorem wit_LinksTrain :
    (∀ v < 6, (withLink (linkOf v) (surveyed up)).units) ∧
    (let s := withLink (linkOf 4) up; s.mayTrain 3 = true ∧ (s.link 3).state = 4) ∧
    (let s := withLink (linkOf 5) up; s.mayTrain 3 = true ∧ (s.link 3).state = 5 ∧ (s.link 3).attempts < 3) ∧
    (∀ n < 3, let s := withLink { linkOf 0 with attempts := n } up; (s.link 3).state = 0 ∧ (s.link 3).trainChain + 7812 ≤ s.now) ∧
    (let s := withLink { linkOf 5 with attempts := 3 } up
     s.mayTrain 3 = true ∧ (s.link 3).state = 5 ∧ 3 ≤ (s.link 3).attempts ∧ (s.link 3).trainChain + 32768 ≤ s.now) ∧
    (let s := withLink (linkOf 1) up; (s.link 3).state = 1 ∧ (s.link 3).lanesFailed.getLsbD 3 = false) ∧
    (let s := withLink (linkOf 2) up; (s.link 3).state = 2 ∧ (s.link 3).relockChain + 4 ≤ s.now) ∧
    ((withLink (linkOf 0) (surveyed up)).link 3).live = true ∧ farEnd 1 5 3 = some (3, 4) ∧
    (∀ v ∈ [0, 4], ((withLink (linkOf v) (surveyed up)).link 3).live = true) ∧
    (withLink (linkOf 0) (surveyed up)).partnerOk 3 2 4 0 = false ∧
    (∀ n ∈ [0, 63], let s := withLink { linkOf 0 with echoes := n } up; (s.link 3).state = 0 ∧ (s.link 3).echoes < 64) := by
  simp only [State.units]; decide +kernel

theorem wit_LinksTrain_partner :
    (let s := withLink (linkOf 0) (surveyed up); s.partnerOk 3 3 4 s.surveyPrefix = true) ∧
    (let s := withLink (linkOf 4) (surveyed up); s.partnerOk 3 3 4 s.surveyPrefix = true) := by
  simp only [State.partnerOk, beq_self_eq_true]; decide +kernel

/-- A followable marker of master 2. -/
def someMarker : MarkerGrain := { stratum := 0, master := 2, chain := 100001, offsetPs := 0, state := 0, arrivalPs := 1000 }

theorem wit_MarkersKeepTime :
    (let s := withLink (linkOf 1) (surveyed up)
     s.units ∧ (s.link 3).state = 1 ∧ followable someMarker = true ∧ s.marker.isMaster = false ∧ followable { someMarker with stratum := 8 } = false ∧
      (s.modLink 3 fun k => { k with markerSeen := some someMarker, markerChain := s.now }).markerSource = some (3, someMarker)) ∧
    (let s := { withLink (linkOf 1) (surveyed up) with marker := { Marker.reset with isMaster := true } }
     s.marker.isMaster = true ∧ someMarker.master < s.boot.moduleId) ∧
    (let s := { up with marker := { Marker.reset with stepTo := some 7 }, clock := { up.clock with rod := 3 } }
     s.marker.stepTo = some 7 ∧ s.clock.running = true ∧ s.clock.rod = 3) ∧
    (let s := { up with marker := { Marker.reset with state := 1, lastFollowed := 90000 } }
     s.marker.state = 1 ∧ s.marker.holdRaised = false ∧ s.marker.lastFollowed + 1024 ≤ s.now) ∧
    (let s := { surveyed up with marker := { Marker.reset with lastFollowed := 90000 } }
     s.quietSince = some 90000 ∧ s.eligible = true ∧ s.marker.isMaster = false ∧ s.markerLinks = [] ∧ 90000 + 64 ≤ s.now) ∧
    up.eligible = false := by
  simp only [State.units]; decide +kernel
/-- A word of zeros is a codeword. -/
theorem syndrome_zeros (n i : Nat) (t : List Nat) : syndrome (List.replicate n 0 ++ t) i = syndrome t i := by
  have z : ∀ (n k : Nat), gfMulAux n 0 k = 0 := by
    intro n; induction n with
    | zero => intro k; rfl
    | succ n h => intro k; rw [gfMulAux, show gfDouble 0 = 0 from rfl, h]; simp
  induction n with
  | zero => rfl
  | succ n h =>
    rw [← h]; simp only [syndrome, List.replicate_succ, List.cons_append, List.foldl_cons]
    rw [show gfMul 0 (gfAlpha i) ^^^ 0 = 0 by simp [gfMul, z]]

theorem rsDecode_zeros (n : Nat) : rsDecode (List.replicate n 0) = some (List.replicate n 0, []) := by
  have h : ((List.range 30).map (syndrome (List.replicate n 0))).all (· == 0) = true := by
    simp only [List.all_map, List.all_eq_true]
    intro i _
    have := syndrome_zeros n i []
    rw [List.append_nil] at this
    simp only [Function.comp, this]; rfl
  simp only [rsDecode, h, if_true]

theorem rsDecode_far (n : Nat) (t : List Nat) (a : ((List.range 30).map (syndrome t)).all (· == 0) = false)
    (l : (locator ((List.range 30).map (syndrome t))).2 ≤ 15 ↔ False) : rsDecode (List.replicate n 0 ++ t) = none := by
  have h : (List.range 30).map (syndrome (List.replicate n 0 ++ t)) = (List.range 30).map (syndrome t) :=
    List.map_congr_left fun i _ => syndrome_zeros n i t
  simp only [rsDecode, h, a, l, decide_false, Bool.false_and, Bool.false_eq_true, if_false]

/-- A word of zeros but for its last 16 symbols, which lies farther than 15 symbols from every codeword. -/
def badWord : List Nat := List.replicate 528 0 ++ List.replicate 16 1

theorem rsDecode_bad : rsDecode badWord = none := rsDecode_far 528 _ (by decide +kernel) (by decide +kernel)

/-- The symbols of a word of zeros. -/
def zeroSymbols : List (BitVec 10) := List.replicate 544 0

theorem descramble_zeros (n : Nat) : descramble (List.replicate n false) 0 = (List.replicate n false, 0) := by
  induction n with
  | zero => rfl
  | succ n h =>
    simp only [List.replicate_succ, descramble]
    rw [show ((0 : BitVec 58) <<< 1 ||| BitVec.ofNat 58 (b2n false)) = 0 by decide, h]; rfl

theorem bitsNat_zeros (n : Nat) : bitsNat (List.replicate n false) = 0 := by
  induction n with
  | zero => rfl
  | succ n h => rw [List.replicate_succ, bitsNat, List.foldr_cons, ← bitsNat, h]; rfl

theorem symbolBits_zeros (n : Nat) : symbolBits (List.replicate n 0) = List.replicate (n * 10) false := by
  induction n with
  | zero => rfl
  | succ n h => rw [List.replicate_succ, symbolBits, List.flatMap_cons, ← symbolBits, h, Nat.succ_mul, Nat.add_comm, List.replicate_add]; rfl

/-- The message that a word of zeros carries to a link whose descrambler is at 0. -/
theorem zeroFlit : parseFlit (descramble (symbolBits ((List.replicate 544 0).take 514)) 0).1 = ⟨List.replicate 20 0, 0, 0⟩ := by
  rw [List.take_replicate, symbolBits_zeros, descramble_zeros]
  simp only [parseFlit, bitsNat_zeros, Nat.zero_div, Nat.zero_mod, List.map_const', List.length_range]
  rfl

theorem grainBytes_zeros : grainBytes (List.replicate 20 0) = zeros 640 := by decide +kernel

theorem test_crc12_zeros : crc12 34599 (zeros 640) 0 = 0 ∧ crc12 0 (zeros 640) 0 ≠ 0 ∧ crc12 0x80000000 (zeros 640) 0 ≠ 0 := by
  simp only [crc12, ← strictFold_eq]; decide +kernel

theorem wit_FlitsAndReplay_words :
    (((linkOf 1).live = true ∧ (badWord.map (BitVec.ofNat 10)).length = 544 ∧ rsDecode ((badWord.map (BitVec.ofNat 10)).map (·.toNat)) = none) ∧
      (zeroSymbols.length = 544 ∧ rsDecode (zeroSymbols.map (·.toNat)) = some (List.replicate 544 0, [])) ∧ (linkOf 1).scrambler = 0) ∧
    (∀ k ∈ [linkOf 1, { linkOf 1 with rxNext := 34599 }], k.live = true) ∧
    (parseFlit (descramble (symbolBits ((List.replicate 544 0).take 514)) 0).1).checks { linkOf 1 with rxNext := 34599 }.rxNext = true ∧
    (parseFlit (descramble (symbolBits ((List.replicate 544 0).take 514)) 0).1).checks (linkOf 1).rxNext = false ∧
    (parseFlit (descramble (symbolBits ((List.replicate 544 0).take 514)) 0).1).isNull = false := by
  have b : (badWord.map (BitVec.ofNat 10)).map (·.toNat) = badWord := by decide +kernel
  have z : zeroSymbols.map (·.toNat) = List.replicate 544 0 := by decide +kernel
  have c := test_crc12_zeros
  refine ⟨⟨⟨by decide, by decide +kernel, by rw [b]; exact rsDecode_bad⟩, ⟨by decide +kernel, by rw [z]; exact rsDecode_zeros 544⟩, rfl⟩, by decide, ?_, ?_, ?_⟩
  · rw [zeroFlit]; simp only [FlitMsg.checks, grainBytes_zeros, c.1]; rfl
  · rw [zeroFlit]; simp only [FlitMsg.checks, grainBytes_zeros, show (linkOf 1).rxNext = 0 from rfl]; simpa using Ne.symm c.2.1
  · rw [zeroFlit]; simp only [FlitMsg.isNull, FlitMsg.checks, grainBytes_zeros]; simpa using Ne.symm c.2.2

theorem wit_FlitsAndReplay :
    (withLink (linkOf 1) up).units ∧
    (let s := withLink { linkOf 1 with window := [{ LinkTx.reset with seq := 7 }] } up
     (s.link 3).live = true ∧ (s.link 3).window = [{ LinkTx.reset with seq := 7 }] ∧ ((s.link 3).window.any fun f => f.seq == 7) = true) ∧
    (let s := withLink { linkOf 1 with nakPend := true } up; (s.link 3).live = true ∧ (s.link 3).nakPend = true) ∧
    (let s := withLink { linkOf 2 with relockChain := 99999 } up
     (s.link 3).state = 2 ∧ (s.link 3).routeLost = false ∧ (s.link 3).relockChain + 1 ≤ s.now) ∧
    ((withLink (linkOf 1) up).link 3).state = 1 ∧ ((withLink (linkOf 2) up).link 3).state = 2 := by
  simp only [State.units]; decide +kernel
/-- A plain message of module 6 on connection 0, with number `q`. -/
def msgFrom (kind grains q : Nat) (b : Bytes) : Msg :=
  { kind := kind, enc := false, signal := false, arg := 0, bodyGrains := grains, dstModule := 5, srcModule := 6, conn := 0, slice := 0, connGen := 1,
    refusedN := 0, seq := q, tag := 0, body := b, viaGlobal := false }
/-- An access grain for `n` bytes at offset `off` under easement 0 of module 5. -/
def access (off n space : Nat) : Bytes := cat [le 8 (5 * 2 ^ 50 + off), le 4 n, le 2 1, zeros 4, le 1 space, zeros 13]
/-- A `WRITE` of 32 bytes, a `READ_REQ` for them, a `LEAF` of 512 bytes and an `ATTEST`. -/
def writeOf (q : Nat) : Msg := msgFrom kWrite 2 q (access 0 32 0 ++ zeros 32)
def readOf (q : Nat) : Msg := msgFrom kReadReq 1 q (access 0 32 1)
def leafMsg (q : Nat) : Msg := msgFrom kLeaf 17 q (zeros 544)
def attestOf (q : Nat) : Msg := msgFrom kAttest 1 q (zeros 32)
/-- An easement that leaves may use too. -/
def leafEase : Ease := { someEase with leaf := true }
/-- Connection 0 OPEN and verified, bound to easement 0 for leaves. -/
def openConn3 : Conn := { connOf 3 with verified := true, leafGen := some 1 }
/-- The module with this connection and that easement. -/
def wired (k : Conn) : State := withEase leafEase (withConn k up)

/-- The four kinds at number 1, admitted and held; a `WRITE` that a head check refuses; one outside the window; one passed; one that its easement refuses. -/
theorem wit_MessagesAdmitted :
    (∀ m ∈ [writeOf 1, readOf 1, leafMsg 1, attestOf 1], m.dstModule = (wired openConn3).boot.moduleId ∧ (wired openConn3).headFails m = none ∧
      (wired openConn3).conn? m.conn = some openConn3 ∧ openConn3.state = 3 ∧ openConn3.openSeq m.seq = true ∧ m.enc = false ∧
      (wired openConn3).easeFails m = none ∧ (m.kind = kAttest → openConn3.verified = true) ∧ openConn3.atTurn = none ∧ m.seq ≠ openConn3.rxNext) ∧
    (wired openConn3).headFails { writeOf 1 with connGen := 2 } = some arConnGen ∧ consuming arConnGen = false ∧
    ((wired openConn3).headFails (writeOf 16) = none ∧ openConn3.rxNext + openConn3.window ≤ (writeOf 16).seq) ∧
    (let k := { openConn3 with rxNext := 2 }
     (wired k).headFails (writeOf 1) = none ∧ (writeOf 1).seq < k.rxNext + k.window ∧ k.openSeq (writeOf 1).seq = false) ∧
    ((withConn openConn3 up).headFails (writeOf 1) = none ∧ openConn3.openSeq 1 = true ∧ (withConn openConn3 up).easeFails (writeOf 1) = some arNoEase) := by
  decide +kernel

/-- An encrypted `ATTEST`. -/
def attestEnc : Msg := { attestOf 1 with enc := true }
/-- The tag that connection 0's key gives a message. -/
def rightTag (m : Msg) : BitVec 96 := tag96 (Config.gcmTag openConn3.rxKey (msgNonce m) (headerBytes m) m.body)

theorem tagOk_set (m : Msg) (t : BitVec 96) : tagOk openConn3.rxKey { m with tag := t } = (rightTag m == t) := rfl

theorem wrongTag (x : BitVec 96) : (x == x + 1) = false :=
  beq_eq_false_iff_ne.mpr fun h => by
    have := congrArg (· - x) h
    simp only [BitVec.sub_self, BitVec.add_comm x, BitVec.add_sub_cancel] at this
    exact absurd this (by decide)

/-- With the right tag and with another one. -/
theorem wit_MessagesAdmitted_tag (t : BitVec 96) :
    (wired openConn3).headFails { attestEnc with tag := t } = none ∧ (wired openConn3).easeFails { attestEnc with tag := t } = none := by
  have h : (wired openConn3).headFails { attestEnc with tag := t } = (wired openConn3).headFails attestEnc := by
    simp only [State.headFails, State.formatOk, headerOk', State.plainBad]; rfl
  exact ⟨h.trans (by decide +kernel), rfl⟩

theorem wit_MessagesAdmitted_tags : tagOk openConn3.rxKey { attestEnc with tag := rightTag attestEnc } = true ∧
    tagOk openConn3.rxKey { attestEnc with tag := rightTag attestEnc + 1 } = false := by
  rw [tagOk_set, tagOk_set, wrongTag, beq_self_eq_true]; exact ⟨rfl, rfl⟩

/-- Connection 0 in state 3 with message `m` at its turn. -/
def holding (m : Msg) : Conn := { openConn3 with held := [⟨0, some m, 0, 1, 0, 0⟩] }

theorem wit_MessagesBecomeVisible :
    (∀ m ∈ [writeOf 0, readOf 0, leafMsg 0, attestOf 0], (wired (holding m)).conn? 0 = some (holding m) ∧ (holding m).state = 3 ∧
      (holding m).atTurn = some ⟨0, some m, 0, 1, 0, 0⟩) ∧
    (let s := wired (holding (leafMsg 0))
     (s.lead (connParcel 0) (leafMsg 0).arg).heldRecs = [] ∧ s.leafRoom (connParcel 0) (leafMsg 0).arg ((leafMsg 0).body.drop 32) = true) ∧
    (let s := { wired (holding (leafMsg 0)) with clusters := List.replicate 64 { Cluster.reset with leaves := List.replicate 2 { Leaf.reset with entries := 8192 } } }
     s.leafRoom (connParcel 0) (leafMsg 0).arg ((leafMsg 0).body.drop 32) = false) := by
  decide +kernel
/-- A request sent and not finished: a `WRITE` or `READ_REQ` with number 1. -/
def sent (m : Msg) : Outst := { Outst.reset with msg := m, sentChain := 99000, respSpace := 1, respLen := 32 }
/-- Connection 0 OPEN with these messages sent. -/
def sending (l : List Outst) : Conn := { openConn3 with txNext := 2, ackSent := true, outst := l }
/-- An answer of module 6. -/
def answer (kind grains q : Nat) (b : Bytes) : Msg := msgFrom kind grains q b
/-- A `REFUSE` with code AR_CONN_GEN of the message with number 1. -/
def refusal : Msg := { answer kRefuse 0 1 [] with conn := 9, arg := arConnGen }

theorem wit_ConnAnswers_answers :
    (let s := wired (sending [sent (writeOf 1)])
     let m := answer kComplete 0 2 []
     s.conn? 0 = some (sending [sent (writeOf 1)]) ∧ m.dstModule = s.boot.moduleId ∧ m.kind = kComplete ∧ s.answerConn m = some 0 ∧
      (sending [sent (writeOf 1)]).carries kComplete = true ∧ m.bodyGrains = 0 ∧ (sending []).txDone < m.seq ∧ m.seq ≤ (sending []).txNext ∧ m.enc = false ∧
      ((sending []).encrypt || m.viaGlobal) = false) ∧
    (let k := sending [sent (readOf 1)]
     let m := answer kReadResp 1 1 (zeros 32)
     (wired k).conn? 0 = some k ∧ m.kind = kReadResp ∧ (wired k).answerConn m = some 0 ∧ k.carries kReadResp = true ∧
      k.outst.find? (fun o => o.msg.kind == kReadReq && o.msg.seq == m.seq) = some (sent (readOf 1)) ∧ (sent (readOf 1)).stake = none ∧
      m.bodyGrains = ceilDiv (sent (readOf 1)).respLen 32 ∧ m.body.length = 32 * m.bodyGrains ∧ m.enc = false) ∧
    (let k := sending [sent (writeOf 1)]
     (wired k).conn? 0 = some k ∧ refusal.kind = kRefuse ∧ (wired k).refusedConn refusal = some 0 ∧ k.carries kRefuse = true ∧ refusal.bodyGrains = 0 ∧ 0 < refusal.arg ∧
      refusal.arg < 16 ∧ k.outst.any (fun o => o.msg.seq == refusal.seq && !o.covered) = true ∧ refusal.enc = (consuming refusal.arg && k.encrypt)) ∧
    (let m := answer kClose 0 0 []
     m.kind = kClose ∧ m.conn = 0 ∧ (wired openConn3).headFails m = none ∧ m.enc = false) := by
  decide +kernel

/-- Connection 0 OPENING, whose peer's open grains have been taken or not. -/
def opening (a v : Bool) : Conn := { connOf 1 with ackSent := a, peerConn := 0, peerGen := 0, attested := v }
/-- The peer's `OPEN`. -/
def openMsg : Msg := { msgFrom kOpen 5 0 (zeros 160) with conn := openConn, connGen := 0 }
/-- The peer's `OPEN_ACK`, before its tag is set. -/
def openAckMsg : Msg := { msgFrom kOpenAck 5 0 (zeros 160) with enc := true }

/-- Every hypothesis of the two clauses but the signature's check, of which `wit_openSigned` says that it is the free value and nothing else; and the
clause for a signature that does not hold. -/
theorem wit_ConnAnswers_open :
    (openMsg.kind = kOpen ∧ (wired (opening false false)).fabric.stationFenced = false ∧ openHeadOk openMsg = true ∧ (opening false false).ackSent = false ∧
      (wired (opening false false)).fabric.conns.find? (fun x => openMatches openMsg x.2) = some (0, opening false false)) ∧
    (wired (opening false false)).openSigned openMsg = false ∧
    (∀ v ∈ [false, true], (wired (opening true v)).headFails openAckMsg = none ∧ openOk openAckMsg.body = true ∧ openMatches openAckMsg (opening true v) = true ∧
      (opening true v).ackSent = true) := by
  decide +kernel

theorem wit_openSigned (k : Conn) (m : Msg) (h : m.srcModule = 6) : (surveyed (wired k)).openSigned m =
    Config.ecdsaVerify (zeros 96) (headerBytes (openHeader m.srcModule 5 m.slice) ++ m.body.take 64) (cut 64 96 m.body) := by
  have e : (surveyed (wired k)).surveyKey 6 = some (zeros 96) := by
    simp only [State.surveyKey, surveyed]; decide +kernel
  simp only [State.openSigned, h, e]; rfl

/-- A tag that confirms the keys, and one that does not. -/
theorem wit_ConnAnswers_ack : (let m := { openAckMsg with tag := ackTag 0 openAckMsg }; ackTag 0 m = m.tag) ∧
    (let m := { openAckMsg with tag := ackTag 0 openAckMsg + 1 }; ackTag 0 m ≠ m.tag) :=
  ⟨rfl, beq_eq_false_iff_ne.mp (wrongTag (ackTag 0 openAckMsg))⟩

theorem wit_ConnTimers :
    ((connOf 1).state = 1 ∧ (connOf 1).openedChain + 1024 ≤ up.now ∧ (connOf 1).openSent + 64 ≤ up.now) ∧
    (connOf 4).closingChain + 64 ≤ up.now ∧
    (let k := sending [sent (writeOf 1)]
     (wired k).conn? 0 = some k ∧ k.state = 3 ∧ k.lastChain + k.timeoutChains ≤ (wired k).now ∧ ∃ o ∈ k.outst, o.sentChain + k.timeoutChains ≤ (wired k).now) ∧
    (let o := { sent (writeOf 1) with fetchChain := some 99000 }
     let k := sending [o]
     k.outst.find? (fun o => o.msg.seq == 1) = some o ∧ o.fetchChain = some 99000 ∧ 99000 + 2 ≤ (wired k).now) ∧
    (let s := { wired openConn3 with host := { up.host with spilled := [0], spillKept := [(0, 7)] } }
     s.resident 0 = false ∧ s.host.linkUp = true ∧ s.shareFull (connParcel 0) = false) := by
  decide +kernel

/-- A spilled record with the right tag, and one of another connection. -/
theorem wit_ConnTimers_spill (b : Bytes) :
    (let s := { wired openConn3 with host := { up.host with spilled := [0], spillKept := [(0, 7)] } }
     s.spillOk 0 0 0 7 b (Config.gcmTag (s.slotKey 6) (spillNonce 0 7) (spillHead 0 0 7) b) = true ∧ ∀ t, s.spillOk 0 1 0 7 b t = false) := by
  refine ⟨?_, fun t => ?_⟩
  · simp only [State.spillOk, beq_self_eq_true, Bool.true_and]; decide +kernel
  · simp [State.spillOk]
/-- A parcel whose close fills with key 1 and has nothing left to fill. -/
def closingParcel : Parcel := { parcelOn (ctxOf 2 2) with state := 4, closeKey := some 1, fillLeft := 0 }
/-- The module with one drain. -/
def draining (d : Drain) (s : State) : State := { s with fabric := { s.fabric with drains := [d] } }
/-- A drain of easement 0 since chain `c`. -/
def drainFrom (c : Nat) : Drain := { Drain.reset with oldGen := 1, startChain := c, fn := 1 }

theorem wit_DrainsAndFillsEnd :
    (let s := draining (drainFrom 99000) up; s.drainOf 0 = some (drainFrom 99000) ∧ s.unfinished (drainFrom 99000) = 0 ∧ (drainFrom 99000).startChain + 16 < s.now) ∧
    (let s := draining (drainFrom 99000) (wired (holding (writeOf 0))); s.drainOf 0 = some (drainFrom 99000) ∧ s.unfinished (drainFrom 99000) ≠ 0) ∧
    (let s := draining (drainFrom 99990) up; s.drainOf 0 = some (drainFrom 99990) ∧ s.now < (drainFrom 99990).startChain + 16) ∧
    (let s := withParcel closingParcel up; (s.parcel 0).state = 4 ∧ (s.parcel 0).closeKey ≠ none ∧ (s.parcel 0).fillLeft = 0) ∧
    (let n : Snapshot := ⟨0, 90000, 0x0301⟩
     let s := withParcel { parcelOn (ctxOf 5 2) with snap := some n } up
     (s.parcel 0).snap = some n ∧ n.chain + snapshotChains (s.ctx 0 n.context).width (s.parcel 0).subchs.length ≤ s.now ∧
      (s.parcel 0).contexts.length = 8 ∧ n.context < 8) ∧
    (let n : Snapshot := ⟨0, 100000, 0x0301⟩
     let s := withParcel { parcelOn (ctxOf 5 2) with snap := some n } up
     (s.parcel 0).snap = some n ∧ s.now < n.chain + snapshotChains (s.ctx 0 n.context).width (s.parcel 0).subchs.length) := by
  decide +kernel

/-- The module in ENDURING with subchannel 4 a spare. -/
def withSpare (s : State) : State := { s with boot := { s.boot with profile := .enduring }, plat := { s.plat with subchs := (List.replicate 64 0).set 4 1 } }
/-- Parcel 0 paired: two logical clusters of two members. -/
def pairedParcel : Parcel := { parcelOn (ctxOf 2 2) with paired := true }

theorem wit_FaultsContained :
    up.Sound ∧ ((∀ cause ∈ [0x0210, 0x0301, 0x0302, 0x1101, 0x1201, 0x1401, 0x1402, 0x1406], cause ∈ contextCauses) ∧ (up.ctx 0 0).started = true) ∧
    ((up.cluster 0).awake = true ∧ (up.cluster 0).fenced = false ∧ up.ownerOf 0 = some 0 ∧
      (∀ d ∈ up.live 0 ((up.parcel 0).logicalOf 0), d = 0) ∧ (up.parcel 0).logicalOf 0 < (up.ctx 0 0).width) ∧
    (withParcel pairedParcel up).Sound ∧
    ((withParcel pairedParcel up).ownerOf 0 = some 0 ∧ ∃ d ∈ (withParcel pairedParcel up).live 0 (((withParcel pairedParcel up).parcel 0).logicalOf 0), d ≠ 0 ∧ d < 64) ∧
    (up.subchInUse 0 = true ∧ up.faults.subchFailed.contains 0 = false ∧ up.clock.running = true ∧ up.subchOwner 0 = some 0 ∧ up.subchOwner 63 = none ∧
      up.subchInUse 63 = true) ∧
    (4096 < 4097 ∧ up.faults.eccCounts.getD 63 0 ≤ 4096 ∧ up.enduring = false) ∧
    ((withSpare up).enduring = true ∧ (withSpare up).subchInUse 0 = true ∧ (withSpare up).faults.migrate.any (fun m => m.1 == 0) = false ∧
      (withSpare up).spareSubch (dieOf 0) = some 4) ∧
    (∀ n ∈ [0, subchLines], { up with faults := { FaultSt.reset with migrate := [(0, 4, n)] } }.faults.migrate.find? (fun m => m.1 == 0) = some (0, 4, n)) :=
  ⟨sound_of (by decide +kernel), by decide +kernel, by decide +kernel, sound_of (by decide +kernel), by decide +kernel, by decide +kernel, by decide +kernel,
    by decide +kernel, by decide +kernel⟩

/-- The module with these reset and lockstep fields. -/
def withFaults (f : FaultSt) (s : State) : State := { s with faults := f }
/-- The module as given, in life-cycle state PROVISIONED_FIELD (2), in which the field debug port is open. -/
def openDebug (s : State) : State := { s with flash := { s.flash with lifecycle := 2 } }

theorem wit_ModuleFaults :
    up.clock.running = true ∧ up.faults.pairStopped = none ∧ up.faults.order = none ∧
    (let s := withFaults { FaultSt.reset with pairStopped := some 0 } up; s.clock.running = true ∧ s.faults.pairStopped = some 0) ∧
    (let s := upWith (ctxOf 5 2); (s.ctx 0 0).state = 5 ∧ 0 ∈ (s.parcel 0).clusters) ∧
    (let s := { up with clusters := List.replicate 64 { Cluster.reset with errored := true } }
     (s.cluster 0).errored = true ∧ s.ownerOf 0 = some 0 ∧ (s.parcel 0).refusing = false) ∧
    ((withParcel { parcelOn (ctxOf 5 2) with refusing := true } up).parcel 0).refusing = true ∧
    (∀ v ∈ [0, 1], ∀ n ∈ [0, 2], (let s := withFaults { FaultSt.reset with trayCycles := n } { up with boot := { up.boot with stage := v } }
      s.boot.stage = v ∧ s.faults.trayCycles = n)) ∧
    (let s := withFaults { FaultSt.reset with order := some (99999, true) } up
     s.faults.order = some (99999, true) ∧ s.power.off = false ∧ s.power.fail = false ∧ 99999 < s.now ∧ s.clock.rod = 0) ∧
    (let s := withFaults { FaultSt.reset with order := some (100000, false) } up
     s.faults.order = some (100000, false) ∧ s.power.off = false ∧ s.power.fail = false ∧ s.clock.running = true ∧ s.now ≤ 100000) ∧
    (openDebug up).debugReaches 63 = true ∧ up.debugReaches 63 = false := by
  decide +kernel

/-- The module with this power record. -/
def powered (p : Power) (s : State) : State := { s with power := p }
/-- Power as in operation. -/
def onPower : Power := { Power.reset with present := true, switch := true, off := false }

theorem wit_InputPower :
    up.power.off = false ∧ up.power.fail = false ∧
    (let s := powered { onPower with fail := true, clearRun := 32 } up; s.power.fail = true ∧ 32 ≤ s.power.clearRun ∧ s.clock.rod = 0 ∧ s.power.off = false) ∧
    (powered { onPower with ovOpen := true, switch := false } up).power.ovOpen = true ∧ up.power.present = true ∧ up.clock.running = true := by
  decide +kernel

/-- The module in bring-up with the chain timer running. -/
def bringUp (n : Nat) (b : Boot) : State := { up with boot := { b with stage := n }, clock := { Clock.reset with running := true, chain := 100 } }

theorem wit_StartsAndStops :
    (State.reset.power.off = true ∧ State.reset.power.cycleLow = false ∧ State.reset.power.ovOpen = false) ∧
    (let s := powered { onPower with switch := false } up; s.power.present = true ∧ s.power.switch = false ∧ s.power.cycleLow = false ∧ s.power.ovOpen = false) ∧
    (∀ v ∈ [0, 1], let s := bringUp v Boot.reset; (if 4 ≤ 4 then s.boot.stage ≤ 1 else False) ∧ s.power.off = false ∧ s.boot.ready = false ∧ s.boot.railFailed = false) ∧
    (let s := bringUp 0x10 { Boot.reset with diesUp := 3 }; 8 ≤ 8 ∧ s.boot.diesUp = 8 - 5 ∧ s.clock.running = true ∧ s.power.off = false ∧ s.boot.ready = false ∧
      s.boot.railFailed = false) := by
  decide +kernel

/-- An entry of a schedule for the next chain. -/
def nextEntry : SchedEntry := { SchedEntry.reset with startChain := 100001, capW := 900 }

theorem wit_HeatAndCaps :
    (let s := powered { onPower with thermal := true, coolRun := 32 } up; s.power.thermal = true ∧ 32 ≤ s.power.coolRun ∧ s.clock.rod = 0) ∧
    (let s := powered { onPower with hotOutlet := 1024 } up; 1024 ≤ s.power.hotOutlet ∧ s.power.coolantChain = none) ∧ 47 < up.links.length ∧
    (let s := powered { onPower with schedule := [nextEntry] } up
     s.power.schedule = [nextEntry] ∧ nextEntry.startChain = s.now + 1 ∧ s.power.acked = none) ∧ up.power.off = false := by
  decide +kernel
/-- The management module hears a message with this body. -/
theorem hears (b : Bytes) (h : b.length ≤ 65536) : (managed up).Hears (msgOf b) := 
  hears_of ⟨(by decide +kernel : (managed up).pathOpen (msgOf []) = true), rfl, rfl, h⟩

/-- A schedule of one entry for chain `c` with cap `w`. -/
def scheduleBody (c w : Nat) : Bytes := cat [le 4 1, zeros 4, le 8 c, le 2 w, zeros 6]

theorem wit_ManagementAnswers :
    ((managed up).Hears (msgOf []) ∧ (msgOf []).body.length = 0) ∧
    ((managed up).Hears (msgOf (zeros 8)) ∧ (zeros 8).length = 8 ∧ allZero ((zeros 8).drop 1) = true ∧ fld 0 1 (zeros 8) < 16) ∧
    ((managed up).Hears (msgOf (zeros 32)) ∧ (zeros 32).length = 32) ∧
    (∀ w ∈ [0, 10, 900], ∀ c ∈ [0, 100002], let b := scheduleBody c w
      (managed up).Hears (msgOf b) ∧ 8 ≤ b.length ∧ fld 0 4 b ≤ 64 ∧ b.length = 8 + 16 * fld 0 4 b ∧ allZero (cut 4 4 b) = true ∧
      ∀ e ∈ (chunks 16 64 (b.drop 8)).map readEntry, e.2 = false ∧ e.1.tariff < 8) := by
  refine ⟨⟨hears _ (by decide), rfl⟩, ⟨hears _ (by decide), by decide⟩, ⟨hears _ (by decide), by decide⟩, fun w hw c hc => ⟨hears _ ?_, ?_⟩⟩
  · revert w c; decide +kernel
  · revert w c; decide +kernel

/-- A settings record, a survey of one module, and a TLS chain of one certificate. -/
def settingsBody : Bytes := cat [le 4 0x0A5EB5E7, [1, 0, 0, 0], le 4 62500, zeros 4, le 8 7, zeros 104]
def surveyBody : Bytes := cat [le 4 0x0A5E5E70, le 2 1, le 2 64, le 2 1, zeros 2, le 4 1, le 8 1, zeros 40, le 2 5, le 2 1, zeros 108, zeros 96]
def chainBody : Bytes := cat [le 2 4, zeros 4]

theorem wit_StagingAndRecords :
    (∀ b ∈ [zeros 8, le 8 4096, zeros 16, [], settingsBody, surveyBody, chainBody], b.length ≤ 65536) ∧
    (allZero ((zeros 8).drop 4) = true ∧ 8 < (zeros 16).length ∧ allZero (cut 4 4 (zeros 16)) = true) ∧
    ((managed up).mgmt.staging = none ∧ { managed up with mgmt := { (managed up).mgmt with staging := some true } }.mgmt.staging = some true) ∧
    (let b := settingsBody
     b.length = 128 ∧ allZero (cut 7 1 b ++ cut 12 4 b ++ cut 24 8 b) = true ∧ fld 0 4 b = 0x0A5EB5E7 ∧ fld 4 1 b = 1 ∧ fld 5 1 b ≤ 1 ∧ fld 6 1 b ≤ 1 ∧ 31250 ≤ fld 8 4 b ∧
      fld 8 4 b ≤ 1048576) ∧
    (let b := surveyBody
     let v := parseSurvey b
     b.length = 64 + 112 * fld 12 4 b + 96 ∧ surveyReserved b v = false ∧ fld 0 4 b = 0x0A5E5E70 ∧ fld 4 2 b = 1 ∧ fld 6 2 b = 64 ∧ 0 < v.groups ∧ v.groups ≤ 512 ∧
      0 < fld 12 4 b ∧ fld 12 4 b ≤ 16384 ∧ v.wellFormed = true) ∧
    certList 65536 chainBody = some [zeros 4] := by
  decide +kernel

theorem wit_StagingAndRecords_hears :
    ∀ b ∈ [zeros 8, le 8 4096, zeros 16, [], settingsBody, surveyBody, chainBody], (managed up).Hears (msgOf b) :=
  fun b h => hears b (wit_StagingAndRecords.1 b h)

theorem wit_SmbusAnswers : up.busOn = true ∧ (∀ k < 2, up.partnerBack.slotUse (3 + k) 1 = true) ∧ up.partnerBack.canDraw = true := by decide +kernel

/-- The module with this SMBus port. -/
def onBus (k : SmBus) (s : State) : State := { s with smbus := k }

theorem wit_BusRecovers :
    up.power.off = false ∧ up.smbus.fenced = false ∧
    (let k := { SmBus.reset with fenced := true }; (onBus k up).smbus.fenced = true ∧ (onBus k up).smbus.probeChain + 32768 ≤ up.now) ∧
    (∀ n ∈ [0, 1, 2], let k := { SmBus.reset with transfer := some [1], retries := n }
      (onBus k up).smbus.noPartner = false ∧ (onBus k up).smbus.transfer = some [1] ∧ k.retries = n) ∧
    (let k := { SmBus.reset with noPartner := true, queue := [[1], [2]] }
     (onBus k up).smbus.noPartner = true ∧ (onBus k up).smbus.queue = [1] :: [[2]] ∧ (onBus k up).smbus.probeChain + 32768 ≤ up.now) ∧
    (⟨0x20, true, 0x05, []⟩ : SmbusPacket).pecOk = true ∧ (⟨0x20, false, 0x05, []⟩ : SmbusPacket).pecOk = false := by
  decide +kernel

/-- The module with these TLS sessions. -/
def sessions (l : List Nat) (s : State) : State := { s with mgmt := { s.mgmt with tls := l } }

theorem wit_PortTalks : up.power.off = false ∧ (3 < 4 ∧ (sessions [0, 1, 2] up).mgmt.tls.contains 3 = false ∧ ∀ i < 3, (sessions [0, 1, 2] up).mgmt.tls.contains i = true) ∧
    ∀ i < 4, (sessions [0, 1, 2, 3] up).mgmt.tls.contains i = true := by
  decide +kernel

/-- The module with this entropy unit. -/
def noisy (e : Entropy) (s : State) : State := { s with entropy := e }

theorem wit_NoiseSources :
    (let e := up.entropy; e.primary.state ≠ 0 ∧ e.primary.state ≠ 4 ∧ e.pattern = none ∧ e.instantiated = true) ∧
    (let e := { up.entropy with pattern := some 1 }; e.primary.state ≠ 0 ∧ e.primary.state ≠ 4 ∧ e.pattern.isSome = true) ∧
    (let e := { up.entropy with fallback := { Source.reset with state := 3 } }; e.fallback.state ≠ 0 ∧ e.fallback.state ≠ 4) ∧
    (let e := { up.entropy with primary := { Source.reset with state := 4 }, retestChain := 60000 }; e.primary.state = 4 ∧ e.retestChain + 32768 ≤ up.now) ∧
    (let e := { Entropy.reset with primary := { Source.reset with state := 1 }, fallback := { Source.reset with state := 1 } }
     (noisy e up).entropy.primary.state = 1 ∧ (noisy e up).entropy.fallback.state = 1 ∧ e.instantiated = false) ∧
    (let s := { up with entropy := { Entropy.reset with primary := { Source.reset with state := 1 }, fallback := { Source.reset with state := 4 } }, boot := { up.boot with stage := 1 } }
     s.entropy.primary.state = 1 ∧ s.boot.stage = 1 ∧ s.entropy.fallback.state = 4) ∧
    (let e := { up.entropy with reseedDue := true }; e.instantiated = true ∧ e.reseedDue = true) ∧
    (let x := { ctxOf 2 2 with clusters := List.replicate 4 { CtxCluster.reset with generator := some 90000 } }
     (upWith x).runner 0 = some (0, x) ∧ (x.on 3).generator = some 90000 ∧ 3 < x.width ∧ 90000 + 1024 ≤ (upWith x).now ∧ 0 < (upWith x).parcels.length ∧
      0 < ((upWith x).parcel 0).contexts.length ∧ 3 < ((upWith x).ctx 0 0).clusters.length) ∧
    (let s := { up with flash := Flash.reset }; s.flash.lifecycle = 0 ∧ s.canDraw = true ∧ s.entropy.live = true ∧ s.entropy.pattern = none) ∧
    (let s := { up with clock := { up.clock with chain := 67208864 }, chest := { up.chest with challenge := some (1, 100000) } }
     s.chest.challenge = some (1, 100000) ∧ 100000 + 67108864 ≤ s.now) := by
  decide +kernel

/-- Bring-up that early service may leave. -/
def earlyBoot : Boot := { Boot.reset with early := true, waves := 1, wavesAwake := 1, diesUp := 4, devicesReady := [0, 4, 8, 12] }

theorem wit_BringUp :
    (let s := bringUp 1 Boot.reset; s.power.off = false ∧ s.boot.stage = 1 ∧ s.entropy.instantiated = true ∧ s.boot.railFailed = false) ∧
    (let s := bringUp 0x10 { Boot.reset with diesUp := 3 }; s.bringing = true ∧ 3 = s.boot.diesUp ∧ s.links.length = 48) ∧
    (∀ n < 8, let s := bringUp 0x10 { Boot.reset with diesUp := 4, wavesAwake := n }
      s.bringing = true ∧ s.boot.diesUp = 4 ∧ n + 1 = s.boot.wavesAwake + 1 ∧ n + 1 ≤ 8 ∧ s.clusters.length = 64) ∧
    (let s := bringUp 0x20 { Boot.reset with diesUp := 4, wavesAwake := 8, waves := 7 }; s.bringing = true ∧ s.boot.cold = true ∧ 8 = s.boot.waves + 1 ∧ 8 ≤ s.boot.wavesAwake) ∧
    (let s := bringUp 0x20 { Boot.reset with diesUp := 4, wavesAwake := 1 }; s.bringing = true ∧ 0 < s.boot.wavesAwake ∧ 15 ∉ s.boot.devicesReady) ∧
    (let s := bringUp 0x20 earlyBoot
     s.bringing = true ∧ s.boot.early = true ∧ s.boot.stage = 0x20 ∧ 1 ≤ s.boot.waves ∧ ∀ d ∈ [0, 4, 8, 12], d ∈ s.boot.devicesReady) ∧
    (let s := bringUp 0x40 { Boot.reset with stage40 := 50, judged := true }
     s.clock.running = true ∧ s.boot.stage = 0x40 ∧ s.clock.rod = 0 ∧ s.boot.stage40 ≠ s.now ∧ s.boot.judged = true ∧ s.disagreement ≠ 0) ∧
    (let s := { bringUp 0x40 { Boot.reset with stage40 := 50, judged := true, moduleId := 5, survey := some { groups := 1, counter := 1, entries := [(5, 3, 0, zeros 96)], bytes := [] } } with
      marker := { Marker.reset with isMaster := true } }
     s.boot.stage40 ≠ s.now ∧ s.boot.judged = true ∧ s.disagreement = 0) := by
  decide +kernel

theorem wit_StepKeepsSound : up.Sound ∧ ∃ t, step { up with pending := [.meterSave] } = .next t ∧ { up with pending := [.meterSave] }.Sound :=
  ⟨test_up_sound, _, rfl, sound_of (by decide +kernel)⟩

/-- Nothing is fused yet: the factory's programming moves the life cycle from 0 to 1. -/
theorem wit_LifeCycleByTable : let s := { up with flash := Flash.reset }
    s.Sound ∧ ∃ t, exec .factoryFuseProgramming s = .next t ∧ s.flash.lifecycle = 0 ∧ t.flash.lifecycle = 1 :=
  ⟨sound_of (by decide +kernel), _, rfl, rfl, by decide +kernel⟩

theorem wit_BytesReadBack : Memory.wf true [] = true ∧ (0 < up.parcels.length ∧ (∀ i < 3, up.inWindow 0 (2 ^ 40 + i) = false) ∧ rising (up.parcel 0).mem = true) ∧
    (2 ^ 40 < 2 ^ 40 + 3 ∧ 1 ≠ 0) := by
  decide +kernel

theorem wit_CommitRaisesFloor :
    ((managed up).Hears (msgOf []) ∧ (msgOf []).body = []) ∧
    (let s := { managed up with boot := { up.boot with fwCounter := 7 } }; s.Hears (msgOf []) ∧ s.boot.stage = 0x50 ∧ s.flash.fwFloor < s.boot.fwCounter) ∧
    ¬((managed up).boot.stage = 0x50 ∧ (managed up).flash.fwFloor < (managed up).boot.fwCounter) :=
  ⟨⟨hears _ (by decide), rfl⟩, ⟨hears_of (by decide +kernel), by decide +kernel⟩, by decide +kernel⟩

/-- A `mgmt.cap` body. -/
def capBody (w : Nat) : Bytes := cat [le 2 w, zeros 6]

/-- Caps within the limits at both ends and none; outside them on both sides; under power-fail handling; and the schedules of `wit_ManagementAnswers`. -/
theorem wit_LowestCapBinds :
    (∀ w ∈ [0, 314, 315, 1200, 1201], (managed up).Hears (msgOf (capBody w)) ∧ (capBody w).length = 8 ∧ allZero ((capBody w).drop 2) = true ∧ w = fld 0 2 (capBody w) ∧
      (w ∈ [314, 1201] ↔ w ≠ 0 ∧ (limitWOf (managed up).flash.variant < w ∨ w < capFloor (managed up).flash.variant))) ∧
    (managed up).power.fail = false ∧ (let s := powered { onPower with fail := true } (managed up); s.Hears (msgOf (capBody 0)) ∧ s.power.fail = true) ∧
    (∀ w ∈ [0, 900, 10], let b := scheduleBody 100002 w
      let l := ((chunks 16 64 (b.drop 8)).map readEntry).map (·.1)
      ascending l = true ∧ (∀ e ∈ l.head?, (managed up).now + 2 ≤ e.startChain) ∧ l.map (·.capW) = [w]) := by
  refine ⟨fun w hw => ⟨hears _ ?_, ?_⟩, by decide +kernel, ⟨hears_of (by decide +kernel), by decide +kernel⟩, by decide +kernel⟩
  · revert w; decide +kernel
  · revert w; decide +kernel

theorem wit_TimerMoves : Instr.meterSave.movesTimer = false ∧ (Instr.chainBoundary [] 0 []).movesTimer = true ∧ ∃ t, exec .meterSave up = .next t :=
  ⟨rfl, rfl, _, rfl⟩
/-! Values that the spec works out itself. -/

/-- Table 4.3. -/
theorem test_rho_table : rho 2013265921 2013265920 = 15 ∧ canon 2013265921 15 = 15 ∧ rho 2013265921 (2 ^ 40 + 5) = 2013274038 ∧
    canon 2013265921 2013274038 = 8117 := by decide +kernel
/-- The masked sum after R89. -/
theorem test_centred_example : centred (2 ^ 32) 4291825704 = -3141592 ∧ centred 2013265921 2013265900 = -21 ∧ centred 2013265921 1006632960 = 1006632960 := by
  decide +kernel
/-- The example after R88. -/
theorem test_stochastic_example : srInt 13 2 0x40000000 = 3 ∧ srInt 13 2 0xBFFFFFFF = 3 ∧ srInt 13 2 0xC0000000 = 4 := by decide +kernel
/-- Table 4.2. -/
theorem test_moduli_table : (∀ p ∈ [2013265921, 469762049, 167772161, 754974721], modulusForm p = true ∧ isPrime31 p = true) ∧ modulusForm 998244353 = false ∧
    modulusForm 1048577 = true ∧ isPrime31 1048577 = false := by decide +kernel
/-- The example in 14_faults.md. -/
theorem test_fault_word : faultWord 1 26 0x0210 = 0x11A00210 := by decide +kernel
/-- The global ports of 512 groups in 07_traverse_links.md. -/
theorem test_global_port : portPeer 512 10 77 = some (88, 433) ∧ portPeer 512 88 433 = some (10, 77) ∧ portPeer 512 10 511 = none := by decide +kernel
/-- Ratios of 15_management.md's worked example: 40 C, caps of 800 W and 700 W. -/
theorem test_idle_ratio : ratioFor .a 40 800 = 27 ∧ ratioFor .a 40 700 = 34 := by decide +kernel

/-! Single steps. -/

/-- A next state of which a test holds. -/
def goes (o : Host.Outcome State Fault Refusal) (p : State → Bool) : Bool := match o with | .next t => p t | _ => false

/-- R23: from rod 1 it is rod 2 that opens. -/
theorem test_rod_boundary : goes (exec (.rodBoundary []) (inRod 1 up)) (fun t => t.clock.chain == 100000 && t.clock.rod == 2) = true := by decide +kernel
/-- R336: below 40 V for 10 us begins power-fail handling, a shorter droop does not. -/
theorem test_droop : goes (exec (.inputUndervoltage 39999 10) up) (·.power.fail) = true ∧ goes (exec (.inputUndervoltage 39999 9) up) (!·.power.fail) = true := by
  decide +kernel
/-- R149, R147: lock is lost and regained; the expected number stays. -/
theorem test_lock_loss : goes (exec (.flitLockLoss 3) (withLink { linkOf 1 with rxNext := 9 } up)) (fun t => (t.link 3).state == 2 && (t.link 3).rxNext == 9) = true := by
  decide +kernel
/-- R347: above 80 V for more than 100 us nothing is defined. -/
theorem test_surge : exec (.inputOvervoltage 80001 101) up = .fault .surgeUndefined := rfl
/-- R330: the third unacknowledged transfer ends the partner. -/
theorem test_smbus_third : goes (exec (.smbusRetry false) (onBus { SmBus.reset with transfer := some [1], retries := 2 } up)) (fun t => t.smbus.noPartner && t.smbus.discards == 1) = true := by
  decide +kernel

end Sys2Proof.Tests
end

/-! Faults and their containment (R16, R251, R259, R294 to R299, R313, R315): what a context fault, a cluster fault and a parcel fault reach and leave. -/

namespace Sys2Proof.Machine

/-! A context fault (R251, R296). -/

theorem exec_contextFault_of_mem {p c cause : Nat} {s : State} (h : cause ∈ contextCauses) :
    exec (.contextFault p c cause) s = .next (s.faultCtx p c cause) := by
  have hc : contextCauses.contains cause = true := by simpa using h
  show execContextFault p c cause s = _
  rw [execContextFault, if_pos hc]

theorem exec_memPoison {p c : Nat} {s : State} : exec (.memPoison p c) s = .next (s.faultCtx p c 0x1101) := rfl

theorem faultCtx_of_started {p c cause : Nat} {s : State} (h : (s.ctx p c).started = true) :
    s.faultCtx p c cause = (s.raiseFault (faultWord 1 (p * 8 + c) cause)).faultCtxWith p c (faultWord 1 (p * 8 + c) cause) := by
  rw [State.faultCtx, if_pos h]

theorem state_of_started {x : Context} (h : x.started = true) : x.state = 2 := by simpa [Context.started] using h

/-- Only contexts that the module has are started: every other reads as its reset value. -/
theorem started_range {p c : Nat} {s : State} (h : (s.ctx p c).started = true) :
    p < s.parcels.length ∧ c < (s.parcel p).contexts.length := by
  have hc : c < (s.parcel p).contexts.length := by
    by_contra hn
    have e : s.ctx p c = Context.reset := List.getD_eq_default _ _ (Nat.le_of_not_lt hn)
    rw [e] at h
    exact absurd h (by decide)
  refine ⟨?_, hc⟩
  by_contra hn
  have e : s.parcel p = Parcel.reset := List.getD_eq_default _ _ (Nat.le_of_not_lt hn)
  have hr : s.ctx p c = Context.reset := by
    rw [e] at hc
    rw [State.ctx, e]
    exact List.getD_replicate _ (n := 8) hc
  rw [hr] at h
  exact absurd h (by decide)

theorem faultCtx_contained {p c cause : Nat} {s : State} (h0 : 0 < s.fns.length) (h : (s.ctx p c).started = true) :
    ((s.faultCtx p c cause).ctx p c).state = 5 ∧ ((s.faultCtx p c cause).ctx p c).fault = faultWord 1 (p * 8 + c) cause ∧
    ((s.faultCtx p c cause).fn 0).lastFault = faultWord 1 (p * 8 + c) cause ∧
    (∀ q d, (q ≠ p ∨ d ≠ c) → (s.faultCtx p c cause).ctx q d = s.ctx q d) ∧ (s.faultCtx p c cause).clusters = s.clusters ∧
    (s.faultCtx p c cause).time = s.time := by
  rw [faultCtx_of_started h]
  set w := faultWord 1 (p * 8 + c) cause
  have hr : p < (s.raiseFault w).parcels.length ∧ c < ((s.raiseFault w).parcel p).contexts.length := by simpa using started_range h
  have hs : ((s.raiseFault w).ctx p c).started = true := by simpa using h
  obtain ⟨hstate, hword⟩ := faultCtxWith_self (w := w) hr
  refine ⟨?_, hword hs, ?_, fun q d hqd => ?_, by simp, by simp⟩
  · rw [hstate, state_of_started hs]; rfl
  · rw [State.faultCtxWith_fn]; exact raiseFault_last w s h0
  · rw [faultCtxWith_other _ _ _ _ _ _ hqd, State.raiseFault_ctx]

/-! A cluster fault (R16, R296). -/

/-- The cluster waits for no vote of its pair. -/
def Cluster.unstalled (u : Cluster) : Cluster := { u with pairStall := false }

/-- The first half of a cluster fault: the word is raised, cluster `c` is fenced and leaves service, and its pair stalls no longer. -/
def State.fenceCluster (p c : Nat) (w : BitVec 32) (bench : Option Nat) (s : State) : State :=
  (((s.raiseFault w).modCluster c fun k => { k with fenced := true, errored := true, badBench := bench, inflight := [], pairStall := false }).retireCluster
    c bench).modClusters ((s.parcel p).members ((s.parcel p).logicalOf c)) Cluster.unstalled

/-- The second half of it: every started context of the parcel that maps onto logical cluster `k` faults. -/
def State.faultMapped (p k : Nat) (w : BitVec 32) (s : State) : State :=
  (List.range 8).foldl (fun u x => if (u.ctx p x).started && k < (u.ctx p x).width then u.faultCtxWith p x w else u) s

section
variable {p c cause : Nat} {w : BitVec 32} {bench : Option Nat} {s : State}

theorem fenceCluster_parcels : (s.fenceCluster p c w bench).parcels = s.parcels := by
  rw [State.fenceCluster, State.modClusters_parcels, (retireCluster_rest ..).1, State.modCluster_parcels, State.raiseFault_parcels]

theorem fenceCluster_parcel (q : Nat) : (s.fenceCluster p c w bench).parcel q = s.parcel q := by
  rw [State.parcel, fenceCluster_parcels]; rfl

theorem fenceCluster_ctx (q x : Nat) : (s.fenceCluster p c w bench).ctx q x = s.ctx q x := by
  rw [State.ctx, fenceCluster_parcel]; rfl

theorem fenceCluster_lastFault (h0 : 0 < s.fns.length) : ((s.fenceCluster p c w bench).fn 0).lastFault = w := by
  rw [State.fenceCluster, State.modClusters_fn, State.fn, (retireCluster_rest ..).2.2]
  exact raiseFault_last w s h0

theorem retireCluster_cluster (d : Nat) (t : State) : (t.retireCluster c bench).cluster d = t.cluster d := by
  rw [State.cluster, (retireCluster_rest ..).2.1]; rfl

theorem fenceCluster_self (hc : c < s.clusters.length) :
    ((s.fenceCluster p c w bench).cluster c).fenced = true ∧ ((s.fenceCluster p c w bench).cluster c).errored = true ∧
    ((s.fenceCluster p c w bench).cluster c).inflight = [] := by
  refine cluster_modClusters (fun u => u.fenced = true ∧ u.errored = true ∧ u.inflight = []) (g := Cluster.unstalled) (fun _ h => h) _ _ ?_
  rw [retireCluster_cluster, State.modCluster_cluster (by simpa using hc)]
  exact ⟨rfl, rfl, rfl⟩

theorem fenceCluster_other {d : Nat} (hd : d ∉ (s.parcel p).members ((s.parcel p).logicalOf c)) (hne : d ≠ c) :
    (s.fenceCluster p c w bench).cluster d = s.cluster d := by
  rw [State.fenceCluster, modClusters_out _ _ _ _ hd, retireCluster_cluster, State.modCluster_cluster_ne hne, State.raiseFault_cluster]

theorem fenceCluster_fenced_ne {d : Nat} (hne : d ≠ c) : ((s.fenceCluster p c w bench).cluster d).fenced = (s.cluster d).fenced := by
  rw [State.fenceCluster, modClusters_keepc Cluster.fenced Cluster.unstalled (fun _ => rfl), retireCluster_cluster, State.modCluster_cluster_ne hne,
    State.raiseFault_cluster]

/-- Of the live members of a logical cluster only the faulted one goes. -/
theorem mem_live_fenceCluster {k d : Nat} (hc : c < s.clusters.length) :
    d ∈ (s.fenceCluster p c w bench).live p k ↔ d ∈ s.live p k ∧ d ≠ c := by
  simp only [State.live, fenceCluster_parcel, List.mem_filter]
  by_cases hd : d = c
  · subst hd; simp [(fenceCluster_self hc).1]
  · simp [fenceCluster_fenced_ne hd, hd]

theorem clusterFault_of_owner (hf : (s.cluster c).fenced = false) (ho : s.ownerOf c = some p) :
    s.clusterFault c cause bench =
      if ((s.fenceCluster p c (faultWord 2 c cause) bench).live p ((s.parcel p).logicalOf c)).isEmpty then
        (s.fenceCluster p c (faultWord 2 c cause) bench).faultMapped p ((s.parcel p).logicalOf c) (faultWord 2 c cause)
      else s.fenceCluster p c (faultWord 2 c cause) bench := by
  rw [State.clusterFault, if_neg (by simp [hf])]
  simp only [ho]
  rfl

theorem clusterFault_with_partner (hl : c < s.clusters.length) (hf : (s.cluster c).fenced = false) (ho : s.ownerOf c = some p)
    {d : Nat} (hd : d ∈ s.live p ((s.parcel p).logicalOf c)) (hne : d ≠ c) :
    s.clusterFault c cause bench = s.fenceCluster p c (faultWord 2 c cause) bench := by
  have hm := (mem_live_fenceCluster (w := faultWord 2 c cause) (bench := bench) hl).mpr ⟨hd, hne⟩
  rw [clusterFault_of_owner hf ho, if_neg (by simpa using List.ne_nil_of_mem hm)]

theorem clusterFault_without_partner (hl : c < s.clusters.length) (hf : (s.cluster c).fenced = false) (ho : s.ownerOf c = some p)
    (h : ∀ d ∈ s.live p ((s.parcel p).logicalOf c), d = c) :
    s.clusterFault c cause bench =
      (s.fenceCluster p c (faultWord 2 c cause) bench).faultMapped p ((s.parcel p).logicalOf c) (faultWord 2 c cause) := by
  have he : (s.fenceCluster p c (faultWord 2 c cause) bench).live p ((s.parcel p).logicalOf c) = [] :=
    List.eq_nil_iff_forall_not_mem.mpr fun d hd => ((mem_live_fenceCluster hl).mp hd).2 (h d ((mem_live_fenceCluster hl).mp hd).1)
  rw [clusterFault_of_owner hf ho, if_pos (by simp [he])]

/-- Whether or not contexts fault, clusters and functions are those that the fence leaves. -/
theorem clusterFault_fns_clusters (hf : (s.cluster c).fenced = false) (ho : s.ownerOf c = some p) :
    (s.clusterFault c cause bench).fns = (s.fenceCluster p c (faultWord 2 c cause) bench).fns ∧
    (s.clusterFault c cause bench).clusters = (s.fenceCluster p c (faultWord 2 c cause) bench).clusters := by
  rw [clusterFault_of_owner hf ho]
  split
  · exact fold_fault_fns ..
  · exact ⟨rfl, rfl⟩

/-- What a cluster fault reaches: the cluster, the flags of its pair, and, where no partner goes on, the contexts on it. -/
theorem clusterFault_contained (hs : s.Sound) (hc : c < 64) (hf : (s.cluster c).fenced = false) (ho : s.ownerOf c = some p) :
    ((s.clusterFault c cause bench).cluster c).fenced = true ∧ ((s.clusterFault c cause bench).cluster c).errored = true ∧
    ((s.clusterFault c cause bench).cluster c).inflight = [] ∧ ((s.clusterFault c cause bench).fn 0).lastFault = faultWord 2 c cause ∧
    (∀ d ∉ (s.parcel p).members ((s.parcel p).logicalOf c), d ≠ c → (s.clusterFault c cause bench).cluster d = s.cluster d) ∧
    ((∃ d ∈ s.live p ((s.parcel p).logicalOf c), d ≠ c ∧ d < 64) → ∀ q x, (s.clusterFault c cause bench).ctx q x = s.ctx q x) ∧
    ((∀ d ∈ s.live p ((s.parcel p).logicalOf c), d = c) → ∀ x < 8, (s.ctx p x).started = true → (s.parcel p).logicalOf c < (s.ctx p x).width →
      ((s.clusterFault c cause bench).ctx p x).state = 5 ∧
      ((s.clusterFault c cause bench).ctx p x).fault = ((s.clusterFault c cause bench).fn 0).lastFault) := by
  have hl : c < s.clusters.length := by rw [hs.units.2.2.1]; exact hc
  obtain ⟨hfns, hcl⟩ := clusterFault_fns_clusters (cause := cause) (bench := bench) hf ho
  have hcluster : ∀ d, (s.clusterFault c cause bench).cluster d = (s.fenceCluster p c (faultWord 2 c cause) bench).cluster d :=
    fun d => by rw [State.cluster, hcl]; rfl
  have hlast : ((s.clusterFault c cause bench).fn 0).lastFault = faultWord 2 c cause := by
    rw [State.fn, hfns]; exact fenceCluster_lastFault (by rw [hs.units.1]; decide)
  obtain ⟨hfenced, herrored, hflight⟩ := fenceCluster_self (p := p) (w := faultWord 2 c cause) (bench := bench) hl
  rw [hlast, hcluster c]
  refine ⟨hfenced, herrored, hflight, rfl, fun d hd hne => ?_, ?_, fun halone x hx hst hwidth => ?_⟩
  · rw [hcluster d, fenceCluster_other hd hne]
  · rintro ⟨d, hd, hne, -⟩ q x
    rw [clusterFault_with_partner hl hf ho hd hne, fenceCluster_ctx]
  · rw [clusterFault_without_partner hl hf ho halone]
    refine (fold_fault_state p _ _ x _ _ List.nodup_range ?_).1 (by simpa using hx) ?_ ?_
    · rw [fenceCluster_parcels, fenceCluster_parcel]; exact started_range hst
    · rwa [fenceCluster_ctx]
    · rwa [fenceCluster_ctx]

end

theorem exec_clusterError_bench {c b : Nat} {s : State} (ha : (s.cluster c).awake = true) (hb : b < 64) :
    exec (.clusterError c (.bench b)) s = .next (s.clusterFault c 0x1403 (some b)) := by
  show execClusterError c (.bench b) s = _
  rw [execClusterError, if_neg (by simp [ha])]
  simp only [if_pos hb, fcBench]

theorem exec_clusterError_trestle {c : Nat} {s : State} (ha : (s.cluster c).awake = true) :
    exec (.clusterError c .trestle) s = .next (s.clusterFault c 0x1404 none) := by
  show execClusterError c .trestle s = _
  rw [execClusterError, if_neg (by simp [ha])]; rfl

theorem exec_clusterError_scratch {c : Nat} {s : State} (ha : (s.cluster c).awake = true) :
    exec (.clusterError c .scratch) s = .next (s.clusterFault c 0x1405 none) := by
  show execClusterError c .scratch s = _
  rw [execClusterError, if_neg (by simp [ha])]; rfl

/-! A subchannel's failure (R259, R299, R313, R315). -/

theorem subchOwner_lt {x p : Nat} {s : State} (h : s.subchOwner x = some p) : p < 16 := by
  simpa using List.mem_of_find?_eq_some h

section
variable {x : Nat} {s : State}

theorem exec_subchFail_unowned (hu : s.subchInUse x = true) (hn : s.faults.subchFailed.contains x = false) (hr : s.clock.running = true)
    (ho : s.subchOwner x = none) : exec (.subchFail x) s = .next (s.subchGone x none) := by
  show execSubchFail x s = _
  simp only [execSubchFail, hu, hn, hr, ho, Bool.not_true, Bool.or_self, Bool.false_eq_true, if_false]

/-- The failure of an owned subchannel is a fault of its parcel; what follows for the plat and the lost lines touches no context, no cluster and no drawer. -/
theorem exec_subchFail_owned {p : Nat} (hu : s.subchInUse x = true) (hn : s.faults.subchFailed.contains x = false) (hr : s.clock.running = true)
    (ho : s.subchOwner x = some p) :
    ∃ t, exec (.subchFail x) s = .next t ∧ x ∈ t.faults.subchFailed ∧ t.fns = (s.parcelFault p 0x1102).fns ∧
      t.clusters = (s.parcelFault p 0x1102).clusters ∧ (t.parcel p).refusing = ((s.parcelFault p 0x1102).parcel p).refusing ∧
      (t.parcel p).contexts = ((s.parcelFault p 0x1102).parcel p).contexts ∧ ∀ q ≠ p, t.parcel q = (s.parcelFault p 0x1102).parcel q := by
  show ∃ t, execSubchFail x s = .next t ∧ _
  simp only [execSubchFail, hu, hn, hr, ho, Bool.not_true, Bool.or_self, Bool.false_eq_true, if_false]
  refine ⟨_, rfl, ?_⟩
  split
  · exact ⟨loseGone_mem .., rfl, rfl, modParcel_keepx Parcel.refusing _ _ _ _ fun _ => rfl, modParcel_keepx Parcel.contexts _ _ _ _ fun _ => rfl,
      fun q hq => loseGone_ne hq ..⟩
  · exact ⟨by simp, rfl, rfl, rfl, rfl, fun _ _ => rfl⟩

theorem subchFail_contained {p : Nat} (hs : s.Sound) (hu : s.subchInUse x = true) (hn : s.faults.subchFailed.contains x = false)
    (hr : s.clock.running = true) (ho : s.subchOwner x = some p) :
    ∃ t, exec (.subchFail x) s = .next t ∧ x ∈ t.faults.subchFailed ∧ (t.parcel p).refusing = true ∧ (t.fn 0).lastFault = faultWord 3 p 0x1102 ∧
      (∀ c < 8, (s.ctx p c).state ≠ 0 → (t.ctx p c).state = 5) ∧ (∀ q ≠ p, t.parcel q = s.parcel q) ∧
      ∀ k ∈ (s.parcel p).clusters, k < 64 → (t.cluster k).fenced = true := by
  obtain ⟨t, hexec, hfailed, hfns, hclusters, hrefusing, hcontexts, hothers⟩ := exec_subchFail_owned hu hn hr ho
  obtain ⟨frefusing, flast, fctx, fothers, ffenced, -⟩ := parcelFault_facts p 0x1102 s hs (subchOwner_lt ho)
  refine ⟨t, hexec, hfailed, hrefusing.trans frefusing, ?_, fun c hc h0 => ?_, fun q hq => (hothers q hq).trans (fothers q hq), fun k hk hlt => ?_⟩
  · rw [State.fn, hfns]; exact flast
  · rw [State.ctx, Parcel.ctx, hcontexts]; exact fctx c hc h0
  · rw [State.cluster, hclusters]; exact ffenced k hk hlt

/-- A degraded subchannel is counted and reported; a migration begins where the enduring profile has a spare for it. -/
theorem exec_subchDegraded_above {n : Nat} (hn : 4096 < n) (hx : x < 64) (he : s.faults.eccCounts.getD x 0 ≤ 4096) :
    ∃ t, exec (.subchDegraded x n) s = .next t ∧ t.faults.eccCounts = s.faults.eccCounts.set x n ∧ t.parcels = s.parcels ∧ t.clusters = s.clusters ∧
      t.faults.migrate = s.faults.migrate ++
        (if s.enduring && s.subchInUse x && !s.faults.migrate.any (fun m => m.1 == x) then s.spareSubch (dieOf x) else none).toList.map (x, ·, 0) := by
  have hskip : (n ≤ 4096 || 4096 < s.faults.eccCounts.getD x 0 || 64 ≤ x : Bool) = false := by
    rw [decide_eq_false (Nat.not_le.mpr hn), decide_eq_false (Nat.not_lt.mpr he), decide_eq_false (Nat.not_le.mpr hx)]; rfl
  show ∃ t, execSubchDegraded x n s = .next t ∧ _
  simp only [execSubchDegraded, hskip, Bool.false_eq_true, if_false]
  refine ⟨_, rfl, ?_⟩
  split
  next y hspare => simp [hspare]
  next hspare => simp [hspare]

theorem exec_migrationDone_of_find {y n : Nat} (h : s.faults.migrate.find? (fun m => m.1 == x) = some (x, y, n)) :
    exec (.migrationDone x) s = .next (if subchLines ≤ n then s.subchGone x (some y) else s) := by
  show execMigrationDone x s = _
  simp only [execMigrationDone, h]

end

/-- Settles O40: one lemma for each clause, by the unit that faults. -/
theorem faultsContained : Obligations.FaultsContained := by
  intro s hs
  have h0 : 0 < s.fns.length := by rw [hs.units.1]; decide
  refine ⟨?_, ?_, fun x p hu hn hr ho => subchFail_contained hs hu hn hr ho, fun x hu hn hr ho => exec_subchFail_unowned hu hn hr ho, ?_,
    fun x y n h => exec_migrationDone_of_find h⟩
  · rintro p c i cause (⟨rfl, hcause⟩ | ⟨rfl, rfl⟩) hst
    · exact ⟨_, exec_contextFault_of_mem hcause, faultCtx_contained h0 hst⟩
    · exact ⟨_, exec_memPoison, faultCtx_contained h0 hst⟩
  · intro c err p hc ha hf hb ho
    cases err with
    | bench b => exact ⟨_, exec_clusterError_bench ha (hb b rfl), clusterFault_contained hs hc hf ho⟩
    | trestle => exact ⟨_, exec_clusterError_trestle ha, clusterFault_contained hs hc hf ho⟩
    | scratch => exact ⟨_, exec_clusterError_scratch ha, clusterFault_contained hs hc hf ho⟩
  · intro x n hn hx he
    obtain ⟨t, hexec, hcounts, hparcels, hclusters, hmigrate⟩ := exec_subchDegraded_above hn hx he
    refine ⟨t, hexec, hcounts, hparcels, hclusters, fun hend => ?_, fun y hend hu hmove hspare => ?_⟩
    · simp [hmigrate, hend]
    · simp [hmigrate, hend, hu, hmove, hspare]

end Sys2Proof.Machine

/-! Module causes, the module reset and the field debug port (R9, R232, R261, R304 to R306). -/

namespace Sys2Proof.Machine

/-! Causes that reset the module (R9, R304, R306). -/

section
variable {a b p c k : Nat} {s : State}

theorem exec_d2dError_running (hr : s.clock.running = true) : exec .d2dError s = .next (s.moduleFault 5 0x1409) := by
  show execD2dError s = _
  rw [execD2dError, if_pos hr]; rfl

theorem exec_watchdogMiss_running (hr : s.clock.running = true) : exec .watchdogMiss s = .next (s.moduleFault 4 0x140B) := by
  show execWatchdogMiss s = _
  rw [execWatchdogMiss, if_pos hr]; rfl

theorem exec_lockstepMismatch_last (ha : a < 2) (hr : s.clock.running = true) (hb : s.faults.pairStopped = some b) (hne : b ≠ a) :
    exec (.lockstepMismatch a) s = .next (s.moduleFault 4 0x140A) := by
  show execLockstepMismatch a s = _
  simp only [execLockstepMismatch, hr, hb, Option.some.injEq, hne, Nat.not_le.mpr ha, Bool.not_true, decide_false, Bool.or_self, Bool.false_eq_true, if_false]
  rfl

/-- The first mismatch only stops its pair; the standby takes over if that pair was the active one. -/
theorem exec_lockstepMismatch_first (ha : a < 2) (hr : s.clock.running = true) (hn : s.faults.pairStopped = none) :
    ∃ t, exec (.lockstepMismatch a) s = .next t ∧ t.faults = { s.faults with pairStopped := some a, takeover := a == s.faults.activePair } ∧
      t.parcels = s.parcels ∧ t.clusters = s.clusters := by
  show ∃ t, execLockstepMismatch a s = .next t ∧ _
  simp only [execLockstepMismatch, hr, hn, reduceCtorEq, Nat.not_le.mpr ha, Bool.not_true, decide_false, Bool.or_self, Bool.false_eq_true, if_false]
  exact ⟨_, rfl, by simp, by simp, by simp⟩

/-! Fences that do not complete (R304). -/

theorem exec_fenceTimeout_context (h5 : (s.ctx p c).state = 5) (hk : k ∈ (s.parcel p).clusters) :
    exec (.fenceTimeout (.context p c k)) s = .next (s.clusterFault k 0x1408 none) := by
  show execFenceTimeout (.context p c k) s = _
  rw [execFenceTimeout, if_pos (by simp [h5, hk])]; rfl

theorem exec_fenceTimeout_cluster (he : (s.cluster c).errored = true) (ho : s.ownerOf c = some p) (hr : (s.parcel p).refusing = false) :
    exec (.fenceTimeout (.cluster c)) s = .next (s.parcelFault p 0x1408) := by
  show execFenceTimeout (.cluster c) s = _
  simp only [execFenceTimeout, he, ho, hr, Bool.not_true, Bool.false_eq_true, if_false]
  rfl

theorem exec_fenceTimeout_parcel (hr : (s.parcel p).refusing = true) :
    exec (.fenceTimeout (.parcel p)) s = .next (s.moduleFault 0xFF 0x1408) := by
  show execFenceTimeout (.parcel p) s = _
  rw [execFenceTimeout, if_pos hr]; rfl

/-- The tray's word is set and the power cycle without ready is counted (R304). -/
def State.trayCounted (s : State) : State :=
  { s with faults := { s.faults with mgmtWord := faultWord 5 0 0x140C, trayCycles := s.faults.trayCycles + 1 } }

theorem exec_fenceTimeout_boot (h : s.boot.stage = 0 ∨ s.boot.stage = 1) :
    exec (.fenceTimeout .module) s = .next (if 3 ≤ s.faults.trayCycles + 1 then s.trayCounted.powerDown else s.trayCounted) := by
  show execFenceTimeout .module s = _
  rw [execFenceTimeout, if_pos (by simpa using h)]
  rfl

/-- Above the module the tray's word is management's; the third power cycle without ready leaves the module unpowered. -/
theorem fenceTimeout_module (h : s.boot.stage = 0 ∨ s.boot.stage = 1) :
    ∃ t, exec (.fenceTimeout .module) s = .next t ∧ t.faults.mgmtWord = faultWord 5 0 0x140C ∧
      (s.faults.trayCycles < 2 → t.faults.trayCycles = s.faults.trayCycles + 1 ∧ t.power = s.power) ∧ (2 ≤ s.faults.trayCycles → t.power.off = true) := by
  by_cases hthird : 3 ≤ s.faults.trayCycles + 1
  · obtain ⟨hoff, -, hword⟩ := powerDown_keep s.trayCounted
    exact ⟨s.trayCounted.powerDown, (exec_fenceTimeout_boot h).trans (by rw [if_pos hthird]), hword, fun hlt => absurd hthird (by omega), fun _ => hoff⟩
  · exact ⟨s.trayCounted, (exec_fenceTimeout_boot h).trans (by rw [if_neg hthird]), rfl, fun _ => ⟨rfl, rfl⟩, fun hle => absurd hle (by omega)⟩

end

/-! The ordered reset (R305). -/

section
variable {n : Nat} {cold ok : Bool} {s : State}

theorem exec_moduleReset_due (ho : s.faults.order = some (n, cold)) (hoff : s.power.off = false) (hfail : s.power.fail = false)
    (hdue : s.clock.running = true → n < s.now ∧ s.clock.rod = 0) : exec (.moduleReset ok) s = .next (s.flushRings.reboot cold ok) := by
  show execModuleReset ok s = _
  have hgo : ¬(s.power.off || s.power.fail || (s.clock.running && (s.now ≤ n || s.clock.rod ≠ 0))) = true := by
    simpa [hoff, hfail] using hdue
  simp only [execModuleReset, ho, if_neg hgo]

theorem exec_moduleReset_early (ho : s.faults.order = some (n, cold)) (hr : s.clock.running = true) (hearly : s.now ≤ n ∨ s.clock.rod ≠ 0) :
    exec (.moduleReset ok) s = .next s := by
  show execModuleReset ok s = _
  have hwait : (s.power.off || s.power.fail || (s.clock.running && (s.now ≤ n || s.clock.rod ≠ 0))) = true := by simp [hr, hearly]
  simp only [execModuleReset, ho, if_pos hwait]

theorem exec_moduleReset_unordered (ho : s.faults.order = none) : exec (.moduleReset ok) s = .next s := by
  show execModuleReset ok s = _
  simp only [execModuleReset, ho]

end

/-! The field debug port (R232, R261). -/

section
variable {c x : Nat} {s : State}

theorem debugOut_reached (h : s.debugReaches c = true) (v : Nat) : s.debugOut c v = s.emit (.debugPort v) := by rw [State.debugOut, if_pos h]

theorem debugOut_unreached (h : s.debugReaches c = false) (v : Nat) : s.debugOut c v = s := by rw [State.debugOut, if_neg (by simp [h])]

theorem exec_fieldDebugAccess_halt (h : s.debugReaches c = true) :
    exec (.fieldDebugAccess (.halt c)) s = .next (s.modCluster c fun u => { u with halted := true }) := by
  show execFieldDebugAccess (.halt c) s = _
  rw [execFieldDebugAccess, if_pos h]

theorem exec_fieldDebugAccess_resume (h : s.debugReaches c = true) :
    exec (.fieldDebugAccess (.resume c)) s = .next (s.modCluster c fun u => { u with halted := false }) := by
  show execFieldDebugAccess (.resume c) s = _
  rw [execFieldDebugAccess, if_pos h]

theorem exec_fieldDebugAccess_readScratch : exec (.fieldDebugAccess (.readScratch c x)) s =
    .next (s.debugOut c (leNat (Memory.read0 x 8 (s.cluster c).scratch))) := rfl

theorem exec_fieldDebugAccess_readStake : exec (.fieldDebugAccess (.readStake c x)) s =
    .next (s.debugOut c (stakeWord (tget x (s.cluster c).stakes) 0)) := rfl

theorem exec_fieldDebugAccess_readControl : exec (.fieldDebugAccess (.readControl c x)) s =
    .next (s.debugOut c ((s.cluster c).row x).ctrl.toNat) := rfl

theorem exec_fieldDebugAccess_unreached (h : s.debugReaches c = false) :
    exec (.fieldDebugAccess (.halt c)) s = .next s ∧ exec (.fieldDebugAccess (.resume c)) s = .next s ∧
    exec (.fieldDebugAccess (.readScratch c x)) s = .next s ∧ exec (.fieldDebugAccess (.readStake c x)) s = .next s ∧
    exec (.fieldDebugAccess (.readControl c x)) s = .next s := by
  have hno : ¬s.debugReaches c = true := by simp [h]
  refine ⟨?_, ?_, ?_, ?_, ?_⟩
  · show execFieldDebugAccess (.halt c) s = _
    rw [execFieldDebugAccess, if_neg hno]
  · show execFieldDebugAccess (.resume c) s = _
    rw [execFieldDebugAccess, if_neg hno]
  · rw [exec_fieldDebugAccess_readScratch, debugOut_unreached h]
  · rw [exec_fieldDebugAccess_readStake, debugOut_unreached h]
  · rw [exec_fieldDebugAccess_readControl, debugOut_unreached h]

end

/-- Settles O41: one lemma for each cause, each fence, the reset and each access of the port. -/
theorem moduleFaults : Obligations.ModuleFaults := by
  intro s hs
  have h0 : 0 < s.fns.length := by rw [hs.1]; decide
  refine ⟨?_, fun a ha hr hn => exec_lockstepMismatch_first ha hr hn, fun p c k h5 hk => exec_fenceTimeout_context h5 hk,
    fun c p he ho hr => exec_fenceTimeout_cluster he ho hr, fun p hr => ?_, fenceTimeout_module,
    fun n cold ok ho hoff hfail => ⟨exec_moduleReset_due ho hoff hfail, exec_moduleReset_early ho⟩,
    fun ho ok => exec_moduleReset_unordered ho, fun c h hc => ?_, fun c h x => exec_fieldDebugAccess_unreached h⟩
  · intro i u w hcause hr
    have hexec : exec i s = .next (s.moduleFault u w) := by
      rcases hcause with ⟨rfl, rfl, rfl⟩ | ⟨rfl, rfl, rfl⟩ | ⟨a, b, rfl, ha, hb, hne, rfl, rfl⟩
      · exact exec_d2dError_running hr
      · exact exec_watchdogMiss_running hr
      · exact exec_lockstepMismatch_last ha hr hb hne
    obtain ⟨_, rfl, hfacts⟩ := moduleFault_facts h0 u w
    exact ⟨_, hexec, hfacts⟩
  · obtain ⟨_, rfl, hword, horder, -⟩ := moduleFault_facts h0 0xFF 0x1408
    exact ⟨_, exec_fenceTimeout_parcel hr, hword, by simp [horder]⟩
  · have hl : c < s.clusters.length := by rw [hs.2.2.1]; exact hc
    refine ⟨⟨_, exec_fieldDebugAccess_halt h, ?_, fun d hd => State.modCluster_cluster_ne hd⟩,
      ⟨_, exec_fieldDebugAccess_resume h, ?_, fun d hd => State.modCluster_cluster_ne hd⟩, fun a => ?_, fun a => ?_, fun r => ?_⟩
    · rw [State.modCluster_cluster hl]
    · rw [State.modCluster_cluster hl]
    · rw [exec_fieldDebugAccess_readScratch, debugOut_reached h]
    · rw [exec_fieldDebugAccess_readStake, debugOut_reached h]
    · rw [exec_fieldDebugAccess_readControl, debugOut_reached h]

end Sys2Proof.Machine

/-! The chain timer under every command (R23, R26). -/

namespace Sys2Proof.Machine

/-- Settles O60: by cases on the command. The boundaries, the correction of the chain number, the start and the stop of the power stage, a module reset and
the module's own fence are excluded by `Instr.movesTimer`; every other command keeps the timer by the lemma about its meaning. -/
theorem timerMoves : Obligations.TimerMoves := by
  intro i s t hi h
  cases i with
  | moduleInfo => exact execModuleInfo_time h
  | modulePlat => exact execModulePlat_time h
  | spillMap => exact execSpillMap_time h
  | hostShares => exact execHostShares_time h
  | fabricShares => exact execFabricShares_time h
  | linkRetrain => exact execLinkRetrain_time h
  | linkStatus => exact execLinkStatus_time h
  | parcelOpen => exact execParcelOpen_time h
  | parcelClose => exact execParcelClose_time h
  | parcelStatus => exact execParcelStatus_time h
  | sessionOpen => exact execSessionOpen_time h
  | attestReport => exact execAttestReport_time h
  | parcelAttach => exact execParcelAttach_time h
  | bounceMap => exact execBounceMap_time h
  | debugConsent => exact execDebugConsent_time h
  | lotLoad => exact execLotLoad_time h
  | lotUnload => exact execLotUnload_time h
  | contextStart => exact execContextStart_time h
  | contextStop => exact execContextStop_time h
  | contextSeed => exact execContextSeed_time h
  | contextStatus => exact execContextStatus_time h
  | roundOpen => exact execRoundOpen_time h
  | roundMap => exact execRoundMap_time h
  | roundClose => exact execRoundClose_time h
  | connOpen => exact execConnOpen_time h
  | connClose => exact execConnClose_time h
  | connStatus => exact execConnStatus_time h
  | easementGrant => exact execEasementGrant_time h
  | easementRevoke => exact execEasementRevoke_time h
  | chestCertify => exact execChestCertify_time h
  | install => exact execInstall_time h
  | destroy => exact execDestroy_time h
  | lifecycle => exact execLifecycle_time h
  | authority => exact execAuthority_time h
  | modelKey => exact execModelKey_time h
  | fieldChallenge => exact execFieldChallenge_time h
  | fieldOpen => exact execFieldOpen_time h
  | drawerOpen => exact execDrawerOpen_time h
  | drawerClose => exact execDrawerClose_time h
  | reqTailDoorbell => exact execReqTailDoorbell_time h
  | respHeadDoorbell => exact execRespHeadDoorbell_time h
  | registerWrite => exact execRegisterWrite_time h
  | responseWrite => exact execResponseWrite_time h
  | functionReset => exact execFunctionReset_time h
  | pcieLinkTrained => exact execPcieLinkTrained_time h
  | bounceInRecord => exact execBounceInRecord_time h
  | bounceOutRecord => exact execBounceOutRecord_time h
  | bounceMapEffect => exact execBounceMapEffect_time h
  | boundaryReserve => exact execBoundaryReserve_time h
  | contextSwap => exact execContextSwap_time h
  | contextFinish => exact execContextFinish_time h
  | hangReplayEnd => exact execHangReplayEnd_time h
  | tileStep => exact execTileStep_time h
  | weightLoad => exact execWeightLoad_time h
  | shelfWrite => exact execShelfWrite_time h
  | pairVote => exact execPairVote_time h
  | preload => exact execPreload_time h
  | drain => exact execDrain_time h
  | nodeStart => exact execNodeStart_time h
  | nodeComplete => exact execNodeComplete_time h
  | fold => exact execFold_time h
  | foldRecord => exact execFoldRecord_time h
  | maskExpand => exact execMaskExpand_time h
  | nttFwd => exact execNttFwd_time h
  | nttInv => exact execNttInv_time h
  | keyswitch => exact execKeyswitch_time h
  | refreshLut => exact execRefreshLut_time h
  | clipL2 => exact execClipL2_time h
  | sumsq => exact execSumsq_time h
  | meanvar => exact execMeanvar_time h
  | noiseGauss => exact execNoiseGauss_time h
  | decodeCenter => exact execDecodeCenter_time h
  | applyStep => exact execApplyStep_time h
  | matmul => exact execMatmul_time h
  | seedRecover => exact execSeedRecover_time h
  | pairSeed => exact execPairSeed_time h
  | descriptorPush => exact execDescriptorPush_time h
  | copy => exact execCopy_time h
  | copy2d => exact execCopy2d_time h
  | fill => exact execFill_time h
  | send => exact execSend_time h
  | rodMark => exact execRodMark_time h
  | carryComplete => exact execCarryComplete_time h
  | stakeWaitMet => exact execStakeWaitMet_time h
  | leafDeliver => exact execLeafDeliver_time h
  | leafDeliveryResume => exact execLeafDeliveryResume_time h
  | clientFragment => exact execClientFragment_time h
  | intakeDeadline => exact execIntakeDeadline_time h
  | finalReceipt => exact execFinalReceipt_time h
  | receipt => exact execReceipt_time h
  | closeStakeSignal => exact execCloseStakeSignal_time h
  | sliceResult => exact execSliceResult_time h
  | closeDeadline => exact execCloseDeadline_time h
  | signalDetect => exact execSignalDetect_time h
  | trainingTimeout => exact execTrainingTimeout_time h
  | trainingRetry => exact execTrainingRetry_time h
  | hello _ _ _ width => exact execHello_time (_width := width) h
  | echo => exact execEcho_time h
  | flit => exact execFlit_time h
  | nak => exact execNak_time h
  | nakRepeat => exact execNakRepeat_time h
  | replayTimeout => exact execReplayTimeout_time h
  | laneFail => exact execLaneFail_time h
  | flitLockLoss => exact execFlitLockLoss_time h
  | relockRouteLoss => exact execRelockRouteLoss_time h
  | relockDone => exact execRelockDone_time h
  | relockTimeout => exact execRelockTimeout_time h
  | credit => exact execCredit_time h
  | marker => exact execMarker_time h
  | markerHoldover => exact execMarkerHoldover_time h
  | markerLost => exact execMarkerLost_time h
  | masterTakeover => exact execMasterTakeover_time h
  | write => exact execWrite_time h
  | readReq => exact execReadReq_time h
  | leaf => exact execLeaf_time h
  | readResp => exact execReadResp_time h
  | complete => exact execComplete_time h
  | refuse => exact execRefuse_time h
  | msgOpen => exact execMsgOpen_time h
  | openAck => exact execOpenAck_time h
  | msgClose => exact execMsgClose_time h
  | attest => exact execAttest_time h
  | messageVisible => exact execMessageVisible_time h
  | connTimeout => exact execConnTimeout_time h
  | openResend => exact execOpenResend_time h
  | openTimeout => exact execOpenTimeout_time h
  | closingTimeout => exact execClosingTimeout_time h
  | fetchResend => exact execFetchResend_time h
  | spillFetchDone => exact execSpillFetchDone_time h
  | revokeDrainDone => exact execRevokeDrainDone_time h
  | revokeDrainLimit => exact execRevokeDrainLimit_time h
  | closeFillDone => exact execCloseFillDone_time h
  | snapshotDone => exact execSnapshotDone_time h
  | contextFault => exact execContextFault_time h
  | clusterError => exact execClusterError_time h
  | memPoison => exact execMemPoison_time h
  | subchFail => exact execSubchFail_time h
  | subchDegraded => exact execSubchDegraded_time h
  | migrationDone => exact execMigrationDone_time h
  | d2dError => exact execD2dError_time h
  | fenceTimeout unit =>
    have hu : unit ≠ .module := by rintro rfl; cases hi
    exact execFenceTimeout_time hu h
  | lockstepMismatch => exact execLockstepMismatch_time h
  | watchdogMiss => exact execWatchdogMiss_time h
  | pwrWarn => exact execPwrWarn_time h
  | inputUndervoltage => exact execInputUndervoltage_time h
  | powerFailRecovered => exact execPowerFailRecovered_time h
  | inputOvervoltage => exact execInputOvervoltage_time h
  | pwrCycle => exact execPwrCycle_time h
  | presentJ1Break => exact execPresentJ1Break_time h
  | throttleTrigger => exact execThrottleTrigger_time h
  | thermalIdle => exact execThermalIdle_time h
  | thermalIdleClear => exact execThermalIdleClear_time h
  | coolantLimit => exact execCoolantLimit_time h
  | cableOverdraw => exact execCableOverdraw_time h
  | inletReading => exact execInletReading_time h
  | telemetryRefresh => exact execTelemetryRefresh_time h
  | scheduleAck => exact execScheduleAck_time h
  | meterSave => exact execMeterSave_time h
  | mgmtTelemetry => exact execMgmtTelemetry_time h
  | mgmtEntropy => exact execMgmtEntropy_time h
  | mgmtProfile => exact execMgmtProfile_time h
  | mgmtCap => exact execMgmtCap_time h
  | mgmtSchedule => exact execMgmtSchedule_time h
  | mgmtMeter => exact execMgmtMeter_time h
  | fwBegin => exact execFwBegin_time h
  | fwData => exact execFwData_time h
  | fwEnd => exact execFwEnd_time h
  | fwCommit => exact execFwCommit_time h
  | settingsWrite => exact execSettingsWrite_time h
  | surveyWrite => exact execSurveyWrite_time h
  | tlsCert => exact execTlsCert_time h
  | moduleResetWarm => exact execModuleResetWarm_time h
  | moduleResetCold => exact execModuleResetCold_time h
  | drbgReseed => exact execDrbgReseed_time h
  | entropyPattern => exact execEntropyPattern_time h
  | mgmtLinkRetrain => exact execMgmtLinkRetrain_time h
  | mgmtLinkStatus => exact execMgmtLinkStatus_time h
  | tlsHandshake => exact execTlsHandshake_time h
  | ethPacket => exact execEthPacket_time h
  | setEndpointId => exact execSetEndpointId_time h
  | getEndpointId => exact execGetEndpointId_time h
  | getEndpointUuid => exact execGetEndpointUuid_time h
  | getMctpVersionSupport => exact execGetMctpVersionSupport_time h
  | getMessageTypeSupport => exact execGetMessageTypeSupport_time h
  | getVendorMessageSupport => exact execGetVendorMessageSupport_time h
  | mctpUnsupportedCmd => exact execMctpUnsupportedCmd_time h
  | getVersion => exact execGetVersion_time h
  | getCapabilities => exact execGetCapabilities_time h
  | negotiateAlgorithms => exact execNegotiateAlgorithms_time h
  | getDigests => exact execGetDigests_time h
  | getCertificate => exact execGetCertificate_time h
  | challenge => exact execChallenge_time h
  | getMeasurements => exact execGetMeasurements_time h
  | spdmUnsupportedRequest => exact execSpdmUnsupportedRequest_time h
  | smbusLineRecovery => exact execSmbusLineRecovery_time h
  | smbusTargetTimeout => exact execSmbusTargetTimeout_time h
  | smbusFence => exact execSmbusFence_time h
  | smbusUnfence => exact execSmbusUnfence_time h
  | smbusRetry => exact execSmbusRetry_time h
  | smbusProbe => exact execSmbusProbe_time h
  | smbusPacket => exact execSmbusPacket_time h
  | healthTestFail => exact execHealthTestFail_time h
  | primaryRetest => exact execPrimaryRetest_time h
  | hubReseed => exact execHubReseed_time h
  | clusterGeneratorReseed => exact execClusterGeneratorReseed_time h
  | fieldChallengeExpiry => exact execFieldChallengeExpiry_time h
  | waveWake => exact execWaveWake_time h
  | waveTestDone => exact execWaveTestDone_time h
  | deviceReady => exact execDeviceReady_time h
  | earlyService => exact execEarlyService_time h
  | topologyJudge => exact execTopologyJudge_time h
  | vfEnable => exact execVfEnable_time h
  | trainingComplete => exact execTrainingComplete_time h
  | overvoltageRecovery => exact execOvervoltageRecovery_time h
  | transferAbandon => exact execTransferAbandon_time h
  | startUpTestEnd => exact execStartUpTestEnd_time h
  | factoryFuseProgramming => exact execFactoryFuseProgramming_time h
  | diePowerUp => exact execDiePowerUp_time h
  | fieldDebugAccess => exact execFieldDebugAccess_time h
  | chainBoundary | rodBoundary | chainStep | ebxelStart | powerOn | inputSwitchClose | moduleReset | powerFailStop | railFail | thermalShutdown => cases hi

end Sys2Proof.Machine

/-! The chain timer's own steps and overruns (R23, R24, R26, R40, R41). -/

namespace Sys2Proof.Machine

/-! Boundaries. -/

section
variable {late : List Nat} {mj : Nat} {idx : List (Nat × Nat × Nat)} {s : State}

theorem exec_chainBoundary_time (hr : s.clock.running = true) (h3 : s.clock.rod = 3) :
    ∃ t, exec (.chainBoundary late mj idx) s = .next t ∧ t.time = (s.clock.chain + 1, 0, true) := by
  have hover := State.chainOver_time late mj s
  simp only [State.time, Prod.mk.injEq] at hover
  obtain ⟨hchain, -, hrun⟩ := hover
  refine ⟨_, rfl, ?_⟩
  rw [if_pos (by simp [hr, h3]), State.rodBegin_time, State.idleMark_time, State.selectAll_time, State.eachParcel_time _ _ State.detect_time, time_fabric]
  simp [State.chainNext, hchain, hrun, hr]

theorem exec_rodBoundary_time (hr : s.clock.running = true) (h3 : s.clock.rod < 3) :
    ∃ t, exec (.rodBoundary idx) s = .next t ∧ t.time = (s.clock.chain, s.clock.rod + 1, true) := by
  have hend := State.rodEnd_time [] s
  simp only [State.time, Prod.mk.injEq] at hend
  obtain ⟨hchain, -, hrun⟩ := hend
  refine ⟨_, rfl, ?_⟩
  rw [if_pos (by simp [hr, h3])]
  simp [hchain, hrun, hr]

end

/-! The boundary reserve (R24, R40). -/

/-- The reserve's step for parcel `p`, as `State.beginReserve` folds it: a holder that has work left in `s` overruns. -/
def State.stopLate (late : List Nat) (s t : State) (p : Nat) : State :=
  match s.holder p with
  | some (c, x) => if late.contains p || s.queuesLate p x then t.overrun p c else t
  | none => t

/-- The state with its boundary reserve begun. -/
def State.reserved (s : State) : State := { s with clock := { s.clock with reserve := true } }

section
variable {late : List Nat} {s t : State} {p c : Nat} {x : Context}

theorem exec_boundaryReserve (hr : s.clock.running = true) (hres : s.clock.reserve = false) :
    exec (.boundaryReserve late) s = .next ((List.range 16).foldl (s.stopLate late) s).reserved := by
  show Host.Outcome.next (s.beginReserve late) = _
  rw [State.beginReserve, if_pos (by simp [hr, hres])]
  rfl

theorem reserved_time : s.reserved.time = s.time := rfl

theorem reserved_ctx : s.reserved.ctx p c = s.ctx p c := rfl

theorem stopLate_time : (s.stopLate late t p).time = t.time := by
  unfold State.stopLate
  split
  · split
    · exact State.overrun_time ..
    · rfl
  · rfl

theorem stopLate_of_no_holder (h : s.holder p = none) : s.stopLate late t p = t := by rw [State.stopLate, h]

theorem stopLate_of_done (h : ∀ c x, s.holder p = some (c, x) → p ∉ late ∧ s.queuesLate p x = false) : s.stopLate late t p = t := by
  rcases hp : s.holder p with _ | ⟨c, x⟩
  · exact stopLate_of_no_holder hp
  · obtain ⟨hlate, hqueues⟩ := h c x hp
    simp [State.stopLate, hp, hlate, hqueues]

theorem stopLate_of_late (h : s.holder p = some (c, x)) (hl : p ∈ late) : s.stopLate late t p = t.overrun p c := by simp [State.stopLate, h, hl]

/-- One holder alone is late: its overrun is all that the reserve brings. -/
theorem foldl_stopLate_single (hp : p < 16) (h : s.holder p = some (c, x)) (hl : p ∈ late) (hothers : ∀ q < 16, q ≠ p → s.holder q = none) :
    (List.range 16).foldl (s.stopLate late) s = s.overrun p c := by
  rw [foldl_one _ p _ _ (fun t q hq hne => stopLate_of_no_holder (hothers q (List.mem_range.1 hq) hne)) (List.mem_range.2 hp) List.nodup_range]
  exact stopLate_of_late h hl

/-- In a chain that throttling lengthened an overrun is counted under cause 1 and meets no limit; at most a report goes out with it. -/
theorem overrun_throttled (h : s.clock.throttle = true) :
    s.overrun p c = s.modCtx p c (Context.overran 1) ∨
    ∃ data, s.overrun p c = (s.modCtx p c (Context.overran 1)).evBoth p 0x0210 data := by
  simp only [State.overrun, h, b2n, if_true, Nat.one_ne_zero, decide_false, Bool.false_and, Bool.false_eq_true, if_false]
  split
  · exact .inr ⟨_, rfl⟩
  · exact .inl rfl

theorem overrun_throttled_ctx (h : s.clock.throttle = true) (hp : p < s.parcels.length) (hc : c < (s.parcel p).contexts.length) :
    (s.overrun p c).ctx p c = Context.overran 1 (s.ctx p c) := by
  obtain e | ⟨data, e⟩ := overrun_throttled (p := p) (c := c) h
  · rw [e, State.modCtx_ctx hp hc]
  · rw [e, State.evBoth_ctx, State.modCtx_ctx hp hc]

theorem overrun_throttled_parcel_ne (h : s.clock.throttle = true) {q : Nat} (hq : q ≠ p) : (s.overrun p c).parcel q = s.parcel q := by
  obtain e | ⟨data, e⟩ := overrun_throttled (p := p) (c := c) h
  · rw [e, State.modCtx_parcel_ne hq]
  · rw [e, State.evBoth_parcel, State.modCtx_parcel_ne hq]

end

/-- Settles O14: the boundaries by the lemmas on `State.time`; the reserve stops each holder in turn, and a lone late one only. -/
theorem chainsRodsAndOverruns : Obligations.ChainsRodsAndOverruns := by
  refine ⟨fun s late mj idx hr => ⟨exec_chainBoundary_time hr, exec_rodBoundary_time hr, fun hres => ⟨fun hdone => ?_, ?_⟩⟩,
    fun s late p c x hs hr hres hth hp hc hh hl hothers => ?_⟩
  · rw [exec_boundaryReserve hr hres, foldl_fix _ _ _ fun p hp => stopLate_of_done (hdone p (List.mem_range.1 hp))]
    rfl
  · exact ⟨_, exec_boundaryReserve hr hres, reserved_time.trans (foldl_time _ _ _ fun t p => stopLate_time), rfl⟩
  · obtain ⟨hplen, hclen⟩ := sound_ctx hs hp hc
    have hctx := overrun_throttled_ctx hth hplen hclen
    refine ⟨_, exec_boundaryReserve hr hres, ?_⟩
    rw [foldl_stopLate_single hp hh hl hothers, reserved_ctx, hctx]
    exact ⟨rfl, rfl, rfl, rfl, fun q hq => overrun_throttled_parcel_ne hth hq⟩

end Sys2Proof.Machine

/-! The idle ratio (R43). -/

namespace Sys2Proof.Machine

theorem idleChain_iff {m i : Nat} : idleChain m i = true ↔ m % 64 * i % 64 < i := by rw [idleChain, decide_eq_true_iff]

/-- The idle chains that a ratio of `i` in 64 has before chain `m`, up to a constant: it rises by one exactly past an idle chain. -/
def idleBefore (i m : Nat) : Nat := (m * i + (64 - i)) / 64

theorem idleBefore_succ {i : Nat} (hi : i ≤ 63) (m : Nat) : idleBefore i (m + 1) = idleBefore i m + if idleChain m i then 1 else 0 := by
  have hstep : (m + 1) * i + (64 - i) = m * i + 64 := by rw [Nat.succ_mul]; omega
  simp only [idleBefore, idleChain_iff, Nat.mod_mul_mod, hstep]
  split <;> omega

theorem idleBefore_add_countP {i : Nat} (hi : i ≤ 63) (n k : Nat) :
    idleBefore i (n + k) = idleBefore i n + (List.range k).countP (fun d => idleChain (n + d) i) := by
  induction k with
  | zero => simp
  | succ k ih =>
    rw [← Nat.add_assoc, idleBefore_succ hi, ih, List.range_succ, List.countP_append, List.countP_singleton, Nat.add_assoc]

theorem idleBefore_period {i : Nat} (n : Nat) : idleBefore i (n + 64) = idleBefore i n + i := by
  rw [idleBefore, idleBefore, Nat.add_mul, Nat.add_right_comm, Nat.add_mul_div_left _ _ (by decide)]

/-- Settles O57: the count of idle chains telescopes, and rises by `i` over a period of 64 chains. -/
theorem idlePattern : Obligations.IdlePattern := by
  intro n i hi
  refine ⟨?_, fun m => idleChain_iff⟩
  have hcount := idleBefore_add_countP hi n 64
  rw [idleBefore_period] at hcount
  exact (Nat.add_left_cancel hcount).symm

end Sys2Proof.Machine

/-! Lots and contexts as drawer commands (R34, R41, R87, R236, R251). -/

namespace Sys2Proof.Machine

/-! Drawer commands that pass their checks (R202 to R205). -/

theorem guarded_of_none {l : List (Bool × Nat)} {k : Verdict} (h : firstFail l = none) : guarded l k = k := by rw [guarded, h]

theorem gated_of_gate {n op : Nat} {pf vf : Bool} {s : State} {k : Verdict} (h : s.gate n op pf vf = none) : s.gated n op pf vf k = k := by
  rw [State.gated, h]

/-- A request with a plain payload whose verdict is an effect `g` without a record is served with `g`. -/
theorem runDrawer_served {s : State} {fn op n : Nat} {pf vf : Bool} {t : Taken} {b : Bytes} {f : State → Bytes → Verdict} {g : State → State}
    (h : s.Asks fn op n pf vf t b) (hf : f (s.popTaken fn) b = .done [] (g (s.popTaken fn))) :
    s.runDrawer fn op (fun t u => t.withPayload n (f u)) = s.served fn t [] g := by
  refine State.runDrawer_done h.front ?_ rfl
  rw [Taken.withPayload, h.payload]
  exact hf

/-! `lot.load` (R34, R236). -/

section
variable {s : State} {fn p c : Nat} {t : Taken} {b : Bytes} {i : LotImage}

theorem lotLoad_of_trailer_bad (h : s.trailerOk p i = false) : s.lotLoad p c i = .no stSignature := by
  simp [State.lotLoad, h]

theorem lotLoad_of_checks (htrailer : s.trailerOk p i = true) (huse : s.slotUse (verifySlot p i.trailer) 5 = true) (hc : c < 8)
    (hstate : (s.ctx p c).state = 0) (hchecks : firstFail (s.imageChecks p c i) = none) (hfits : s.shortfall p c i = none) :
    s.lotLoad p c i = .done [] (s.modCtx p c fun _ => loadedContext i) := by
  simp [State.lotLoad, htrailer, huse, hc, hstate, guarded_of_none hchecks, hfits]

variable (hp : t.payload = .lot b i) (hlen : b.length = 8) (hz : allZero (b.drop 1) = true) (hg : s.gate fn 0x30 false true = none)
  (hr : (s.parcel (parcelOf fn)).refusing = false) (hs : s.sealedRound (parcelOf fn) = false)
include hp hlen hz hg hr hs

/-- The verdict of `lot.load` on an image: past the head's form, the gate and the parcel's refusals it is that of `State.lotLoad`. -/
theorem exec_lotLoad :
    ∃ f, exec (.lotLoad fn) s = .next (s.runDrawer fn 0x30 f) ∧ f t (s.popTaken fn) = (s.popTaken fn).lotLoad (parcelOf fn) (fld 0 1 b) i := by
  have hg' : (s.popTaken fn).gate fn 0x30 false true = none := hg
  refine ⟨_, rfl, ?_⟩
  simp [-List.drop_one, hp, hlen, hz, gated_of_gate hg', State.parcelRefuses, hr, sealedPop, hs]

theorem exec_lotLoad_refused (hf : s.front fn 0x30 = some t) (htrailer : s.trailerOk (parcelOf fn) i = false) :
    exec (.lotLoad fn) s = .next (((s.popTaken fn).respond fn t stSignature []).takeAll fn) := by
  obtain ⟨f, hexec, hverdict⟩ := exec_lotLoad hp hlen hz hg hr hs
  rw [hexec, State.runDrawer_refuse hf (hverdict.trans (lotLoad_of_trailer_bad htrailer))]

theorem exec_lotLoad_taken (hf : s.front fn 0x30 = some t) (htrailer : s.trailerOk (parcelOf fn) i = true)
    (huse : s.slotUse (verifySlot (parcelOf fn) i.trailer) 5 = true) (hc : fld 0 1 b < 8) (hstate : (s.ctx (parcelOf fn) (fld 0 1 b)).state = 0)
    (hchecks : firstFail (s.imageChecks (parcelOf fn) (fld 0 1 b) i) = none) (hfits : s.shortfall (parcelOf fn) (fld 0 1 b) i = none) :
    exec (.lotLoad fn) s = .next (s.served fn t [] fun u => u.modCtx (parcelOf fn) (fld 0 1 b) fun _ => loadedContext i) := by
  obtain ⟨f, hexec, hverdict⟩ := exec_lotLoad hp hlen hz hg hr hs
  rw [hexec, State.runDrawer_done hf (hverdict.trans (lotLoad_of_checks htrailer huse hc hstate hchecks hfits)) rfl]
  rfl

end

/-! Commands that wait for the next chain boundary (R87, R251). -/

section
variable {s : State} {fn : Nat} {t : Taken} {b : Bytes}

theorem exec_lotUnload_taken (h : s.Asks fn 0x31 8 false true t b) (hz : allZero (b.drop 1) = true) (hc : fld 0 1 b < 8)
    (hs : s.sealedRound (parcelOf fn) = false) (h0 : (s.ctx (parcelOf fn) (fld 0 1 b)).state ≠ 0) (h2 : (s.ctx (parcelOf fn) (fld 0 1 b)).state ≠ 2)
    (hstart : (s.ctx (parcelOf fn) (fld 0 1 b)).pendStart = false) (hunload : (s.ctx (parcelOf fn) (fld 0 1 b)).pendUnload = false) :
    exec (.lotUnload fn) s = .next (s.served fn t [] fun u => u.modCtx (parcelOf fn) (fld 0 1 b) fun x => { x with pendUnload := true }) := by
  have hg : (s.popTaken fn).gate fn 0x31 false true = none := h.gate
  refine congrArg _ (runDrawer_served h ?_)
  simp [-List.drop_one, hz, gated_of_gate hg, sealedPop, hs, hc, h0, h2, hstart, hunload]

theorem exec_contextStart_taken (h : s.Asks fn 0x32 8 false true t b) (hz1 : allZero (cut 1 1 b) = true) (hz4 : allZero (b.drop 4) = true)
    (hc : fld 0 1 b < 8) (hlimit : fld 2 2 b ≤ 1024) (hr : (s.parcel (parcelOf fn)).refusing = false)
    (h1 : (s.ctx (parcelOf fn) (fld 0 1 b)).state = 1) (hunload : (s.ctx (parcelOf fn) (fld 0 1 b)).pendUnload = false)
    (hstart : (s.ctx (parcelOf fn) (fld 0 1 b)).pendStart = false) {i : LotImage} (hi : (s.ctx (parcelOf fn) (fld 0 1 b)).image = some i) :
    exec (.contextStart fn) s = .next (s.served fn t [] fun u =>
      (u.modCtx (parcelOf fn) (fld 0 1 b) (Context.starting (fld 2 2 b))).allocStakes (parcelOf fn) (fld 0 1 b) i.stakes) := by
  have hg : (s.popTaken fn).gate fn 0x32 false true = none := h.gate
  refine congrArg _ (runDrawer_served h ?_)
  simp [hz1, hz4, gated_of_gate hg, State.parcelRefuses, hr, hc, Nat.not_lt.2 hlimit, h1, hunload, hstart, hi]

theorem exec_contextStop_taken (h : s.Asks fn 0x33 8 false true t b) (hz : allZero (b.drop 1) = true) (hc : fld 0 1 b < 8)
    (hr : (s.parcel (parcelOf fn)).refusing = false) (h2 : (s.ctx (parcelOf fn) (fld 0 1 b)).state = 2)
    (hstop : (s.ctx (parcelOf fn) (fld 0 1 b)).pendStop = false) :
    exec (.contextStop fn) s = .next (s.served fn t [] fun u => u.modCtx (parcelOf fn) (fld 0 1 b) fun x => { x with pendStop := true }) := by
  have hg : (s.popTaken fn).gate fn 0x33 false true = none := h.gate
  refine congrArg _ (runDrawer_served h ?_)
  simp [-List.drop_one, hz, gated_of_gate hg, State.parcelRefuses, hr, hc, Context.started, h2, hstop]

theorem exec_contextSeed_taken (h : s.Asks fn 0x34 40 false true t b) (hz : allZero (cut 1 7 b) = true) (hc : fld 0 1 b < 8)
    (hr : (s.parcel (parcelOf fn)).refusing = false)
    (hstate : (s.ctx (parcelOf fn) (fld 0 1 b)).state = 1 ∨ (s.ctx (parcelOf fn) (fld 0 1 b)).state = 2) :
    exec (.contextSeed fn) s = .next (s.served fn t [] fun u => u.modCtx (parcelOf fn) (fld 0 1 b) fun x =>
      { x with seedSet := true, pendSeed := some (BitVec.ofNat 256 (fld 8 32 b)) }) := by
  have hg : (s.popTaken fn).gate fn 0x34 false true = none := h.gate
  refine congrArg _ (runDrawer_served h ?_)
  rcases hstate with h1 | h2
  · simp [hz, gated_of_gate hg, State.parcelRefuses, hr, hc, h1]
  · simp [hz, gated_of_gate hg, State.parcelRefuses, hr, hc, h2]

end

/-- Settles O4: one lemma for each command, and two for `lot.load`, by the verdict on its trailer. -/
theorem lotsAndContexts : Obligations.LotsAndContexts := by
  rintro s fn _ c t b rfl
  refine ⟨?_, ?_, ?_, ?_, ?_⟩
  · rintro i hf hp hlen hz rfl hg hr hs hc hstate huse hchecks hfits
    split
    next htrailer => exact exec_lotLoad_taken hp hlen hz hg hr hs hf htrailer huse hc hstate hchecks hfits
    next htrailer => exact exec_lotLoad_refused hp hlen hz hg hr hs hf (by simpa using htrailer)
  · rintro h hz rfl hc hs h0 h2 hstart hunload
    exact exec_lotUnload_taken h hz hc hs h0 h2 hstart hunload
  · rintro h hz1 hz4 rfl hc hlimit hr h1 hunload hstart i hi
    exact exec_contextStart_taken h hz1 hz4 hc hlimit hr h1 hunload hstart hi
  · rintro h hz rfl hc hr h2 hstop
    exact exec_contextStop_taken h hz hc hr h2 hstop
  · rintro h hz rfl hc hr hstate
    exact exec_contextSeed_taken h hz hc hr hstate

end Sys2Proof.Machine

/-! The carry queues (R24, R58 to R61, R65, R358). -/

namespace Sys2Proof.Machine

section
variable {s : State} {p k q op c i : Nat} {x : Context} {d : Descr}

/-! A head that is ready (R59). -/

theorem carry_started {effect : Descr → State → State} (h : s.ready p k q op = some (c, x, d)) (hok : s.headOk p x (x.queue k q) d = true) :
    s.carry p k q op effect = (effect d s).modCtx p c (Context.modQueue k q (Queue.start d)) := by
  simp [State.carry, h, hok]

theorem carry_refused {effect : Descr → State → State} (h : s.ready p k q op = some (c, x, d)) (hbad : s.headOk p x (x.queue k q) d = false) :
    s.carry p k q op effect = s.faultCtx p c fcCarryRange := by
  simp [State.carry, h, hbad]

theorem send_refused (h : s.ready p k q 4 = some (c, x, d)) (hbad : s.headOk p x (x.queue k q) d = false) :
    s.send p k q = s.faultCtx p c fcCarryRange := by
  simp [State.send, h, hbad]

theorem copyRows_one : s.copyRows p k d 1 0 =
    s.writeSpace (d.srcSpace == 4) p k d.dstSpace d.dstAddr (s.readSpace p k d.srcSpace d.srcAddr d.length) := by
  simp [copyRows_fold, List.range'_one]

/-- A head that fails its checks faults its context, whichever transfer it is. -/
theorem exec_transfer_refused (h : s.ready p k q op = some (c, x, d)) (hbad : s.headOk p x (x.queue k q) d = false) :
    (op = 1 → exec (.copy p k q) s = .next (s.faultCtx p c fcCarryRange)) ∧ (op = 2 → exec (.copy2d p k q) s = .next (s.faultCtx p c fcCarryRange)) ∧
    (op = 3 → exec (.fill p k q) s = .next (s.faultCtx p c fcCarryRange)) ∧ (op = 4 → exec (.send p k q) s = .next (s.faultCtx p c fcCarryRange)) := by
  refine ⟨?_, ?_, ?_, ?_⟩ <;> rintro rfl
  · exact congrArg _ (carry_refused h hbad)
  · exact congrArg _ (carry_refused h hbad)
  · exact congrArg _ (carry_refused h hbad)
  · exact congrArg _ (send_refused h hbad)

/-! Marks, completions, pushes and waits (R60, R65, R358). -/

theorem exec_rodMark_alone (h : s.ready p k q 0 = some (c, x, d)) (hnone : (x.queue k q).inflight = []) :
    exec (.rodMark p k q) s = .next (s.modCtx p c (Context.modQueue k q fun u => { u.pop with mark := u.mark + 1 })) := by
  show execRodMark p k q s = _
  simp [execRodMark, h, hnone]

theorem exec_carryComplete_landing (h : s.landing p k = some (c, x)) (hi : (x.queue k q).inflight[i]? = some d) :
    exec (.carryComplete p k q i) s =
      .next ((s.modCtx p c (Context.modQueue k q fun u => { u with inflight := u.inflight.eraseIdx i })).carryDone p c d) := by
  show execCarryComplete p k q i s = _
  simp [execCarryComplete, h, hi]

theorem carryDone_silent (h : dSignal d = false) : s.carryDone p c d = s := by simp [State.carryDone, h]

theorem carryDone_signals (h : dSignal d = true) : s.carryDone p c d = s.signalCtx p c d.signalStake d.signalAdd := by simp [State.carryDone, h]

theorem exec_descriptorPush_acting (h : s.acting p k = some (c, x)) :
    exec (.descriptorPush p k q d) s = .next (s.modCtx p c (Context.modQueue k q fun u => { u with pushed := u.pushed ++ [d] })) := by
  show execDescriptorPush p k q d s = _
  simp [execDescriptorPush, h]

theorem exec_stakeWaitMet_acting (h : s.acting p k = some (c, x)) (hmet : s.queueBlocked p (x.queue k q) = none) :
    exec (.stakeWaitMet p k q) s = .next (s.modCtx p c fun y => { y with blockedOn := y.blockedOn.filter fun b => b.1 != 4 * k + q }) := by
  show execStakeWaitMet p k q s = _
  simp only [execStakeWaitMet, h, hmet]

end

/-- Settles O26: one lemma for each thing that a queue does with its head or with what is in flight. -/
theorem carriesRun : Obligations.CarriesRun := by
  intro s p k q c x d
  refine ⟨fun h hok => congrArg _ ((carry_started h hok).trans ?_), fun h hok => congrArg _ ((carry_started h hok).trans ?_),
    fun h hok => congrArg _ (carry_started h hok), fun op h hbad => exec_transfer_refused h hbad, exec_rodMark_alone,
    fun i h hi => ⟨fun hsig => ?_, fun hsig => ?_⟩, exec_descriptorPush_acting, exec_stakeWaitMet_acting⟩
  · rw [copyRows_one]
  · rw [copyRows_fold, List.range_eq_range']
  · rw [exec_carryComplete_landing h hi, carryDone_silent hsig]
  · rw [exec_carryComplete_landing h hi, carryDone_signals hsig]

end Sys2Proof.Machine

/-! A logical cluster with one live member, its scratch, and what the trestle starts on it (R47, R49 to R51, R58, R249). -/

namespace Sys2Proof.Machine

/-! What a change of a logical cluster does to its one live member. -/

section
variable {s : State} {p k m : Nat} {f g : Cluster → Cluster}

theorem lead_of_single (hlive : s.live p k = [m]) : s.lead p k = s.cluster m := by rw [State.lead, hlive]

theorem modLogical_single (hlive : s.live p k = [m]) (hm : m < s.clusters.length) : (s.modLogical p k g).cluster m = g (s.cluster m) := by
  rw [State.modLogical, hlive, cluster_mod_one, if_pos ⟨rfl, hm⟩]

theorem modLogical_single_ne (hlive : s.live p k = [m]) {n : Nat} (hn : n ≠ m) : (s.modLogical p k g).cluster n = s.cluster n := by
  rw [State.modLogical, hlive]
  exact cluster_mod_ne _ _ (by simpa using hn)

theorem live_modLogical (hf : ∀ u, (g u).fenced = u.fenced) (q j : Nat) : (s.modLogical q j g).live p k = s.live p k := by
  simp only [State.live, State.modLogical_parcel]
  exact List.filter_congr fun d _ => by rw [State.modLogical, modClusters_keepc Cluster.fenced g hf]

/-- Two changes of the one member in a row are one change. -/
theorem modLogical_single_twice (hlive : s.live p k = [m]) (hf : ∀ u, (f u).fenced = u.fenced) :
    (s.modLogical p k f).modLogical p k g = s.modLogical p k (g ∘ f) := by
  rw [State.modLogical, live_modLogical hf, State.modLogical, State.modLogical, hlive]
  simp [State.modClusters, State.modCluster, List.modify_modify_eq]

theorem length_clusters (hs : s.Sound) : s.clusters.length = 64 := hs.units.2.2.1

theorem scratch_wf (hs : s.Sound) (m : Nat) : Memory.wf true (s.cluster m).scratch = true := (State.cluster_canonical (good_of s hs) m).1

theorem rows_rising (hs : s.Sound) (m : Nat) : rising (s.cluster m).rows = true := (State.cluster_canonical (good_of s hs) m).2.2.2.1

end

/-! Bytes in scratch (R47, Table 3.6). -/

section
variable {s : State} {p k a n : Nat} {b : Bytes}

theorem length_read0 {m : Memory} : (Memory.read0 a n m).length = n := by simp [Memory.read0]

theorem readSpace_scratch : s.readSpace p k 1 a n = Memory.read0 a n (s.lead p k).scratch := rfl

/-- No write to scratch is discarded, not even a replay's (R302). -/
theorem writeSpace_scratch {raw : Bool} : s.writeSpace raw p k 1 a b = s.modLogical p k (Cluster.writeStore none a b) := by
  simp [State.writeSpace]

theorem read0_writeStore_scratch {u : Cluster} (hu : Memory.wf true u.scratch = true) (hn : n = b.length) :
    Memory.read0 a n (u.writeStore none a b).scratch = b := read0_write0 hu hn

theorem get0_writeStore_scratch_off {u : Cluster} (hu : Memory.wf true u.scratch = true) {i : Nat} (hi : i < a ∨ a + b.length ≤ i) :
    Memory.get0 i (u.writeStore none a b).scratch = Memory.get0 i u.scratch :=
  (get0_write0 hu).trans (if_neg (by omega))

end

/-! Tile steps and weight loads (R49 to R51). -/

section
variable {s : State} {p k c addr : Nat} {x : Context} {t : TileStep}

theorem tileStep_issues (ha : s.acting p k = some (c, x)) (hn : tileNames t = true) (hw : (s.lead p k).hasWeights t = true)
    (hrows : (s.lead p k).accepts t c = true) :
    s.tileStep p k t = s.modLogical p k fun u =>
      { u.withWeights t with inflight := (u.withWeights t).inflight ++ (u.withWeights t).issue t c } := by
  simp [State.tileStep, ha, hn, hw, hrows]

theorem tileStep_waits (ha : s.acting p k = some (c, x)) (hw : (s.lead p k).hasWeights t = false) : s.tileStep p k t = s := by
  simp [State.tileStep, ha, hw]

theorem exec_weightLoad_acting (ha : s.acting p k = some (c, x)) (haddr : addr + 65536 ≤ 2097152) :
    exec (.weightLoad p k addr) s = .next (s.modLogical p k fun u =>
      { u with shadow := some addr, shadowW := Memory.read0 addr 65536 u.scratch }) := by
  show execWeightLoad p k addr s = _
  simp only [execWeightLoad, ha, if_pos haddr]

end

/-- Settles O16: one lemma for a step that issues, one for a step that waits, one for a weight load. -/
theorem trestleIssues : Obligations.TrestleIssues := by
  intro s p k c x t addr ha
  exact ⟨fun hn hw hrows => congrArg _ (tileStep_issues ha hn hw hrows), fun _ hw => congrArg _ (tileStep_waits ha hw), exec_weightLoad_acting ha⟩

/-- Settles O27: the copy is one write of scratch on the one member, with the bytes that were read before it. -/
theorem copyMovesBytes : Obligations.CopyMovesBytes := by
  intro s p k q c m x d hs hm hlive hready hok hsrc hdst
  have hlen : m < s.clusters.length := length_clusters hs ▸ hm
  obtain ⟨hcopy, -⟩ := carriesRun s p k q c x d
  refine ⟨_, hcopy hready hok, ?_⟩
  rw [hsrc, hdst, writeSpace_scratch, readSpace_scratch, lead_of_single hlive, State.modCtx_cluster, modLogical_single hlive hlen]
  refine ⟨read0_writeStore_scratch (scratch_wf hs m) length_read0.symm,
    fun a ha => get0_writeStore_scratch_off (scratch_wf hs m) (by rwa [length_read0]), rfl, rfl, rfl,
    fun n hn => modLogical_single_ne hlive hn, fun r => ?_, by simp, by simp⟩
  rw [modCtx_mem, State.modLogical_parcel]

end Sys2Proof.Machine

/-! Memories read back what was written (R47, R48, R250, R256). -/

namespace Sys2Proof.Machine

section
variable {s : State} {raw : Bool} {p a : Nat} {b : Bytes}

/-- A parcel with bytes written into its external memory. -/
def Parcel.withBytes (a : Nat) (b : Bytes) (q : Parcel) : Parcel := { q with mem := Memory.write a b q.mem }

theorem extWrite_outside (hout : ∀ i < b.length, s.inWindow p (a + i) = false) : s.extWrite raw p a b = s.modParcel p (Parcel.withBytes a b) :=
  extWrite_out raw p b a s hout

/-- What lies at an offset after a write outside the window: the byte written there, else what lay there before. -/
theorem extRaw_withBytes (hp : p < s.parcels.length) (i : Nat) :
    (s.modParcel p (Parcel.withBytes a b)).extRaw p i = if a ≤ i ∧ i < a + b.length then b.getD (i - a) 0 else s.extRaw p i := by
  have hkey : (s.modParcel p (Parcel.withBytes a b)).memKey p = s.memKey p := rfl
  rw [State.extRaw, hkey, State.modParcel_parcel hp, Parcel.withBytes, tget_write]
  split
  next h => rw [List.getD_eq_getElem _ _ (by omega), List.getElem?_eq_getElem (by omega), Option.getD_some]
  next => rfl

theorem inWindow_withBytes (hp : p < s.parcels.length) (i : Nat) :
    (s.modParcel p (Parcel.withBytes a b)).inWindow p i = s.inWindow p i := by
  simp only [State.inWindow, State.modParcel_parcel hp, Parcel.withBytes]

/-- Outside the window a parcel reads what lies in its memory. -/
theorem extByte_outside {i : Nat} (h : s.inWindow p i = false) : s.extByte p i = s.extRaw p i := by simp [State.extByte, h]

theorem extRead_withBytes (hp : p < s.parcels.length) (hout : ∀ i < b.length, s.inWindow p (a + i) = false) :
    (s.modParcel p (Parcel.withBytes a b)).extRead p a b.length = b := by
  refine List.ext_getElem (by simp [State.extRead]) fun i hi hib => ?_
  simp only [State.extRead, List.getElem_map, List.getElem_range]
  rw [extByte_outside ((inWindow_withBytes hp _).trans (hout i hib)), extRaw_withBytes hp, if_pos (by omega), Nat.add_sub_cancel_left,
    List.getD_eq_getElem _ _ hib]

end

/-- Settles O56: the memories by their laws of reading after writing; external memory outside the window is one such write of its parcel. -/
theorem bytesReadBack : Obligations.BytesReadBack := by
  refine ⟨fun m a b hm => ⟨wf_write0 hm, read0_write0 hm rfl, fun k n => read0_write0_off hm a k n b⟩,
    fun s raw p a b hp hout hrise => ?_⟩
  rw [extWrite_outside hout]
  refine ⟨extRead_withBytes hp hout, fun k hk => ?_, fun q hq => State.modParcel_parcel_ne hq, ?_, rfl⟩
  · rw [extRaw_withBytes hp, if_neg (by omega)]
  · rw [State.modParcel_parcel hp]
    exact rising_write hrise

end Sys2Proof.Machine

/-! The access port (R54, R55, R83, R90). -/

namespace Sys2Proof.Machine

/-! Preloads. -/

/-- The one row that a preload writes, put in the place of what was there. -/
def Cluster.preloaded (r : Nat) (w : Row) (u : Cluster) : Cluster := (u.dropRow r).putRow r w

section
variable {s : State} {p k c m r q : Nat} {x : Context} {pl : Preload} {w : Row} {u : Cluster}

theorem row_dropRow_ne (h : q ≠ r) : (u.dropRow r).row q = u.row q := by
  simp only [Cluster.dropRow, Cluster.row, tget_tdel_ne _ h]

theorem row_preloaded_same : (u.preloaded r w).row r = w := by rw [Cluster.preloaded, row_putRow, if_pos rfl]

theorem row_preloaded_ne (h : q ≠ r) : (u.preloaded r w).row q = u.row q := by rw [Cluster.preloaded, row_putRow, if_neg h, row_dropRow_ne h]

theorem satMap_preloaded : (u.preloaded r w).satMap.getLsbD r = false := by
  show (u.satMap &&& ~~~(BitVec.twoPow 256 r)).getLsbD r = false
  simp

/-- Only a `SCALED` preload can saturate its row (R84, Table 4.5). -/
theorem preloadRows_sat {mods : List Nat} (h : pl.mode ≠ 5) : (preloadRows mods c pl).sat = false := by
  unfold preloadRows
  lift_lets
  intros
  split
  case h_5 h5 => exact absurd h5 h
  all_goals rfl

theorem preload_one_row (hrep : s.replaying p = false) (htwo : twoRow pl.mode = false) (h5 : pl.mode ≠ 5)
    (hheld : rowHeld ((s.lead p k).row pl.row).ctrl = false) :
    s.preload p c k pl = (s.modLogical p k (Cluster.preloaded pl.row (preloadRows (s.lead p k).moduli c pl).row)).modCtx p c fun y =>
      { y with repeats := y.repeats + (preloadRows (s.lead p k).moduli c pl).repeats } := by
  simp only [State.preload, hheld, htwo, hrep, preloadRows_sat h5, Bool.false_and, Bool.or_self, Bool.false_eq_true, if_false]
  rfl

theorem exec_preload_runs (ha : s.acting p k = some (c, x)) (hok : preloadOk (s.lead p k).moduli x.rows pl = true)
    (htwo : twoRow pl.mode = false) (hbusy : s.rowBusy p k pl.row = false) : exec (.preload p k pl) s = .next (s.preload p c k pl) := by
  show execPreload p k pl s = _
  simp [execPreload, ha, hok, htwo, hbusy]

/-! Raw drains. -/

theorem length_bytesOf (n : Nat) (l : List Nat) : (bytesOf n l).length = n * l.length := by
  simp [bytesOf, List.length_flatMap, Nat.mul_comm]

theorem drained_raw (h : rowMode (u.row r).ctrl ≠ 7) : u.drained r true = bytesOf 8 ((List.range 128).map (u.row r).nat) := by
  simp [Cluster.drained, drainBytes, h]

/-- The cluster with the bytes of a drained row in scratch, and the row emptied when that is asked. -/
def Cluster.rowDrained (r dst : Nat) (reset : Bool) (b : Bytes) (u : Cluster) : Cluster :=
  if reset then (u.writeStore none dst b).resetRow r else u.writeStore none dst b

variable {dst : Nat} {reset : Bool} {b : Bytes}

theorem scratch_rowDrained : (u.rowDrained r dst reset b).scratch = (u.writeStore none dst b).scratch := by cases reset <;> rfl

theorem row_rowDrained_same (h : rising u.rows = true) : (u.rowDrained r dst reset b).row r = if reset then Row.reset else u.row r := by
  cases reset
  · rfl
  · show (tget r (tdel r u.rows)).getD Row.reset = Row.reset
    rw [tget_tdel_same h]; rfl

theorem row_rowDrained_ne (h : q ≠ r) : (u.rowDrained r dst reset b).row q = u.row q := by
  cases reset
  · rfl
  · show (tget q (tdel r u.rows)).getD Row.reset = u.row q
    rw [tget_tdel_ne _ h]; rfl

theorem drain_raw (hlive : s.live p k = [m]) (hrep : s.replaying p = false) (htake : rowRefuses c ((s.lead p k).row r) = false) :
    s.drain p c k r true reset (fun b t => t.writeSpace false p k 1 dst b) =
      s.modLogical p k (Cluster.rowDrained r dst reset ((s.lead p k).drained r true)) := by
  simp only [State.drain, htake, hrep, writeSpace_scratch, Bool.not_true, Bool.false_and, Bool.not_false, Bool.and_true, Bool.false_eq_true, if_false]
  cases reset
  · rfl
  · exact modLogical_single_twice hlive fun _ => (writeStore_keeps ..).1

theorem exec_drain_runs (ha : s.acting p k = some (c, x)) (hbusy : s.rowBusy p k r = false)
    (hfit : dst + ((s.lead p k).drained r true).length ≤ 2097152) :
    exec (.drain p k r true reset dst) s = .next (s.drain p c k r true reset fun b t => t.writeSpace false p k 1 dst b) := by
  show execDrain p k r true reset dst s = _
  simp [execDrain, ha, hbusy, Nat.not_lt.mpr hfit]

end

/-- Settles O19: a preload of one row and a raw drain are each one change of the one member. -/
theorem accessPort : Obligations.AccessPort := by
  intro s p k c m x hs hm ha hlive hrep
  have hlen : m < s.clusters.length := length_clusters hs ▸ hm
  have hlead := lead_of_single hlive
  refine ⟨fun pl hok htwo h5 hbusy hheld => ?_, fun row dst reset hbusy hfit htake hmode => ?_⟩
  · refine ⟨_, exec_preload_runs ha (hlead ▸ hok) htwo hbusy, ?_⟩
    rw [preload_one_row hrep htwo h5 (hlead ▸ hheld), State.modCtx_cluster, modLogical_single hlive hlen, hlead]
    exact ⟨fun n hn => modLogical_single_ne hlive hn, row_preloaded_same, fun r hr => row_preloaded_ne hr, rfl, fun _ => satMap_preloaded⟩
  · rw [← drained_raw hmode]
    have hsize : ((s.cluster m).drained row true).length = 1024 := by rw [drained_raw hmode, length_bytesOf]; simp
    refine ⟨_, exec_drain_runs ha hbusy (by rwa [hlead, hsize]), ?_⟩
    rw [drain_raw hlive hrep (hlead ▸ htake), modLogical_single hlive hlen, scratch_rowDrained, hlead]
    exact ⟨fun n hn => modLogical_single_ne hlive hn, read0_writeStore_scratch (scratch_wf hs m) hsize.symm,
      fun a ha => get0_writeStore_scratch_off (scratch_wf hs m) (hsize ▸ ha), row_rowDrained_same (rows_rising hs m), fun r hr => row_rowDrained_ne hr⟩

end Sys2Proof.Machine

/-! Leaves and folding (R68, R69, R71, R96, R114). -/

namespace Sys2Proof.Machine

/-! Publication in the filling leaf (R68, R69). -/

/-- The cluster with a record published in its filling leaf. -/
def Cluster.published (header data : Bytes) (chain : Nat) (late : Bool) (u : Cluster) : Cluster :=
  { u with leaves := u.leaves.modify u.filling (Leaf.publish header data chain late) }

/-- The cluster with a record held by its station, behind those already held. -/
def Cluster.withHeldRec (conn : Nat) (header data : Bytes) (u : Cluster) : Cluster := { u with heldRecs := u.heldRecs ++ [(conn, header, data)] }

/-- The cluster with its oldest held record let go. -/
def Cluster.dropHeldRec (u : Cluster) : Cluster := { u with heldRecs := u.heldRecs.drop 1 }

section
variable {s : State} {p k m conn chain : Nat} {header data : Bytes} {late : Bool} {u : Cluster}

theorem publish_published : s.publish p k header data =
    s.modLogical p k (Cluster.published header data s.now ((s.parcel p).closeTaken (fld 0 4 header))) := rfl

theorem fill_published (hl : u.leaves.length = 2) (hf : u.filling < 2) :
    (u.published header data chain late).fill = Leaf.publish header data chain late u.fill :=
  getD_modify_self _ _ (hl ▸ hf)

theorem reading_published (hf : u.filling < 2) : (u.published header data chain late).reading = u.reading :=
  getD_modify_ne _ _ (show 1 - u.filling ≠ u.filling by omega)

/-- Room in the filling leaf: granules for the data, and an index entry (R68). -/
theorem leafRoom_iff (hlive : s.live p k = [m]) :
    s.leafRoom p k data = true ↔ (s.cluster m).fill.granules + granulesOf data ≤ 8192 ∧ (s.cluster m).fill.entries < 8192 := by
  simp [State.leafRoom, hlive, lead_of_single hlive, Cluster.leafRoom]

/-! Delivery and holding (R68, R71). -/

theorem exec_leafDeliver_record (hopen : (s.parcel p).isOpen = true) (hh : header.length = 32) (hd : data.length % 512 = 0) (hne : data ≠ [])
    (hmax : data.length ≤ 8192) :
    exec (.leafDeliver p k conn header data) s = .next
      (if (s.lead p k).heldRecs.isEmpty && s.leafRoom p k data then s.publish p k header data
       else s.modLogical p k (Cluster.withHeldRec conn header data)) := by
  show execLeafDeliver p k conn header data s = _
  rw [execLeafDeliver, if_neg (by simp [hh, hd, hne, hmax, hopen])]
  rfl

theorem exec_leafDeliveryResume_room {h d : Bytes} {rest : List (Nat × Bytes × Bytes)} (hlive : s.live p k = [m])
    (hheld : (s.cluster m).heldRecs = (conn, h, d) :: rest) (hroom : s.leafRoom p k d = true) :
    exec (.leafDeliveryResume p k) s = .next ((s.modLogical p k Cluster.dropHeldRec).publish p k h d) := by
  show execLeafDeliveryResume p k s = _
  simp only [execLeafDeliveryResume, lead_of_single hlive, hheld, hroom, if_true]
  rfl

/-- A record that the leaf can take is published at its end. -/
theorem publish_single (hlive : s.live p k = [m]) (hm : m < s.clusters.length) (hl : (s.cluster m).leaves.length = 2)
    (hf : (s.cluster m).filling < 2) :
    (∀ n ≠ m, (s.publish p k header data).cluster n = s.cluster n) ∧
    ((s.publish p k header data).cluster m).reading = (s.cluster m).reading ∧
    ((s.publish p k header data).cluster m).heldRecs = (s.cluster m).heldRecs ∧
    ((s.publish p k header data).cluster m).fill.entries = (s.cluster m).fill.entries + 1 ∧
    ((s.publish p k header data).cluster m).fill.granules = (s.cluster m).fill.granules + granulesOf data ∧
    ∃ r, ((s.publish p k header data).cluster m).fill.recs = (s.cluster m).fill.recs ++ [r] ∧
      r.header = header ∧ r.data = data ∧ r.chain = s.now ∧ r.used = false := by
  rw [publish_published, modLogical_single hlive hm, fill_published hl hf, reading_published hf]
  exact ⟨fun n hn => modLogical_single_ne hlive hn, rfl, rfl, rfl, rfl, _, rfl, rfl, rfl, rfl, rfl⟩

end

/-! Folding (R69, R96, R114). -/

/-- What is to become of a record that a context's `FOLD` nodes meet: its round may be over (R117). -/
def Context.recPlan (k : Nat) (r : LeafRec) (x : Context) : FoldPlan := if x.roundOver r then .discard 4 else foldPlan (x.foldNodes k) r

/-- What a plan for the record at position `i` of the reading leaf does. -/
def State.doPlan (p c k : Nat) (x : Context) (i : Nat) (r : LeafRec) (plan : FoldPlan) (s : State) : State :=
  match plan with
  | .wait => s
  | .discard why => ((s.modLogical p k (Cluster.consume false i)).discard p c why 1).modCtx p c fun x => { x with lostWork := true }
  | .fold f => (s.modLogical p k (Cluster.consume false i)).foldOne p c k x f r

section
variable {s : State} {p k c i : Nat} {x : Context} {r : LeafRec} {f : FoldNode}

theorem recPlan_of_over (h : x.roundOver r = true) : x.recPlan k r = .discard 4 := if_pos h

theorem recPlan_of_open (h : x.roundOver r = false) : x.recPlan k r = foldPlan (x.foldNodes k) r := if_neg (by simp [h])

theorem started_modLogical {g : Cluster → Cluster} : ((s.modLogical p k g).ctx p c).started = (s.ctx p c).started := by
  rw [State.modLogical_ctx]

/-- Words that their rows take leave the rows' access and the context as they are, row after row. -/
theorem foldWords_kept (hst : (s.ctx p c).started = true) (hrows : ∀ q ∈ f.recRows r, rowRefuses c (s.rowOf p k q) = false) :
    Kept p c k s (s.foldWords p c k f r) := by
  unfold State.foldWords
  refine Kept.foldl_mem _ _ (.refl s) fun t j hj hk => ?_
  have htake : rowRefuses c (t.rowOf p k (f.firstRow r + j)) = false := by
    rw [hk.refuses]
    exact hrows _ (mem_span (List.mem_range.1 hj))
  rw [State.ifUp, if_pos (hk.started.trans hst)]
  exact State.landWrite_kept _ _ _ _ _ _ _ _ _ htake

theorem foldOne_taken (hst : (s.ctx p c).started = true) (hsum : x.holdsSum = false) (hsig : bit 1 f.node.flags = false)
    (hrows : ∀ q ∈ f.recRows r, rowRefuses c (s.rowOf p k q) = false) :
    s.foldOne p c k x f r = (s.foldWords p c k f r).modCtx p c (Context.folded k f r) := by
  have hnone : ((f.recRows r).any fun q => rowRefuses c ((s.lead p k).row q)) = false := by
    simpa [State.rowOf] using hrows
  have hup : ((s.foldWords p c k f r).ctx p c).started = true := (foldWords_kept hst hrows).started.trans hst
  simp [State.foldOne, hnone, hsum, State.ifUp, hup, hsig]

theorem exec_foldRecord_next (ha : s.acting p k = some (c, x)) (hrep : s.replaying p = false)
    (hstand : (x.foldNodes k).any (fun f => 2 ≤ f.state && bit s.clock.rod f.node.rodMask) = true)
    (hrec : (s.lead p k).nextRec false = some (i, r)) : exec (.foldRecord p k) s = .next (s.doPlan p c k x i r (x.recPlan k r)) := by
  show execFoldRecord p k s = _
  simp only [execFoldRecord, ha, hrep, hstand, hrec, Bool.not_true, Bool.false_eq_true, if_false]
  rfl

end

/-- Settles O25: delivery by whether the filling leaf has room and nothing is held before; folding by what is to become of the record. -/
theorem leavesAndFolds : Obligations.LeavesAndFolds := by
  refine ⟨fun s p k m conn header data hm hlive hopen hh hd hne hmax hl hf => ⟨fun hnone hgran hent => ?_, fun hkeep => ?_, fun h d rest hheld hgran hent => ?_⟩,
    fun s p k c i x r ha hrep hstand hrec => ⟨fun hover => ?_, fun why hopen hplan => ?_, fun hopen hplan => ?_, fun f hopen hplan hsum hsig hrows => ?_⟩⟩
  · have hroom : s.leafRoom p k data = true := (leafRoom_iff hlive).2 ⟨hgran, hent⟩
    obtain ⟨hothers, hreading, -, hentries, hgranules, hrecs⟩ := publish_single (header := header) (data := data) hlive hm hl hf
    refine ⟨_, (exec_leafDeliver_record hopen hh hd hne hmax).trans (congrArg _ (if_pos ?_)), hothers, hreading, hentries, hgranules, hrecs⟩
    simp [lead_of_single hlive, hnone, hroom]
  · refine ⟨_, (exec_leafDeliver_record hopen hh hd hne hmax).trans (congrArg _ (if_neg ?_)), fun n hn => modLogical_single_ne hlive hn,
      modLogical_single hlive hm⟩
    rw [Bool.and_eq_true, leafRoom_iff hlive, lead_of_single hlive, List.isEmpty_iff]
    rintro ⟨hnone, hgran, -⟩
    exact hkeep.elim (fun h => h hnone) (fun h => absurd hgran (Nat.not_le.mpr h))
  · have hroom : s.leafRoom p k d = true := (leafRoom_iff hlive).2 ⟨hgran, hent⟩
    have hself := modLogical_single (g := Cluster.dropHeldRec) hlive hm
    have hlive' : (s.modLogical p k Cluster.dropHeldRec).live p k = [m] := (live_modLogical (g := Cluster.dropHeldRec) (fun _ => rfl) p k).trans hlive
    obtain ⟨-, -, hrest, hentries, -, e, hrecs, hhead, hdata, -⟩ := publish_single (header := h) (data := d) hlive'
      (by simpa [State.modLogical, hlive, State.modClusters] using hm) (by rw [hself]; exact hl) (by rw [hself]; exact hf)
    rw [hself] at hrest hentries hrecs
    exact ⟨_, exec_leafDeliveryResume_room hlive hheld hroom, hrest.trans (by simp [Cluster.dropHeldRec, hheld]), hentries, e, hrecs, hhead, hdata⟩
  · rw [exec_foldRecord_next ha hrep hstand hrec, recPlan_of_over hover]
    rfl
  · rw [exec_foldRecord_next ha hrep hstand hrec, recPlan_of_open hopen, hplan]
    rfl
  · rw [exec_foldRecord_next ha hrep hstand hrec, recPlan_of_open hopen, hplan]
    rfl
  · have hst : ((s.modLogical p k (Cluster.consume false i)).ctx p c).started = true := started_modLogical.trans (acting_started ha).2
    have htake : ∀ q ∈ f.recRows r, rowRefuses c ((s.modLogical p k (Cluster.consume false i)).rowOf p k q) = false := fun q hq => by
      rw [rowOf_modLogical (g := Cluster.consume false i) (fun _ => rfl) fun _ => rfl]
      exact hrows q hq
    rw [exec_foldRecord_next ha hrep hstand hrec, recPlan_of_open hopen, hplan]
    refine ⟨_, rfl, foldOne_taken hst hsum hsig htake, ?_⟩
    rw [State.doPlan, foldOne_taken hst hsum hsig htake, (Kept.modCtx (k := k) (g := Context.folded k f r) fun _ => rfl).started,
      (foldWords_kept hst htake).started, hst]

end Sys2Proof.Machine

/-! Operations from operand to operand, and the decode of rows (R87, R89, R92, R100 to R103, R108, R109). -/

namespace Sys2Proof.Machine

/-! The work of a node (R93). -/

section
variable {s t : State} {p k c n op : Nat} {x : Context} {nd : Node} {effect : Nat → Context → Node → State → State}

/-- A working node whose operation faults nothing has that operation's effect, and its work is done. -/
theorem operate_of_started (h : s.working? p k n op = some (c, x, nd)) (he : effect c x nd s = t) (hst : (t.ctx p c).started = true) :
    s.operate p k n op effect = t.modCtx p c (Context.setNode k n 2) := by
  simp only [State.operate, h, he, State.ifUp, hst, if_true]

/-- An operation that leaves the shelf's access and the state of its context as they are faults nothing. -/
theorem next_operate_of_kept (h : s.working? p k n op = some (c, x, nd)) (he : effect c x nd s = t) (hk : Kept p c k s t) :
    Host.Outcome.next (s.operate p k n op effect) = (.next (t.modCtx p c (Context.setNode k n 2)) : Host.Outcome State Fault Refusal) :=
  congrArg _ (operate_of_started h he (hk.started.trans (working_started h).2))

end

/-! From operand to operand (R100 to R103, R109). -/

section
variable {s : State} {p k c node : Nat} {x : Context} {nd : Node}

theorem transform_kept {f : Nat → Nat → List Nat → List Nat} {ln l row work : Nat} {src dst : Operand} {m : List Nat} :
    Kept p c k s (s.transform p k f ln l row work src dst m) :=
  Kept.scribbleWork.trans .writeOp

theorem exec_nttFwd_working {ln l row work : Nat} {src dst : Operand} {m : List Nat} (h : s.working? p k node 0x10 = some (c, x, nd))
    (hp : nd.params = .nttFwd ln l row work src dst m) :
    exec (.nttFwd p k node) s = .next ((s.transform p k nttFwd ln l row work src dst m).modCtx p c (Context.setNode k node 2)) :=
  next_operate_of_kept h (by simp only [hp]) transform_kept

theorem exec_nttInv_working {ln l row work : Nat} {src dst : Operand} {m : List Nat} (h : s.working? p k node 0x11 = some (c, x, nd))
    (hp : nd.params = .nttInv ln l row work src dst m) :
    exec (.nttInv p k node) s = .next ((s.transform p k nttInv ln l row work src dst m).modCtx p c (Context.setNode k node 2)) :=
  next_operate_of_kept h (by simp only [hp]) transform_kept

/-- With fp32 results nothing is narrowed: the words are those of w' (R109). -/
theorem exec_applyStep_fp32 {cnt g res : Nat} {step decay : BitVec 32} {w u dst : Operand} (h : s.working? p k node 0x25 = some (c, x, nd))
    (hp : nd.params = .applyStep cnt 0 step decay g w u dst res) :
    exec (.applyStep p k node) s = .next ((s.writeOp p k dst (bytesOf 4 (List.zipWith (applyWord step.toNat decay.toNat)
      (s.words p k w cnt) (s.words p k u cnt)))).modCtx p c (Context.setNode k node 2)) :=
  next_operate_of_kept h (by simp only [hp, map_getD_range, if_true]) .writeOp

end

/-- Settles O21: each effect is a chain of stores, draws and free values in work rows, none of which faults the context. -/
theorem operandOperations : Obligations.OperandOperations := by
  intro s p k c node x nd
  refine ⟨fun ln l row work src dst m => exec_nttFwd_working, fun ln l row work src dst m => exec_nttInv_working, ?_, ?_,
    fun cnt step decay g w u dst res => exec_applyStep_fp32⟩
  · intro ln l kk dnum kid row work src dst key acc seed m res h hp
    exact next_operate_of_kept h (by simp only [hp]) (((Kept.scribbleWork.trans .writeOp).trans .drawMany).trans .writeOp)
  · intro ln lo dr tl nl row kid work dOut src dst table key seed m h hp
    exact next_operate_of_kept h (by simp only [hp]) (Kept.scribbleWork.trans .writeOp)

/-! Rows that are decoded one after another (R89, R108). -/

section
variable {s t : State} {p k c r q : Nat} {modes rows : List Nat}

theorem row_resetRow_ne {u : Cluster} (h : q ≠ r) : (u.resetRow r).row q = u.row q := by
  simp only [Cluster.resetRow, Cluster.row, tget_tdel_ne _ h]

/-- Whether rows take a write is decided by their access alone. -/
theorem rowsTake_of_access (h : ∀ q ∈ rows, (t.rowOf p k q).access = (s.rowOf p k q).access) (hr : s.rowsTake p c k modes rows) :
    t.rowsTake p c k modes rows := fun q hq => by
  have hmode : rowMode (t.rowOf p k q).ctrl = rowMode (s.rowOf p k q).ctrl := congrArg Prod.fst (h q hq)
  rw [hmode, rowRefuses_access (h q hq)]
  exact hr q hq

/-- Emptying row `r` leaves the context, and every other row, as it was. -/
theorem resetRow_others : ((s.modLogical p k (Cluster.resetRow r)).ctx p c).started = (s.ctx p c).started ∧
    ∀ q ≠ r, (s.modLogical p k (Cluster.resetRow r)).rowOf p k q = s.rowOf p k q :=
  ⟨started_modLogical, fun _ hq => rowOf_modLogical (fun _ => rfl) fun _ => row_resetRow_ne hq⟩

variable {format qs off : Nat} {reset : Bool} {dst : Operand}

/-- A row that the decode may take is written out, and emptied or not: the context goes on, and every other row keeps its access. -/
theorem decodeRow_others (hst : (s.ctx p c).started = true) (hr : s.rowsTake p c k [1, 2] [r]) :
    ((s.decodeRow p c k r format qs reset dst off).ctx p c).started = true ∧
    ∀ q ≠ r, ((s.decodeRow p c k r format qs reset dst off).rowOf p k q).access = (s.rowOf p k q).access := by
  obtain ⟨hmode, htake⟩ := hr r (by simp)
  simp only [State.decodeRow, State.reach, State.ifUp, hst, hmode, htake, Bool.not_false, Bool.and_true, if_true]
  generalize bytesOf 4 _ = b
  have hk : Kept p c k s (s.writeSpace false p k dst.space (dst.addr + off) b) := .writeSpace
  split
  · obtain ⟨hctx, hrows⟩ := resetRow_others (s := s.writeSpace false p k dst.space (dst.addr + off) b) (p := p) (k := k) (c := c) (r := r)
    exact ⟨hctx.trans (hk.started.trans hst), fun q hq => (congrArg Row.access (hrows q hq)).trans (hk.access q)⟩
  · exact ⟨hk.started.trans hst, fun q _ => hk.access q⟩

/-- Distinct rows that all take the decode are decoded one after another, and the context goes on. -/
theorem decodeRows_started {base : Nat} : ∀ (l : List Nat) (s : State), l.Nodup → (s.ctx p c).started = true →
    s.rowsTake p c k [1, 2] (l.map (base + ·)) →
    ((l.foldl (fun t i => t.decodeRow p c k (base + i) format qs reset dst (512 * i)) s).ctx p c).started = true
  | [], _, _, hst, _ => hst
  | i :: l, s, hdistinct, hst, hr => by
    obtain ⟨hi, hl⟩ := List.nodup_cons.1 hdistinct
    have hfirst : s.rowsTake p c k [1, 2] [base + i] := fun q hq => hr q (List.mem_cons.2 (.inl (List.mem_singleton.1 hq)))
    obtain ⟨hnext, hothers⟩ := decodeRow_others (format := format) (qs := qs) (reset := reset) (dst := dst) (off := 512 * i) hst hfirst
    refine decodeRows_started l _ hl hnext (rowsTake_of_access (fun q hq => hothers q ?_) fun q hq => hr q (List.mem_cons_of_mem _ hq))
    rintro rfl
    exact hi (by simpa using hq)

end

section
variable {s : State} {p k c node : Nat} {x : Context} {nd : Node} {base rows format qs rs res : Nat} {dst : Operand}

theorem exec_decodeCenter_busy (h : s.working? p k node 0x24 = some (c, x, nd)) (hbusy : (x.nodeRows nd).any (s.rowBusy p k) = true) :
    exec (.decodeCenter p k node) s = .next s := by
  show execDecodeCenter p k node s = _
  simp only [execDecodeCenter, h, hbusy, if_true]

theorem exec_decodeCenter_free (h : s.working? p k node 0x24 = some (c, x, nd)) (hp : nd.params = .decodeCenter base rows format qs rs dst res)
    (hfree : (x.nodeRows nd).any (s.rowBusy p k) = false) (hr : s.rowsTake p c k [1, 2] (span base rows)) :
    exec (.decodeCenter p k node) s = .next (((List.range rows).foldl (fun t i =>
      t.decodeRow p c k (base + i) format qs (rs == 1) dst (512 * i)) s).modCtx p c (Context.setNode k node 2)) := by
  show execDecodeCenter p k node s = _
  simp only [execDecodeCenter, h, hfree, Bool.false_eq_true, if_false]
  exact congrArg _ (operate_of_started h (by simp only [hp]) (decodeRows_started _ s List.nodup_range (working_started h).2 hr))

end

/-- Settles O23: a busy row makes the node wait; otherwise its rows, which are distinct, are decoded one after another and none faults the context. -/
theorem decodeRuns : Obligations.DecodeRuns := by
  intro s p k c node x nd base rows format qs rs dst res h hp
  exact ⟨exec_decodeCenter_busy h, exec_decodeCenter_free h hp⟩

end Sys2Proof.Machine

/-! Nodes that start, complete, signal and stand (R93, R96). -/

namespace Sys2Proof.Machine

section
variable {s : State} {p k c n : Nat} {x : Context} {nd : Node}

/-- A node that has not started does so once the preloads have run, its turn has come and its wait is met (R93). -/
theorem exec_nodeStart_acting (ha : s.acting p k = some (c, x)) (hn : x.node n = some nd) (hmask : bit k nd.clusterMask = true) :
    exec (.nodeStart p k n) s = .next
      (if x.nodeState k n = 0 ∧ (x.on k).preloaded = true ∧ x.turnOf k n = true ∧ s.nodeWait p nd = true then
        s.modCtx p c fun y => (y.setNode k n 1).endFolds k nd
       else s) := by
  show execNodeStart p k n s = _
  simp only [execNodeStart, ha, hn, hmask, Bool.true_and, Bool.and_eq_true, decide_eq_true_eq, and_assoc]

/-- A worked node completes, and signals if its flags ask for it; a `FOLD` node signals record by record instead (R65, R93). -/
theorem exec_nodeComplete_landing (hl : s.landing p k = some (c, x)) (hn : x.node n = some nd) (hmask : bit k nd.clusterMask = true)
    (hworked : x.nodeState k n = 2) (hfold : isFold nd = false) :
    exec (.nodeComplete p k n) s = .next
      (if bit 1 nd.flags = true then (s.modCtx p c (Context.setNode k n 3)).signalCtx p c nd.signalStake nd.signalAdd
       else s.modCtx p c (Context.setNode k n 3)) := by
  show execNodeComplete p k n s = _
  simp [execNodeComplete, hl, hn, hmask, hworked, hfold]

/-- A started `FOLD` node stands: from now on its work is the reading of records (R96). -/
theorem exec_fold_working (h : s.working? p k n 0x01 = some (c, x, nd)) :
    exec (.fold p k n) s = .next (s.modCtx p c (Context.setNode k n 2)) :=
  next_operate_of_kept h rfl (.refl s)

end

/-- Settles O20: a start by its conditions, a completion by whether the node signals, and a `FOLD` node's work, which changes nothing else. -/
theorem nodesStartAndComplete : Obligations.NodesStartAndComplete := by
  intro s p k c n x nd hn hmask
  refine ⟨fun ha hnew hpre hturn hwait => ?_, fun ha hwait => ?_, fun hl hworked hfold hsig => ?_, fun hl hworked hfold hsig => ?_, exec_fold_working⟩
  · rw [exec_nodeStart_acting ha hn hmask, if_pos ⟨hnew, hpre, hturn, hwait⟩]
  · rw [exec_nodeStart_acting ha hn hmask, if_neg (by simp [hwait])]
  · rw [exec_nodeComplete_landing hl hn hmask hworked hfold, if_neg (by simp [hsig])]
  · rw [exec_nodeComplete_landing hl hn hmask hworked hfold, if_pos hsig]

end Sys2Proof.Machine

/-! Operations on rows (R98, R99, R104, R105, R106, R110). -/

namespace Sys2Proof.Machine

/-! One row that takes its write (R55, R56). -/

section
variable {s t : State} {p k c r : Nat} {modes rows : List Nat}

/-- Of an operation whose rows take its writes, each one reaches its row. -/
theorem reach_taken {g : State → State} (hst : (s.ctx p c).started = true) (hr : s.rowsTake p c k modes rows) (hm : r ∈ rows) :
    s.reach p c k r modes g = g s := by
  obtain ⟨hmode, htake⟩ := hr r hm
  simp only [State.reach, State.ifUp, hst, hmode, htake, Bool.not_false, Bool.and_true, if_true]

theorem maskRow_kept {limb round g : Nat} {e : Bytes} (hst : (s.ctx p c).started = true) (hr : s.rowsTake p c k [1, 2] rows) (hm : r ∈ rows)
    (hk : Kept p c k s t) : Kept p c k t (t.maskRow p c k limb round g r e) :=
  hk.take hr hm hst fun htake => State.landWrite_kept _ _ _ _ _ _ _ _ _ htake

theorem noiseRow_kept {scale sigma delta first : Nat} {base : State} (hst : (s.ctx p c).started = true)
    (hr : s.rowsTake p c k (if delta = 1 then [1, 2, 3, 4, 5, 6, 7] else [1, 2]) rows) (hm : r ∈ rows) (hk : Kept p c k s t) :
    Kept p c k t (State.noiseRow p c k r scale sigma delta first base t) := by
  refine hk.take hr hm hst fun htake => ?_
  dsimp only
  split
  · exact State.landWrite_kept _ _ _ _ _ _ _ _ _ htake
  · exact State.landWrite_kept _ _ _ _ _ _ _ _ _ htake

theorem matRow_kept {f : TileFormat} {scale i h ch : Nat} {a b : Nat → Nat → Nat} (hst : (s.ctx p c).started = true)
    (hr : s.rowsTake p c k (formatModes f) rows) (hm : r ∈ rows) (hk : Kept p c k s t) : Kept p c k t (t.matRow p c k f scale r i h ch a b) :=
  hk.take hr hm hst fun htake => State.landWrite_kept _ _ _ _ _ _ _ _ _ htake

end

/-! Masks (R98, R99). -/

section
variable {s : State} {p k c node : Nat} {x : Context} {nd : Node}

/-- Every row takes the masks of every valid entry. -/
theorem maskRows_kept {limb round g base rows : Nat} {good : List Bytes} (hst : (s.ctx p c).started = true)
    (hr : s.rowsTake p c k [1, 2] (span base rows)) :
    Kept p c k s ((List.range rows).foldl (fun t i => good.foldl (fun t e => t.maskRow p c k limb round (g + 128 * i) (base + i) e) t) s) :=
  Kept.foldl_mem _ _ (.refl s) fun t _ hi hk =>
    Kept.foldl_mem _ _ (.refl t) fun _ _ _ hrow => maskRow_kept hst hr (mem_span (List.mem_range.1 hi)) (hk.trans hrow)

theorem exec_maskExpand_taken {round limb base rows g cnt res : Nat} {seeds : Operand} (h : s.working? p k node 0x02 = some (c, x, nd))
    (hp : nd.params = .maskExpand round limb base rows g seeds cnt res) (hr : s.rowsTake p c k [1, 2] (span base rows)) :
    let es := chunks 40 cnt (s.readOp p k seeds (40 * cnt))
    let good := es.filter seedEntryOk
    exec (.maskExpand p k node) s = .next (((List.range rows).foldl (fun t i => good.foldl (fun t e =>
      t.maskRow p c k limb round (g + 128 * i) (base + i) e) t) (s.discard p c 6 (es.length - good.length))).modCtx p c (Context.setNode k node 2)) := by
  intro es good
  have hd : Kept p c k s (s.discard p c 6 (es.length - good.length)) := .discard
  exact next_operate_of_kept h (by simp only [hp]; rfl)
    (hd.trans (maskRows_kept (hd.started.trans (working_started h).2) (hd.rowsTake hr)))

/-! Clipping and statistics (R104, R105). -/

theorem exec_sumsq_taken {n pair g res : Nat} {src dst : Operand} (h : s.working? p k node 0x21 = some (c, x, nd))
    (hp : nd.params = .sumsq n pair g 0 src dst res) (hr : s.rowsTake p c k [6] ((List.range g).map fun i => pair + 2 * i)) :
    exec (.sumsq p k node) s = .next ((s.addSamples p c k pair n g 6 (s.words p k src (128 * n * g))).modCtx p c (Context.setNode k node 2)) :=
  next_operate_of_kept h (by simp only [hp, State.ifUp, if_true, ite_self]) (addSamples_kept (working_started h).2 hr)

/-- The merge over one logical cluster alone is that cluster's partial. -/
theorem mergedAt_single {pair j : Nat} : s.mergedAt p pair j [k] = s.partialAt p k pair j := rfl

/-- Without `MERGE` the cluster writes the records of its own partials (R105). -/
theorem exec_meanvar_taken {n pair g res : Nat} {src dst : Operand} (h : s.working? p k node 0x22 = some (c, x, nd))
    (hp : nd.params = .meanvar n pair g 0 src dst res) (hr : s.rowsTake p c k [7] ((List.range g).map fun i => pair + 2 * i)) :
    let t := s.addSamples p c k pair n g 7 (s.words p k src (128 * n * g))
    exec (.meanvar p k node) s = .next ((t.writeOp p k dst ((List.range g).flatMap fun j => (List.range 128).flatMap fun col =>
      (t.partialAt p k (pair + 2 * j) col).record)).modCtx p c (Context.setNode k node 2)) := by
  intro t
  have hk : Kept p c k s t := addSamples_kept (working_started h).2 hr
  have hst : (t.ctx p c).started = true := hk.started.trans (working_started h).2
  show execMeanvar p k node s = _
  simp only [execMeanvar, h, hp, Nat.zero_ne_one, decide_false, Bool.false_and, Bool.false_eq_true, if_false]
  refine next_operate_of_kept h ?_ (hk.trans .writeOp)
  simp [hp, State.ifUp, hst, mergedAt_single, State.saturate, t]

/-- A word of 2^19 or more rejects the whole update (R104). -/
theorem clip_of_tooLarge {mode bound reject : Nat} {f : Nat → Nat} {l : List Int} (h : l.any tooLarge = true) : clip mode bound reject f l = none := by
  simp only [clip, h, if_true]

variable {cnt mode pair bound reject g res : Nat} {src dst : Operand}

theorem exec_clipL2_rejected (h : s.working? p k node 0x20 = some (c, x, nd)) (hp : nd.params = .clipL2 cnt mode pair bound reject g src dst res)
    (hr : s.rowsTake p c k [6] [pair]) (hlarge : ((s.words p k src cnt).map (sgn 32)).any tooLarge = true) :
    exec (.clipL2 p k node) s = .next ((s.discard p c 5 1).modCtx p c (Context.setNode k node 2)) :=
  next_operate_of_kept h (by simp only [hp, reach_taken (working_started h).2 hr (List.mem_singleton_self _), clip_of_tooLarge hlarge, hlarge, if_true]) .discard

theorem exec_clipL2_clipped {y : List Int} (h : s.working? p k node 0x20 = some (c, x, nd))
    (hp : nd.params = .clipL2 cnt mode pair bound reject g src dst res) (hr : s.rowsTake p c k [6] [pair])
    (hy : clip mode bound reject (fun i => roundWord x.seed nd.stream nd.draw (g + i)) ((s.words p k src cnt).map (sgn 32)) = some y) :
    exec (.clipL2 p k node) s = .next ((([pair, pair + 1].foldl (State.scribbleRow p k) s).writeOp p k dst (bytesOf 4 (y.map (trunc 32)))).modCtx p c
      (Context.setNode k node 2)) := by
  have hsmall : ((s.words p k src cnt).map (sgn 32)).any tooLarge ≠ true := fun hlarge => by
    rw [clip_of_tooLarge hlarge] at hy
    cases hy
  refine next_operate_of_kept h ?_ ((Kept.foldl (fun _ _ => .scribbleRow) _ s).trans .writeOp)
  simp only [hp, reach_taken (working_started h).2 hr (List.mem_singleton_self _), hy, if_neg hsmall]

end

/-! Noise (R106). -/

section
variable {s : State} {p k c node base rows scale slot sigma delta res : Nat} {x : Context} {nd : Node} {dst : Operand}

theorem exec_noiseGauss_seeded {gen : Nat} (h : s.working? p k node 0x23 = some (c, x, nd))
    (hp : nd.params = .noiseGauss base rows scale 0 slot sigma delta dst res) (hgen : (x.on k).generator = some gen)
    (hr : s.rowsTake p c k (if delta = 1 then [1, 2, 3, 4, 5, 6, 7] else [1, 2]) (span base rows)) :
    exec (.noiseGauss p k node) s = .next ((((List.range rows).foldl (fun t i => State.noiseRow p c k (base + i) scale sigma delta (128 * i) s t) s).drawMany
      (128 * rows)).modCtx p c (Context.setNode k node 2)) := by
  refine next_operate_of_kept h (by simp only [hp, hgen, Option.isNone_some, Bool.false_eq_true, if_false, if_true]) ?_
  exact (Kept.foldl_mem _ _ (.refl s) fun t i hi hk => noiseRow_kept (working_started h).2 hr (mem_span (List.mem_range.1 hi)) hk).trans .drawMany

/-- Without a seeded generator the context faults, and the node's work is not done (R270). -/
theorem exec_noiseGauss_unseeded (h : s.working? p k node 0x23 = some (c, x, nd))
    (hp : nd.params = .noiseGauss base rows scale 0 slot sigma delta dst res) (hgen : (x.on k).generator = none) :
    exec (.noiseGauss p k node) s = .next (s.faultCtx p c 0x1201) := by
  show execNoiseGauss p k node s = _
  simp only [execNoiseGauss, State.operate, h, hp, hgen, Option.isNone_none, if_true, State.ifUp, faultCtx_stopped (working_started h).2,
    Bool.false_eq_true, if_false]

end

/-! Matrix products (R110). -/

section
variable {s : State} {p k c node : Nat} {x : Context} {nd : Node}

/-- Row by row and group by group, the outputs of a product fill the rows that it names. -/
theorem matmul_row_mem {base m groups i h : Nat} (hi : i < m) (hh : h < groups) : base + i * groups + h ∈ span base (m * groups) := by
  have hlt : i * groups + h < m * groups := calc
    i * groups + h < (i + 1) * groups := by rw [Nat.succ_mul]; omega
    _ ≤ m * groups := Nat.mul_le_mul_right _ hi
  rw [Nat.add_assoc]
  exact mem_span hlt

/-- Chunk after chunk, every row of a product takes its words. -/
theorem matRows_kept {f : TileFormat} {scale base m groups chs : Nat} {a b : Nat → Nat → Nat} (hst : (s.ctx p c).started = true)
    (hr : s.rowsTake p c k (formatModes f) (span base (m * groups))) :
    Kept p c k s ((List.range chs).foldl (fun t ch => (List.range groups).foldl (fun t h => (List.range m).foldl (fun t i =>
      t.matRow p c k f scale (base + i * groups + h) i h ch a b) t) t) s) :=
  Kept.foldl_mem _ _ (.refl s) fun t _ _ hchunk => Kept.foldl_mem _ _ (.refl t) fun u _ hh hgroup =>
    Kept.foldl_mem _ _ (.refl u) fun _ _ hi hrow =>
      matRow_kept hst hr (matmul_row_mem (List.mem_range.1 hi) (List.mem_range.1 hh)) ((hchunk.trans hgroup).trans hrow)

theorem exec_matmul_taken {format base m kk n res : Nat} {oa ob : Operand} (h : s.working? p k node 0x30 = some (c, x, nd))
    (hp : nd.params = .matmul format base m kk n oa ob res) (hslots : s.matSlots p k base m (colGroups n) (matFormat format) = true)
    (hr : s.rowsTake p c k (formatModes (matFormat format)) (span base (m * colGroups n))) :
    exec (.matmul p k node) s = .next (((List.range (ceilDiv kk (formatK (matFormat format)))).foldl (fun t ch => (List.range (colGroups n)).foldl (fun t h =>
      (List.range m).foldl (fun t i => t.matRow p c k (matFormat format) (s.fresh.toNat % 256) (base + i * colGroups n + h) i h ch
        (matAt (elemBytes format) m kk (s.readOp p k oa (elemBytes format * m * kk)))
        (matAt (elemBytes format) kk n (s.readOp p k ob (elemBytes format * kk * n)))) t) t) (s.drawMany 1)).modCtx p c (Context.setNode k node 2)) := by
  have hd : Kept p c k s (s.drawMany 1) := .drawMany
  exact next_operate_of_kept h (by simp only [hp, hslots, Bool.not_true, Bool.false_eq_true, if_false])
    (hd.trans (matRows_kept (hd.started.trans (working_started h).2) (hd.rowsTake hr)))

end

/-- Settles O22: rows that take an operation's writes still take them after each of these writes, so that none of them faults the context. -/
theorem rowOperations : Obligations.RowOperations := by
  intro s p k c node x nd
  exact ⟨fun _ _ _ _ _ _ _ _ => exec_maskExpand_taken, fun _ _ _ _ _ _ => exec_sumsq_taken, fun _ _ _ _ _ _ => exec_meanvar_taken,
    fun _ _ _ _ _ _ _ _ _ => exec_noiseGauss_seeded, fun _ _ _ _ _ _ _ _ => exec_noiseGauss_unseeded, fun _ _ _ _ _ _ _ _ => exec_matmul_taken,
    fun _ _ _ _ _ _ _ _ _ h hp hr => ⟨exec_clipL2_rejected h hp hr, fun _ => exec_clipL2_clipped h hp hr⟩⟩

end Sys2Proof.Machine

/-! Seeds that are rebuilt (R111, R112, R127). -/

namespace Sys2Proof.Machine

section
variable {s t : State} {p k c n op : Nat} {x : Context} {nd : Node} {effect : Nat → Context → Node → State → State} {statuses : List Nat}

/-- An entry that is not rebuilt may end the keep's round, but never stops the context: the node's work is done (R127). -/
theorem next_operate_seedFailed (h : s.working? p k n op = some (c, x, nd)) (he : effect c x nd s = t.seedFailed p c statuses) (hk : Kept p c k s t) :
    Host.Outcome.next (s.operate p k n op effect) =
      (.next ((t.seedFailed p c statuses).modCtx p c (Context.setNode k n 2)) : Host.Outcome State Fault Refusal) :=
  congrArg _ (operate_of_started h he (seedFailed_started.trans (hk.started.trans (working_started h).2)))

end

/-- Settles O24: the entries that are not rebuilt are counted, and the destination written, before a keep's round may end; none of it stops the context. -/
theorem seedsRebuilt : Obligations.SeedsRebuilt := by
  intro s p k c node x nd
  refine ⟨fun cnt t kind sign fl shares dst res h hp => ?_, fun self cnt tag sk peers dst h hp => ?_⟩
  · exact next_operate_seedFailed h (by simp only [hp]) (Kept.discard.trans .writeOp)
  · exact next_operate_seedFailed h (by simp only [hp]) ((Kept.drawMany.trans .discard).trans .writeOp)

end Sys2Proof.Machine

/-! The commands of a round (R116, R119, R128). -/

namespace Sys2Proof.Machine

section
variable {s : State} {fn : Nat} {t : Taken} {b : Bytes}

theorem exec_roundOpen_taken {d : RoundDesc} (hf : s.front fn 0x40 = some t) (hp : t.payload = .bytes b) (hd : d = parseRound (b.drop 8))
    (hlen : b.length = 72 + 32 * d.mapCount + 4 * d.memberCount) (hz : allZero (cut 1 7 b) = true) (hg : s.gate fn 0x40 false true = none)
    (hr : (s.parcel (parcelOf fn)).refusing = false) (hc : fld 0 1 b < 8) (hform : s.roundFormatOk (parcelOf fn) d = true)
    (hmap : s.mapFormatOk (parcelOf fn) (s.ctx (parcelOf fn) (fld 0 1 b)) d = true) (h2 : (s.ctx (parcelOf fn) (fld 0 1 b)).state = 2)
    (hrole : (s.ctx (parcelOf fn) (fld 0 1 b)).role = d.role) (hopen : (s.ctx (parcelOf fn) (fld 0 1 b)).roundOpen = false)
    (hmode : (s.ctx (parcelOf fn) (fld 0 1 b)).mode = d.mode) (hgroup : d.mode = 3 → s.groupAttested (parcelOf fn) d = true) :
    exec (.roundOpen fn) s = .next (s.served fn t [] fun u => u.modCtx (parcelOf fn) (fld 0 1 b) fun x =>
      { x with round := some { Round.reset with desc := d } }) := by
  subst hd
  have hg' : (s.popTaken fn).gate fn 0x40 false true = none := hg
  have hform' : (s.popTaken fn).roundFormatOk (parcelOf fn) (parseRound (b.drop 8)) = true := hform
  have hmap' : (s.popTaken fn).mapFormatOk (parcelOf fn) (s.ctx (parcelOf fn) (fld 0 1 b)) (parseRound (b.drop 8)) = true := hmap
  have hgroup' : ¬((parseRound (b.drop 8)).mode = 3 ∧ (s.popTaken fn).groupAttested (parcelOf fn) (parseRound (b.drop 8)) = false) :=
    fun ⟨h3, hno⟩ => Bool.noConfusion (hno.symm.trans (hgroup h3))
  refine congrArg _ (State.runDrawer_done hf ?_ rfl)
  simp [hp, hlen, hz, gated_of_gate hg', State.parcelRefuses, hr, Nat.not_le.2 hc, hform', hmap', Context.started, h2, hrole, hopen, hmode, hgroup']

theorem exec_roundMap_taken {r : Round} (hf : s.front fn 0x41 = some t) (hp : t.payload = .bytes b) (hlen : b.length = 16 + 32 * fld 8 2 b)
    (hz1 : allZero (cut 1 3 b) = true) (hz10 : allZero (cut 10 6 b) = true) (hg : s.gate fn 0x41 false true = none)
    (hr : (s.parcel (parcelOf fn)).refusing = false) (hc : fld 0 1 b < 8) (hround : (s.ctx (parcelOf fn) (fld 0 1 b)).round = some r)
    (ho : r.outcome = none) (hid : r.desc.roundId = fld 4 4 b) (hn0 : 0 < fld 8 2 b) (hn : fld 8 2 b ≤ 4096)
    (hrev : revisionOk r.desc.mode (r.pendMaps.getD r.desc.maps) (parseEntries (fld 8 2 b) (b.drop 16)) = true) :
    exec (.roundMap fn) s = .next (s.served fn t [] fun u => u.modCtx (parcelOf fn) (fld 0 1 b) fun x =>
      { x with round := some { r with pendMaps := some (parseEntries (fld 8 2 b) (b.drop 16)) } }) := by
  have hg' : (s.popTaken fn).gate fn 0x41 false true = none := hg
  refine congrArg _ (State.runDrawer_done hf ?_ rfl)
  simp [hp, hlen, hz1, hz10, gated_of_gate hg', State.parcelRefuses, hr, hc, hround, ho, hid, hn0.ne', Nat.not_lt.2 hn, hrev]

theorem exec_roundClose_taken {r : Round} (h : s.Asks fn 0x42 8 false true t b) (hz : allZero (cut 1 3 b) = true)
    (hr : (s.parcel (parcelOf fn)).refusing = false) (hc : fld 0 1 b < 8) (hround : (s.ctx (parcelOf fn) (fld 0 1 b)).round = some r)
    (ho : r.outcome = none) (hrole : r.desc.role = 2) (hid : r.desc.roundId = fld 4 4 b) :
    exec (.roundClose fn) s = .next (s.served fn t [] fun u => u.modCtx (parcelOf fn) (fld 0 1 b) fun x =>
      { x with round := some { r with closeTaken := some (r.closeTaken.getD s.now) } }) := by
  have hg : (s.popTaken fn).gate fn 0x42 false true = none := h.gate
  refine congrArg _ (runDrawer_served h ?_)
  simp [hz, gated_of_gate hg, State.parcelRefuses, hr, hc, hround, ho, hrole, hid]

end

/-- Settles O5: one lemma for each command. -/
theorem roundCommands : Obligations.RoundCommands := by
  rintro s fn _ _ t b rfl rfl hc hr
  refine ⟨fun d hf hp hd hlen hz hg => ?_, fun r new hf hp hnew hlen hz1 hz10 hg => ?_, fun r h hz => ?_⟩
  · exact exec_roundOpen_taken hf hp hd hlen hz hg hr hc
  · subst hnew
    exact exec_roundMap_taken hf hp hlen hz1 hz10 hg hr hc
  · exact exec_roundClose_taken h hz hr hc

end Sys2Proof.Machine

/-! The intake (R120 to R122). -/

namespace Sys2Proof.Machine

/-! Counts and tables. -/

theorem getD_addAt_self {i x : Nat} {l : List Nat} (h : i < l.length) : (addAt i x l).getD i 0 = l.getD i 0 + x := by
  simp [addAt, List.getD_eq_getElem?_getD, h]

theorem getD_addAt_ne {i j x : Nat} {l : List Nat} (h : j ≠ i) : (addAt i x l).getD j 0 = l.getD j 0 := by
  simp [addAt, List.getD_eq_getElem?_getD, List.getElem?_set_ne h.symm]

/-- A table whose values are changed one by one has the changed value at each key. -/
theorem tget_map {α β : Type} {f : α → β} {u : Nat} {t : Tbl α} : tget u (t.map fun k => (k.1, f k.2)) = (tget u t).map f := by
  induction t with
  | nil => rfl
  | cons k t ih =>
    simp only [List.map_cons, tget, ih]
    split <;> rfl

/-! A fragment (R120, R121, Table 6.5). -/

theorem Context.discardFrag_intakeCounts (why : Nat) (x : Context) : (x.discardFrag why).intakeCounts = addAt why 1 x.intakeCounts := rfl
theorem Context.discardFrag_state (why : Nat) (x : Context) : (x.discardFrag why).state = x.state := rfl

/-- The fragment bytes that the intake of a context may hold (Table 6.5). -/
def Context.holdLimit (x : Context) : Nat := match x.image with | some i => i.holdBytes | none => 0

section
variable {s : State} {p c why : Nat} {frag : Bytes} {x : Context}

theorem exec_clientFragment_discarded (hres : s.clock.reserve = false) (hh : s.holder p = some (c, x)) (hrole : x.role = 1)
    (hf : s.fragFails p x.holdLimit x.round frag = some why) :
    exec (.clientFragment p c frag) s = .next (s.modCtx p c (Context.discardFrag why)) := by
  show execClientFragment p c frag s = _
  simp only [execClientFragment, hres, hh, hrole, ne_eq, not_true, decide_false, Bool.or_self, Bool.false_eq_true, if_false]
  split
  next w hw => rw [Option.some.inj (hw.symm.trans hf)]
  next hw => cases hw.symm.trans hf

theorem exec_clientFragment_held (hres : s.clock.reserve = false) (hh : s.holder p = some (c, x)) (hrole : x.role = 1)
    (hf : s.fragFails p x.holdLimit x.round frag = none) :
    exec (.clientFragment p c frag) s = .next ((s.holdFrag p c frag).forwards p) := by
  show execClientFragment p c frag s = _
  simp only [execClientFragment, hres, hh, hrole, ne_eq, not_true, decide_false, Bool.or_self, Bool.false_eq_true, if_false]
  split
  next w hw => cases hw.symm.trans hf
  next => rfl

end

/-! The deadline (R122). -/

/-- A client after the deadline: one that is not complete has lost its fragments (R122). -/
def Client.late (k : Client) : Client := if k.complete then k else { k with frags := [] }

/-- The round after its intake deadline. -/
def Round.late (r : Round) : Round :=
  { r with deadlinePassed := true, clients := r.clients.map fun k => if k.2.complete then k else (k.1, { k.2 with frags := [] }) }

theorem tget_late_clients {r : Round} {u : Nat} {k : Client} (h : tget u r.clients = some k) : tget u r.late.clients = some k.late := by
  have hvalues : r.late.clients = r.clients.map fun k => (k.1, k.2.late) := List.map_congr_left fun k _ => by
    unfold Client.late
    split <;> rfl
  rw [hvalues, tget_map, h, Option.map_some]

theorem exec_intakeDeadline_passed {s : State} {p c : Nat} {r : Round} (hround : (s.ctx p c).round = some r) (ho : r.outcome = none)
    (hrole : r.desc.role = 1) (hp : r.deadlinePassed = false) (hd : r.desc.intakeDeadline ≤ s.now) :
    exec (.intakeDeadline p c) s = .next (s.modCtx p c (Context.modRound Round.late)) := by
  have hpass : (r.outcome.isNone && r.desc.role == 1 && !r.deadlinePassed && decide (r.desc.intakeDeadline ≤ s.now)) = true := by
    simp [ho, hrole, hp, hd]
  show execIntakeDeadline p c s = _
  simp only [execIntakeDeadline, hround, hpass, if_true]
  rfl

/-- Settles O29: a discarded fragment changes the round and one count of the context that meets it, and the deadline changes every client in place. -/
theorem intakeMeetsFragments : Obligations.IntakeMeetsFragments := by
  intro s p c frag x
  refine ⟨fun hres hh hrole => ⟨fun why hf hwhy hlen => ?_, exec_clientFragment_held hres hh hrole⟩, fun r hround ho hrole hp hd hpr hcr => ?_⟩
  · obtain ⟨rfl, hst⟩ := holder_started hh
    refine ⟨_, exec_clientFragment_discarded hres hh hrole hf, rfl, fun q hq => State.modCtx_parcel_ne hq, ?_⟩
    rw [modCtx_ctx_eq (started_range hst), Context.discardFrag_intakeCounts, Context.discardFrag_state]
    exact ⟨getD_addAt_self (hlen.symm ▸ hwhy), fun j hj => getD_addAt_ne hj, rfl⟩
  · refine ⟨_, r.late, exec_intakeDeadline_passed hround ho hrole hp hd, ?_, rfl, rfl, rfl, fun _ _ => tget_late_clients⟩
    rw [modCtx_ctx_eq ⟨hpr, hcr⟩]
    exact modRound_round hround

end Sys2Proof.Machine

/-! Receipts and a round's end (R117, R125, R128, R133, R134). -/

namespace Sys2Proof.Machine

section
variable {s : State} {p c : Nat} {r : Round}

/-! Receipts (R125). -/

theorem sendReceipt_of_nothing_new (hround : (s.ctx p c).round = some r) (hn : r.newStatus = []) : s.sendReceipt p c = s := by
  simp [State.sendReceipt, hround, hn]

/-- The assigned clients that no receipt of this intake has listed, as dropped (R125). -/
def Round.unlisted (module p : Nat) (r : Round) : List (Nat × Nat) :=
  ((List.range r.desc.clients).filter fun u => assigned (r.desc.intakeSeat module p) u && !r.listed.contains u).map fun u => (u, 1)

theorem exec_finalReceipt_sent (hround : (s.ctx p c).round = some r) (ho : r.outcome = none) (hd : r.deadlinePassed = true)
    (hf : r.finalSent = false) (hn : r.newStatus = []) (hv : s.forwardsVisible p r = true) :
    exec (.finalReceipt p c) s = .next ((s.toKeeps r.desc (receiptMsgs r.desc.roundId s.boot.moduleId true (r.unlisted s.boot.moduleId p))).modCtx p c
      (Context.modRound fun q => { q with finalSent := true, listed := q.listed ++ (r.unlisted s.boot.moduleId p).map (·.1) })) := by
  have hsend : (r.outcome.isNone && r.deadlinePassed && !r.finalSent && s.forwardsVisible p r) = true := by simp [ho, hd, hf, hv]
  show execFinalReceipt p c s = _
  simp only [execFinalReceipt, hround, hsend, if_true, sendReceipt_of_nothing_new hround hn]
  rfl

/-- The round once the keep has taken a receipt (R125, R126). -/
def Round.takeReceipt (msg : Bytes) (r : Round) : Round :=
  let r := r.fix (wordsOf 4 (fld 8 4 msg) (msg.drop 16))
  if bit 0 (fld 6 2 msg) then { r with finals := r.finals ++ [fld 4 2 msg] } else r

variable {msg : Bytes}

theorem Round.takeReceipt_desc (msg : Bytes) (r : Round) : (r.takeReceipt msg).desc = r.desc := by
  unfold Round.takeReceipt
  split <;> rfl

theorem Round.takeReceipt_statuses (msg : Bytes) (r : Round) :
    (r.takeReceipt msg).statuses = (r.fix (wordsOf 4 (fld 8 4 msg) (msg.drop 16))).statuses := by
  unfold Round.takeReceipt
  split <;> rfl

theorem Round.takeReceipt_finals (msg : Bytes) (r : Round) :
    (r.takeReceipt msg).finals = if bit 0 (fld 6 2 msg) then r.finals ++ [fld 4 2 msg] else r.finals := by
  unfold Round.takeReceipt
  split <;> rfl

theorem exec_receipt_taken (hk : s.keepRound p c = some r) (hlen : msg.length = 16 + 4 * fld 8 4 msg) (hid : fld 0 4 msg = r.desc.roundId)
    (hm : ((r.desc.ofRole 1).any fun x => memberModule x == fld 4 2 msg) = true) :
    exec (.receipt p c msg) s = .next (((s.modCtx p c (Context.modRound (Round.takeReceipt msg))).closeRoster p c).judgeRound p c) := by
  show execReceipt p c msg s = _
  simp only [execReceipt, hk, hlen, hid, hm, ne_eq, not_true, decide_false, Bool.not_true, Bool.or_self, Bool.false_eq_true, if_false]
  rfl

theorem exec_receipt_of_other_round (hk : s.keepRound p c = some r) (hid : fld 0 4 msg ≠ r.desc.roundId) : exec (.receipt p c msg) s = .next s := by
  show execReceipt p c msg s = _
  simp [execReceipt, hk, hid]

/-- What closing the roster and judging the round leave of a keep's round. -/
theorem judge_closeRoster_round (hl : p < s.parcels.length ∧ c < (s.parcel p).contexts.length) (h : (s.ctx p c).round = some r) :
    ∃ r', (((s.closeRoster p c).judgeRound p c).ctx p c).round = some r' ∧ SameRound r r' := by
  obtain ⟨r₁, hround, hsame, hlength⟩ := roster_round hl h
  obtain ⟨r₂, hround₂, hsame₂⟩ := judge_round hlength hround
  exact ⟨r₂, hround₂, hsame₂.desc.trans hsame.desc, hsame₂.statuses.trans hsame.statuses, hsame₂.results.trans hsame.results,
    hsame₂.finals.trans hsame.finals⟩

/-! Slice results (R133, R134). -/

theorem exec_sliceResult_first (hk : s.keepRound p c = some r) (hlen : 64 ≤ msg.length) (hid : fld 0 4 msg = r.desc.roundId)
    (hnew : (r.roots.any fun e => e.owner == fld 4 2 msg && e.limbFirst == fld 6 1 msg && e.coordFirst == fld 8 8 msg && (r.resultOf e).isNone) = true) :
    exec (.sliceResult p c msg) s =
      .next ((s.modCtx p c (Context.modRound fun r => { r with results := r.results ++ [parseResult msg] })).judgeRound p c) := by
  show execSliceResult p c msg s = _
  simp only [execSliceResult, hk, parseResult, hnew, hid, Nat.not_lt.2 hlen, ne_eq, not_true, decide_false, Bool.not_true, Bool.or_self,
    Bool.false_eq_true, if_false]

/-! The close (R128). -/

theorem exec_closeStakeSignal_raised {i : LotImage} {d : StakeDecl} (hround : (s.ctx p c).round = some r) (hi : (s.ctx p c).image = some i)
    (hd : i.stakes.find? (·.close) = some d) (ho : r.outcome = none) (hc : r.closeTaken ≠ none) (hs : r.closeSignalled = false)
    (hrod : s.clock.rod = 0) (hused : ∀ k < (s.parcel p).logical, (s.lead p k).beforeClose r.desc.roundId = false) :
    exec (.closeStakeSignal p c) s =
      .next ((s.modCtx p c (Context.modRound fun r => { r with closeSignalled := true })).signalCtx p c d.stake 1) := by
  have hnone : (List.range (s.parcel p).logical).any (fun k => (s.lead p k).beforeClose r.desc.roundId) = false := by
    simpa using hused
  have hsignal : (r.outcome.isNone && r.closeTaken.isSome && !r.closeSignalled && s.clock.rod == 0 &&
      !(List.range (s.parcel p).logical).any (fun k => (s.lead p k).beforeClose r.desc.roundId)) = true := by
    simp [ho, Option.isSome_iff_ne_none.2 hc, hs, hrod, hnone]
  show execCloseStakeSignal p c s = _
  simp only [execCloseStakeSignal, hround, hi, hsignal, hd, if_true]

/-! The end of an open round (R117). -/

theorem exec_closeDeadline_passed (hround : (s.ctx p c).round = some r) (ho : r.outcome = none) (hd : r.desc.closeDeadline ≤ s.now) :
    exec (.closeDeadline p c) s = .next (s.endRound p c 2) := by
  show execCloseDeadline p c s = _
  simp [execCloseDeadline, hround, ho, hd]

/-- A round that ends changes its context, may report to the VF, and drops held rows: what these three leave alone stays. -/
theorem endRound_keeps {α : Type} (π : State → α) (hctx : ∀ g t, π (State.modCtx p c g t) = π t) (hev : ∀ code data t, π (State.evVf p code data t) = π t)
    (hdrop : ∀ t, π (State.dropHeld p c t) = π t) {n : Nat} : π (s.endRound p c n) = π s := by
  have honly : π (s.endRoundOnly p c n) = π s := by
    unfold State.endRoundOnly
    split
    · dsimp only
      split
      · rfl
      · split
        · exact (hev _ _ _).trans (hctx _ _)
        · exact hctx _ _
    · rfl
  unfold State.endRound
  split
  · dsimp only
    split
    · exact honly
    · exact (hdrop _).trans honly
  · rfl

end

/-- Settles O30: what follows the receipt's own effect, closing the roster and judging the round, keeps the roster. -/
theorem receiptsFixStatuses : Obligations.ReceiptsFixStatuses := by
  intro s p c msg r
  refine ⟨exec_finalReceipt_sent, fun hk hlen hid hm => ?_, exec_receipt_of_other_round⟩
  obtain ⟨hround, hst, -⟩ := keepRound_round hk
  have hrange := started_range hst
  have htaken : ((s.modCtx p c (Context.modRound (Round.takeReceipt msg))).ctx p c).round = some (r.takeReceipt msg) := by
    rw [modCtx_ctx_eq hrange]
    exact modRound_round hround
  obtain ⟨r', hround', hsame⟩ := judge_closeRoster_round (modCtx_range hrange) htaken
  have hstatuses : r'.statuses = (r.fix (wordsOf 4 (fld 8 4 msg) (msg.drop 16))).statuses := hsame.statuses.trans (r.takeReceipt_statuses msg)
  exact ⟨_, r', exec_receipt_taken hk hlen hid hm, hround', hsame.desc.trans (r.takeReceipt_desc msg), hstatuses,
    hsame.finals.trans (r.takeReceipt_finals msg), fun u v hv => hstatuses ▸ fix_stands _ _ hv⟩

/-- Settles O31: the judgment after a slice result keeps the result, and an ended round's outcome stands while held rows are dropped. -/
theorem roundsEnd : Obligations.RoundsEnd := by
  intro s p c msg r
  refine ⟨fun hk hlen hid hnew => ?_, fun i d => exec_closeStakeSignal_raised, fun hround ho hd hp hc => ?_⟩
  · obtain ⟨hround, hst, -⟩ := keepRound_round hk
    have hrange := started_range hst
    have hadded : ((s.modCtx p c (Context.modRound fun r => { r with results := r.results ++ [parseResult msg] })).ctx p c).round =
        some { r with results := r.results ++ [parseResult msg] } := by
      rw [modCtx_ctx_eq hrange]
      exact modRound_round hround
    obtain ⟨r', hround', hsame⟩ := judge_round (modCtx_range hrange) hadded
    exact ⟨_, r', exec_sliceResult_first hk hlen hid hnew, hround', hsame.desc, hsame.statuses, hsame.results⟩
  · have hend := endRound_round (n := 2) ⟨hp, hc⟩ hround
    rw [ho] at hend
    exact ⟨_, r.ended 2, exec_closeDeadline_passed hround ho hd, hend, rfl, rfl, rfl, State.endRound_fabric p c 2 s,
      endRound_keeps State.chest (State.modCtx_chest p c) (State.evVf_chest p) (State.dropHeld_chest p c),
      endRound_keeps State.clock (State.modCtx_clock p c) (State.evVf_clock p) (State.dropHeld_clock p c)⟩

end Sys2Proof.Machine

/-! Connections, easements and retraining as drawer commands (R141, R178, R182, R188, R192). -/

namespace Sys2Proof.Machine

/-- A request with a plain payload whose verdict is an effect `g` with a record that the slot takes is served with `g` and that record. -/
theorem runDrawer_answered {s : State} {fn op n : Nat} {pf vf : Bool} {t : Taken} {b body : Bytes} {f : State → Bytes → Verdict} {g : State → State}
    (h : s.Asks fn op n pf vf t b) (hbody : body.length ≤ 40) (hf : f (s.popTaken fn) b = .done body (g (s.popTaken fn))) :
    s.runDrawer fn op (fun t u => t.withPayload n (f u)) = s.served fn t body g := by
  refine State.runDrawer_done h.front ?_ (by simp [Taken.fits, hbody])
  rw [Taken.withPayload, h.payload]
  exact hf

/-- A request with a plain payload whose verdict is to run on leaves that verdict's state, with what the drawer then takes. -/
theorem runDrawer_begun {s v : State} {fn op n : Nat} {pf vf : Bool} {t : Taken} {b : Bytes} {f : Taken → State → Bytes → Verdict}
    (h : s.Asks fn op n pf vf t b) (hf : f t (s.popTaken fn) b = .long v) :
    s.runDrawer fn op (fun t u => t.withPayload n (f t u)) = v.takeAll fn := by
  refine State.runDrawer_long h.front ?_
  rw [Taken.withPayload, h.payload]
  exact hf

section
variable {s : State} {fn : Nat} {t : Taken} {b : Bytes}

/-! Connections (R178, R182). -/

/-- Parcel `p` opens connection `id`: the record is made, enters OPENING, draws its ephemeral key and sends `OPEN` (R178 to R180). -/
def State.openNew (p id : Nat) (a : OpenArgs) (u : State) : State :=
  (((((u.makeRoom p).putConn id ((u.makeRoom p).newConn id a)).setConnState id 1 .command).drawOpen id).touchConn id).sendOpen id

/-- The command closes connection `id`: a FAILED one is CLOSED, one that is CLOSING stays so, any other begins to close (R182). -/
def State.closeOrdered (id : Nat) (u : State) : State :=
  if (u.conn id).state = 5 then u.setConnState id 6 .command else if (u.conn id).state = 4 then u else u.beginClose id .command

theorem leastUsed_popTaken (n : Nat) (l : List Nat) (s : State) : (s.popTaken n).leastUsed l = s.leastUsed l := by
  induction l with
  | nil => rfl
  | cons a l ih =>
    rw [State.leastUsed, ih]
    rfl

theorem canReside_popTaken (n p : Nat) (s : State) : (s.popTaken n).canReside p = s.canReside p := by
  have hchoice : (s.popTaken n).spillChoice p = s.spillChoice p := leastUsed_popTaken ..
  rw [State.canReside, hchoice]
  rfl

theorem exec_connOpen_taken {id : Nat} (h : s.Asks fn 0x50 96 false true t b) (hflags : (parseOpen b).flags < 4)
    (hstake : (parseOpen b).completeStake < 8192) (hease : (parseOpen b).leafEase < 4096) (hdrain : s.draining (parseOpen b).leafEase = false)
    (hargs : s.openArgsBad (parcelOf fn) (parseOpen b) = false)
    (hplain : bit 0 (parseOpen b).flags = true ∨ groupOf (parseOpen b).peerModule = groupOf s.boot.moduleId)
    (hfree : s.freeConn (parcelOf fn) = some id) (hroom : s.canReside (parcelOf fn) = true)
    (hpins : ((s.liveConns (parcelOf fn)).filter s.isPinned).length < 256) (hdraw : s.canDraw = true) (hkey : s.slotUse 4 1 = true) :
    exec (.connOpen fn) s = .next (s.served fn t
      (le 4 id ++ le 2 (((s.popTaken fn).makeRoom (parcelOf fn)).newConn id (parseOpen b)).gen ++ zeros 2)
      (State.openNew (parcelOf fn) id (parseOpen b))) := by
  have hg : (s.popTaken fn).gate fn 0x50 false true = none := h.gate
  have hform : (decide (4 ≤ (parseOpen b).flags) || decide (8192 ≤ (parseOpen b).completeStake) || decide (4096 ≤ (parseOpen b).leafEase)) = false := by
    simp [hflags, hstake, hease]
  have hdrain' : (s.popTaken fn).draining (parseOpen b).leafEase = false := hdrain
  have hargs' : (s.popTaken fn).openArgsBad (parcelOf fn) (parseOpen b) = false := hargs
  have hplain' : (!bit 0 (parseOpen b).flags && groupOf (parseOpen b).peerModule != groupOf s.boot.moduleId) = false := by
    rcases hplain with hp | hp
    · simp [hp]
    · simp [hp]
  have hfree' : (s.popTaken fn).freeConn (parcelOf fn) = some id := hfree
  have hroom' : (s.popTaken fn).canReside (parcelOf fn) = true := (canReside_popTaken fn (parcelOf fn) s).trans hroom
  have hpins' : (((s.popTaken fn).liveConns (parcelOf fn)).filter (s.popTaken fn).isPinned).length < 256 := hpins
  have hdraw' : (s.popTaken fn).canDraw = true := hdraw
  have hkey' : (s.popTaken fn).slotUse 4 1 = true := hkey
  refine congrArg _ (runDrawer_answered h (by simp) ?_)
  simp only [hform, gated_of_gate hg, hdrain', hargs', State.popTaken_boot, hplain', hfree', hroom',
    decide_eq_false (Nat.not_le.2 hpins'), hdraw', hkey', guarded_cons, guarded_nil, Option.isNone_some, Bool.not_true, Bool.or_self,
    Bool.false_eq_true, if_false]
  rfl

theorem exec_connClose_taken {id : Nat} (h : s.Asks fn 0x51 8 false true t b) (hz : allZero (b.drop 4) = true) (hid : id = fld 0 4 b)
    (hrange : id < 2 ^ 20) (howner : connParcel id = parcelOf fn) (hlive : s.connLive id = true) :
    exec (.connClose fn) s = .next (s.served fn t [] (State.closeOrdered id)) := by
  subst hid
  have hg : (s.popTaken fn).gate fn 0x51 false true = none := h.gate
  have hlive' : (s.popTaken fn).connLive (fld 0 4 b) = true := hlive
  refine congrArg _ (runDrawer_served h ?_)
  simp only [hz, gated_of_gate hg, decide_eq_false (Nat.not_le.2 hrange), howner, hlive', guarded_cons, guarded_nil, bne_self_eq_false,
    Bool.not_true, Bool.or_self, Bool.false_eq_true, if_false]
  rfl

/-! Easements (R188, R192). -/

theorem exec_easementGrant_taken {e : Nat} (h : s.Asks fn 0x60 32 false true t b) (hz : grantReserved b = false)
    (hok : grantOk (s.parcel (parcelOf fn)) b = true) (hfree : s.freeEase (parcelOf fn) = some e) :
    exec (.easementGrant fn) s = .next (s.served fn t (le 2 e ++ le 2 (nextGen (s.ease e).gen))
      fun u => u.putEase e (grantEntry (nextGen (s.ease e).gen) b)) := by
  have hg : (s.popTaken fn).gate fn 0x60 false true = none := h.gate
  have hfree' : (s.popTaken fn).freeEase (parcelOf fn) = some e := hfree
  refine congrArg _ (runDrawer_answered h (by simp) ?_)
  simp [hz, gated_of_gate hg, hok, hfree']

/-- Easement `e` is to be revoked at the next rod boundary, and its drain is answered to request `t` of function `fn` (R192). -/
def State.revokeLater (fn e : Nat) (t : Taken) (u : State) : State :=
  let v := u.putEase e { u.ease e with revokeDue := true }
  { v with fabric := { v.fabric with drains := v.fabric.drains ++
    [{ Drain.reset with ease := e, oldGen := (u.ease e).gen, fn := fn, req := t }] } }

theorem revokeLater_ease (e : Nat) : (s.revokeLater fn e t).ease e = { s.ease e with revokeDue := true } := by
  simp [State.revokeLater, State.putEase, State.ease]

theorem revokeLater_ease_ne {e x : Nat} (hx : x ≠ e) : (s.revokeLater fn e t).ease x = s.ease x := by
  simp [State.revokeLater, State.putEase, State.ease, tget_tset_ne _ _ hx]

theorem revokeLater_draining (e : Nat) : (s.revokeLater fn e t).draining e = true := by
  simp [State.revokeLater, State.draining]

theorem exec_easementRevoke_taken {e : Nat} (h : s.Asks fn 0x61 8 false true t b) (he : e = fld 0 2 b) (hrange : e < 4096)
    (hz : allZero (b.drop 2) = true) (hdrain : s.draining e = false) (howner : e / 256 = parcelOf fn) (hvalid : (s.ease e).valid = true) :
    exec (.easementRevoke fn) s = .next (((s.popTaken fn).revokeLater fn e t).takeAll fn) := by
  subst he
  have hg : (s.popTaken fn).gate fn 0x61 false true = none := h.gate
  have hdrain' : (s.popTaken fn).draining (fld 0 2 b) = false := hdrain
  have hrevocable : (fld 0 2 b / 256 != parcelOf fn || !((s.popTaken fn).ease (fld 0 2 b)).valid) = false := by simp [howner, hvalid]
  refine congrArg _ (runDrawer_begun h ?_)
  simp only [decide_eq_false (Nat.not_le.2 hrange), hz, gated_of_gate hg, hdrain', hrevocable, guarded_cons, guarded_nil, Bool.not_true, Bool.or_self,
    Bool.false_eq_true, if_false]
  rfl

/-! Retraining (R141). -/

theorem exec_linkRetrain_taken {l : Nat} (h : s.Asks fn 0x06 8 true false t b) (hl : l = fld 0 1 b) (hrange : l < 48)
    (hz : allZero (b.drop 1) = true) (hlong : (s.longs.any fun x => x.link == l) = false) (htraining : s.isTraining l = false) :
    exec (.linkRetrain fn) s = .next (State.takeAll fn
      { (s.popTaken fn).enterTraining l .operator with longs := s.longs ++ [{ LongCmd.reset with fn := fn, req := t, link := l }] }) := by
  subst hl
  have hg : (s.popTaken fn).gate fn 0x06 true false = none := h.gate
  have htraining' : (s.popTaken fn).isTraining (fld 0 1 b) = false := htraining
  refine congrArg _ (runDrawer_begun h ?_)
  simp only [hz, gated_of_gate hg, State.popTaken_longs, hlong, decide_eq_false (Nat.not_le.2 hrange), htraining', guarded_cons, guarded_nil,
    Bool.not_true, Bool.false_eq_true, if_false]

end

/-- Settles O6: one lemma for each command; a revocation is one entry of the table that changes and one drain more. -/
theorem peerCommands : Obligations.PeerCommands := by
  rintro s fn _ t b rfl
  refine ⟨fun id => exec_connOpen_taken, fun id => exec_connClose_taken, fun e => exec_easementGrant_taken,
    fun e h he hrange hz hdrain howner hvalid => ?_, fun l => exec_linkRetrain_taken⟩
  exact ⟨_, exec_easementRevoke_taken h he hrange hz hdrain howner hvalid, rfl, by rw [revokeLater_ease], revokeLater_draining e, rfl,
    fun x hx => revokeLater_ease_ne hx⟩

end Sys2Proof.Machine

/-! The training of links (R138, R139, R141, R142, R149). -/

namespace Sys2Proof.Machine

section
variable {s : State} {l : Nat}

theorem link_lt_of_units (h : s.units) (hl : l < 48) : l < s.links.length := by
  obtain ⟨-, -, -, hlinks⟩ := h
  rwa [hlinks]

/-! What a change of state and the beginning of a training leave of a link. -/

/-- A link without what messages and reports change. -/
def Link.figures (k : Link) : Link := { k with sendBuf := [], rxGrains := [], lastReport := [], suppressed := [] }

theorem steady_figures : Steady Link.figures := ⟨fun _ _ => rfl, fun _ _ => rfl, fun _ _ _ => rfl, fun _ _ => rfl⟩

/-- A change of a link's state changes, messages and reports apart, its state alone. -/
theorem setLinkState_figures (hl : l < s.links.length) (v : Nat) (why : LinkCause) :
    ((s.setLinkState l v why).link l).figures = { s.link l with state := v }.figures := by
  rw [State.setLinkState_link steady_figures, State.modLink_link hl]

/-- What a training does not begin anew: the failed trainings in a row, the lanes that have failed, the partner. -/
def Link.lasting (k : Link) : Nat × BitVec 4 × Nat × Nat := (k.attempts, k.lanesFailed, k.peer, k.peerLink)

theorem lasting_eq {k j : Link} :
    k.lasting = j.lasting ↔ k.attempts = j.attempts ∧ k.lanesFailed = j.lanesFailed ∧ k.peer = j.peer ∧ k.peerLink = j.peerLink := by
  simp only [Link.lasting, Prod.mk.injEq]

theorem enterTraining_lasting (l : Nat) (why : LinkCause) (n : Nat) (s : State) : ((s.enterTraining l why).link n).lasting = (s.link n).lasting :=
  State.enterTraining_link ⟨fun _ _ => rfl, fun _ _ => rfl, fun _ _ _ => rfl, fun _ _ => rfl⟩ (fun _ _ => rfl) (fun _ _ => rfl) ..

/-- A training that begins after a change of the link's own figures has begun from before that change. -/
theorem enterTraining_of_modLink (hl : l < s.links.length) (g : Link → Link) (why : LinkCause) :
    State.Trains l s ((s.modLink l g).enterTraining l why) :=
  trains_mod (State.enterTraining_trains (by simpa using hl) why)

/-! Attempts (R138, R149). -/

theorem exec_signalDetect_trains (hmay : s.mayTrain l = true) (hst : (s.link l).state = 4 ∨ ((s.link l).state = 5 ∧ (s.link l).attempts < 3)) :
    exec (.signalDetect l) s = .next (s.enterTraining l .training) := by
  show execSignalDetect l s = _
  rcases hst with h4 | ⟨h5, ha⟩
  · simp [execSignalDetect, hmay, h4]
  · simp [execSignalDetect, hmay, h5, ha]

/-- One more training of the link has failed (R138). -/
def Link.failed (k : Link) : Link := { k with attempts := k.attempts + 1 }

theorem exec_trainingTimeout_due (hst : (s.link l).state = 0) (hdue : (s.link l).trainChain + 7812 ≤ s.now) :
    exec (.trainingTimeout l) s = .next (if (s.link l).attempts < 2 then (s.modLink l Link.failed).enterTraining l .training
      else (s.modLink l Link.failed).setLinkState l 5 .training) := by
  show execTrainingTimeout l s = _
  by_cases ha : (s.link l).attempts < 2
  · have hmore : ¬3 ≤ (s.link l).attempts + 1 := by omega
    simp only [execTrainingTimeout, hst, hdue, ha, hmore, beq_self_eq_true, decide_true, Bool.and_self, if_true, if_false]
    rfl
  · have hlast : 3 ≤ (s.link l).attempts + 1 := by omega
    simp only [execTrainingTimeout, hst, hdue, ha, hlast, beq_self_eq_true, decide_true, Bool.and_self, if_true, if_false]
    rfl

theorem trainingTimeout_counts (hl : l < s.links.length) (hst : (s.link l).state = 0) (hdue : (s.link l).trainChain + 7812 ≤ s.now) :
    ∃ t, exec (.trainingTimeout l) s = .next t ∧ (t.link l).attempts = (s.link l).attempts + 1 ∧
      (if (s.link l).attempts < 2 then State.Trains l s t else (t.link l).state = 5) := by
  have hl' : l < (s.modLink l Link.failed).links.length := by simpa using hl
  have hfailed : (s.modLink l Link.failed).link l = (s.link l).failed := State.modLink_link hl
  refine ⟨_, exec_trainingTimeout_due hst hdue, ?_⟩
  split
  · have hlast := enterTraining_lasting l .training l (s.modLink l Link.failed)
    rw [hfailed] at hlast
    obtain ⟨hattempts, -⟩ := lasting_eq.1 hlast
    exact ⟨hattempts, enterTraining_of_modLink hl _ _⟩
  · have hfig := setLinkState_figures hl' 5 .training
    rw [hfailed] at hfig
    exact ⟨congrArg Link.attempts hfig, congrArg Link.state hfig⟩

theorem exec_trainingRetry_due (hmay : s.mayTrain l = true) (hst : (s.link l).state = 5) (ha : 3 ≤ (s.link l).attempts)
    (hdue : (s.link l).trainChain + 32768 ≤ s.now) : exec (.trainingRetry l) s = .next (s.enterTraining l .training) := by
  show execTrainingRetry l s = _
  simp [execTrainingRetry, hmay, hst, ha, hdue]

theorem exec_relockTimeout_due (hst : (s.link l).state = 2) (hdue : (s.link l).relockChain + 4 ≤ s.now) :
    exec (.relockTimeout l) s = .next (s.enterTraining l .relock) := by
  show execRelockTimeout l s = _
  simp [execRelockTimeout, hst, hdue]

/-! A failed lane (R142). -/

/-- A lane of the link has failed (R142). -/
def Link.loseLane (lane : Nat) (k : Link) : Link := { k with lanesFailed := k.lanesFailed ||| BitVec.twoPow 4 lane }

theorem exec_laneFail_new {lane : Nat} (hst : (s.link l).state = 1 ∨ (s.link l).state = 3) (hnew : (s.link l).lanesFailed.getLsbD lane = false) :
    exec (.laneFail l lane) s = .next (
      if s.enduring then ((s.modLink l (Link.loseLane lane)).enterTraining l .lane).platPend 3 l ((s.plat.lanesRetired.getD l 0).toNat ||| 2 ^ lane)
      else (s.modLink l (Link.loseLane lane)).enterTraining l .lane) := by
  have hup : ((s.link l).state == 1 || (s.link l).state == 3) = true := by simpa using hst
  show execLaneFail l lane s = _
  simp only [execLaneFail, hup, hnew, Bool.not_false, Bool.and_self, if_true]
  rfl

theorem trains_platPend {s t : State} (h : State.Trains l s t) (kind unit v : Nat) : State.Trains l s (t.platPend kind unit v) :=
  ⟨h.state, h.fresh, h.numbers, h.others, h.time⟩

theorem loseLane_lanesFailed {lane j : Nat} (hj : j < 4) (k : Link) :
    (k.loseLane lane).lanesFailed.getLsbD j = (k.lanesFailed.getLsbD j || j == lane) := by
  simp [Link.loseLane, hj, beq_eq_decide]

theorem laneFail_trains {lane : Nat} (hl : l < s.links.length) (hst : (s.link l).state = 1 ∨ (s.link l).state = 3)
    (hnew : (s.link l).lanesFailed.getLsbD lane = false) :
    ∃ t, exec (.laneFail l lane) s = .next t ∧ State.Trains l s t ∧ (t.link l).lanesFailed = ((s.link l).loseLane lane).lanesFailed := by
  have htrains := enterTraining_of_modLink hl (Link.loseLane lane) .lane
  have hlast := enterTraining_lasting l .lane l (s.modLink l (Link.loseLane lane))
  rw [State.modLink_link hl] at hlast
  obtain ⟨-, hlanes, -⟩ := lasting_eq.1 hlast
  refine ⟨_, exec_laneFail_new hst hnew, ?_⟩
  split
  · exact ⟨trains_platPend htrains .., hlanes⟩
  · exact ⟨htrains, hlanes⟩

/-! Identity (R139). -/

/-- The link's partner names itself (R139). -/
def Link.named (m q : Nat) (k : Link) : Link := { k with peer := m, peerLink := q }

section
variable {m q : Nat} {digest : BitVec 128}

theorem hello_of_wrong_partner (hlive : (s.link l).live = true) (hno : s.partnerOk l m q digest = false) :
    s.hello l m q digest = (s.modLink l (Link.named m q)).setLinkState l 4 .identity := by
  have hno' : (s.modLink l (Link.named m q)).partnerOk l m q digest = false := hno
  simp only [State.hello, hlive, Bool.not_true, Bool.false_eq_true, if_false]
  exact if_neg (ne_true_of_eq_false hno')

theorem hello_of_partner (hlive : (s.link l).live = true) (hok : s.partnerOk l m q digest = true) :
    s.hello l m q digest =
      if (s.link l).state = 4 then (s.modLink l (Link.named m q)).enterTraining l .identity
      else if (s.link l).state = 0 then ((s.modLink l (Link.named m q)).modLink l fun k => { k with helloOk := true }).trainingEnds l
      else s.modLink l (Link.named m q) := by
  have hok' : (s.modLink l (Link.named m q)).partnerOk l m q digest = true := hok
  simp only [State.hello, hlive, Bool.not_true, Bool.false_eq_true, if_false]
  exact if_pos hok'

theorem hello_peer (hl : l < s.links.length) (hlive : (s.link l).live = true) :
    ((s.hello l m q digest).link l).peer = m ∧ ((s.hello l m q digest).link l).peerLink = q := by
  have hl' : l < (s.modLink l (Link.named m q)).links.length := by simpa using hl
  have hnamed : (s.modLink l (Link.named m q)).link l = (s.link l).named m q := State.modLink_link hl
  cases hok : s.partnerOk l m q digest with
  | false =>
    have hfig := setLinkState_figures hl' 4 .identity
    rw [hnamed] at hfig
    rw [hello_of_wrong_partner hlive hok]
    exact ⟨congrArg Link.peer hfig, congrArg Link.peerLink hfig⟩
  | true =>
    rw [hello_of_partner hlive hok]
    split
    · have hlast := enterTraining_lasting l .identity l (s.modLink l (Link.named m q))
      rw [hnamed] at hlast
      obtain ⟨-, -, hpeer, hpeerLink⟩ := lasting_eq.1 hlast
      exact ⟨hpeer, hpeerLink⟩
    · split
      · rw [State.trainingEnds_link, State.modLink_link hl', hnamed]
        exact ⟨rfl, rfl⟩
      · rw [hnamed]
        exact ⟨rfl, rfl⟩

theorem hello_state_of_wrong_partner (hl : l < s.links.length) (hlive : (s.link l).live = true) (hno : s.partnerOk l m q digest = false) :
    ((s.hello l m q digest).link l).state = 4 := by
  rw [hello_of_wrong_partner hlive hno]
  exact State.setLinkState_state (by simpa using hl) ..

theorem hello_trains (hl : l < s.links.length) (h4 : (s.link l).state = 4) (hok : s.partnerOk l m q digest = true) :
    State.Trains l s (s.hello l m q digest) := by
  have hlive : (s.link l).live = true := by simp [Link.live, h4]
  rw [hello_of_partner hlive hok, if_pos h4]
  exact enterTraining_of_modLink hl ..

theorem hello_checked (hl : l < s.links.length) (h0 : (s.link l).state = 0) (hok : s.partnerOk l m q digest = true) :
    ((s.hello l m q digest).link l).state = 0 ∧ ((s.hello l m q digest).link l).helloOk = true := by
  have hlive : (s.link l).live = true := by simp [Link.live, h0]
  rw [hello_of_partner hlive hok, if_neg (by simp [h0]), if_pos h0, State.trainingEnds_link, State.modLink_link (by simpa using hl),
    State.modLink_link hl]
  exact ⟨h0, rfl⟩

end

/-! Delay (R137, R138). -/

/-- The least round trip of the link once `rtt` is measured too; the first of a training counts alone (R138). -/
def Link.least (rtt : Nat) (k : Link) : Nat := if k.echoes = 0 then rtt else min k.minRtt rtt

theorem least_le (rtt : Nat) (k : Link) : k.least rtt ≤ rtt := by
  unfold Link.least
  split
  · exact le_rfl
  · exact Nat.min_le_right ..

theorem least_le_minRtt {k : Link} (rtt : Nat) (h : 0 < k.echoes) : k.least rtt ≤ k.minRtt := by
  rw [Link.least, if_neg h.ne']
  exact Nat.min_le_left ..

/-- One more round trip of the link is measured; the least is now `n` (R138). -/
def Link.measured (n : Nat) (k : Link) : Link := { k with echoes := k.echoes + 1, minRtt := n }

/-- The delay of the link is known (R138). -/
def Link.delayed (n : Nat) (k : Link) : Link := { k with delayPs := n }

section
variable {sent turn now : Nat}

theorem exec_echo_before_last (h0 : (s.link l).state = 0) (he : (s.link l).echoes < 63) :
    exec (.echo l true sent turn now) s = .next (s.modLink l (Link.measured ((s.link l).least (now - sent - turn)))) := by
  have hmore : ¬64 ≤ (s.link l).echoes := by omega
  have hnot : (s.link l).echoes + 1 ≠ 64 := by omega
  show execEcho l true sent turn now s = _
  simp only [execEcho, h0, hmore, hnot, ne_eq, not_true, decide_false, Bool.or_self, Bool.not_true, Bool.false_eq_true, if_false]
  rfl

theorem exec_echo_last (h0 : (s.link l).state = 0) (he : (s.link l).echoes = 63) {n : Nat} (hn : n = (s.link l).least (now - sent - turn)) :
    exec (.echo l true sent turn now) s = .next (
      if 1200000 < n / 2 then ((s.modLink l (Link.measured n)).modLink l (Link.delayed (n / 2))).setLinkState l 5 .delay
      else ((s.modLink l (Link.measured n)).modLink l (Link.delayed (n / 2))).trainingEnds l) := by
  subst hn
  show execEcho l true sent turn now s = _
  simp only [execEcho, h0, he, Link.least, ne_eq, not_true, decide_false, Nat.reduceLeDiff, Nat.reduceAdd, Bool.or_self, Bool.not_true,
    Bool.false_eq_true, if_false, if_true]
  rfl

/-- The last of 64 round trips gives the delay, and one above 1.200 us holds the link `DOWN` (R137). -/
theorem echo_last (hl : l < s.links.length) (h0 : (s.link l).state = 0) (he : (s.link l).echoes = 63) {n : Nat}
    (hn : n = (s.link l).least (now - sent - turn)) :
    ∃ t, exec (.echo l true sent turn now) s = .next t ∧ (t.link l).echoes = 64 ∧ (t.link l).minRtt = n ∧ (t.link l).delayPs = n / 2 ∧
      (1200000 < n / 2 → (t.link l).state = 5) := by
  have hl' : l < ((s.modLink l (Link.measured n)).modLink l (Link.delayed (n / 2))).links.length := by simpa using hl
  have hlink : ((s.modLink l (Link.measured n)).modLink l (Link.delayed (n / 2))).link l = ((s.link l).measured n).delayed (n / 2) := by
    rw [State.modLink_link (by simpa using hl), State.modLink_link hl]
  have hcount : (s.link l).echoes + 1 = 64 := by rw [he]
  refine ⟨_, exec_echo_last h0 he hn, ?_⟩
  split
  next =>
    have hfig := setLinkState_figures hl' 5 .delay
    rw [hlink] at hfig
    exact ⟨(congrArg Link.echoes hfig).trans hcount, congrArg Link.minRtt hfig, congrArg Link.delayPs hfig, fun _ => congrArg Link.state hfig⟩
  next hshort =>
    rw [State.trainingEnds_link, hlink]
    exact ⟨hcount, rfl, rfl, fun hlong => absurd hlong hshort⟩

theorem echo_measures (hl : l < s.links.length) (h0 : (s.link l).state = 0) (he : (s.link l).echoes < 64) :
    ∃ t, exec (.echo l true sent turn now) s = .next t ∧ (t.link l).echoes = (s.link l).echoes + 1 ∧
      (t.link l).minRtt = (s.link l).least (now - sent - turn) ∧
      ((s.link l).echoes = 63 → (t.link l).delayPs = (t.link l).minRtt / 2 ∧ (1200000 < (t.link l).delayPs → (t.link l).state = 5)) := by
  by_cases hlast : (s.link l).echoes = 63
  · obtain ⟨t, hexec, hcount, hleast, hdelay, hdown⟩ := echo_last (sent := sent) (turn := turn) (now := now) hl h0 hlast rfl
    refine ⟨t, hexec, by rw [hcount, hlast], hleast, fun _ => ⟨by rw [hdelay, hleast], fun hlong => hdown (by rwa [hdelay] at hlong)⟩⟩
  · refine ⟨_, exec_echo_before_last h0 (by omega), ?_⟩
    rw [State.modLink_link hl]
    exact ⟨rfl, rfl, fun h => absurd h hlast⟩

end

/-! The end of a training (R142). -/

/-- The lanes of the link lock: these are good (R142). -/
def Link.locked (ok : BitVec 4) (k : Link) : Link := { k with lanesFailed := ~~~ok, width := widthOf ok, trained := widthOf ok != 0 }

/-- The lanes of link `l` lock; the first training of the module is dated (R156). -/
def State.lockLanes (l : Nat) (ok : BitVec 4) (s : State) : State :=
  { s.modLink l (Link.locked ok) with boot := { s.boot with firstTrained := some (s.boot.firstTrained.getD s.now) } }

theorem lockLanes_link (hl : l < s.links.length) (ok : BitVec 4) : (s.lockLanes l ok).link l = (s.link l).locked ok := State.modLink_link hl

theorem exec_trainingComplete_training {good ok : BitVec 4} (h0 : (s.link l).state = 0) (hok : ok = good &&& ~~~(s.plat.lanesRetired.getD l 0)) :
    exec (.trainingComplete l good) s = .next (
      if widthOf ok = 0 then (s.lockLanes l ok).setLinkState l 5 .lane else (s.lockLanes l ok).trainingEnds l) := by
  subst hok
  show execTrainingComplete l good s = _
  simp only [execTrainingComplete, h0, ne_eq, not_true, if_false]
  rfl

theorem trainingComplete_locks {good ok : BitVec 4} (hl : l < s.links.length) (h0 : (s.link l).state = 0)
    (hok : ok = good &&& ~~~(s.plat.lanesRetired.getD l 0)) :
    ∃ t, exec (.trainingComplete l good) s = .next t ∧ (t.link l).lanesFailed = ~~~ok ∧ (t.link l).width = widthOf ok ∧
      ((t.link l).width = 0 → (t.link l).state = 5) ∧ ((t.link l).width ≠ 0 → (t.link l).state = 0 ∧ (t.link l).trained = true) := by
  have hl' : l < (s.lockLanes l ok).links.length := by simpa [State.lockLanes] using hl
  refine ⟨_, exec_trainingComplete_training h0 hok, ?_⟩
  split
  next hnone =>
    have hfig := setLinkState_figures hl' 5 .lane
    rw [lockLanes_link hl] at hfig
    have hwidth : (((s.lockLanes l ok).setLinkState l 5 .lane).link l).width = widthOf ok := congrArg Link.width hfig
    exact ⟨congrArg Link.lanesFailed hfig, hwidth, fun _ => congrArg Link.state hfig, fun h => absurd (hwidth.trans hnone) h⟩
  next hsome =>
    rw [State.trainingEnds_link, lockLanes_link hl]
    exact ⟨rfl, rfl, fun h => absurd h hsome, fun _ => ⟨h0, bne_iff_ne.2 hsome⟩⟩

end

/-- Settles O32: each way into a training enters it by `State.enterTraining`; a link that a training leaves `DOWN` keeps what was measured of it. -/
theorem linksTrain : Obligations.LinksTrain := by
  intro s l hunits hlt
  have hl := link_lt_of_units hunits hlt
  refine ⟨fun hmay hst => ⟨_, exec_signalDetect_trains hmay hst, State.enterTraining_trains hl _⟩, trainingTimeout_counts hl,
    fun hmay hst ha hdue => ⟨_, exec_trainingRetry_due hmay hst ha hdue, State.enterTraining_trains hl _⟩, fun lane _ hst hnew => ?_,
    fun hst hdue => ⟨_, exec_relockTimeout_due hst hdue, State.enterTraining_trains hl _⟩, fun m q w digest hlive => ?_,
    fun sent turn now h0 he => ?_, fun _ _ _ => rfl, fun good h0 => trainingComplete_locks hl h0 rfl⟩
  · obtain ⟨t, hexec, htrains, hlanes⟩ := laneFail_trains hl hst hnew
    exact ⟨t, hexec, htrains, fun j hj => by rw [hlanes, loseLane_lanesFailed hj]⟩
  · obtain ⟨hpeer, hpeerLink⟩ := hello_peer hl hlive
    exact ⟨_, rfl, hpeer, hpeerLink, hello_state_of_wrong_partner hl hlive,
      fun hok => ⟨fun h4 => hello_trains hl h4 hok, fun h0 => hello_checked hl h0 hok⟩⟩
  · obtain ⟨t, hexec, hcount, hleast, hdelay⟩ := echo_measures (sent := sent) (turn := turn) (now := now) hl h0 he
    exact ⟨t, hexec, hcount, hleast ▸ least_le .., fun hpos => hleast ▸ least_le_minRtt _ hpos, hdelay⟩

end Sys2Proof.Machine

/-! Flits, replay, relock and credits (R147 to R149, R153). -/

namespace Sys2Proof.Machine

section
variable {s : State} {l : Nat}

/-! What sending grains and reporting leave of the receiving side. -/

/-- The receiving side of a link: the number expected, the `NAK` outstanding, the flits discarded in a row, the state. -/
def Link.receiver (k : Link) : Nat × Bool × Nat × Nat := (k.rxNext, k.nakPend, k.discarded, k.state)

theorem receiver_eq {k : Link} {next count state : Nat} {pend : Bool} :
    k.receiver = (next, pend, count, state) ↔ k.rxNext = next ∧ k.nakPend = pend ∧ k.discarded = count ∧ k.state = state := by
  simp only [Link.receiver, Prod.mk.injEq]

theorem steady_receiver : Steady Link.receiver := ⟨fun _ _ => rfl, fun _ _ => rfl, fun _ _ _ => rfl, fun _ _ => rfl⟩

theorem sends_receiver : Sends Link.receiver := ⟨fun _ _ _ _ => rfl, fun _ _ => rfl⟩

theorem sendNak_receiver (l n : Nat) (s : State) : ((s.sendNak l).link n).receiver = (s.link n).receiver :=
  State.sendNak_link sends_receiver (fun _ _ => rfl) ..

theorem ack_receiver (l a n : Nat) (s : State) : ((s.ack l a).link n).receiver = (s.link n).receiver :=
  State.ack_link sends_receiver (fun _ _ => rfl) ..

/-! A flit (R147, R148). -/

/-- The message that word `w` carries on link `l` (R144, R145). -/
def State.wordMsg (l : Nat) (w : List Nat) (s : State) : FlitMsg := parseFlit (descramble (symbolBits (w.take 514)) (s.link l).scrambler).1

/-- The module once link `l` has descrambled word `w` (R144). -/
def State.takeWord (l : Nat) (w : List Nat) (s : State) : State :=
  s.modLink l fun k => { k with scrambler := (descramble (symbolBits (w.take 514)) (s.link l).scrambler).2 }

theorem takeWord_receiver (l : Nat) (w : List Nat) (s : State) : ((s.takeWord l w).link l).receiver = (s.link l).receiver :=
  modLink_keep Link.receiver _ _ _ _ fun _ => rfl

/-- A flit of the link is accepted in its turn (R147). -/
def Link.accepted (k : Link) : Link := { k with rxNext := (k.rxNext + 1) % 2 ^ 31, nakPend := false }

/-- A discarded flit counts, leaves a `NAK` outstanding, and does not move the number expected (R147, R148). -/
theorem discardFlit_receiver (hl : l < s.links.length) (every : Bool) :
    ((s.discardFlit l every).link l).receiver = ((s.link l).rxNext, true, (s.link l).discarded + 1, (s.link l).state) := by
  unfold State.discardFlit
  dsimp only
  split
  · rw [State.modLink_link hl]
    rfl
  · rw [sendNak_receiver, State.modLink_link hl]
    rfl

/-- The end of a burst clears its count and nothing else of the receiving side (R165). -/
theorem endBurst_receiver (hl : l < s.links.length) :
    ((s.endBurst l).link l).receiver = ((s.link l).rxNext, (s.link l).nakPend, 0, (s.link l).state) := by
  unfold State.endBurst
  dsimp only
  split
  next h =>
    rw [Link.receiver, h]
  next =>
    obtain ⟨hnext, hnak, -, hstate⟩ := receiver_eq.1 (State.evLink_link steady_receiver l 0x0702
      [l, s.now, (s.link l).discarded, (s.link l).naks, (s.link l).replays, b2n (s.link l).allLanes] l s)
    rw [State.modLink_link (by rwa [State.evLink_len])]
    exact receiver_eq.2 ⟨hnext, hnak, rfl, hstate⟩

/-- A word whose flit is discarded, as its link then stands. -/
theorem takeWord_discardFlit_receiver (hl : l < s.links.length) (w : List Nat) (every : Bool) :
    (((s.takeWord l w).discardFlit l every).link l).receiver = ((s.link l).rxNext, true, (s.link l).discarded + 1, (s.link l).state) := by
  obtain ⟨hnext, -, hcount, hstate⟩ := receiver_eq.1 (takeWord_receiver l w s)
  rw [discardFlit_receiver (by simpa [State.takeWord] using hl), hnext, hcount, hstate]

/-- A word whose flit is accepted, as its link stands before the grains are taken. -/
theorem takeWord_accepted_receiver (hl : l < s.links.length) (w : List Nat) (a : Nat) :
    (((((s.takeWord l w).modLink l Link.accepted).endBurst l).ack l a).link l).receiver =
      (((s.link l).rxNext + 1) % 2 ^ 31, false, 0, (s.link l).state) := by
  have hl' : l < (s.takeWord l w).links.length := by simpa [State.takeWord] using hl
  obtain ⟨hnext, -, -, hstate⟩ := receiver_eq.1 (takeWord_receiver l w s)
  rw [ack_receiver, endBurst_receiver (by simpa using hl'), State.modLink_link hl', Link.accepted, hnext, hstate]

theorem exec_flit (l : Nat) (symbols : List (BitVec 10)) (s : State) : exec (.flit l symbols) s = .next (s.flit l symbols) := rfl

section
variable {symbols : List (BitVec 10)} (hlive : (s.link l).live = true) (hlen : symbols.length = 544)
include hlive hlen

theorem exec_flit_undecodable (hl : l < s.links.length) (hdec : rsDecode (symbols.map (·.toNat)) = none) :
    ∃ t, exec (.flit l symbols) s = .next t ∧
      (t.link l).receiver = ((s.link l).rxNext, true, (s.link l).discarded + 1, (s.link l).state) := by
  have hflit : s.flit l symbols = (s.takeWord l (symbols.map (·.toNat))).discardFlit l true := by
    simp only [State.flit, hlive, hlen, hdec, ne_eq, not_true, decide_false, Bool.not_true, Bool.or_self, Bool.false_eq_true, if_false]
    rfl
  exact ⟨_, (exec_flit ..).trans (congrArg _ hflit), takeWord_discardFlit_receiver hl ..⟩

variable {w e : List Nat} (hdec : rsDecode (symbols.map (·.toNat)) = some (w, e))
include hdec

theorem flit_of_decoded :
    s.flit l symbols =
      if (s.wordMsg l w).checks (s.link l).rxNext then
        (s.wordMsg l w).grains.foldl (fun t g => t.grainIn l g)
          ((((s.takeWord l w).modLink l Link.accepted).endBurst l).ack l (s.wordMsg l w).ack)
      else if (s.wordMsg l w).isNull then (s.takeWord l w).ack l (s.wordMsg l w).ack
      else (s.takeWord l w).discardFlit l (e.isEmpty || onEveryLane (max 1 (s.link l).width) e) := by
  simp only [State.flit, hlive, hlen, hdec, ne_eq, not_true, decide_false, Bool.not_true, Bool.or_self, Bool.false_eq_true, if_false]
  rfl

theorem exec_flit_accepted (hl : l < s.links.length) (hok : (s.wordMsg l w).checks (s.link l).rxNext = true) :
    ∃ t, exec (.flit l symbols) s = .next ((s.wordMsg l w).grains.foldl (fun t g => t.grainIn l g) t) ∧
      (t.link l).receiver = (((s.link l).rxNext + 1) % 2 ^ 31, false, 0, (s.link l).state) :=
  ⟨_, (exec_flit ..).trans (congrArg _ ((flit_of_decoded hlive hlen hdec).trans (if_pos hok))), takeWord_accepted_receiver hl ..⟩

theorem exec_flit_out_of_turn (hl : l < s.links.length) (hbad : (s.wordMsg l w).checks (s.link l).rxNext = false)
    (hnull : (s.wordMsg l w).isNull = false) :
    ∃ t, exec (.flit l symbols) s = .next t ∧
      (t.link l).receiver = ((s.link l).rxNext, true, (s.link l).discarded + 1, (s.link l).state) := by
  have hflit := flit_of_decoded hlive hlen hdec
  rw [if_neg (ne_true_of_eq_false hbad), if_neg (ne_true_of_eq_false hnull)] at hflit
  exact ⟨_, (exec_flit ..).trans (congrArg _ hflit), takeWord_discardFlit_receiver hl ..⟩

end

/-! Replay (R148). -/

theorem exec_replayTimeout_oldest {f : LinkTx} {w : List LinkTx} (hlive : (s.link l).live = true) (hw : (s.link l).window = f :: w) :
    exec (.replayTimeout l) s = .next (s.replayFrom l f.seq) := by
  show execReplayTimeout l s = _
  simp only [execReplayTimeout, hw, hlive, if_true]

theorem exec_nak_live (hlive : (s.link l).live = true) (n : Nat) :
    exec (.nak l n) s = .next (if (s.link l).window.any (fun f => f.seq == n) then s.replayFrom l n else s) := by
  show execNak l n s = _
  simp only [execNak, hlive, if_true, State.nak]

theorem exec_nakRepeat_pending (hlive : (s.link l).live = true) (hnak : (s.link l).nakPend = true) :
    exec (.nakRepeat l) s = .next (s.sendNak l) := by
  show execNakRepeat l s = _
  simp only [execNakRepeat, hlive, hnak, Bool.and_self, if_true]

/-! Relock (R149). -/

/-- What a relock keeps of a link: the flits not covered, both directions' numbers, when it began, and whether a chain of it has passed. -/
def Link.relock (k : Link) : List LinkTx × Nat × Nat × Nat × Bool := (k.window, k.rxNext, k.txNext, k.relockChain, k.routeLost)

theorem relock_eq {k j : Link} : k.relock = j.relock ↔
    k.window = j.window ∧ k.rxNext = j.rxNext ∧ k.txNext = j.txNext ∧ k.relockChain = j.relockChain ∧ k.routeLost = j.routeLost := by
  simp only [Link.relock, Prod.mk.injEq]

theorem steady_relock : Steady Link.relock := ⟨fun _ _ => rfl, fun _ _ => rfl, fun _ _ _ => rfl, fun _ _ => rfl⟩

theorem setLinkState_relock (l v : Nat) (why : LinkCause) (s : State) : ((s.setLinkState l v why).link l).relock = (s.link l).relock :=
  setState_keep steady_relock (fun _ _ => rfl) ..

/-- The link begins to relock in this chain (R149). -/
def Link.unlocked (now : Nat) (k : Link) : Link := { k with routeLost := false, relockChain := now }

theorem exec_flitLockLoss_up (hst : (s.link l).state = 1) :
    exec (.flitLockLoss l) s = .next ((s.modLink l (Link.unlocked s.now)).setLinkState l 2 .relock) := by
  show execFlitLockLoss l s = _
  simp only [execFlitLockLoss, hst, if_true]
  rfl

theorem flitLockLoss_relocks (hl : l < s.links.length) (hst : (s.link l).state = 1) :
    ∃ t, exec (.flitLockLoss l) s = .next t ∧ (t.link l).state = 2 ∧ (t.link l).relock = ((s.link l).unlocked s.now).relock := by
  refine ⟨_, exec_flitLockLoss_up hst, State.setLinkState_state (by simpa using hl) .., ?_⟩
  rw [setLinkState_relock, State.modLink_link hl]

/-- A chain of the link's relock has passed (R149). -/
def Link.loseRoute (k : Link) : Link := { k with routeLost := true }

theorem exec_relockRouteLoss_due (hst : (s.link l).state = 2) (hroute : (s.link l).routeLost = false) (hdue : (s.link l).relockChain + 1 ≤ s.now) :
    exec (.relockRouteLoss l) s = .next ((s.modLink l Link.loseRoute).leaveUp l) := by
  show execRelockRouteLoss l s = _
  simp only [execRelockRouteLoss, hst, hroute, hdue, beq_self_eq_true, Bool.not_false, decide_true, Bool.and_self, if_true]
  rfl

theorem relockRouteLoss_unroutable (hl : l < s.links.length) (hst : (s.link l).state = 2) :
    (((s.modLink l Link.loseRoute).leaveUp l).link l).state = 2 ∧ (((s.modLink l Link.loseRoute).leaveUp l).link l).routable = false := by
  have hstate := State.leaveUp_link steady_state l l (s.modLink l Link.loseRoute)
  have hrelock := State.leaveUp_link steady_relock l l (s.modLink l Link.loseRoute)
  rw [State.modLink_link hl] at hstate hrelock
  obtain ⟨-, -, -, -, hroute⟩ := relock_eq.1 hrelock
  have hlost : (((s.modLink l Link.loseRoute).leaveUp l).link l).routeLost = true := hroute
  refine ⟨hstate.trans hst, ?_⟩
  simp [Link.routable, hstate.trans hst, hlost]

/-- The module once link `l` has relocked and is `UP` again (R149). -/
def State.relocked (l : Nat) (s : State) : State := (s.setLinkState l 1 .relock).modLink l fun k => { k with routeLost := false }

theorem relocked_link (hl : l < s.links.length) :
    ((s.relocked l).link l).state = 1 ∧ ((s.relocked l).link l).relock = { s.link l with routeLost := false }.relock := by
  have hl' : l < (s.setLinkState l 1 .relock).links.length := by rwa [State.setLinkState_len]
  obtain ⟨hwindow, hrx, htx, hchain, -⟩ := relock_eq.1 (setLinkState_relock l 1 .relock s)
  rw [State.relocked, State.modLink_link hl']
  exact ⟨State.setLinkState_state hl .., relock_eq.2 ⟨hwindow, hrx, htx, hchain, rfl⟩⟩

theorem replayFrom_keeps {α : Type} {π : Link → α} (h : ∀ k n, π { k with replays := n } = π k) (l n q : Nat) (t : State) :
    π ((t.replayFrom l q).link n) = π (t.link n) := by
  rw [link_of_links n (State.replayFrom_links ..)]
  exact modLink_keep π _ _ _ _ fun k => h k _

theorem relockDone_up (hl : l < s.links.length) (hst : (s.link l).state = 2) :
    ∃ t, exec (.relockDone l) s = .next t ∧ (t.link l).state = 1 ∧ (t.link l).relock = { s.link l with routeLost := false }.relock := by
  obtain ⟨hstate, hrelock⟩ := relocked_link hl
  show ∃ t, execRelockDone l s = .next t ∧ _
  simp only [execRelockDone, hst, if_true]
  refine ⟨_, rfl, ?_⟩
  split
  · exact ⟨(replayFrom_keeps (π := Link.state) (fun _ _ => rfl) ..).trans hstate,
      (replayFrom_keeps (π := Link.relock) (fun _ _ => rfl) ..).trans hrelock⟩
  · exact ⟨hstate, hrelock⟩

/-! Credits (R153). -/

/-- The grants of the link once a `CREDIT` grants eight slices from `first` on for a rod; those of the same rod stand (R153). -/
def Link.credited (first chain rod : Nat) (grants : List Nat) (k : Link) : Link :=
  let old := if k.grantChain = chain && k.grantRod = rod then k.grants else List.replicate 16 0
  { k with
    grantChain := chain
    grantRod := rod
    grants := (List.range 16).map fun p => if first ≤ p && p < first + 8 then grants.getD (p - first) 0 else old.getD p 0 }

section
variable {first chain rod q : Nat} {grants : List Nat}

theorem exec_credit_up (hst : (s.link l).state = 1) (hfirst : first = 0 ∨ first = 8) (hrod : rod = 0 ∨ rod = 2) :
    exec (.credit l first chain rod grants) s = .next (s.modLink l (Link.credited first chain rod grants)) := by
  have hhalf : (first == 0 || first == 8) = true := by simpa using hfirst
  have heven : (rod == 0 || rod == 2) = true := by simpa using hrod
  show execCredit l first chain rod grants s = _
  simp only [execCredit, State.credit, hst, hhalf, heven, ne_eq, not_true, decide_false, Bool.not_true, Bool.or_self, Bool.false_eq_true, if_false]
  rfl

theorem credited_grants_granted (hfirst : first ≤ 8) (hq : q < 8) (k : Link) :
    (k.credited first chain rod grants).grants.getD (first + q) 0 = grants.getD q 0 := by
  have hrange : first + q < 16 := by omega
  simp [Link.credited, hrange, hq]

theorem credited_grants_same_rod {k : Link} (hchain : k.grantChain = chain) (hrod : k.grantRod = rod) (hq : q < 16) (hout : q < first ∨ first + 8 ≤ q) :
    (k.credited first chain rod grants).grants.getD q 0 = k.grants.getD q 0 := by
  have hnot : ¬(first ≤ q ∧ q < first + 8) := by omega
  simp [Link.credited, hchain, hrod, hq, hnot]

end

end

/-- Settles O33: a flit by what the decoder and the check say of it, with the receiving side of its link; a relock by what it keeps of the link; a credit
by the link's grants. -/
theorem flitsAndReplay : Obligations.FlitsAndReplay := by
  intro s l hunits hlt
  have hl := link_lt_of_units hunits hlt
  refine ⟨fun symbols hlive hlen hdec => ?_, fun symbols w e hlive hlen hdec => ⟨fun hok => ?_, fun hbad hnull => ?_⟩,
    fun f w hlive hw => exec_replayTimeout_oldest hlive hw, fun n hlive => exec_nak_live hlive n, exec_nakRepeat_pending, fun hst => ?_,
    fun hst hroute hdue => ⟨_, exec_relockRouteLoss_due hst hroute hdue, relockRouteLoss_unroutable hl hst⟩, fun hst => ?_,
    fun first chain rod grants hst hfirst hrod => ?_⟩
  · obtain ⟨t, hexec, hrec⟩ := exec_flit_undecodable hlive hlen hl hdec
    obtain ⟨hnext, hnak, hcount, -⟩ := receiver_eq.1 hrec
    exact ⟨t, hexec, hcount, hnak, hnext⟩
  · obtain ⟨t, hexec, hrec⟩ := exec_flit_accepted hlive hlen hdec hl hok
    obtain ⟨hnext, hnak, hcount, hstate⟩ := receiver_eq.1 hrec
    exact ⟨t, hexec, hnext, hnak, hcount, hstate⟩
  · obtain ⟨t, hexec, hrec⟩ := exec_flit_out_of_turn hlive hlen hdec hl hbad hnull
    obtain ⟨hnext, -, hcount, -⟩ := receiver_eq.1 hrec
    exact ⟨t, hexec, hcount, hnext⟩
  · obtain ⟨t, hexec, hstate, hrelock⟩ := flitLockLoss_relocks hl hst
    obtain ⟨hwindow, hrx, -, hchain, hroute⟩ := relock_eq.1 hrelock
    have hkept : (t.link l).routeLost = false := hroute
    exact ⟨t, hexec, hstate, hchain, by simp [Link.routable, hstate, hkept], hwindow, hrx⟩
  · obtain ⟨t, hexec, hstate, hrelock⟩ := relockDone_up hl hst
    obtain ⟨hwindow, hrx, htx, -⟩ := relock_eq.1 hrelock
    exact ⟨t, hexec, hstate, hrx, htx, hwindow⟩
  · refine ⟨_, exec_credit_up hst hfirst hrod, ?_⟩
    rw [State.modLink_link hl]
    exact ⟨rfl, rfl, fun q hq => credited_grants_granted (by omega) hq _,
      fun hchain hsame q hq hout => credited_grants_same_rod hchain hsame hq hout⟩

end Sys2Proof.Machine

/-! Chain markers (R154 to R158). -/

namespace Sys2Proof.Machine

section
variable {s : State} {l : Nat} {m : MarkerGrain}

/-! What reports leave. -/

/-- A module report goes to PF0 and to management: what neither event touches stays. -/
theorem evPf_evMgmt_keeps {α : Type} (π : State → α) (hpf : ∀ c d t, π (State.evPf c d t) = π t) (hmgmt : ∀ c d t, π (State.evMgmt c d t) = π t)
    (code : Nat) (data : List Nat) (t : State) : π ((t.evPf code data).evMgmt code data) = π t := (hmgmt ..).trans (hpf ..)

@[simp] theorem evMaster_marker (old new : Nat) (t : State) : (t.evMaster old new).marker = t.marker :=
  evPf_evMgmt_keeps State.marker State.evPf_marker State.evMgmt_marker ..

@[simp] theorem evMaster_time (old new : Nat) (t : State) : (t.evMaster old new).time = t.time :=
  evPf_evMgmt_keeps State.time State.evPf_time State.evMgmt_time ..

@[simp] theorem evMaster_links (old new : Nat) (t : State) : (t.evMaster old new).links = t.links :=
  evPf_evMgmt_keeps State.links State.evPf_links State.evMgmt_links ..

/-! A marker comes (R154 to R156, R158). -/

/-- The last marker of a link and its chain. -/
def Link.heardMarker (k : Link) : Option MarkerGrain × Nat := (k.markerSeen, k.markerChain)

theorem steady_heardMarker : Steady Link.heardMarker := ⟨fun _ _ => rfl, fun _ _ => rfl, fun _ _ _ => rfl, fun _ _ => rfl⟩

/-- The module once link `l` has brought marker `m`. -/
def State.sawMarker (l : Nat) (m : MarkerGrain) (s : State) : State := s.modLink l fun k => { k with markerSeen := some m, markerChain := s.now }

theorem sawMarker_heardMarker (hl : l < s.links.length) : ((s.sawMarker l m).link l).heardMarker = (some m, s.now) := by
  rw [State.sawMarker, State.modLink_link hl]
  rfl

theorem follow_links (l : Nat) (m : MarkerGrain) (t : State) : (t.follow l m).links = t.links := by
  unfold State.follow
  dsimp only
  split
  · rfl
  · exact evMaster_links ..

/-- The module's markers once it follows marker `m` of link `l`: the offset is slewed if it is within 1 us, and stepped otherwise (R158). -/
theorem follow_marker (l : Nat) (m : MarkerGrain) (t : State) :
    (t.follow l m).marker.source = some l ∧ (t.follow l m).marker.master = m.master ∧ (t.follow l m).marker.stratum = m.stratum + 1 ∧
    (t.follow l m).marker.state = 0 ∧ (t.follow l m).marker.lastFollowed = t.now ∧
    ((t.follow l m).marker.stepTo = none ↔ -1000000 ≤ t.markerOffset l m ∧ t.markerOffset l m ≤ 1000000) := by
  unfold State.follow
  dsimp only
  split
  · refine ⟨rfl, rfl, rfl, rfl, rfl, ?_⟩
    simp
  · rw [evMaster_marker]
    refine ⟨rfl, rfl, rfl, rfl, rfl, ?_⟩
    simp

theorem rivals_heardMarker (t : State) : ((t.rivals l m).link l).heardMarker = (t.link l).heardMarker := by
  unfold State.rivals
  dsimp only
  split
  · rfl
  · split
    · exact State.evLink_link steady_heardMarker ..
    · rfl

/-- What marker `m` of link `l` comes to: noted only, a rival's, the source's, or another's (R155, R156). -/
def State.markerIn (l : Nat) (m : MarkerGrain) (s : State) : State :=
  if !followable m then s.sawMarker l m
  else if s.marker.isMaster then (s.sawMarker l m).rivals l m
  else match (s.sawMarker l m).markerSource with
    | some (n, g) => if n = l then (s.sawMarker l m).follow n g else s.sawMarker l m
    | none => s.sawMarker l m

theorem exec_marker_taken (hst : (s.link l).state = 1 ∨ (s.link l).state = 3) : exec (.marker l m) s = .next (s.markerIn l m) := by
  have hcarries : (!((s.link l).state == 1 || (s.link l).state == 3)) = false := by
    rcases hst with h | h <;> rw [h] <;> rfl
  show execMarker l m s = _
  simp only [execMarker, hcarries, Bool.false_eq_true, if_false]
  rfl

theorem markerIn_heardMarker (hl : l < s.links.length) : ((s.markerIn l m).link l).heardMarker = (some m, s.now) := by
  have hsaw := sawMarker_heardMarker (m := m) hl
  unfold State.markerIn
  split
  · exact hsaw
  split
  · exact (rivals_heardMarker _).trans hsaw
  split
  · split
    · exact (congrArg Link.heardMarker (link_of_links l (follow_links ..))).trans hsaw
    · exact hsaw
  · exact hsaw

theorem markerIn_of_not_followable (hf : followable m = false) : s.markerIn l m = s.sawMarker l m := by simp [State.markerIn, hf]

theorem markerIn_of_source (hf : followable m = true) (hm : s.marker.isMaster = false) (hsrc : (s.sawMarker l m).markerSource = some (l, m)) :
    s.markerIn l m = (s.sawMarker l m).follow l m := by simp [State.markerIn, hf, hm, hsrc]

/-- Noting a marker does not move its offset: that rests on the link's delay and the module's chain. -/
theorem sawMarker_offset (l : Nat) (m : MarkerGrain) (s : State) : (s.sawMarker l m).markerOffset l m = s.markerOffset l m := by
  have hdelay : ((s.sawMarker l m).link l).delayPs = (s.link l).delayPs := modLink_keep Link.delayPs _ _ _ _ fun _ => rfl
  unfold State.markerOffset
  rw [hdelay]
  rfl

theorem markerIn_of_lower_master (hf : followable m = true) (hm : s.marker.isMaster = true) (hlow : m.master < s.boot.moduleId) :
    (s.markerIn l m).marker.masterNext = some m.master := by
  have hlow' : m.master < (s.sawMarker l m).boot.moduleId := hlow
  simp [State.markerIn, hf, hm, State.rivals, hlow']

/-! A step (R158), holdover (R157) and mastership (R156). -/

theorem exec_chainStep_taken {n wait : Nat} (hstep : s.marker.stepTo = some n) (hn : n ≠ 0) (hrun : s.clock.running = true) (hrod : s.clock.rod = 3) :
    ∃ t, exec (.chainStep wait) s = .next t ∧ t.clock = { s.clock with chain := n - 1 } ∧
      t.marker = { s.marker with stepTo := none, offsetPs := 0, lastFollowed := n - 1 } := by
  have hdue : (s.clock.running && s.clock.rod == 3 && decide (n ≠ 0)) = true := by simp [hrun, hrod, hn]
  show ∃ t, execChainStep wait s = .next t ∧ _
  simp only [execChainStep, hstep, hdue, if_true]
  exact ⟨_, rfl, evPf_evMgmt_keeps State.clock State.evPf_clock State.evMgmt_clock ..,
    evPf_evMgmt_keeps State.marker State.evPf_marker State.evMgmt_marker ..⟩

/-- A change `k` of the module's marker record with its report leaves the timer, the parcels and the clusters. -/
theorem markerReport_leaves {code : Nat} {data : List Nat} (k : Marker) :
    ((({ s with marker := k }).evPf code data).evMgmt code data).marker = k ∧
    ((({ s with marker := k }).evPf code data).evMgmt code data).time = s.time ∧
    ((({ s with marker := k }).evPf code data).evMgmt code data).parcels = s.parcels ∧
    ((({ s with marker := k }).evPf code data).evMgmt code data).clusters = s.clusters :=
  ⟨evPf_evMgmt_keeps State.marker State.evPf_marker State.evMgmt_marker .., evPf_evMgmt_keeps State.time State.evPf_time State.evMgmt_time ..,
    evPf_evMgmt_keeps State.parcels State.evPf_parcels State.evMgmt_parcels ..,
    evPf_evMgmt_keeps State.clusters State.evPf_clusters State.evMgmt_clusters ..⟩

theorem exec_markerHoldover_due (hst : s.marker.state = 1) (hraised : s.marker.holdRaised = false) (hdue : s.marker.lastFollowed + 8 ≤ s.now) :
    exec .markerHoldover s = .next ((({ s with marker := { s.marker with holdRaised := true } }).evPf 0x0703 [s.marker.lastFollowed]).evMgmt 0x0703
      [s.marker.lastFollowed]) := by
  show execMarkerHoldover s = _
  simp [execMarkerHoldover, hst, hraised, hdue]

theorem exec_markerLost_due (hst : s.marker.state = 1) (hdue : s.marker.lastFollowed + 1024 ≤ s.now) :
    exec .markerLost s = .next ((({ s with marker := { s.marker with state := 2 } }).evPf 0x0704 [s.now]).evMgmt 0x0704 [s.now]) := by
  show execMarkerLost s = _
  simp [execMarkerLost, hst, hdue]

theorem exec_masterTakeover_due {c : Nat} (hc : s.quietSince = some c) (he : s.eligible = true) (hm : s.marker.isMaster = false)
    (hlinks : s.markerLinks = []) (hdue : c + 64 ≤ s.now) : exec .masterTakeover s = .next s.takeMastership := by
  show execMasterTakeover s = _
  simp [execMasterTakeover, hc, he, hm, hlinks, hdue]

theorem exec_masterTakeover_of_not_eligible (he : s.eligible = false) : exec .masterTakeover s = .next s := by
  show execMasterTakeover s = _
  simp only [execMasterTakeover, he, Bool.false_and, Bool.false_eq_true, if_false]
  split <;> rfl

theorem takeMastership_marker (s : State) : s.takeMastership.marker =
    { s.marker with isMaster := true, source := none, master := s.boot.moduleId, stratum := 0, state := 0, stepTo := none, offsetPs := 0 } :=
  evMaster_marker ..

theorem takeMastership_time (s : State) : s.takeMastership.time = s.time := evMaster_time ..

end

/-- Settles O34: a marker by what it comes to (noted, the source's, a rival's), each count of chains by one lemma. -/
theorem markersKeepTime : Obligations.MarkersKeepTime := by
  intro s l m hunits hl
  have hlen := link_lt_of_units hunits hl
  refine ⟨fun hst => ?_, fun n wait hstep hn hrun hrod => ?_, fun hst hraised hdue => ⟨_, exec_markerHoldover_due hst hraised hdue, markerReport_leaves _⟩,
    fun hst hdue => ⟨_, exec_markerLost_due hst hdue, markerReport_leaves _⟩, fun c hc he hm hlinks hdue => ?_, exec_masterTakeover_of_not_eligible⟩
  · obtain ⟨hseen, hchain⟩ := Prod.mk.inj (markerIn_heardMarker (m := m) hlen)
    refine ⟨_, exec_marker_taken hst, hseen, hchain, fun hf => ?_, fun hf hm hsrc => ?_, markerIn_of_lower_master⟩
    · rw [markerIn_of_not_followable hf]
      exact ⟨rfl, rfl⟩
    · rw [markerIn_of_source hf hm hsrc, ← sawMarker_offset]
      exact follow_marker ..
  · obtain ⟨t, hexec, hclock, hmarker⟩ := exec_chainStep_taken (wait := wait) hstep hn hrun hrod
    refine ⟨t, hexec, ?_, ?_, ?_, ?_⟩
    · rw [hclock]
      exact Nat.succ_pred hn
    · rw [hclock]
      exact hrod
    · rw [hmarker]
    · rw [hmarker]
  · refine ⟨_, exec_masterTakeover_due hc he hm hlinks hdue, ?_, ?_, ?_, ?_, takeMastership_time s⟩ <;> rw [takeMastership_marker]

end Sys2Proof.Machine

/-! Sends (R184, R303, R360). -/

namespace Sys2Proof.Machine

section
variable {s : State} {p k q c : Nat} {x : Context} {d : Descr}
variable (h : s.ready p k q 4 = some (c, x, d)) (hok : s.headOk p x (x.queue k q) d = true) (hr : s.replaying p = false)
include h hok hr

theorem send_dropped (hst : (s.conn d.connection).state ≠ 3) (hsig : dSignal d = false) :
    s.send p k q = (s.modConn d.connection fun k => { k with dropped := k.dropped + 1 }).modCtx p c (Context.modQueue k q Queue.pop) := by
  simp [State.send, h, hok, hr, hst, carryDone_silent hsig]

variable (hst : (s.conn d.connection).state = 3)
include hst

theorem send_waits_for_record (hres : s.resident d.connection = false) : s.send p k q = s := by
  simp [State.send, h, hok, hr, hst, hres]

variable (hres : s.resident d.connection = true)
include hres

theorem send_exhausted (hn : (s.conn d.connection).txNext = 2 ^ 32 - 1) : s.send p k q = s.setConnState d.connection 5 .exhausted := by
  simp [State.send, h, hok, hr, hst, hres, hn]

variable (hn : (s.conn d.connection).txNext ≠ 2 ^ 32 - 1)
include hn

/-- On an open resident connection the pieces that the window allows go out; what then becomes of the queue turns on whether any did and whether
all have. -/
theorem send_by_pieces {r : State × Nat} (hp : s.sendPieces p k d 2048 (x.queue k q).sent = r) :
    s.send p k q = (if r.2 = (x.queue k q).sent then r.1 else r.1.markLost p c).modCtx p c
      (Context.modQueue k q (if d.length ≤ r.2 then Queue.start d else fun u => { u with sent := r.2 })) := by
  simp only [State.send, h, hok, hr, hst, hres, hn, hp]
  by_cases hall : d.length ≤ r.2 <;> simp [hall]

end

/-- Settles O28: a send by the state of its connection, and on an open one by the pieces that went out. -/
theorem sendsPieces : Obligations.SendsPieces := by
  intro s p k q c x d h hok hr
  refine ⟨fun hst hsig => congrArg _ (send_dropped h hok hr hst hsig), fun hst hres => congrArg _ (send_waits_for_record h hok hr hst hres),
    fun hst hres hn => congrArg _ (send_exhausted h hok hr hst hres hn), fun hst hres hn => ?_⟩
  have hpieces := send_by_pieces h hok hr hst hres hn rfl
  refine ⟨fun hsame hleft => congrArg _ (hpieces.trans ?_), fun hsent hleft => congrArg _ (hpieces.trans ?_),
    fun hsent hall => congrArg _ (hpieces.trans ?_)⟩
  · rw [if_pos hsame, if_neg (Nat.not_le.2 hleft)]
  · rw [if_neg hsent, if_neg (Nat.not_le.2 hleft)]
  · rw [if_neg hsent, if_pos hall]

end Sys2Proof.Machine

/-! Admission of sequenced messages (R183, R187, R189, R190). -/

namespace Sys2Proof.Machine

section
variable {s : State} {m : Msg} {k : Conn} {id code : Nat}

/-! A connection that is heard (R170, R185). -/

theorem heard_conn (hk : s.conn? id = some k) :
    ∃ n, (s.heard id).conn? id = some { k with lastChain := s.now, lastUse := n } ∧ (s.heard id).conn id = { k with lastChain := s.now, lastUse := n } := by
  obtain ⟨n, hn⟩ := State.heard_look hk
  exact ⟨n, hn, State.conn_of hn⟩

/-- That its connection is heard changes neither the checks of a message, nor what admits it, nor its body in clear. -/
theorem heard_checks (hk : s.conn? m.conn = some k) : (s.heard m.conn).easeFails m = s.easeFails m ∧
    (s.heard m.conn).admittedBy m = s.admittedBy m ∧ (s.heard m.conn).clearMsg m = s.clearMsg m := by
  obtain ⟨n, hn, -⟩ := heard_conn hk
  exact easeFails_congr hk hn rfl (ease_heard m.conn · s) (heard_parcels m.conn s).1

/-! Consumed numbers and wrong tags (R183, R190). -/

theorem consumeSeq_rxNext_le (seq : Nat) (k : Conn) : k.rxNext ≤ (k.consumeSeq seq).rxNext :=
  Conn.skip_rx 256 { k with held := (k.held.filter fun h => h.seq != seq) ++ [{ HeldMsg.reset with seq := seq }] }

theorem consumeSeq_tagFails (seq : Nat) (k : Conn) : (k.consumeSeq seq).tagFails = k.tagFails := skip_tag 256 _

/-- A refusal can only use up the number of the message: the number expected does not fall, and the count of wrong tags stays (R183). -/
theorem refuseArrived_conn (hk : s.conn? m.conn = some k) :
    ∃ j, (s.refuseArrived m code).conn? m.conn = some j ∧ k.rxNext ≤ j.rxNext ∧ j.tagFails = k.tagFails := by
  have hsent : (s.refuse m code).conn? m.conn = some k := (look_refuse m code m.conn s).trans hk
  rw [State.refuseArrived]
  split
  · rw [mod_some hsent]
    split
    · exact ⟨_, rfl, consumeSeq_rxNext_le m.seq k, consumeSeq_tagFails m.seq k⟩
    · exact ⟨k, rfl, Nat.le_refl _, rfl⟩
  · exact ⟨k, hsent, Nat.le_refl _, rfl⟩

/-- A wrong tag is counted, and the fourth in a row fails the connection. -/
theorem tagFailed_conn (hk : s.conn? id = some k) :
    ∃ v, (s.tagFailed id).conn id = { k with tagFails := k.tagFails + 1, state := v } ∧ (3 ≤ k.tagFails → v = 5) := by
  have hcount := mod_some (g := fun k => { k with tagFails := k.tagFails + 1 }) hk
  rw [State.tagFailed, State.conn_of hcount]
  split
  · exact ⟨5, State.conn_of (setConn_some hcount 5 .integrity), fun _ => rfl⟩
  next hfew => exact ⟨k.state, State.conn_of hcount, fun hmany => absurd (Nat.succ_le_succ hmany) hfew⟩

/-! Admission (R183). -/

/-- The message as it is held once it is admitted: in clear, under its easement. -/
def State.heldAs (m : Msg) (by_ : Nat × Nat) (s : State) : HeldMsg where
  seq := m.seq
  msg := some { m with body := s.clearMsg m, enc := false }
  ease := by_.1
  easeGen := by_.2
  base := (s.ease by_.1).base
  context := (s.ease by_.1).context

/-- The connection with one more message held. -/
def Conn.holding (h : HeldMsg) (k : Conn) : Conn := { k with tagFails := 0, held := k.held ++ [h] }

theorem hold_eq (by_ : Nat × Nat) : s.hold m by_ = (s.modConn m.conn (Conn.holding (s.heldAs m by_))).visibleNext m.conn := rfl

theorem visibleNext_of_no_turn (hk : s.conn? id = some k) (hturn : k.atTurn = none) : s.visibleNext id = s := by
  simp only [State.visibleNext, State.conn_of hk, hturn, ite_self]

theorem holding_atTurn {h : HeldMsg} (hturn : k.atTurn = none) (hseq : h.seq ≠ k.rxNext) : (k.holding h).atTurn = none := by
  rw [Conn.atTurn] at hturn
  simp [Conn.atTurn, Conn.holding, hturn, hseq]

/-- A message whose turn has not come is held, and nothing becomes visible. -/
theorem hold_of_later (by_ : Nat × Nat) (hk : s.conn? m.conn = some k) (hturn : k.atTurn = none) (hseq : m.seq ≠ k.rxNext) :
    s.hold m by_ = s.modConn m.conn (Conn.holding (s.heldAs m by_)) := by
  rw [hold_eq, visibleNext_of_no_turn (mod_some hk) (holding_atTurn hturn hseq)]

theorem attestIn_of_verified (h : (s.conn m.conn).verified = true) : s.attestIn m = s.hold m (4096, 0) := if_pos h

/-! Arrival (Table 8.8). -/

theorem arrive_of_headFails (h : s.headFails m = some code) : s.arrive m = s.refuseArrived m code := by rw [State.arrive, h]

section
variable (hhead : s.headFails m = none) (hk : s.conn? m.conn = some k)
include hhead hk

theorem arrive_beyond_window (hw : k.rxNext + k.window ≤ m.seq) : s.arrive m = (s.heard m.conn).refuseArrived m arWindow := by
  obtain ⟨n, -, hconn⟩ := heard_conn hk
  simp only [State.arrive, hhead]
  rw [← State.heard, hconn, if_pos hw]

theorem arrive_passed (hw : m.seq < k.rxNext + k.window) (hpassed : k.openSeq m.seq = false) : s.arrive m = s.heard m.conn := by
  obtain ⟨n, -, hconn⟩ := heard_conn hk
  have hpassed' : (!Conn.openSeq m.seq { k with lastChain := s.now, lastUse := n }) = true := by
    rw [Bool.not_eq_true']
    exact hpassed
  simp only [State.arrive, hhead]
  rw [← State.heard, hconn, if_neg (Nat.not_le.2 hw), if_pos hpassed']


variable (hst : k.state = 3) (hopen : k.openSeq m.seq = true)
include hst hopen

/-- A message whose number is open meets its own checks, then that of its tag, and is then admitted (R183, R190). -/
theorem arrive_open : s.arrive m = (s.easeFails m).elim
    (if m.enc && !tagOk k.rxKey m then ((s.heard m.conn).refuseArrived m arTag).tagFailed m.conn
      else if m.kind = kAttest then (s.heard m.conn).attestIn m else (s.heard m.conn).hold m (s.admittedBy m))
    fun code => (s.heard m.conn).refuseArrived m code := by
  obtain ⟨n, -, hconn⟩ := heard_conn hk
  obtain ⟨hchecks, hby, -⟩ := heard_checks hk
  have hopen' : (!Conn.openSeq m.seq { k with lastChain := s.now, lastUse := n }) = false := by
    rw [Bool.not_eq_false']
    exact hopen
  have hw : m.seq < k.rxNext + k.window := by
    simp only [Conn.openSeq, Bool.and_eq_true, decide_eq_true_eq] at hopen
    exact hopen.1.2
  have hsettled : (decide (k.state = 2) && k.verified && m.kind != kAttest) = false := by
    rw [hst]
    rfl
  simp only [State.arrive, hhead]
  rw [← State.heard, hconn, if_neg (Nat.not_le.2 hw), hopen']
  simp only [hsettled, hchecks, hby, Bool.false_eq_true, if_false]
  cases s.easeFails m <;> rfl

theorem arrive_of_easeFails (h : s.easeFails m = some code) : s.arrive m = (s.heard m.conn).refuseArrived m code := by
  rw [arrive_open hhead hk hst hopen, h]
  rfl

variable (hease : s.easeFails m = none)
include hease

theorem arrive_of_wrong_tag (henc : m.enc = true) (htag : tagOk k.rxKey m = false) :
    s.arrive m = ((s.heard m.conn).refuseArrived m arTag).tagFailed m.conn := by
  rw [arrive_open hhead hk hst hopen, hease, Option.elim_none, henc, htag]
  rfl

theorem arrive_admitted (htag : m.enc = true → tagOk k.rxKey m = true) (hver : m.kind = kAttest → k.verified = true) :
    ∃ by_, s.arrive m = (s.heard m.conn).hold m by_ := by
  obtain ⟨n, -, hconn⟩ := heard_conn hk
  have hright : (m.enc && !tagOk k.rxKey m) = false := by
    cases he : m.enc
    · rfl
    · simp [htag he]
  rw [arrive_open hhead hk hst hopen, hease, Option.elim_none, hright, if_neg Bool.false_ne_true]
  split
  next hkind => exact ⟨_, attestIn_of_verified ((congrArg Conn.verified hconn).trans (hver hkind))⟩
  next => exact ⟨_, rfl⟩

/-- A wrong tag is refused and counted; the number expected does not fall, and the fourth in a row fails the connection. -/
theorem arrive_of_wrong_tag_conn (henc : m.enc = true) (htag : tagOk k.rxKey m = false) :
    ((s.arrive m).conn m.conn).tagFails = k.tagFails + 1 ∧ k.rxNext ≤ ((s.arrive m).conn m.conn).rxNext ∧
    (3 ≤ k.tagFails → ((s.arrive m).conn m.conn).state = 5) := by
  obtain ⟨n, hheard, -⟩ := heard_conn hk
  obtain ⟨j, hj, hrx, hcount⟩ := refuseArrived_conn (code := arTag) hheard
  obtain ⟨v, hconn, hfourth⟩ := tagFailed_conn hj
  rw [arrive_of_wrong_tag hhead hk hst hopen hease henc htag, hconn]
  exact ⟨congrArg (· + 1) hcount, hrx, fun hmany => hfourth (hmany.trans_eq hcount.symm)⟩

/-- A message admitted before its turn is held in clear; no memory changes, and the number expected stays. -/
theorem arrive_of_later (htag : m.enc = true → tagOk k.rxKey m = true) (hver : m.kind = kAttest → k.verified = true)
    (hturn : k.atTurn = none) (hseq : m.seq ≠ k.rxNext) :
    (s.arrive m).parcels = s.parcels ∧ (s.arrive m).clusters = s.clusters ∧ ((s.arrive m).conn m.conn).rxNext = k.rxNext ∧
    ∃ h ∈ ((s.arrive m).conn m.conn).held, h.seq = m.seq ∧ h.msg = some { m with body := clearBodyOf k.rxKey m, enc := false } := by
  obtain ⟨n, hheard, -⟩ := heard_conn hk
  obtain ⟨-, -, hclear⟩ := heard_checks hk
  obtain ⟨by_, harrive⟩ := arrive_admitted hhead hk hst hopen hease htag hver
  have hbody : s.clearMsg m = clearBodyOf k.rxKey m := by rw [State.clearMsg, hk]
  have hmem := heard_parcels m.conn s
  rw [harrive, hold_of_later by_ hheard hturn hseq, State.modConn_parcels, State.modConn_clusters, State.conn_of (mod_some hheard)]
  refine ⟨hmem.1, hmem.2, rfl, (s.heard m.conn).heldAs m by_, List.mem_append_right _ (List.mem_singleton_self _), rfl, ?_⟩
  rw [State.heldAs, hclear, hbody]

end
end

/-- Settles O35: by the first check that a message fails, and for one that passes all by whether its turn has come. -/
theorem messagesAdmitted : Obligations.MessagesAdmitted := by
  intro s m i hrow hdst
  rw [row_seq hrow hdst]
  refine ⟨fun code hcode => ?_, fun k hhead hk hst => ⟨fun hw => ?_, fun hw hpassed => ?_, fun hopen => ⟨fun code hcode => ?_, ?_, ?_⟩⟩⟩
  · rw [arrive_of_headFails hcode]
    obtain ⟨hparcels, hclusters, hconns⟩ := refuseArrived_mem m code s
    exact ⟨_, rfl, rfl, hparcels, hclusters, hconns⟩
  · rw [arrive_beyond_window hhead hk hw]
  · rw [arrive_passed hhead hk hw hpassed]
  · rw [arrive_of_easeFails hhead hk hst hopen hcode]
  · exact fun hease henc htag => ⟨_, rfl, arrive_of_wrong_tag_conn hhead hk hst hopen hease henc htag⟩
  · exact fun hease htag hver hturn hseq => ⟨_, rfl, arrive_of_later hhead hk hst hopen hease htag hver hturn hseq⟩

end Sys2Proof.Machine

/-! Visibility of messages at their turn (R68, R71, R183, R185, R187). -/

namespace Sys2Proof.Machine

section
variable {s : State} {id : Nat} {k : Conn} {h : HeldMsg} {m : Msg}

/-- The message `h` at its turn has taken effect (R183, R192): `RX_NEXT` of connection `id` passes it and the consumed numbers behind it, the record is
used last, and the message counts for its drain. -/
def State.passTurn (id : Nat) (h : HeldMsg) (t : State) : State :=
  ((t.modConn id fun k => (k.pass false).skip 256).touchConn id).countDrained h

theorem passTurn_rxNext_lt {t : State} (hk : t.conn? id = some k) : k.rxNext < ((t.passTurn id h).conn id).rxNext := go_rx hk h

theorem passTurn_parcels {t : State} : (t.passTurn id h).parcels = t.parcels := by simp [State.passTurn, State.countDrained, State.touchConn]

theorem passTurn_clusters {t : State} : (t.passTurn id h).clusters = t.clusters := by simp [State.passTurn, State.countDrained, State.touchConn]

theorem passTurn_links {t : State} : (t.passTurn id h).links = t.links := by simp [State.passTurn, State.countDrained, State.touchConn]

theorem makeVisible_write (hm : m.kind = kWrite) : s.makeVisible id h m = (s.writeMsg id h.base h.context m).passTurn id h := by
  rw [State.makeVisible, if_pos hm]
  rfl

theorem makeVisible_readReq (hm : m.kind = kReadReq) : s.makeVisible id h m = (s.answerRead id h.base m).passTurn id h := by
  simp only [State.makeVisible, hm]
  rfl

theorem makeVisible_leaf (hm : m.kind = kLeaf) (hnone : (s.lead (connParcel id) m.arg).heldRecs = [])
    (hroom : s.leafRoom (connParcel id) m.arg (m.body.drop 32) = true) :
    s.makeVisible id h m = (s.publish (connParcel id) m.arg (m.body.take 32) (m.body.drop 32)).passTurn id h := by
  simp only [State.makeVisible, hm, hnone, hroom]
  rfl

theorem makeVisible_leaf_waits (hm : m.kind = kLeaf) (hroom : s.leafRoom (connParcel id) m.arg (m.body.drop 32) = false) :
    s.makeVisible id h m = s := by
  simp only [State.makeVisible, hm, hroom, Bool.and_false]
  rfl

theorem makeVisible_attest (hm : m.kind = kAttest) : s.makeVisible id h m = s.passTurn id h := by
  simp only [State.makeVisible, hm]
  rfl

theorem answerRead_conns (b : Nat) : (s.answerRead id b m).fabric.conns = s.fabric.conns := handOver_conns ..

theorem answerRead_parcels (b : Nat) : (s.answerRead id b m).parcels = s.parcels := State.toStation_parcels ..

theorem answerRead_clusters (b : Nat) : (s.answerRead id b m).clusters = s.clusters := State.toStation_clusters ..

theorem exec_messageVisible_at_turn (hk : s.conn? id = some k) (hst : k.state = 2 ∨ k.state = 3 ∨ k.state = 4) (hturn : k.atTurn = some h)
    (hmsg : h.msg = some m) : exec (.messageVisible id) s = .next (s.makeVisible id h m) := by
  have hlive : s.connLive id = true := by
    rw [State.connLive, hk]
    rcases hst with hst | hst | hst <;> simp [hst]
  have hopen : (k.state == 2 || k.state == 3 || k.state == 4) = true := by simpa [or_assoc] using hst
  refine congrArg _ ((if_pos hlive).trans ?_)
  simp only [State.visibleNext, State.conn_of hk, hopen, hturn, hmsg, if_true]

end

/-- Settles O36: by the kind of the message at its turn. -/
theorem messagesBecomeVisible : Obligations.MessagesBecomeVisible := by
  intro s id k h m hk hst hturn hmsg
  rw [exec_messageVisible_at_turn hk hst hturn hmsg]
  refine ⟨fun hm => ?_, fun hm => ?_, fun hm hnone hroom => ?_, fun hm hroom => ?_, fun hm => ?_⟩
  · obtain ⟨d, hd⟩ := State.writeMsg_look hk h.base h.context m
    have hrx := passTurn_rxNext_lt (h := h) hd
    rw [makeVisible_write hm]
    exact ⟨_, rfl, hrx, passTurn_parcels, passTurn_clusters⟩
  · rw [makeVisible_readReq hm]
    exact ⟨_, rfl, passTurn_rxNext_lt (look_of hk (answerRead_conns _)), passTurn_parcels.trans (answerRead_parcels _),
      passTurn_clusters.trans (answerRead_clusters _), passTurn_links⟩
  · obtain ⟨hfabric, hparcels⟩ := steady_publish (connParcel id) m.arg (m.body.take 32) (m.body.drop 32) s
    rw [makeVisible_leaf hm hnone hroom]
    exact ⟨_, rfl, passTurn_rxNext_lt (look_of hk (congrArg Fabric.conns hfabric)), passTurn_parcels.trans hparcels, passTurn_clusters⟩
  · rw [makeVisible_leaf_waits hm hroom]
  · rw [makeVisible_attest hm]
    exact ⟨_, rfl, passTurn_rxNext_lt hk, passTurn_parcels, passTurn_clusters⟩

end Sys2Proof.Machine

/-! Answers and the opening and closing exchange (R174, R177, R179, R180, R182, R185, R191). -/

namespace Sys2Proof.Machine

section
variable {s : State} {id : Nat} {k : Conn} {m : Msg}

/-! An answer that is the connection's (R190). -/

theorem onKind_of_own {kind : Nat} {f : State → State} (hm : m.kind = kind) (hdst : m.dstModule = s.boot.moduleId) : s.onKind kind m f = f s :=
  if_pos (by simp [hm, hdst])

/-- The connection has been heard by an answer: a right tag ends the row of wrong ones (R185, R190). -/
def State.heardAnswer (id : Nat) (m : Msg) (s : State) : State :=
  (s.modConn id fun k => { k with lastChain := s.now, tagFails := if m.enc then 0 else k.tagFails }).touchConn id

theorem heardAnswer_conn (hk : s.conn? id = some k) :
    ∃ a b, (s.heardAnswer id m).conn? id = some { k with lastChain := s.now, tagFails := a, lastUse := b } := answered_look hk

theorem heardAnswer_only (id : Nat) (m : Msg) (s : State) : s.heardAnswer id m = { s with fabric := (s.heardAnswer id m).fabric } := by
  rw [State.heardAnswer, touchConn_only, modConn_only]

theorem answerConn_eq (h : s.answerConn m = some id) : m.conn = id := by
  rw [State.answerConn] at h
  split at h
  · split at h
    · exact Option.some.inj h
    · cases h
  · cases h

/-! `COMPLETE` (R181, R185). -/

/-- What a `COMPLETE` does on its connection: `n` messages more are finished, which the completion stake is told; an attested end may open, a closing one
close. -/
def State.completed (id seq stake n : Nat) (t : State) : State :=
  let u := t.modConn id (Conn.covered seq)
  ((if n = 0 then u else u.stationSignal id none stake n).bothVerified id).tryClose id

theorem completed_conn {seq stake n : Nat} (hk : s.conn? id = some k) :
    ∃ d b v, (s.completed id seq stake n).conn id = { k.covered seq with dropped := d, closeSent := b, state := v } := by
  have hcovered := mod_some (g := Conn.covered seq) hk
  have hsignal : ∃ d, (if n = 0 then s.modConn id (Conn.covered seq) else (s.modConn id (Conn.covered seq)).stationSignal id none stake n).conn? id =
      some { k.covered seq with dropped := d } := by
    split
    · exact ⟨_, hcovered⟩
    · exact stationSignal_look hcovered none stake n
  obtain ⟨d, hd⟩ := hsignal
  obtain ⟨v, hv⟩ := bothVerified_look hd
  obtain ⟨b, w, hw, -⟩ := tryClose_look hv
  exact ⟨d, b, w, State.conn_of hw⟩

/-- Of the messages that a `COMPLETE` covers only reads stay outstanding. -/
theorem covered_outst {seq : Nat} {o : Outst} (ho : o ∈ (k.covered seq).outst) (hseq : o.msg.seq < seq) : o.msg.kind = kReadReq := by
  obtain ⟨x, -, hx⟩ := List.mem_filterMap.1 ho
  split at hx
  · split at hx
    next hread =>
      rw [← Option.some.inj hx]
      exact hread
    · cases hx
  next hlater =>
    rw [← Option.some.inj hx] at hseq
    exact absurd hseq hlater

theorem exec_complete_taken (hm : m.kind = kComplete) (hdst : m.dstModule = s.boot.moduleId) (hk : s.conn? id = some k)
    (hans : s.answerConn m = some id) (hc : k.carries kComplete = true) (hbody : m.bodyGrains = 0) (hdone : k.txDone < m.seq) (hnext : m.seq ≤ k.txNext)
    (hseal : (k.encrypt || m.viaGlobal) = true → m.enc = true) (htag : m.enc = true → tagOk k.rxKey m = true) :
    exec (.complete m) s = .next ((s.heardAnswer id m).completed id m.seq k.completeStake (m.seq - k.txDone - m.refusedN)) := by
  refine congrArg _ ((onKind_of_own hm hdst).trans ?_)
  simp only [hans, State.conn_of hk, hbody, decide_eq_false (Nat.not_le.2 hdone), decide_eq_false (Nat.not_lt.2 hnext), ne_eq, not_true_eq_false,
    decide_false, Bool.or_self, Bool.false_eq_true, if_false]
  exact answered_go _ hk (hm ▸ hc) (fun _ => hseal) nofun htag

/-! `READ_RESP` (R174, R185). -/

/-- The read that a response answers is no longer outstanding. -/
def Conn.readDone (seq : Nat) (k : Conn) : Conn := { k with outst := k.outst.filter fun x => !(x.msg.kind == kReadReq && x.msg.seq == seq) }

/-- What a response to the read `o` of number `seq` does on its connection: the read is no longer outstanding, its data land, and a closing end may close. -/
def State.responded (id seq : Nat) (o : Outst) (data : Bytes) (t : State) : State :=
  ((t.modConn id (Conn.readDone seq)).landResp id o data).tryClose id

section
variable {seq : Nat} {o : Outst} {data : Bytes}

theorem landResp_silent (ho : o.stake = none) :
    s.landResp id o data = s.writeSpace false (connParcel id) o.respCluster o.respSpace o.respAddr (data.take o.respLen) := by
  rw [State.landResp, ho]

/-- Memory is written alike in two states that differ in the fabric's records alone. -/
theorem writeSpace_of_fabric {t : State} (ht : t = { s with fabric := t.fabric }) (p c sp a : Nat) (b : Bytes) :
    (t.writeSpace false p c sp a b).parcels = (s.writeSpace false p c sp a b).parcels ∧
    (t.writeSpace false p c sp a b).clusters = (s.writeSpace false p c sp a b).clusters := by
  rw [ht, writeSpace_fab]
  exact ⟨rfl, rfl⟩

theorem readDone_outst {x : Outst} (hx : x ∈ (k.readDone seq).outst) : ¬(x.msg.kind = kReadReq ∧ x.msg.seq = seq) := by
  rintro ⟨hkind, hseq⟩
  have hkept := (List.mem_filter.1 hx).2
  simp [hkind, hseq] at hkept

theorem landed_conn (hk : s.conn? id = some k) (ho : o.stake = none) :
    ((s.modConn id (Conn.readDone seq)).landResp id o data).conn? id = some (k.readDone seq) := by
  rw [landResp_silent ho]
  exact look_of (mod_some hk) (by rw [State.writeSpace_fabric])

theorem responded_conn (hk : s.conn? id = some k) (ho : o.stake = none) :
    ∃ b v, (s.responded id seq o data).conn id = { k.readDone seq with closeSent := b, state := v } := by
  obtain ⟨b, v, hconn, -⟩ := tryClose_look (landed_conn (seq := seq) (data := data) hk ho)
  exact ⟨b, v, State.conn_of hconn⟩

/-- The data land as they would have before the connection's records changed. -/
theorem responded_memory {t : State} (hk : t.conn? id = some k) (ho : o.stake = none) (ht : t = { s with fabric := t.fabric }) :
    (t.responded id seq o data).parcels = (s.writeSpace false (connParcel id) o.respCluster o.respSpace o.respAddr (data.take o.respLen)).parcels ∧
    (t.responded id seq o data).clusters = (s.writeSpace false (connParcel id) o.respCluster o.respSpace o.respAddr (data.take o.respLen)).clusters := by
  obtain ⟨hparcels, hclusters⟩ := tryClose_mem (landed_conn (seq := seq) (data := data) hk ho)
  have honly : t.modConn id (Conn.readDone seq) = { s with fabric := (t.modConn id (Conn.readDone seq)).fabric } := by
    rw [modConn_only, ht]
  obtain ⟨hp, hc⟩ := writeSpace_of_fabric honly (connParcel id) o.respCluster o.respSpace o.respAddr (data.take o.respLen)
  rw [landResp_silent ho] at hparcels hclusters
  rw [State.responded, landResp_silent ho]
  exact ⟨hparcels.trans hp, hclusters.trans hc⟩

end

theorem exec_readResp_taken {o : Outst} (hm : m.kind = kReadResp) (hdst : m.dstModule = s.boot.moduleId) (hk : s.conn? id = some k)
    (hans : s.answerConn m = some id) (hc : k.carries kReadResp = true)
    (ho : k.outst.find? (fun o => o.msg.kind == kReadReq && o.msg.seq == m.seq) = some o) (hgrains : m.bodyGrains = ceilDiv o.respLen 32)
    (hlen : m.body.length = 32 * m.bodyGrains) (hseal : (k.encrypt || m.viaGlobal) = true → m.enc = true)
    (htag : m.enc = true → tagOk k.rxKey m = true) :
    exec (.readResp m) s = .next ((s.heardAnswer id m).responded id m.seq o (clearBodyOf k.rxKey m)) := by
  obtain ⟨a, b, hheard⟩ := heardAnswer_conn (m := m) hk
  have hclear : (s.heardAnswer id m).clearMsg m = clearBodyOf k.rxKey m := by rw [State.clearMsg, answerConn_eq hans, hheard]
  refine congrArg _ ((onKind_of_own hm hdst).trans ?_)
  simp only [hans, State.conn_of hk, ho, hgrains, hgrains ▸ hlen, ne_eq, not_true_eq_false, decide_false, Bool.or_self, Bool.false_eq_true, if_false]
  rw [← hclear]
  exact answered_go _ hk (hm ▸ hc) (fun _ => hseal) nofun htag

/-! `REFUSE` (R172, R191). -/

/-- The connection with a refusal of number `seq` counted: a read that is refused for good waits for no data. -/
def Conn.refusal (code seq chain : Nat) (k : Conn) : Conn := { k with
  refused := k.refused + 1
  refuseCounts := addAt code 1 k.refuseCounts
  outst := (k.outst.filter fun o => !(consuming code && o.msg.kind == kReadReq && o.msg.seq == seq)).map (Outst.refused code seq chain) }

/-- What a `REFUSE` does on its connection: it is counted, and the eighth `AR_FETCH` in a row of one message fails the connection. -/
def State.refusalTaken (id code seq chain : Nat) (t : State) : State :=
  let u := t.modConn id (Conn.refusal code seq chain)
  if (u.conn id).outst.any fun o => o.msg.seq == seq && 8 ≤ o.fetchRefusals then u.setConnState id 5 .fetch else u

theorem refusalTaken_conn {code seq chain : Nat} (hk : s.conn? id = some k) :
    ∃ v, (s.refusalTaken id code seq chain).conn id = { k.refusal code seq chain with state := v } := by
  have hcount := mod_some (g := Conn.refusal code seq chain) hk
  rw [State.refusalTaken]
  split
  · exact ⟨5, State.conn_of (setConn_some hcount 5 .fetch)⟩
  · exact ⟨k.state, State.conn_of hcount⟩

theorem exec_refuse_taken (hm : m.kind = kRefuse) (hdst : m.dstModule = s.boot.moduleId) (hk : s.conn? id = some k)
    (hans : s.refusedConn m = some id) (hc : k.carries kRefuse = true) (hbody : m.bodyGrains = 0) (hpos : 0 < m.arg) (hlt : m.arg < 16)
    (hout : (k.outst.any fun o => o.msg.seq == m.seq && !o.covered) = true) (hseal : m.enc = (consuming m.arg && k.encrypt))
    (htag : m.enc = true → tagOk k.rxKey m = true) :
    exec (.refuse m) s = .next ((s.heardAnswer id m).refusalTaken id m.arg m.seq s.now) := by
  refine congrArg _ ((onKind_of_own hm hdst).trans ?_)
  simp only [hans, State.conn_of hk, hbody, decide_eq_false (Nat.not_le.2 hlt), decide_eq_false (Nat.ne_of_gt hpos), hout, ne_eq, not_true_eq_false,
    decide_false, Bool.not_true, Bool.or_self, Bool.false_eq_true, if_false, ← hseal]
  exact answered_go _ hk (hm ▸ hc) (fun h _ => h) (fun h => h) htag

/-! `OPEN` and `OPEN_ACK` (R177, R179, R180). -/

theorem learnPeer_conn {body : Bytes} (hk : s.conn? id = some k) : ∃ e tx rx, (s.learnPeer id body).conn? id =
    some { k with peerConn := fld 0 4 body, peerGen := fld 4 2 body, peerEph := e, ephPriv := 0, txKey := tx, rxKey := rx } :=
  ⟨_, _, _, mod_some hk⟩

/-- The first open grains of a peer are learnt, and answered. -/
theorem takeOpen_first {body : Bytes} (hk : s.conn? id = some k) (hack : k.ackSent = false) :
    ((s.takeOpen id body).conn id).peerConn = fld 0 4 body ∧ ((s.takeOpen id body).conn id).peerGen = fld 4 2 body ∧
    ((s.takeOpen id body).conn id).ephPriv = 0 ∧ ((s.takeOpen id body).conn id).ackSent = true ∧ ((s.takeOpen id body).conn id).state = k.state := by
  have hack' : ¬(s.conn id).ackSent = true := by
    rw [State.conn_of hk, hack]
    exact Bool.false_ne_true
  obtain ⟨e, tx, rx, hlearnt⟩ := learnPeer_conn (body := body) hk
  rw [State.takeOpen, if_neg hack', State.conn_of (sendAck_look hlearnt)]
  exact ⟨rfl, rfl, rfl, rfl, rfl⟩

theorem exec_msgOpen_matched (hm : m.kind = kOpen) (hdst : m.dstModule = s.boot.moduleId) (hfence : s.fabric.stationFenced = false)
    (hhead : openHeadOk m = true) (hsigned : s.openSigned m = true) (hmatch : s.fabric.conns.find? (fun x => openMatches m x.2) = some (id, k)) :
    exec (.msgOpen m) s = .next (s.takeOpen id m.body) := by
  refine congrArg _ ((onKind_of_own hm hdst).trans ?_)
  simp only [hfence, hhead, hsigned, hmatch, Bool.not_true, Bool.false_eq_true, if_false, if_true]

/-- Open grains whose signature does not verify match no connection. -/
theorem exec_msgOpen_unsigned (hm : m.kind = kOpen) (hdst : m.dstModule = s.boot.moduleId) (hfence : s.fabric.stationFenced = false)
    (hhead : openHeadOk m = true) (hsigned : s.openSigned m = false) : exec (.msgOpen m) s = .next (s.refuse m arNoConn) := by
  refine congrArg _ ((onKind_of_own hm hdst).trans ?_)
  simp only [hfence, hhead, hsigned, Bool.not_true, Bool.false_eq_true, if_false]

/-- Once the peer's open grains have been taken the tag of its `OPEN_ACK` decides. -/
theorem exec_openAck_decided (hm : m.kind = kOpenAck) (hdst : m.dstModule = s.boot.moduleId) (hk : s.conn? m.conn = some k)
    (hhead : s.headFails m = none) (hok : openOk m.body = true) (hmatch : openMatches m k = true) (hsigned : s.openSigned m = true)
    (hack : k.ackSent = true) :
    exec (.openAck m) s = .next (if ackTag k.rxKey m = m.tag then s.keysConfirmed m.conn else s.setConnState m.conn 5 .key) := by
  refine congrArg _ ((onKind_of_own hm hdst).trans ?_)
  simp only [hhead, State.conn_of hk, hok, hmatch, hsigned, hack, Bool.not_true, Bool.or_self, Bool.false_eq_true, if_false, if_true]

/-! `CLOSE` (R177, R182). -/

/-- A closing end stays CLOSING or is CLOSED. -/
theorem tryClose_closing (hk : s.conn? id = some k) (hst : k.state = 4) :
    ((s.tryClose id).conn id).closeSeen = k.closeSeen ∧ (((s.tryClose id).conn id).state = 4 ∨ ((s.tryClose id).conn id).state = 6) := by
  obtain ⟨b, v, hconn, hv⟩ := tryClose_look hk
  rw [State.conn_of hconn]
  exact ⟨rfl, hv.imp (·.trans hst) (·.2)⟩

theorem beginClose_closing {why : ConnCause} (hk : s.conn? id = some k) :
    ((s.beginClose id why).conn id).closeSeen = k.closeSeen ∧ (((s.beginClose id why).conn id).state = 4 ∨ ((s.beginClose id why).conn id).state = 6) :=
  tryClose_closing (k := { k with state := 4, closingChain := s.now }) (mod_some (setConn_some hk 4 why)) rfl

/-- The peer's `CLOSE` has come. -/
def State.closeHeard (id : Nat) (s : State) : State := s.modConn id fun k => { k with closeSeen := true, lastChain := s.now }

theorem closeHeard_conn (hk : s.conn? id = some k) : (s.closeHeard id).conn? id = some { k with closeSeen := true, lastChain := s.now } := mod_some hk

theorem exec_msgClose_taken (hm : m.kind = kClose) (hdst : m.dstModule = s.boot.moduleId) (hk : s.conn? m.conn = some k)
    (hhead : s.headFails m = none) (htag : m.enc = true → tagOk k.rxKey m = true) :
    exec (.msgClose m) s = .next (if k.state = 4 then (s.closeHeard m.conn).tryClose m.conn else (s.closeHeard m.conn).beginClose m.conn .peer) := by
  have hright : (m.enc && !tagOk k.rxKey m) = false := by
    cases he : m.enc
    · rfl
    · simp [htag he]
  have hheard : ((s.closeHeard m.conn).conn m.conn).state = k.state := by rw [State.conn_of (closeHeard_conn hk)]
  refine congrArg _ ((onKind_of_own hm hdst).trans ?_)
  simp only [hhead, State.conn_of hk, hright, Bool.false_eq_true, if_false]
  rw [← State.closeHeard, hheard]

end

/-- Settles O37: each answer and each message of the exchange by what it does to its connection's record. -/
theorem connAnswers : Obligations.ConnAnswers := by
  intro s id k m hk hdst
  refine ⟨?_, ?_, ?_, ?_, ?_, ?_, ?_⟩
  · intro hm hans hc hbody hdone hnext hseal htag
    obtain ⟨a, b, hheard⟩ := heardAnswer_conn (m := m) hk
    obtain ⟨d, e, v, hconn⟩ := completed_conn (seq := m.seq) (stake := k.completeStake) (n := m.seq - k.txDone - m.refusedN) hheard
    refine ⟨_, exec_complete_taken hm hdst hk hans hc hbody hdone hnext hseal htag, ?_⟩
    rw [hconn]
    exact ⟨rfl, rfl, fun o ho => covered_outst ho⟩
  · intro o hm hans hc ho hstake hgrains hlen hseal htag
    obtain ⟨a, b, hheard⟩ := heardAnswer_conn (m := m) hk
    obtain ⟨e, v, hconn⟩ := responded_conn (seq := m.seq) (data := clearBodyOf k.rxKey m) hheard hstake
    refine ⟨_, exec_readResp_taken hm hdst hk hans hc ho hgrains hlen hseal htag, ?_, responded_memory hheard hstake (heardAnswer_only id m s)⟩
    rw [hconn]
    exact fun x => readDone_outst
  · intro hm hans hc hbody hpos hlt hout hseal htag
    obtain ⟨a, b, hheard⟩ := heardAnswer_conn (m := m) hk
    obtain ⟨v, hconn⟩ := refusalTaken_conn (code := m.arg) (seq := m.seq) (chain := s.now) hheard
    refine ⟨_, exec_refuse_taken hm hdst hk hans hc hbody hpos hlt hout hseal htag, ?_⟩
    rw [hconn]
    exact ⟨rfl, rfl, rfl⟩
  · exact fun hm hfence hhead hsigned hack hmatch => ⟨_, exec_msgOpen_matched hm hdst hfence hhead hsigned hmatch, takeOpen_first hk hack⟩
  · exact fun hm hfence hhead hsigned => exec_msgOpen_unsigned hm hdst hfence hhead hsigned
  · rintro hm rfl hhead hok hmatch hsigned hack
    rw [exec_openAck_decided hm hdst hk hhead hok hmatch hsigned hack]
    have hconfirmed := keysConfirmed_look hk
    refine ⟨fun htag => ?_, fun htag hatt => ?_, fun htag hatt => ?_⟩
    · rw [if_neg htag]
      exact ⟨_, rfl, congrArg Conn.state (State.conn_of (setConn_some hk 5 .key))⟩
    · rw [if_pos htag]
      exact ⟨_, rfl, by rw [hconfirmed, hatt]; rfl⟩
    · rw [if_pos htag]
      exact ⟨_, rfl, by rw [hconfirmed, hatt]; rfl⟩
  · rintro hm rfl hhead htag
    refine ⟨_, exec_msgClose_taken hm hdst hk hhead htag, ?_⟩
    split
    next hst => exact tryClose_closing (closeHeard_conn hk) hst
    next => exact beginClose_closing (closeHeard_conn hk)

end Sys2Proof.Machine

/-! Timers of a connection, and the fetch of a spilled record (R170 to R172, R177, R179, R182, R185). -/

namespace Sys2Proof.Machine

section
variable {s : State} {id : Nat} {k : Conn}

theorem connLive_of_state (hk : s.conn? id = some k) (hst : k.state ≠ 6) : s.connLive id = true := by simp [State.connLive, hk, hst]

/-! The opening exchange (R179). -/

theorem exec_openResend_due (hk : s.conn? id = some k) (hst : k.state = 1) (hdue : k.openSent + 64 ≤ s.now) :
    exec (.openResend id) s = .next (s.sendOpen id) := by
  have hlive := connLive_of_state hk (by simp [hst])
  exact congrArg _ (if_pos (by simp [hlive, State.conn_of hk, hst, hdue]))

theorem sendOpen_conn (hk : s.conn? id = some k) : (s.sendOpen id).conn id = { k with openSent := s.now } :=
  State.conn_of (look_of (mod_some hk) (State.toStation_conns ..))

theorem sendOpen_parcels (id : Nat) (s : State) : (s.sendOpen id).parcels = s.parcels := by simp [State.sendOpen]

theorem exec_openTimeout_due (hk : s.conn? id = some k) (hst : k.state = 1) (hdue : k.openedChain + 1024 ≤ s.now) :
    exec (.openTimeout id) s = .next (s.setConnState id 5 .openTimeout) := by
  have hlive := connLive_of_state hk (by simp [hst])
  exact congrArg _ (if_pos (by simp [hlive, State.conn_of hk, hst, hdue]))

/-! Closing, and lost peers (R177, R182, R185). -/

theorem exec_closingTimeout_due (hk : s.conn? id = some k) (hst : k.state = 4) (hdue : k.closingChain + 64 ≤ s.now) :
    exec (.closingTimeout id) s = .next ((s.sendClose id).setConnState id 6 .command) := by
  have hlive := connLive_of_state hk (by simp [hst])
  exact congrArg _ (if_pos (by simp [hlive, State.conn_of hk, hst, hdue]))

theorem exec_connTimeout_due (hk : s.conn? id = some k) (hst : k.state = 2 ∨ k.state = 3) (hquiet : k.lastChain + k.timeoutChains ≤ s.now)
    (hlate : ∃ o ∈ k.outst, o.sentChain + k.timeoutChains ≤ s.now) :
    exec (.connTimeout id) s = .next ((s.setConnState id 5 .timeout).reportPeer k.peerModule) := by
  have hlive : s.connLive id = true := connLive_of_state hk (by omega)
  have hout : s.timedOut k = true := by simpa [State.timedOut, hst, hquiet] using hlate
  rw [← State.conn_of hk] at hout ⊢
  exact congrArg _ (if_pos (by rw [hlive, hout]; rfl))

/-! `AR_FETCH` (R172). -/

/-- The message of number `seq` waits for no record of its peer any more. -/
def Conn.fetched (seq : Nat) (k : Conn) : Conn :=
  { k with outst := k.outst.map fun o => if o.msg.seq = seq then { o with fetchChain := none } else o }

theorem fetched_outst {seq : Nat} {x : Outst} (hx : x ∈ (k.fetched seq).outst) (hseq : x.msg.seq = seq) : x.fetchChain = none := by
  obtain ⟨o, -, rfl⟩ := List.mem_map.1 hx
  split at hseq
  next hsame => rw [if_pos hsame]
  next hother => exact absurd hseq hother

theorem exec_fetchResend_due {q c : Nat} {o : Outst} (hk : s.conn? id = some k) (ho : k.outst.find? (fun o => o.msg.seq == q) = some o)
    (hc : o.fetchChain = some c) (hdue : c + 2 ≤ s.now) (hst : k.state = 2 ∨ k.state = 3) :
    exec (.fetchResend id q) s = .next ((s.modConn id (Conn.fetched q)).toStation o.msg) := by
  have hmay : (decide (c + 2 ≤ s.now) && (k.state == 2 || k.state == 3)) = true := by simpa [hdue] using hst
  show execFetchResend id q s = _
  simp only [execFetchResend, State.conn_of hk, ho, hc, hmay, if_true]
  rfl

/-! Fetches of spilled records (R170, R171). -/

theorem unspill_resident (id : Nat) (s : State) : (s.unspill id).resident id = true := by simp [State.unspill, State.resident]

theorem resident_of_host {t : State} (h : t.host = s.host) (n : Nat) : t.resident n = s.resident n := by rw [State.resident, h, State.resident]

theorem setConnState_host (id v : Nat) (why : ConnCause) (s : State) : (s.setConnState id v why).host = s.host := by
  rw [State.setConnState]
  split
  · rfl
  · dsimp only
    split <;> split <;> simp [groupLoss_host]

/-- A record that fails its check is given up: it counts as on chip, and its connection fails. -/
def State.fetchFailed (id : Nat) (s : State) : State :=
  (((s.unspill id).setConnState id 5 .spill).evFn (connParcel id + 1) 0x0803 [id]).evPf 0x0803 [id]

theorem fetchFailed_resident (id : Nat) (s : State) : (s.fetchFailed id).resident id = true := by
  have hhost : (s.fetchFailed id).host = (s.unspill id).host := by
    rw [State.fetchFailed, State.evPf_host, State.evFn_host, setConnState_host]
  rw [resident_of_host hhost, unspill_resident]

theorem fetchFailed_conn (hk : s.conn? id = some k) : (s.fetchFailed id).conn id = { k with state := 5 } := by
  have hk' : (s.unspill id).conn? id = some k := hk
  have hfailed := setConn_some hk' 5 .spill
  exact State.conn_of (look_of hfailed (by rw [State.fetchFailed, State.evPf_conns, State.evFn_conns]))

/-- The record that a fetch brought is in force again, and used last. -/
def State.fetchTaken (id : Nat) (b : Bytes) (s : State) : State := ((s.unspill id).modConn id (parseConn b)).touchConn id

theorem fetchTaken_resident (id : Nat) (b : Bytes) (s : State) : (s.fetchTaken id b).resident id = true := by
  have hhost : (s.fetchTaken id b).host = (s.unspill id).host := by rw [State.fetchTaken, touchConn_only, modConn_only]
  rw [resident_of_host hhost, unspill_resident]

theorem fetchTaken_conn {b : Bytes} (hk : s.conn? id = some k) :
    (s.fetchTaken id b).conn id = { parseConn b k with lastUse := s.fabric.useCount + 1 } := by
  have hread : ((s.unspill id).modConn id (parseConn b)).conn? id = some (parseConn b k) := mod_some hk
  have hcount : ((s.unspill id).modConn id (parseConn b)).fabric.useCount = s.fabric.useCount := by
    rw [State.modConn]
    split <;> rfl
  refine State.conn_of ?_
  rw [State.fetchTaken, State.touchConn_look, if_pos rfl, hread, hcount]
  rfl

section
variable {rc bg n : Nat} {b : Bytes} {tag : BitVec 128} (hres : s.resident id = false) (hup : s.host.linkUp = true)
include hres hup

theorem exec_spillFetchDone_bad (hbad : s.spillOk id rc bg n b tag = false) : exec (.spillFetchDone id rc bg n b tag) s = .next (s.fetchFailed id) := by
  show execSpillFetchDone id rc bg n b tag s = _
  simp only [execSpillFetchDone, hres, hup, hbad, Bool.not_true, Bool.not_false, Bool.or_self, Bool.false_eq_true, if_false, if_true]
  rfl

theorem exec_spillFetchDone_good (hgood : s.spillOk id rc bg n b tag = true) (hroom : s.shareFull (connParcel id) = false) :
    exec (.spillFetchDone id rc bg n b tag) s =
      .next (s.fetchTaken id (gcmOpen (s.slotKey 6) (spillNonce rc n) (spillHead rc bg n) b)) := by
  have hstay : s.makeRoom (connParcel id) = s := by
    rw [State.makeRoom, hroom]
    rfl
  have hcan : s.canReside (connParcel id) = true := by
    rw [State.canReside, hroom]
    rfl
  show execSpillFetchDone id rc bg n b tag s = _
  simp only [execSpillFetchDone, hres, hup, hgood, hcan, hstay, Bool.not_true, Bool.or_self, Bool.false_eq_true, if_false, if_true]
  rfl

end
end

/-- Settles O38: each timer that is due by what it does to the connection's record, a fetch by whether its record is good. -/
theorem connTimers : Obligations.ConnTimers := by
  intro s id k hk
  refine ⟨fun hst hdue => ⟨_, exec_openResend_due hk hst hdue, sendOpen_conn hk, sendOpen_parcels id s⟩,
    fun hst hdue => ⟨_, exec_openTimeout_due hk hst hdue, State.conn_of (setConn_some hk 5 .openTimeout)⟩, fun hst hdue => ?_,
    fun hst hquiet hlate => ⟨_, exec_connTimeout_due hk hst hquiet hlate, ?_⟩, fun q o c ho hc hdue hst => ?_, fun rc bg n b tag hres hup => ⟨?_, ?_⟩⟩
  · obtain ⟨sent, hclose, hknown⟩ := sendClose_look hk
    refine ⟨_, exec_closingTimeout_due hk hst hdue, ?_⟩
    rw [State.conn_of (setConn_some hclose 6 .command)]
    exact ⟨rfl, hknown⟩
  · exact State.conn_of (look_of (setConn_some hk 5 .timeout) (congrArg Fabric.conns (State.reportPeer_fabric ..)))
  · have hconn : (s.modConn id (Conn.fetched q)).conn id = k.fetched q := State.conn_of (mod_some hk)
    refine ⟨_, exec_fetchResend_due hk ho hc hdue hst, ?_, ?_, State.modConn_links ..⟩
    · rw [hconn]
      rfl
    · rw [hconn]
      exact fun x => fetched_outst
  · exact fun hbad => ⟨_, exec_spillFetchDone_bad hres hup hbad, fetchFailed_resident id s, fetchFailed_conn hk⟩
  · exact fun hgood hroom => ⟨_, exec_spillFetchDone_good hres hup hgood hroom, fetchTaken_resident id _ s, fetchTaken_conn hk⟩

end Sys2Proof.Machine

/-! Settings as drawer commands (R193, R196, R211, R218, R261). -/

namespace Sys2Proof.Machine

section
variable {s : State} {fn : Nat} {t : Taken} {b : Bytes}

/-! The tables of PF0 (R193, R196, R218). -/

theorem exec_spillMap_taken (h : s.Asks fn 0x03 16 true false t b) (hbase : fld 0 8 b % 4096 = 0) (hsize : fld 8 8 b = 201326592)
    (hnone : s.host.spilled = []) :
    exec (.spillMap fn) s = .next (s.served fn t [] fun u => { u with host := { u.host with spillBase := some (fld 0 8 b) } }) := by
  have hg : (s.popTaken fn).gate fn 0x03 true false = none := h.gate
  refine congrArg _ (runDrawer_served h ?_)
  simp [gated_of_gate hg, hbase, hsize, hnone]

/-- A table of shares that keeps its sum and the entries of the open parcels passes its check (R193, R196). -/
theorem shares_accepted {l cur : List Nat} {most : Nat} (hsum : l.sum ≤ most)
    (hkeep : ∀ p < 16, (s.parcel p).isOpen = true → l.getD p 0 = cur.getD p 0) :
    (decide (most < l.sum) || (List.range 16).any fun p => (s.parcel p).isOpen && l.getD p 0 != cur.getD p 0) = false := by
  rw [decide_eq_false (Nat.not_lt.2 hsum), shares_ok hkeep]
  rfl

theorem exec_hostShares_taken {l : List Nat} (h : s.Asks fn 0x04 64 true false t b) (hl : l = (List.range 16).map fun i => fld (4 * i) 4 b)
    (hsum : l.sum ≤ 880000) (hkeep : ∀ p < 16, (s.parcel p).isOpen = true → l.getD p 0 = s.sharesNext.getD p 0) :
    exec (.hostShares fn) s = .next (s.served fn t [] fun u => { u with host := { u.host with pendShares := some l } }) := by
  subst hl
  have hg : (s.popTaken fn).gate fn 0x04 true false = none := h.gate
  refine congrArg _ (runDrawer_served h ?_)
  simp only [gated_of_gate hg, State.popTaken_parcel, popShares, shares_accepted hsum hkeep, guarded_cons, guarded_nil, Bool.false_eq_true, if_false]

theorem exec_fabricShares_taken {l : List Nat} (h : s.Asks fn 0x05 32 true false t b) (hl : l = (List.range 16).map fun i => fld (2 * i) 2 b)
    (hsum : l.sum ≤ 12500)
    (hkeep : ∀ p < 16, (s.parcel p).isOpen = true → l.getD p 0 = (s.fabric.pendSlices.getD s.fabric.slices).getD p 0) :
    exec (.fabricShares fn) s = .next (s.served fn t [] fun u => { u with fabric := { u.fabric with pendSlices := some l } }) := by
  subst hl
  have hg : (s.popTaken fn).gate fn 0x05 true false = none := h.gate
  refine congrArg _ (runDrawer_served h ?_)
  simp only [gated_of_gate hg, State.popTaken_parcel, State.popTaken_fabric, shares_accepted hsum hkeep, guarded_cons, guarded_nil,
    Bool.false_eq_true, if_false]

/-! The settings of a VF (R211, R261). -/

theorem exec_debugConsent_taken (h : s.Asks fn 0x24 8 false true t b) (hbits : fld 0 4 b < 16) (hz : allZero (b.drop 4) = true)
    (hmay : BitVec.ofNat 32 (fld 0 4 b) = (s.parcel (parcelOf fn)).grant ∨ s.sealedRound (parcelOf fn) = false) :
    exec (.debugConsent fn) s = .next (s.served fn t [] fun u =>
      u.modParcel (parcelOf fn) fun q => { q with pendGrant := some (BitVec.ofNat 32 (fld 0 4 b)) }) := by
  have hg : (s.popTaken fn).gate fn 0x24 false true = none := h.gate
  refine congrArg _ (runDrawer_served h ?_)
  rcases hmay with hsame | hround
  · simp [gated_of_gate hg, Nat.not_le.2 hbits, hz, hsame]
  · simp [gated_of_gate hg, Nat.not_le.2 hbits, hz, sealedPop, hround]

/-- Function `fn` takes the mapping `m` (R211): the first of a session is in force at once, a later one waits for the chain boundary. -/
def State.takeMap (fn : Nat) (m : BounceMap) (u : State) : State :=
  u.modFn fn fun f =>
    if f.bounce.live then { f with bounce := { f.bounce with next := some m } } else { f with bounce := u.mapBases (parcelOf fn) m f.bounce }

theorem exec_bounceMap_taken (h : s.Asks fn 0x23 44 false true t b) (hz1 : allZero (cut 29 1 b) = true) (hz2 : allZero (cut 38 6 b) = true)
    (hok : s.mapOk (parcelOf fn) (parseMap b) = true) :
    exec (.bounceMap fn) s = .next (s.served fn t [] (State.takeMap fn (parseMap b))) := by
  have hg : (s.popTaken fn).gate fn 0x23 false true = none := h.gate
  have hok' : (s.popTaken fn).mapOk (parcelOf fn) (parseMap b) = true := hok
  refine congrArg _ (runDrawer_served h ?_)
  simp only [hz1, hz2, gated_of_gate hg, hok', guarded_cons, guarded_nil, Bool.not_true, Bool.or_self, Bool.false_eq_true, if_false]
  rfl

theorem takeMap_fn_ne {m : BounceMap} {n : Nat} (hn : n ≠ fn) : (s.takeMap fn m).fn n = s.fn n := State.modFn_fn_ne hn

/-- While a mapping is in force the new one waits for the chain boundary. -/
theorem takeMap_waits {m : BounceMap} (hfn : fn < s.fns.length) (hlive : (s.fn fn).bounce.live = true) :
    ((s.takeMap fn m).fn fn).bounce = { (s.fn fn).bounce with next := some m } := by
  rw [State.takeMap, State.modFn_fn hfn, if_pos hlive]

/-- A session's first mapping is in force at once. -/
theorem takeMap_at_once {m : BounceMap} (hfn : fn < s.fns.length) (hlive : ¬(s.fn fn).bounce.live = true) :
    ((s.takeMap fn m).fn fn).bounce = s.mapBases (parcelOf fn) m (s.fn fn).bounce := by
  rw [State.takeMap, State.modFn_fn hfn, if_neg hlive]

theorem popTaken_bounce (n : Nat) : ((s.popTaken fn).fn n).bounce = (s.fn n).bounce := popFn Fn.bounce (fun _ _ => rfl) fn n s

end

/-- Settles O2: one lemma for each command; a new mapping by whether one is in force. -/
theorem settingsTaken : Obligations.SettingsTaken := by
  intro s fn t b
  refine ⟨exec_spillMap_taken, fun h => exec_hostShares_taken h rfl, fun h => exec_fabricShares_taken h rfl, exec_debugConsent_taken,
    fun h hz1 hz2 hok => ?_⟩
  refine ⟨(s.popTaken fn).takeMap fn (parseMap b), exec_bounceMap_taken h hz1 hz2 hok, rfl,
    fun m hm => (takeMap_fn_ne hm).trans (State.modFn_fn_ne hm), fun hfn => ?_⟩
  have hlen : fn < (s.popTaken fn).fns.length := by simpa [State.popTaken, State.modFn] using hfn
  split
  next hlive => rw [takeMap_waits hlen (by rwa [popTaken_bounce]), popTaken_bounce]
  next hlive =>
    rw [takeMap_at_once hlen (by rwa [popTaken_bounce]), popTaken_bounce]
    exact ⟨rfl, rfl, rfl, rfl⟩

end Sys2Proof.Machine

/-! Every command and every step keeps the state sound (R203, R206, R321, R330, R338). -/

namespace Sys2Proof.Machine

/-- The commands to which the spec gives an effect on the life cycle: the update messages and the factory's fuse programming (R231). -/
def movesLife : Instr → Bool
  | .install _ | .destroy _ | .lifecycle _ | .authority _ | .modelKey _ | .fieldChallenge _ | .fieldOpen _ | .factoryFuseProgramming => true
  | _ => false

section
variable {l : Nat} {i : Instr} {s t : State}

/-- By cases on the command: each keeps a state good by the lemma about its meaning. -/
theorem exec_good (hi : movesLife i = false) (h : Good l s) : GoodOut l (exec i s) := by
  cases i with
  | moduleInfo => exact execModuleInfo_good _ _ h
  | modulePlat => exact execModulePlat_good _ _ h
  | spillMap => exact execSpillMap_good _ _ h
  | hostShares => exact execHostShares_good _ _ h
  | fabricShares => exact execFabricShares_good _ _ h
  | linkRetrain => exact execLinkRetrain_good _ _ h
  | linkStatus => exact execLinkStatus_good _ _ h
  | parcelOpen => exact execParcelOpen_good _ _ h
  | parcelClose => exact execParcelClose_good _ _ h
  | parcelStatus => exact execParcelStatus_good _ _ h
  | sessionOpen => exact execSessionOpen_good _ _ h
  | attestReport => exact execAttestReport_good _ _ h
  | parcelAttach => exact execParcelAttach_good _ _ h
  | bounceMap => exact execBounceMap_good _ _ h
  | debugConsent => exact execDebugConsent_good _ _ h
  | lotLoad => exact execLotLoad_good _ _ h
  | lotUnload => exact execLotUnload_good _ _ h
  | contextStart => exact execContextStart_good _ _ h
  | contextStop => exact execContextStop_good _ _ h
  | contextSeed => exact execContextSeed_good _ _ h
  | contextStatus => exact execContextStatus_good _ _ h
  | roundOpen => exact execRoundOpen_good _ _ h
  | roundMap => exact execRoundMap_good _ _ h
  | roundClose => exact execRoundClose_good _ _ h
  | connOpen => exact execConnOpen_good _ _ h
  | connClose => exact execConnClose_good _ _ h
  | connStatus => exact execConnStatus_good _ _ h
  | easementGrant => exact execEasementGrant_good _ _ h
  | easementRevoke => exact execEasementRevoke_good _ _ h
  | chestCertify => exact execChestCertify_good _ _ h
  | drawerOpen => exact execDrawerOpen_good _ _ _ _ h
  | drawerClose => exact execDrawerClose_good _ _ _ _ h
  | reqTailDoorbell => exact execReqTailDoorbell_good _ _ _ _ h
  | respHeadDoorbell => exact execRespHeadDoorbell_good _ _ _ h
  | registerWrite => exact execRegisterWrite_good _ _ _ _ _ h
  | responseWrite => exact execResponseWrite_good _ _ h
  | functionReset => exact execFunctionReset_good _ _ h
  | pcieLinkTrained => exact execPcieLinkTrained_good _ _ _ h
  | bounceInRecord => exact execBounceInRecord_good _ _ _ h
  | bounceOutRecord => exact execBounceOutRecord_good _ _ h
  | bounceMapEffect => exact execBounceMapEffect_good _ _ h
  | chainBoundary => exact execChainBoundary_good _ _ _ _ h
  | rodBoundary => exact execRodBoundary_good _ _ h
  | boundaryReserve => exact execBoundaryReserve_good _ _ h
  | contextSwap => exact execContextSwap_good _ _ h
  | contextFinish => exact execContextFinish_good _ _ _ h
  | hangReplayEnd => exact execHangReplayEnd_good _ _ _ h
  | tileStep => exact execTileStep_good _ _ _ _ h
  | weightLoad => exact execWeightLoad_good _ _ _ _ h
  | shelfWrite => exact execShelfWrite_good _ _ _ h
  | pairVote => exact execPairVote_good _ _ _ _ _ _ h
  | preload => exact execPreload_good _ _ _ _ h
  | drain => exact execDrain_good _ _ _ _ _ _ _ h
  | nodeStart => exact execNodeStart_good _ _ _ _ h
  | nodeComplete => exact execNodeComplete_good _ _ _ _ h
  | fold => exact execFold_good _ _ _ _ h
  | foldRecord => exact execFoldRecord_good _ _ _ h
  | maskExpand => exact execMaskExpand_good _ _ _ _ h
  | nttFwd => exact execNttFwd_good _ _ _ _ h
  | nttInv => exact execNttInv_good _ _ _ _ h
  | keyswitch => exact execKeyswitch_good _ _ _ _ h
  | refreshLut => exact execRefreshLut_good _ _ _ _ h
  | clipL2 => exact execClipL2_good _ _ _ _ h
  | sumsq => exact execSumsq_good _ _ _ _ h
  | meanvar => exact execMeanvar_good _ _ _ _ h
  | noiseGauss => exact execNoiseGauss_good _ _ _ _ h
  | decodeCenter => exact execDecodeCenter_good _ _ _ _ h
  | applyStep => exact execApplyStep_good _ _ _ _ h
  | matmul => exact execMatmul_good _ _ _ _ h
  | seedRecover => exact execSeedRecover_good _ _ _ _ h
  | pairSeed => exact execPairSeed_good _ _ _ _ h
  | descriptorPush => exact execDescriptorPush_good _ _ _ _ _ h
  | copy => exact execCopy_good _ _ _ _ h
  | copy2d => exact execCopy2d_good _ _ _ _ h
  | fill => exact execFill_good _ _ _ _ h
  | send => exact execSend_good _ _ _ _ h
  | rodMark => exact execRodMark_good _ _ _ _ h
  | carryComplete => exact execCarryComplete_good _ _ _ _ _ h
  | stakeWaitMet => exact execStakeWaitMet_good _ _ _ _ h
  | leafDeliver => exact execLeafDeliver_good _ _ _ _ _ _ h
  | leafDeliveryResume => exact execLeafDeliveryResume_good _ _ _ h
  | clientFragment => exact execClientFragment_good _ _ _ _ h
  | intakeDeadline => exact execIntakeDeadline_good _ _ _ h
  | finalReceipt => exact execFinalReceipt_good _ _ _ h
  | receipt => exact execReceipt_good _ _ _ _ h
  | closeStakeSignal => exact execCloseStakeSignal_good _ _ _ h
  | sliceResult => exact execSliceResult_good _ _ _ _ h
  | closeDeadline => exact execCloseDeadline_good _ _ _ h
  | signalDetect => exact execSignalDetect_good _ _ h
  | trainingTimeout => exact execTrainingTimeout_good _ _ h
  | trainingRetry => exact execTrainingRetry_good _ _ h
  | hello _ _ _ width => exact execHello_good _ _ _ width _ _ h
  | echo => exact execEcho_good _ _ _ _ _ _ h
  | flit => exact execFlit_good _ _ _ h
  | nak => exact execNak_good _ _ _ h
  | nakRepeat => exact execNakRepeat_good _ _ h
  | replayTimeout => exact execReplayTimeout_good _ _ h
  | laneFail => exact execLaneFail_good _ _ _ h
  | flitLockLoss => exact execFlitLockLoss_good _ _ h
  | relockRouteLoss => exact execRelockRouteLoss_good _ _ h
  | relockDone => exact execRelockDone_good _ _ h
  | relockTimeout => exact execRelockTimeout_good _ _ h
  | credit => exact execCredit_good _ _ _ _ _ _ h
  | marker => exact execMarker_good _ _ _ h
  | chainStep => exact execChainStep_good _ _ h
  | markerHoldover => exact execMarkerHoldover_good _ h
  | markerLost => exact execMarkerLost_good _ h
  | masterTakeover => exact execMasterTakeover_good _ h
  | write => exact execWrite_good _ _ h
  | readReq => exact execReadReq_good _ _ h
  | leaf => exact execLeaf_good _ _ h
  | readResp => exact execReadResp_good _ _ h
  | complete => exact execComplete_good _ _ h
  | refuse => exact execRefuse_good _ _ h
  | msgOpen => exact execMsgOpen_good _ _ h
  | openAck => exact execOpenAck_good _ _ h
  | msgClose => exact execMsgClose_good _ _ h
  | attest => exact execAttest_good _ _ h
  | messageVisible => exact execMessageVisible_good _ _ h
  | connTimeout => exact execConnTimeout_good _ _ h
  | openResend => exact execOpenResend_good _ _ h
  | openTimeout => exact execOpenTimeout_good _ _ h
  | closingTimeout => exact execClosingTimeout_good _ _ h
  | fetchResend => exact execFetchResend_good _ _ _ h
  | spillFetchDone => exact execSpillFetchDone_good _ _ _ _ _ _ _ h
  | revokeDrainDone => exact execRevokeDrainDone_good _ _ _ h
  | revokeDrainLimit => exact execRevokeDrainLimit_good _ _ h
  | closeFillDone => exact execCloseFillDone_good _ _ h
  | snapshotDone => exact execSnapshotDone_good _ _ h
  | contextFault => exact execContextFault_good _ _ _ _ h
  | clusterError => exact execClusterError_good _ _ _ h
  | memPoison => exact execMemPoison_good _ _ _ h
  | subchFail => exact execSubchFail_good _ _ h
  | subchDegraded => exact execSubchDegraded_good _ _ _ h
  | migrationDone => exact execMigrationDone_good _ _ h
  | d2dError => exact execD2dError_good _ h
  | fenceTimeout => exact execFenceTimeout_good _ _ h
  | moduleReset => exact execModuleReset_good _ _ h
  | lockstepMismatch => exact execLockstepMismatch_good _ _ h
  | watchdogMiss => exact execWatchdogMiss_good _ h
  | pwrWarn => exact execPwrWarn_good _ _ h
  | inputUndervoltage => exact execInputUndervoltage_good _ _ _ h
  | powerFailRecovered => exact execPowerFailRecovered_good _ h
  | powerFailStop => exact execPowerFailStop_good _ _ h
  | inputOvervoltage => exact execInputOvervoltage_good _ _ _ h
  | pwrCycle => exact execPwrCycle_good _ _ _ h
  | inputSwitchClose => exact execInputSwitchClose_good _ _ _ h
  | presentJ1Break => exact execPresentJ1Break_good _ h
  | powerOn => exact execPowerOn_good _ _ _ h
  | railFail => exact execRailFail_good _ _ _ h
  | throttleTrigger => exact execThrottleTrigger_good _ _ _ _ h
  | thermalShutdown => exact execThermalShutdown_good _ _ _ _ h
  | thermalIdle => exact execThermalIdle_good _ _ _ h
  | thermalIdleClear => exact execThermalIdleClear_good _ h
  | coolantLimit => exact execCoolantLimit_good _ _ _ h
  | cableOverdraw => exact execCableOverdraw_good _ _ h
  | inletReading => exact execInletReading_good _ _ h
  | telemetryRefresh => exact execTelemetryRefresh_good _ _ h
  | scheduleAck => exact execScheduleAck_good _ h
  | meterSave => exact execMeterSave_good _ h
  | mgmtTelemetry => exact execMgmtTelemetry_good _ _ h
  | mgmtEntropy => exact execMgmtEntropy_good _ _ h
  | mgmtProfile => exact execMgmtProfile_good _ _ h
  | mgmtCap => exact execMgmtCap_good _ _ h
  | mgmtSchedule => exact execMgmtSchedule_good _ _ h
  | mgmtMeter => exact execMgmtMeter_good _ _ h
  | fwBegin => exact execFwBegin_good _ _ h
  | fwData => exact execFwData_good _ _ h
  | fwEnd => exact execFwEnd_good _ _ h
  | fwCommit => exact execFwCommit_good _ _ h
  | settingsWrite => exact execSettingsWrite_good _ _ h
  | surveyWrite => exact execSurveyWrite_good _ _ h
  | tlsCert => exact execTlsCert_good _ _ h
  | moduleResetWarm => exact execModuleResetWarm_good _ _ h
  | moduleResetCold => exact execModuleResetCold_good _ _ h
  | drbgReseed => exact execDrbgReseed_good _ _ h
  | entropyPattern => exact execEntropyPattern_good _ _ h
  | mgmtLinkRetrain => exact execMgmtLinkRetrain_good _ _ h
  | mgmtLinkStatus => exact execMgmtLinkStatus_good _ _ h
  | tlsHandshake => exact execTlsHandshake_good _ _ h
  | ethPacket => exact execEthPacket_good _ _ h
  | setEndpointId => exact execSetEndpointId_good _ _ _ h
  | getEndpointId => exact execGetEndpointId_good _ h
  | getEndpointUuid => exact execGetEndpointUuid_good _ h
  | getMctpVersionSupport => exact execGetMctpVersionSupport_good _ _ h
  | getMessageTypeSupport => exact execGetMessageTypeSupport_good _ h
  | getVendorMessageSupport => exact execGetVendorMessageSupport_good _ _ h
  | mctpUnsupportedCmd => exact execMctpUnsupportedCmd_good _ _ h
  | getVersion => exact execGetVersion_good _ h
  | getCapabilities => exact execGetCapabilities_good _ h
  | negotiateAlgorithms => exact execNegotiateAlgorithms_good _ _ h
  | getDigests => exact execGetDigests_good _ h
  | getCertificate => exact execGetCertificate_good _ _ _ _ h
  | challenge => exact execChallenge_good _ _ _ h
  | getMeasurements => exact execGetMeasurements_good _ _ _ h
  | spdmUnsupportedRequest => exact execSpdmUnsupportedRequest_good _ _ h
  | smbusLineRecovery => exact execSmbusLineRecovery_good _ _ h
  | smbusTargetTimeout => exact execSmbusTargetTimeout_good _ _ _ h
  | smbusFence => exact execSmbusFence_good _ _ _ h
  | smbusUnfence => exact execSmbusUnfence_good _ _ h
  | smbusRetry => exact execSmbusRetry_good _ _ h
  | smbusProbe => exact execSmbusProbe_good _ _ h
  | smbusPacket => exact execSmbusPacket_good _ _ h
  | healthTestFail => exact execHealthTestFail_good _ _ _ h
  | primaryRetest => exact execPrimaryRetest_good _ _ h
  | hubReseed => exact execHubReseed_good _ _ h
  | clusterGeneratorReseed => exact execClusterGeneratorReseed_good _ _ _ _ h
  | fieldChallengeExpiry => exact execFieldChallengeExpiry_good _ h
  | ebxelStart => exact execEbxelStart_good _ h
  | waveWake => exact execWaveWake_good _ _ h
  | waveTestDone => exact execWaveTestDone_good _ _ _ _ h
  | deviceReady => exact execDeviceReady_good _ _ _ h
  | earlyService => exact execEarlyService_good _ h
  | topologyJudge => exact execTopologyJudge_good _ h
  | vfEnable => exact execVfEnable_good _ _ h
  | trainingComplete => exact execTrainingComplete_good _ _ _ h
  | overvoltageRecovery => exact execOvervoltageRecovery_good _ _ h
  | transferAbandon => exact execTransferAbandon_good _ _ h
  | startUpTestEnd => exact execStartUpTestEnd_good _ _ _ h
  | diePowerUp => exact execDiePowerUp_good _ _ h
  | fieldDebugAccess => exact execFieldDebugAccess_good _ _ h
  | install | destroy | lifecycle | authority | modelKey | fieldChallenge | fieldOpen | factoryFuseProgramming => cases hi

/-- A command that may move the life cycle keeps the state sound all the same. -/
theorem exec_moved (h : Good l s) : MovedOut l (exec i s) := by
  by_cases hi : movesLife i = false
  · exact (exec_good hi h).moved
  cases i with
  | install => exact execInstall_moved _ _ h
  | destroy => exact execDestroy_moved _ _ h
  | lifecycle => exact execLifecycle_moved _ _ h
  | authority => exact execAuthority_moved _ _ h
  | modelKey => exact execModelKey_moved _ _ h
  | fieldChallenge => exact execFieldChallenge_moved _ _ h
  | fieldOpen => exact execFieldOpen_moved _ _ h
  | factoryFuseProgramming => exact execFactoryFuseProgramming_moved _ h
  | _ => exact absurd rfl hi

theorem exec_sound (h : s.Sound) (he : exec i s = .next t) : t.Sound := by
  obtain ⟨k, -, hk⟩ := (exec_moved (i := i) (good_of s h)).next t he
  exact ((good_iff k t).1 hk).2

/-- Taking the front command off the queue touches nothing that soundness speaks of. -/
theorem sound_pending {q : List Instr} (h : s.Sound) : { s with pending := q }.Sound :=
  ((good_iff _ _).1 (good_pending (good_of s h))).2

theorem step_of_cons {q : List Instr} (h : s.pending = i :: q) : step s = exec i { s with pending := q } := by
  rw [step, h]

theorem step_of_nil (h : s.pending = []) : step s = .next s := by
  rw [step, h]

end

/-- Settles O52: by the two forms of the queue. -/
theorem stepRunsFront : Obligations.StepRunsFront :=
  fun _ _ _ => ⟨step_of_cons rfl, step_of_nil rfl⟩

/-- Settles O54: a step is the front command run on the queue's rest, and each command keeps the state sound. -/
theorem stepKeepsSound : Obligations.StepKeepsSound := by
  intro s t hs h
  cases hq : s.pending with
  | nil =>
    rw [step_of_nil hq] at h
    exact Host.Outcome.next.inj h ▸ hs
  | cons c rest =>
    rw [step_of_cons hq] at h
    exact exec_sound (sound_pending hs) h

/-! The state after reset (R198, R251, R277). -/

/-- Every numbered unit is at its own reset value, which is bounded and canonical; every queue and table is empty. -/
theorem reset_sound : State.reset.Sound where
  units := ⟨rfl, rfl, rfl, rfl⟩
  bounded := ⟨fun _ hf => List.eq_of_mem_replicate hf ▸ Fn.bounded_reset, by decide, by decide, by decide⟩
  canonical := ⟨fun _ hq => List.eq_of_mem_replicate hq ▸ Parcel.canonical_reset,
    fun _ hk => List.eq_of_mem_replicate hk ▸ Cluster.canonical_reset, rfl, rfl, rfl, rfl, rfl⟩
  tls := ⟨List.nodup_nil, fun _ hk => absurd hk List.not_mem_nil⟩

/-- Settles O53: the units are copies of their reset values, in which drawers are closed and parcels and contexts empty. -/
theorem resetIsSound : Obligations.ResetIsSound := by
  refine ⟨reset_sound, rfl, rfl, rfl, rfl, fun f hf => ?_, fun q hq => ?_, rfl, rfl⟩
  · rw [List.eq_of_mem_replicate hf]
    exact ⟨rfl, rfl, rfl, rfl⟩
  · rw [List.eq_of_mem_replicate hq]
    exact ⟨rfl, fun x hx => by rw [List.eq_of_mem_replicate hx]; rfl⟩

end Sys2Proof.Machine

/-! Queries and signed answers as drawer commands (R219, R220, R237, R242). -/

namespace Sys2Proof.Machine

section
variable {s : State} {fn : Nat} {t : Taken} {b : Bytes}

theorem fits_of_inline {body : Bytes} (h : body.length ≤ 40) : t.fits body = true := by simp [Taken.fits, h]

theorem fits_of_respMax {body : Bytes} (h : body.length ≤ t.respMax) : t.fits body = true := by simp [Taken.fits, h]

/-- A request with a plain payload whose verdict is an effect `g` with a record that fits is served with `g` and that record. -/
theorem runDrawer_reported {op n : Nat} {pf vf : Bool} {body : Bytes} {f : State → Bytes → Verdict} {g : State → State}
    (h : s.Asks fn op n pf vf t b) (hfits : t.fits body = true) (hf : f (s.popTaken fn) b = .done body (g (s.popTaken fn))) :
    s.runDrawer fn op (fun t u => t.withPayload n (f u)) = s.served fn t body g := by
  refine State.runDrawer_done h.front ?_ hfits
  rw [Taken.withPayload, h.payload]
  exact hf

/-! Queries (R219). -/

theorem length_linkStatus : s.linkStatus.length = 384 := by
  simp [State.linkStatus, linkBytes, cat, List.length_flatMap, length_le, List.map_const']

theorem length_parcelStatus (p : Nat) : (s.parcelStatus p).length = 40 := by
  simp [State.parcelStatus, cat, length_le, length_zeros]

theorem exec_moduleInfo_answered (h : s.Asks fn 0x01 0 true true t b) : exec (.moduleInfo fn) s = .next (s.served fn t s.infoBytes id) := by
  have hg : (s.popTaken fn).gate fn 0x01 true true = none := h.gate
  exact congrArg _ (runDrawer_reported h (fits_of_inline (len_info s).le) (gated_of_gate hg))

theorem exec_modulePlat_answered (h : s.Asks fn 0x02 0 true true t b) (hmax : 1536 ≤ t.respMax) :
    exec (.modulePlat fn) s = .next (s.served fn t s.platBytes id) := by
  have hg : (s.popTaken fn).gate fn 0x02 true true = none := h.gate
  exact congrArg _ (runDrawer_reported h (fits_of_respMax ((len_plat s).trans_le hmax)) (gated_of_gate hg))

theorem exec_linkStatus_answered (h : s.Asks fn 0x07 0 true false t b) (hmax : 384 ≤ t.respMax) :
    exec (.linkStatus fn) s = .next (s.served fn t s.linkStatus id) := by
  have hg : (s.popTaken fn).gate fn 0x07 true false = none := h.gate
  exact congrArg _ (runDrawer_reported h (fits_of_respMax (length_linkStatus.trans_le hmax)) (gated_of_gate hg))

/-- PF0 may name any parcel, a VF its own (R219). -/
theorem namesOther_of_own {p : Nat} (h : fn ≠ 0 → p = parcelOf fn) : namesOther fn p = false := by
  by_cases h0 : fn = 0
  · simp [namesOther, h0]
  · simp [namesOther, h h0]

theorem exec_parcelStatus_answered (h : s.Asks fn 0x12 8 true true t b) (hz : allZero (b.drop 1) = true)
    (hown : fn ≠ 0 → fld 0 1 b = parcelOf fn) (hp : fld 0 1 b < 16) (hidle : s.parcelBusy (fld 0 1 b) = false) :
    exec (.parcelStatus fn) s = .next (s.served fn t (s.parcelStatus (fld 0 1 b)) id) := by
  have hg : (s.popTaken fn).gate fn 0x12 true true = none := h.gate
  have hidle' : (s.popTaken fn).parcelBusy (fld 0 1 b) = false := hidle
  refine congrArg _ (runDrawer_reported h (fits_of_inline (length_parcelStatus _).le) ?_)
  simp only [hz, namesOther_of_own hown, gated_of_gate hg, hidle', decide_eq_false (Nat.not_le.2 hp), guarded_cons, guarded_nil, Bool.not_true,
    Bool.false_eq_true, if_false]
  rfl

theorem exec_contextStatus_answered (h : s.Asks fn 0x35 8 false true t b) (hz : allZero (b.drop 1) = true) (hc : fld 0 1 b < 8)
    (hfits : t.fits (s.contextStatus (parcelOf fn) (fld 0 1 b)) = true) :
    exec (.contextStatus fn) s = .next (s.served fn t (s.contextStatus (parcelOf fn) (fld 0 1 b)) id) := by
  have hg : (s.popTaken fn).gate fn 0x35 false true = none := h.gate
  refine congrArg _ (runDrawer_reported h hfits ?_)
  simp only [hz, gated_of_gate hg, decide_eq_false (Nat.not_le.2 hc), guarded_cons, guarded_nil, Bool.not_true, Bool.false_eq_true, if_false]
  rfl

theorem exec_connStatus_answered (h : s.Asks fn 0x52 8 false true t b) (hz : allZero (b.drop 4) = true) (hrange : fld 0 4 b < 2 ^ 20)
    (howner : connParcel (fld 0 4 b) = parcelOf fn) (hlive : s.connLive (fld 0 4 b) = true) (hmax : 64 ≤ t.respMax) :
    exec (.connStatus fn) s
      = .next (s.served fn t ((connRecord (fld 0 4 b) (s.conn (fld 0 4 b)) (s.isPinned (fld 0 4 b))).take 64) id) := by
  have hg : (s.popTaken fn).gate fn 0x52 false true = none := h.gate
  have hlive' : (s.popTaken fn).connLive (fld 0 4 b) = true := hlive
  refine congrArg _ (runDrawer_reported h (fits_of_respMax ((List.length_take_le ..).trans hmax)) ?_)
  simp only [hz, gated_of_gate hg, decide_eq_false (Nat.not_le.2 hrange), howner, hlive', guarded_cons, guarded_nil, bne_self_eq_false,
    Bool.not_true, Bool.or_self, Bool.false_eq_true, if_false]
  rfl

/-! Signed answers (R237, R242). -/

theorem exec_attestReport_answered (hsign : s.canSign = true) (hmax : 4952 ≤ t.respMax) (h : s.Asks fn 0x21 32 false true t b) :
    exec (.attestReport fn) s = .next (s.served fn t (s.report (parcelOf fn) (Config.sha384 b)) State.drawn) := by
  have hg : (s.popTaken fn).gate fn 0x21 false true = none := h.gate
  have hsign' : (s.popTaken fn).canSign = true := hsign
  refine congrArg _ (runDrawer_reported h (fits_of_respMax ((len_report ..).trans (by omega))) ?_)
  simp only [gated_of_gate hg, hsign', guarded_cons, guarded_nil, Bool.not_true, Bool.false_eq_true, if_false]
  rfl

/-- The key slot that a certificate of this purpose speaks of: the parcel's sealed key, or the module's unwrap key (R242). -/
def certSlot (p purpose : Nat) : Nat := if purpose = 1 then parcelSlot p 0 else 5

theorem exec_chestCertify_answered (hsign : s.canSign = true) (hmax : 4952 ≤ t.respMax) (h : s.Asks fn 0x71 40 false true t b)
    (hz : allZero (cut 1 7 b) = true) (hdraw : s.canDraw = true) (hpurpose : fld 0 1 b = 1 ∨ fld 0 1 b = 2)
    (huse : s.slotUse (certSlot (parcelOf fn) (fld 0 1 b)) 5 = true) :
    exec (.chestCertify fn) s = .next (s.served fn t (s.certificate (parcelOf fn) (fld 0 1 b) (cut 8 32 b)) State.drawn) := by
  have hg : (s.popTaken fn).gate fn 0x71 false true = none := h.gate
  have hsign' : (s.popTaken fn).canSign = true := hsign
  have hdraw' : (s.popTaken fn).canDraw = true := hdraw
  have huse' : (s.popTaken fn).slotUse (if fld 0 1 b = 1 then parcelSlot (parcelOf fn) 0 else 5) 5 = true := huse
  have hknown : (decide (fld 0 1 b ≠ 1) && decide (fld 0 1 b ≠ 2)) = false := by
    rcases hpurpose with hp | hp
    · simp [hp]
    · simp [hp]
  refine congrArg _ (runDrawer_reported h (fits_of_respMax ((len_cert ..).trans (by omega))) ?_)
  simp only [hz, gated_of_gate hg, hknown, hdraw', hsign', huse', guarded_cons, guarded_nil, Bool.not_true, Bool.or_self, Bool.false_eq_true, if_false]
  rfl

end

/-- Settles O1: one lemma for each query and each signed answer; a certificate's slot by its purpose. -/
theorem queriesAndReports : Obligations.QueriesAndReports := by
  refine ⟨fun s fn t b => ⟨exec_moduleInfo_answered, exec_modulePlat_answered, exec_linkStatus_answered, exec_parcelStatus_answered,
    exec_contextStatus_answered, exec_connStatus_answered⟩,
    fun s fn t b hsign hmax => ⟨exec_attestReport_answered hsign hmax, fun h hz hdraw hkey => ?_⟩⟩
  rcases hkey with ⟨hp, huse⟩ | ⟨hp, huse⟩
  · exact exec_chestCertify_answered hsign hmax h hz hdraw (.inl hp) (by rwa [certSlot, if_pos hp])
  · exact exec_chestCertify_answered hsign hmax h hz hdraw (.inr hp) (by rwa [certSlot, if_neg (by omega)])

end Sys2Proof.Machine

/-! BAR0 registers and the two doorbells (R198, R203, R207). -/

namespace Sys2Proof.Machine

section
variable {s : State} {fn offset size : Nat} {v : BitVec 64}

theorem exec_registerWrite_reachable (h : s.reachable fn = true) :
    exec (.registerWrite fn offset size v) s = .next (s.writeReg fn offset size v) := by
  show execRegisterWrite fn offset size v s = _
  rw [execRegisterWrite, if_pos h]

/-! Base registers (R198). -/

theorem writeReg_reqBase (h : (s.fn fn).enable = false) : s.writeReg fn 0 8 v = s.modFn fn fun f => { f with reqBase := v } := by
  simp [State.writeReg, h, writeBase]

theorem writeReg_respBase (h : (s.fn fn).enable = false) : s.writeReg fn 8 8 v = s.modFn fn fun f => { f with respBase := v } := by
  simp [State.writeReg, h, writeBase]

theorem writeReg_base_open (h : (s.fn fn).enable = true) : s.writeReg fn 0 8 v = s.modFn fn Fn.ignored := by
  simp [State.writeReg, h]

theorem readReg_reqBase : s.readReg fn 0 = (s.fn fn).reqBase.toNat % 2 ^ 32 ∧ s.readReg fn 4 = (s.fn fn).reqBase.toNat / 2 ^ 32 := by
  have hhigh : (s.fn fn).reqBase.toNat / 2 ^ 32 < 2 ^ 32 := by omega
  constructor
  · simp [State.readReg]
  · simpa [State.readReg] using hhigh

theorem readReg_respBase : s.readReg fn 8 = (s.fn fn).respBase.toNat % 2 ^ 32 ∧ s.readReg fn 12 = (s.fn fn).respBase.toNat / 2 ^ 32 := by
  have hhigh : (s.fn fn).respBase.toNat / 2 ^ 32 < 2 ^ 32 := by omega
  constructor
  · simp [State.readReg]
  · simpa [State.readReg] using hhigh

/-! `CFG_ERR` (Table 9.4). -/

theorem writeReg_cfgErr (h : v.toNat.testBit 17 = true) : s.writeReg fn 0x14 4 v = s.modFn fn fun f => { f with cfgErr := false } := by
  have hlow : (v.setWidth 32).toNat.testBit 17 = true := by
    rw [BitVec.toNat_setWidth, Nat.testBit_mod_two_pow, h]
    rfl
  simp only [State.writeReg, State.writeReg32, hlow]
  rfl

theorem writeReg_unaligned (h : offset % 4 ≠ 0) : s.writeReg fn offset 4 v = s.modFn fn Fn.ignored := by
  simp [State.writeReg, h]

theorem writeReg_otherSize (h4 : size ≠ 4) (h8 : size ≠ 8) : s.writeReg fn offset size v = s.modFn fn Fn.ignored := by
  simp [State.writeReg, h4, h8]

theorem writeReg_readOnly (h : offset ∈ [0x20, 0x24, 0x100, 0x104, 0x108, 0x110, 0x118]) :
    s.writeReg fn offset 4 v = s.modFn fn Fn.ignored := by
  simp only [List.mem_cons, List.not_mem_nil, or_false] at h
  rcases h with rfl | rfl | rfl | rfl | rfl | rfl | rfl <;> rfl

end

/-! Doorbells (R203, R207). -/

section
variable {s : State} {fn : Nat} {v : BitVec 32} {slots : List Slot}

theorem exec_reqTailDoorbell_reachable (h : s.reachable fn = true) :
    exec (.reqTailDoorbell fn v slots) s = .next (s.doorbell fn v slots) := by
  show execReqTailDoorbell fn v slots s = _
  rw [execReqTailDoorbell, if_pos h]

theorem exec_respHeadDoorbell_reachable (h : s.reachable fn = true) : exec (.respHeadDoorbell fn v) s = .next (s.respHeadWrite fn v) := by
  show execRespHeadDoorbell fn v s = _
  rw [execRespHeadDoorbell, if_pos h]

/-- A `REQ_TAIL` is ignored if the drawer is not open or the value lies beyond the ring (R203). -/
theorem doorbell_ignores : (!(s.fn fn).active || decide ((s.fn fn).ring < (v - (s.fn fn).reqHead).toNat)) = true ↔
    (s.fn fn).active = false ∨ 2 ^ (s.fn fn).ringLog2 < (v - (s.fn fn).reqHead).toNat := by
  rw [Bool.or_eq_true, Bool.not_eq_true', decide_eq_true_eq]
  rfl

theorem doorbell_ignored (h : (s.fn fn).active = false ∨ 2 ^ (s.fn fn).ringLog2 < (v - (s.fn fn).reqHead).toNat) :
    s.doorbell fn v slots = s.modFn fn Fn.ignored := if_pos (doorbell_ignores.2 h)

theorem doorbell_in_ring (ha : (s.fn fn).active = true) (hv : (v - (s.fn fn).reqHead).toNat ≤ 2 ^ (s.fn fn).ringLog2) :
    s.doorbell fn v slots = State.takeAll fn (s.modFn fn fun f => { f with
      reqTail := v
      unread := f.unread ++ slots.take ((v - (s.fn fn).reqHead).toNat - (s.fn fn).unread.length) }) :=
  if_neg fun h => (doorbell_ignores.1 h).elim (by simp [ha]) (Nat.not_lt.2 hv)

theorem respHeadWrite_within (ha : (s.fn fn).active = true)
    (hv : (v - (s.fn fn).respHead).toNat ≤ ((s.fn fn).respTail - (s.fn fn).respHead).toNat) :
    s.respHeadWrite fn v = s.modFn fn fun f => { f with respHead := v, msixSent := false } :=
  modFn_congr (if_pos (by simp only [ha, decide_eq_true hv, Bool.and_self]))

theorem respHeadWrite_ignored
    (h : (s.fn fn).active = false ∨ ((s.fn fn).respTail - (s.fn fn).respHead).toNat < (v - (s.fn fn).respHead).toNat) :
    s.respHeadWrite fn v = s.modFn fn Fn.ignored := by
  refine modFn_congr (if_neg ?_)
  rcases h with ha | hv
  · simp [ha]
  · simp only [decide_eq_false (Nat.not_le.2 hv), Bool.and_false, Bool.false_eq_true, not_false_eq_true]

end

/-- Settles O10: one lemma for each register, each kind of ignored access and each doorbell. -/
theorem registersAndDoorbells : Obligations.RegistersAndDoorbells := by
  refine ⟨fun s fn v hr hlen => ⟨fun hclosed => ⟨?_, ?_⟩, fun hopen => ?_, fun hbit => ?_, fun offset hoff => ?_, fun offset size h4 h8 => ?_,
    fun offset hoff => ?_⟩, fun s fn v slots hr hlen => ⟨fun ha hv => ?_, fun hbad => ?_, fun ha hv => ?_, fun hbad => ?_⟩⟩
  · refine ⟨_, (exec_registerWrite_reachable hr).trans (congrArg _ (writeReg_reqBase hclosed)), rfl, fun m hm => State.modFn_fn_ne hm, ?_⟩
    rw [readReg_reqBase.1, readReg_reqBase.2, State.modFn_fn hlen]
    exact ⟨rfl, rfl, rfl⟩
  · refine ⟨_, (exec_registerWrite_reachable hr).trans (congrArg _ (writeReg_respBase hclosed)), rfl, fun m hm => State.modFn_fn_ne hm, ?_⟩
    rw [readReg_respBase.1, readReg_respBase.2, State.modFn_fn hlen]
    exact ⟨rfl, rfl, rfl⟩
  · rw [exec_registerWrite_reachable hr, writeReg_base_open hopen]; rfl
  · rw [exec_registerWrite_reachable hr, writeReg_cfgErr hbit]
  · rw [exec_registerWrite_reachable hr, writeReg_unaligned hoff]; rfl
  · rw [exec_registerWrite_reachable hr, writeReg_otherSize h4 h8]; rfl
  · rw [exec_registerWrite_reachable hr, writeReg_readOnly hoff]; rfl
  · rw [exec_reqTailDoorbell_reachable hr, doorbell_in_ring ha hv]
  · rw [exec_reqTailDoorbell_reachable hr, doorbell_ignored hbad]; rfl
  · rw [exec_respHeadDoorbell_reachable hr, respHeadWrite_within ha hv]
  · refine ⟨_, (exec_respHeadDoorbell_reachable hr).trans (congrArg _ (respHeadWrite_ignored hbad)), rfl, ?_⟩
    rw [State.modFn_fn hlen]
    exact ⟨rfl, rfl⟩

end Sys2Proof.Machine

/-! The response ring and the event list of a drawer (R206, R208). -/

namespace Sys2Proof.Machine

section
variable {s : State} {fn : Nat} {f : Fn} {r : RespSlot} {e : Event} {l : List RespSlot} {m : List Event}

/-! What is written next (R206, R208). -/

theorem nextOut_response (h : f.responses.filter (fun r => r.gen == f.gen) = r :: l) :
    f.nextOut = some (.inl r) ∧ f.popOut = { f with responses := l } := by
  simp only [Fn.nextOut, Fn.popOut, h, and_self]

theorem nextOut_event (h : f.responses.filter (fun r => r.gen == f.gen) = []) (he : f.events = e :: m) :
    f.nextOut = some (.inr e) ∧ f.popOut = { f with responses := [], events := m } := by
  simp only [Fn.nextOut, Fn.popOut, h, he, List.drop_succ_cons, List.drop_zero, and_self]

/-- A response slot names its request, whether its body lies in the slot or at `RESP_ADDR` (R205). -/
theorem slotParts_response {gen : Nat} : (slotParts gen (.inl r)).1 = r.opcode ∧ (slotParts gen (.inl r)).2.1 = r.tag ∧
    (slotParts gen (.inl r)).2.2.1 = r.gen ∧ (slotParts gen (.inl r)).2.2.2.1 = r.status := by
  rw [slotParts]
  split
  · exact ⟨rfl, rfl, rfl, rfl⟩
  · exact ⟨rfl, rfl, rfl, rfl⟩

/-! `RESPONSE_WRITE` (R206). -/

/-- A slot may be written while the drawer is open and its ring has room. -/
theorem mayWrite_iff : ((s.fn fn).active && decide (((s.fn fn).respTail - (s.fn fn).respHead).toNat < (s.fn fn).ring)) = true ↔
    (s.fn fn).active = true ∧ ((s.fn fn).respTail - (s.fn fn).respHead).toNat < 2 ^ (s.fn fn).ringLog2 := by
  rw [Bool.and_eq_true, decide_eq_true_eq]
  rfl

theorem exec_responseWrite_full (h : 2 ^ (s.fn fn).ringLog2 ≤ ((s.fn fn).respTail - (s.fn fn).respHead).toNat) :
    exec (.responseWrite fn) s = .next s :=
  if_neg fun hmay => Nat.not_lt.2 h (mayWrite_iff.1 hmay).2

section
variable (ha : (s.fn fn).active = true) (hroom : ((s.fn fn).respTail - (s.fn fn).respHead).toNat < 2 ^ (s.fn fn).ringLog2)
include ha hroom

theorem exec_responseWrite_response (h : (s.fn fn).responses.filter (fun r => r.gen == (s.fn fn).gen) = r :: l) :
    exec (.responseWrite fn) s = .next (s.writeSlot fn (.inl r)) := by
  show execResponseWrite fn s = _
  rw [execResponseWrite, if_pos (mayWrite_iff.2 ⟨ha, hroom⟩), (nextOut_response h).1]

theorem exec_responseWrite_event (h : (s.fn fn).responses.filter (fun r => r.gen == (s.fn fn).gen) = []) (he : (s.fn fn).events = e :: m)
    (hheld : s.holdsEvents fn = false) : exec (.responseWrite fn) s = .next (s.writeSlot fn (.inr e)) := by
  show execResponseWrite fn s = _
  rw [execResponseWrite, if_pos (mayWrite_iff.2 ⟨ha, hroom⟩), (nextOut_event h he).1]
  simp only [hheld, Bool.false_eq_true, if_false]

end

/-! Queueing an event (R206). -/

/-- A function counts every event and queues the first 256. -/
theorem raise_eq (code chain : Nat) (data : List Nat) (f : Fn) : f.raise code chain data = { f with
    eventCount := (f.eventCount + 1) % 2 ^ 16
    events := f.events ++ (if f.events.length < 256 then [{ code := code, chain := chain, tag := (f.eventCount + 1) % 2 ^ 16, data := data }] else []) } := by
  rw [Fn.raise]
  split
  next => rfl
  next => rw [List.append_nil]

/-- An event reaches PF0 and every VF that is enabled. -/
theorem evFn_self {code : Nat} {data : List Nat} (hlen : fn < s.fns.length) (h : fn = 0 ∨ (s.fn fn).present = true) :
    (s.evFn fn code data).fn fn = (s.fn fn).raise code s.now data := by
  rw [State.evFn, if_pos (by simpa using h), State.modFn_fn hlen]

end

/-- Settles O11: what a written slot leaves by `writeSlot_spec`, for the thing that is next to write; a full ring and a queued event by one lemma each. -/
theorem responseWritten : Obligations.ResponseWritten := by
  intro s fn hlen
  refine ⟨fun ha hroom => ⟨fun r l h => ?_, fun e l h he hheld => ?_⟩, exec_responseWrite_full,
    fun code data h => (evFn_self hlen h).trans (raise_eq ..)⟩
  · obtain ⟨hframe, hclusters, htail, hresponses, hslot⟩ := writeSlot_spec fn (.inl r) s hlen
    obtain ⟨hop, htag, hgen, hstatus⟩ := slotParts_response (r := r) (gen := (s.fn fn).gen)
    rw [hop, htag, hgen, hstatus] at hslot
    rw [(nextOut_response h).2] at hframe hresponses
    refine ⟨_, exec_responseWrite_response ha hroom h, htail, hresponses, hclusters, hslot, fun hwrap => ?_⟩
    obtain ⟨hparcels, hchest, hevents⟩ := hframe hwrap
    exact ⟨hevents, hparcels, hchest⟩
  · obtain ⟨hframe, hclusters, htail, -, -⟩ := writeSlot_spec fn (.inr e) s hlen
    rw [(nextOut_event h he).2] at hframe
    refine ⟨_, exec_responseWrite_event ha hroom h he hheld, htail, hclusters, fun hwrap => ?_⟩
    obtain ⟨hparcels, hchest, hevents⟩ := hframe hwrap
    exact ⟨hevents, hparcels, hchest⟩

end Sys2Proof.Machine

/-! VF enabling, reset events and link training of the PCIe port (R195, R197, R216). -/

namespace Sys2Proof.Machine

/-- The drawers of the functions of `l` close with cause `why`, and then the first `k` VFs are enabled (R195, R216). -/
def State.closeAndEnable (why k : Nat) (l : List Nat) (s : State) : State := (l.foldl (fun t n => t.closeDrawer n why) s).setVfs k

section
variable {s : State} {why k n : Nat} {l : List Nat} {ev : ResetEvent}

theorem closeAndEnable_fields : (s.closeAndEnable why k l).host = { s.host with numVfs := k } ∧ (s.closeAndEnable why k l).clusters = s.clusters ∧
    (s.closeAndEnable why k l).boot = s.boot ∧ (s.closeAndEnable why k l).clock = s.clock := by
  obtain ⟨hclusters, hboot, hclock, hhost⟩ := closes_fields why l s
  exact ⟨congrArg (fun h : HostPort => { h with numVfs := k }) hhost, hclusters, hboot, hclock⟩

/-- Enabling sets a function's presence alone: any other part of it is what the closing leaves. -/
theorem closeAndEnable_keep {α : Type} (π : Fn → α) (hπ : ∀ (f : Fn) b, π { f with present := b } = π f) (hn : n < s.fns.length) :
    π ((s.closeAndEnable why k l).fn n) = π ((l.foldl (fun t n => t.closeDrawer n why) s).fn n) := by
  rw [State.closeAndEnable, setVfs_fn _ _ _ (by rwa [closes_len])]
  split
  · rfl
  · exact hπ ..

/-- A drawer in the list that was open closes, with the next generation (R201). -/
theorem closeAndEnable_closed (hn : n < s.fns.length) (hmem : n ∈ l) (hl : l.Nodup) (he : (s.fn n).enable = true) :
    ((s.closeAndEnable why k l).fn n).enable = false ∧ ((s.closeAndEnable why k l).fn n).active = false ∧
      ((s.closeAndEnable why k l).fn n).session = false ∧ ((s.closeAndEnable why k l).fn n).gen = nextGen (s.fn n).gen := by
  rw [closeAndEnable_keep Fn.enable (fun _ _ => rfl) hn, closeAndEnable_keep Fn.active (fun _ _ => rfl) hn,
    closeAndEnable_keep Fn.session (fun _ _ => rfl) hn, closeAndEnable_keep Fn.gen (fun _ _ => rfl) hn]
  exact closes_self why n l hmem hl s hn he

theorem closeAndEnable_other (hn : n < s.fns.length) (hmem : n ∉ l) :
    ((s.closeAndEnable why k l).fn n).enable = (s.fn n).enable ∧ ((s.closeAndEnable why k l).fn n).gen = (s.fn n).gen := by
  rw [closeAndEnable_keep Fn.enable (fun _ _ => rfl) hn, closeAndEnable_keep Fn.gen (fun _ _ => rfl) hn]
  exact ⟨closes_other Fn.enable (fun _ _ _ => rfl) why n l hmem s, closes_other Fn.gen (fun _ _ _ => rfl) why n l hmem s⟩

theorem closeAndEnable_vf (hn : n < s.fns.length) (h0 : 0 < n) : ((s.closeAndEnable why k l).fn n).present = decide (n ≤ k) := by
  rw [State.closeAndEnable, setVfs_fn _ _ _ (by rwa [closes_len]), if_neg (by omega)]

/-- PF0 is there whatever the number of VFs. -/
theorem closeAndEnable_pf (h0 : 0 < s.fns.length) (hl : 0 ∉ l) : ((s.closeAndEnable why k l).fn 0).present = (s.fn 0).present := by
  rw [State.closeAndEnable, setVfs_fn _ _ _ (by rwa [closes_len]), if_pos rfl]
  exact closes_other Fn.present (fun _ _ _ => rfl) why 0 l hl s

theorem exec_vfEnable_within (h : n ≤ 16) : exec (.vfEnable n) s = .next (s.closeAndEnable 2 n ((List.range 17).drop (n + 1))) :=
  congrArg _ (if_pos h)

/-- The functions above a number of VFs do not include PF0. -/
theorem zero_notMem_drop_range : 0 ∉ (List.range 17).drop (n + 1) := by
  rw [List.range_eq_range', List.drop_range', List.mem_range']
  omega

theorem exec_functionReset : exec (.functionReset ev) s = .next (s.closeAndEnable 2 (resetVfs s ev) (resetScope s ev)) := rfl

/-- A reset event closes each drawer of its scope once (Table 9.14). -/
theorem nodup_resetScope : (resetScope s ev).Nodup := by
  have hall : ∀ n, ((List.range 17).drop n).Nodup := fun n => List.nodup_range.sublist (List.drop_sublist ..)
  cases ev with
  | perst => exact List.nodup_range
  | hotReset => exact List.nodup_range
  | flr n =>
    rw [resetScope]
    split
    · exact List.nodup_range
    · exact List.nodup_singleton n
  | d3hot n =>
    rw [resetScope]
    split
    · exact List.nodup_range
    · exact List.nodup_singleton n
  | vfEnableClear => exact hall 1
  | numVfs k =>
    rw [resetScope]
    split
    · exact hall (k + 1)
    · exact List.nodup_nil

/-! Link training (R197). -/

/-- An event that is not limited is sent to management at once (R309, R323). -/
theorem evMgmt_sent {code : Nat} {data : List Nat} (h : stormKind code = none) : .mgmtEvent code s.now data ∈ (s.evMgmt code data).outbox := by
  rw [State.evMgmt, h]
  show _ ∈ (s.sendEvent code data).outbox
  rw [State.sendEvent]
  split
  · exact List.mem_append_right _ (List.mem_singleton_self _)
  · exact List.mem_append_right _ (List.mem_singleton_self _)

theorem exec_pcieLinkTrained_below {rate width : Nat} (h : rate * width < 1024) : exec (.pcieLinkTrained rate width) s =
    .next ((State.evPf 0x0903 [rate, width] { s with
      host := { s.host with linkUp := true, rateGt := rate, width := width, scaled := true, scaledNext := false } }).evMgmt 0x0903 [rate, width]) :=
  if_pos h

theorem exec_pcieLinkTrained_full {rate width : Nat} (h : 1024 ≤ rate * width) : exec (.pcieLinkTrained rate width) s =
    .next { s with host := { s.host with linkUp := true, rateGt := rate, width := width, scaledNext := s.host.scaled } } :=
  if_neg (Nat.not_lt.2 h)

end

/-- Settles O12: both ways of closing drawers by what `State.closeAndEnable` leaves of a function, training by the bandwidth. -/
theorem portEvents : Obligations.PortEvents := by
  intro s hlen
  refine ⟨fun n hn => ⟨_, exec_vfEnable_within hn, closeAndEnable_fields.1, fun i hi h0 => closeAndEnable_vf (by omega) h0,
    closeAndEnable_pf (by omega) zero_notMem_drop_range⟩, fun ev => ?_, fun rate width h => ?_, fun rate width => exec_pcieLinkTrained_full⟩
  · obtain ⟨-, hclusters, hboot, hclock⟩ := closeAndEnable_fields (s := s) (why := 2) (k := resetVfs s ev) (l := resetScope s ev)
    exact ⟨_, exec_functionReset, fun n hmem hn he => closeAndEnable_closed (by omega) hmem nodup_resetScope he,
      fun n hn hmem => closeAndEnable_other (by omega) hmem, hclusters, hboot, hclock⟩
  · refine ⟨_, exec_pcieLinkTrained_below h, by rw [State.evMgmt_host, State.evPf_host], ?_⟩
    have hsent := evMgmt_sent (code := 0x0903) (data := [rate, width]) (s := State.evPf 0x0903 [rate, width] { s with
      host := { s.host with linkUp := true, rateGt := rate, width := width, scaled := true, scaledNext := false } }) rfl
    rwa [State.evPf_now] at hsent

end Sys2Proof.Machine

/-! The life cycle under every command (R231, R232). -/

namespace Sys2Proof.Machine

/-- The commands that may move the life cycle are the factory's fuse programming and the seven update messages. -/
theorem eq_of_movesLife {i : Instr} (h : movesLife i = true) : i = .factoryFuseProgramming ∨ ∃ src, i = .install src ∨ i = .destroy src ∨
    i = .lifecycle src ∨ i = .authority src ∨ i = .modelKey src ∨ i = .fieldChallenge src ∨ i = .fieldOpen src := by
  cases i with
  | factoryFuseProgramming => exact .inl rfl
  | install src => exact .inr ⟨src, .inl rfl⟩
  | destroy src => exact .inr ⟨src, .inr (.inl rfl)⟩
  | lifecycle src => exact .inr ⟨src, .inr (.inr (.inl rfl))⟩
  | authority src => exact .inr ⟨src, .inr (.inr (.inr (.inl rfl)))⟩
  | modelKey src => exact .inr ⟨src, .inr (.inr (.inr (.inr (.inl rfl))))⟩
  | fieldChallenge src => exact .inr ⟨src, .inr (.inr (.inr (.inr (.inr (.inl rfl)))))⟩
  | fieldOpen src => exact .inr ⟨src, .inr (.inr (.inr (.inr (.inr (.inr rfl)))))⟩
  | _ => exact nomatch h

/-- Settles O55: a command without an effect on the life cycle leaves the state good in the same one, by `exec_good`; any other moves it by Table 10.3 if
at all, by `exec_moved`. -/
theorem lifeCycleByTable : Obligations.LifeCycleByTable := by
  intro i s t hs h
  cases hi : movesLife i with
  | false => exact .inl ((exec_good hi (good_of s hs)).next t h).life
  | true =>
    obtain ⟨k, hk, hgood⟩ := (exec_moved (good_of s hs)).next t h
    rw [hgood.life]
    exact hk.imp_right fun hmay => ⟨hmay, eq_of_movesLife hi⟩

end Sys2Proof.Machine

/-! The rows of an update message (R233, R234). -/

namespace Sys2Proof.Machine

/-- Settles O7: each row answers by the checks in their order, which is what `runUpdate_p` says of the row of any `OP`. -/
theorem updatesChecked : Obligations.UpdatesChecked := by
  intro s src b u ho hu hl
  have hrow := fun op => congrArg (Host.Outcome.next (φ := Fault) (ρ := Refusal)) (runUpdate_p s src b u op ho hu hl)
  exact ⟨hrow 1, hrow 2, hrow 3, hrow 4, hrow 5, hrow 6, hrow 7⟩

end Sys2Proof.Machine

/-! The effect of an update that passes (R226, R232, R234, R235, R243, R245). -/

namespace Sys2Proof.Machine

/-- The value that an update puts into a slot (R235, R243). -/
def State.carried (u : Update) (s : State) : BitVec 1024 := BitVec.ofNat 1024 (leNat ((s.unwrapped u).getD []))

/-- The stored counters that an update for parcel `p` may raise (R234). -/
def State.counts (p : Nat) (s : State) : List Nat × Nat := (s.chest.counters, (s.parcel p).tenantCounter)

section
variable {p i j t a : Nat} {u : Update} {s : State} {attr : BitVec 32} {v : BitVec 1024} {why : KeyCause}

/-! One equation for each `OP`. -/

theorem updateEffect_install (h : u.op = 1) : (s.updateEffect p u).2 =
    if bit 11 u.attrs then ((s.storeCounter p u).fillSlot (u.abs p) (BitVec.ofNat 32 u.attrs) (s.carried u)).keepBlob (u.abs p)
    else (s.storeCounter p u).fillSlot (u.abs p) (BitVec.ofNat 32 u.attrs) (s.carried u) := by
  simp only [State.updateEffect, h, State.carried]

theorem updateEffect_destroy (h : u.op = 2) : (s.updateEffect p u).2 = (s.storeCounter p u).destroySlot (u.abs p) .command := by
  simp only [State.updateEffect, h]

theorem updateEffect_lifecycle (h : u.op = 3) : (s.updateEffect p u).2 = (s.storeCounter p u).transition (fld 0 1 u.body) u.authority := by
  simp only [State.updateEffect, h]

theorem updateEffect_authority (h : u.op = 4) : (s.updateEffect p u).2 =
    ((s.storeCounter p u).fillSlot 10 (slotAttr 5 1 0 false true 0x22 lcWork) (s.carried u)).keepBlob 10 := by
  simp only [State.updateEffect, h, State.carried]

theorem updateEffect_modelKey (h : u.op = 5) : (s.updateEffect p u).2 =
    ((s.storeCounter p u).fillSlot (u.abs p) (slotAttr 2 2 p false false 16 lcWork) (s.carried u)).openWindow p (fld 0 8 u.body) (fld 8 8 u.body) := by
  simp only [State.updateEffect, h, State.carried]

/-- A challenge stores no counter. -/
theorem updateEffect_fieldChallenge (h : u.op = 6) : (s.updateEffect p u).2 =
    { s.drawn with chest := { s.chest with challenge := some (s.fresh.setWidth 256, s.now) } } := by
  simp only [State.updateEffect, State.storeCounter, h, if_true]

theorem updateEffect_fieldOpen (h : u.op = 7) : (s.updateEffect p u).2 =
    State.transition 4 3 { s.storeCounter p u with chest := { (s.storeCounter p u).chest with challenge := none } } := by
  simp only [State.updateEffect, h]

/-! Filled and emptied slots (R226). -/

theorem fillSlot_attrs : (s.fillSlot i attr v).slotAttrs i = attr := by
  simp [State.fillSlot, State.slotAttrs]

theorem emptySlot_val_ne (h : j ≠ i) : (s.emptySlot i).slotVal j = s.slotVal j := by
  simp only [State.slotVal, State.emptySlot, tget_tdel_ne _ h]

theorem emptySlot_filled (h : rising s.chest.slots = true) : (s.emptySlot i).slotFilled i = false := by
  simp only [State.slotFilled, State.emptySlot, tget_tdel_same h, Option.isSome_none]

theorem destroySlot_filled (h : rising s.chest.slots = true) : (s.destroySlot i why).slotFilled i = false := by
  rw [State.destroySlot]
  split
  next =>
    dsimp only
    split
    · rw [State.evPf_slotFilled, State.evFn_slotFilled, emptySlot_filled h]
    · rw [State.evMgmt_slotFilled, State.evPf_slotFilled, emptySlot_filled h]
  next hempty => exact Bool.eq_false_of_not_eq_true hempty

theorem destroySlot_val_ne (h : j ≠ i) : (s.destroySlot i why).slotVal j = s.slotVal j := by
  rw [State.destroySlot]
  split
  · dsimp only
    split
    · rw [State.evPf_slotVal, State.evFn_slotVal, emptySlot_val_ne h]
    · rw [State.evMgmt_slotVal, State.evPf_slotVal, emptySlot_val_ne h]
  · rfl

/-! Storing the counter (R234). -/

theorem storeCounter_slots : (s.storeCounter p u).chest.slots = s.chest.slots := by
  rw [State.storeCounter]
  split
  · rfl
  · split
    · rfl
    · rfl

theorem storeCounter_tenant (h6 : u.op ≠ 6) (h0 : u.authority = 0) (hp : p < s.parcels.length) :
    ((s.storeCounter p u).parcel p).tenantCounter = u.counter := by
  rw [State.storeCounter, if_neg h6, if_pos h0, State.modParcel_parcel hp]

theorem storeCounter_authority (h6 : u.op ≠ 6) (h0 : 0 < u.authority) (hl : u.authority < s.chest.counters.length) :
    (s.storeCounter p u).chest.counters.getD u.authority 0 = u.counter := by
  rw [State.storeCounter, if_neg h6, if_neg (by omega)]
  simp [hl]

/-! A transition (R232). -/

theorem transition_lifecycle : (s.transition t a).flash.lifecycle = t := by
  simp only [State.transition, State.evMgmt_flash, State.evPf_flash, trans_life]

theorem transition_order : (s.transition t a).faults.order = some (s.now, true) := rfl

theorem transition_challenge : (s.transition t a).chest.challenge = s.chest.challenge := by
  simp only [State.transition, State.evMgmt_chest, State.evPf_chest, trans_chal]

theorem transition_counts : (s.transition t a).counts p = s.counts p := by
  have hparcels : (s.transition t a).parcels = s.parcels := by
    simp only [State.transition, State.evMgmt_parcels, State.evPf_parcels, fuses_parcels, keys_parcels]
  have hcounters : (s.transition t a).chest.counters = s.chest.counters := by
    simp only [State.transition, State.evMgmt_chest, State.evPf_chest, fuses_counters, keys_counters]
  simp only [State.counts, State.parcel, hparcels, hcounters]

/-! Opening a window (R244). -/

theorem openWindow_window {base size : Nat} (h : p < s.parcels.length) : ((s.openWindow p base size).parcel p).window = some (base, size) := by
  rw [State.openWindow]
  cases (s.parcel p).window with
  | none => rw [State.modParcel_parcel (by rwa [conv_len])]
  | some w => rw [State.modParcel_parcel (by rwa [conv_len, conv_len])]

theorem openWindow_slotVal {base size : Nat} : (s.openWindow p base size).slotVal i = s.slotVal i := by
  rw [State.openWindow, State.modParcel_slotVal, conv_slot]
  cases (s.parcel p).window with
  | none => rfl
  | some w => exact conv_slot ..

theorem convert_counts {enc : Bool} {base size : Nat} : (s.convert enc p base size).counts p = s.counts p :=
  Prod.ext (congrArg Chest.counters (conv_chest ..)) (conv_tc ..)

theorem modParcel_counts {g : Parcel → Parcel} (h : ∀ q, (g q).tenantCounter = q.tenantCounter) : (s.modParcel p g).counts p = s.counts p :=
  Prod.ext rfl (modParcel_keepx Parcel.tenantCounter p p g s h)

theorem openWindow_counts {base size : Nat} : (s.openWindow p base size).counts p = s.counts p := by
  rw [State.openWindow]
  refine (modParcel_counts fun _ => by rfl).trans (convert_counts.trans ?_)
  cases (s.parcel p).window with
  | none => rfl
  | some w => exact convert_counts

theorem destroySlot_counts : (s.destroySlot i why).counts p = s.counts p := by
  have hcounters : (s.destroySlot i why).chest.counters = s.chest.counters := by
    rw [State.destroySlot]
    split
    · dsimp only
      split
      · rw [State.evPf_chest, State.evFn_chest]; rfl
      · rw [State.evMgmt_chest, State.evPf_chest]; rfl
    · rfl
  simp only [State.counts, hcounters, State.destroySlot_parcel]

/-- What an update does after it has stored its counter leaves every counter. -/
theorem updateEffect_counts (h6 : u.op ≠ 6) : (s.updateEffect p u).2.counts p = (s.storeCounter p u).counts p := by
  rw [State.updateEffect]
  dsimp only
  split
  · split
    · rfl
    · rfl
  · exact destroySlot_counts
  · exact transition_counts
  · rfl
  · exact openWindow_counts
  · contradiction
  · exact transition_counts

/-! The effects. -/

theorem install_effect (h : u.op = 1) : (s.updateEffect p u).2.slotVal (u.abs p) = s.carried u ∧
    (s.updateEffect p u).2.slotAttrs (u.abs p) = BitVec.ofNat 32 u.attrs ∧
    ∀ i ≠ u.abs p, (s.updateEffect p u).2.slotVal i = s.slotVal i ∧ (s.updateEffect p u).2.slotAttrs i = s.slotAttrs i := by
  have hkept : ∀ i, (s.updateEffect p u).2.slotVal i =
      ((s.storeCounter p u).fillSlot (u.abs p) (BitVec.ofNat 32 u.attrs) (s.carried u)).slotVal i ∧ (s.updateEffect p u).2.slotAttrs i =
      ((s.storeCounter p u).fillSlot (u.abs p) (BitVec.ofNat 32 u.attrs) (s.carried u)).slotAttrs i := fun i => by
    rw [updateEffect_install h]
    split
    · exact blob_val _ i _
    · exact ⟨rfl, rfl⟩
  refine ⟨(hkept _).1.trans (fillSlot_val ..), (hkept _).2.trans fillSlot_attrs, fun i hi => ?_⟩
  obtain ⟨hval, hattrs⟩ := fill_other _ i (BitVec.ofNat 32 u.attrs) (s.carried u) (s.storeCounter p u) hi
  obtain ⟨hsval, hsattrs⟩ := store_val p u i s
  exact ⟨(hkept i).1.trans (hval.trans hsval), (hkept i).2.trans (hattrs.trans hsattrs)⟩

theorem destroy_effect (h : u.op = 2) (hr : rising s.chest.slots = true) : (s.updateEffect p u).2.slotFilled (u.abs p) = false ∧
    ∀ i ≠ u.abs p, (s.updateEffect p u).2.slotVal i = s.slotVal i := by
  rw [updateEffect_destroy h]
  exact ⟨destroySlot_filled (by rwa [storeCounter_slots]), fun i hi => (destroySlot_val_ne hi).trans (store_val p u i s).1⟩

theorem lifecycle_effect (h : u.op = 3) : (s.updateEffect p u).2.flash.lifecycle = fld 0 1 u.body ∧
    (s.updateEffect p u).2.faults.order = some (s.now, true) := by
  rw [updateEffect_lifecycle h, transition_lifecycle, transition_order, store_now]
  exact ⟨rfl, rfl⟩

theorem authority_effect (h : u.op = 4) : (s.updateEffect p u).2.slotVal 10 = s.carried u ∧ 10 ∈ (s.updateEffect p u).2.chest.blobs := by
  rw [updateEffect_authority h]
  exact ⟨(blob_val 10 10 _).1.trans (fillSlot_val ..), List.mem_append_right _ (List.mem_singleton_self 10)⟩

theorem modelKey_effect (h : u.op = 5) (hp : p < s.parcels.length) : (s.updateEffect p u).2.slotVal (u.abs p) = s.carried u ∧
    ((s.updateEffect p u).2.parcel p).window = some (fld 0 8 u.body, fld 8 8 u.body) := by
  rw [updateEffect_modelKey h, openWindow_slotVal, openWindow_window (by rwa [State.fillSlot_parcels, store_len])]
  exact ⟨fillSlot_val .., rfl⟩

theorem fieldChallenge_effect (h : u.op = 6) : (s.updateEffect p u).2.chest.challenge = some (s.fresh.setWidth 256, s.now) ∧
    (s.updateEffect p u).2.chest.counters = s.chest.counters ∧ (s.updateEffect p u).2.chest.slots = s.chest.slots := by
  rw [updateEffect_fieldChallenge h]
  exact ⟨rfl, rfl, rfl⟩

theorem fieldOpen_effect (h : u.op = 7) : (s.updateEffect p u).2.flash.lifecycle = 4 ∧ (s.updateEffect p u).2.chest.challenge = none ∧
    (s.updateEffect p u).2.faults.order = some (s.now, true) := by
  rw [updateEffect_fieldOpen h, transition_lifecycle, transition_challenge, transition_order]
  exact ⟨rfl, rfl, congrArg (fun n => some (n, true)) (store_now ..)⟩

end

/-- Settles O8: one lemma for each `OP`; the counter is stored first, and no effect changes a counter after that. -/
theorem updateEffects : Obligations.UpdateEffects := by
  intro s v p u hv
  subst hv
  refine ⟨install_effect, destroy_effect, lifecycle_effect, authority_effect, modelKey_effect, fieldChallenge_effect, fieldOpen_effect,
    fun h6 h0 hp => ?_, fun h6 h0 hl => ?_⟩
  · exact (congrArg Prod.snd (updateEffect_counts h6)).trans (storeCounter_tenant h6 h0 hp)
  · exact (congrArg (fun c => c.1.getD u.authority 0) (updateEffect_counts (p := p) h6)).trans (storeCounter_authority h6 h0 hl)

end Sys2Proof.Machine

/-! Noise sources, the hub DRBG, the generators of the clusters, and the factory's fuses (R231, R245, R264 to R270). -/

namespace Sys2Proof.Machine

section
variable {s : State} {rct pass ok primary : Bool} {i j k p c n : Nat} {x : Context} {attr : BitVec 32} {v : BitVec 1024}

/-! The event with a source's estimates (R267): it keeps the source's state and counts, and the other source. -/

theorem evEntropy_primary : (s.evEntropy false).entropy.primary.state = s.entropy.primary.state ∧
    (s.evEntropy false).entropy.primary.rctFails = s.entropy.primary.rctFails ∧ (s.evEntropy false).entropy.primary.aptFails = s.entropy.primary.aptFails := by
  rw [evEntropy_entropy]
  exact estimated_keep ..

theorem evEntropy_primary_other : (s.evEntropy false).entropy.fallback = s.entropy.fallback := by
  rw [evEntropy_entropy, estimate_false]

theorem evEntropy_fallback : (s.evEntropy true).entropy.fallback.state = s.entropy.fallback.state := by
  rw [evEntropy_entropy]
  exact (estimated_keep ..).1

theorem evEntropy_fallback_other : (s.evEntropy true).entropy.primary = s.entropy.primary := by
  rw [evEntropy_entropy, estimate_true]

/-! A failed health test (R266 to R268). -/

/-- A failed health test of the primary is counted (R267). -/
def State.primaryCounted (rct : Bool) (s : State) : State := { s with entropy := { s.entropy with primary := s.entropy.primary.failed rct } }

/-- A failed health test of the fallback is counted (R267). -/
def State.fallbackCounted (rct : Bool) (s : State) : State := { s with entropy := { s.entropy with fallback := s.entropy.fallback.failed rct } }

/-- The fallback is marked failed, and the event is raised (R266). -/
def State.fallbackFailed (s : State) : State :=
  State.evEntropy true { s with entropy := { s.entropy with fallback := { s.entropy.fallback with state := 4 } } }

theorem exec_healthTestFail_primary (h0 : s.entropy.primary.state ≠ 0) (h4 : s.entropy.primary.state ≠ 4) : exec (.healthTestFail true rct) s =
    .next (if s.entropy.pattern.isSome then (s.primaryCounted rct).evEntropy false else (s.primaryCounted rct).primaryFailed) := by
  show execHealthTestFail true rct s = _
  simp only [execHealthTestFail, if_true, h0, h4, decide_false, Bool.or_self, Bool.false_eq_true, if_false, State.primaryCounted, Bool.not_true]

theorem exec_healthTestFail_fallback (h0 : s.entropy.fallback.state ≠ 0) (h4 : s.entropy.fallback.state ≠ 4) : exec (.healthTestFail false rct) s =
    .next (if s.entropy.pattern.isSome then (s.fallbackCounted rct).evEntropy true else (s.fallbackCounted rct).fallbackFailed) := by
  show execHealthTestFail false rct s = _
  simp only [execHealthTestFail, h0, h4, decide_false, Bool.or_self, Bool.false_eq_true, if_false, State.fallbackCounted, State.fallbackFailed, Bool.not_false]

/-- A failure of the primary is counted; the primary is given up for the fallback unless a test pattern is in effect (R266 to R268). -/
theorem healthTestFail_primary (h0 : s.entropy.primary.state ≠ 0) (h4 : s.entropy.primary.state ≠ 4) : ∃ t, exec (.healthTestFail true rct) s = .next t ∧
    t.entropy.primary.rctFails = s.entropy.primary.rctFails + b2n rct ∧ t.entropy.primary.aptFails = s.entropy.primary.aptFails + b2n (!rct) ∧ t.time = s.time ∧
    (s.entropy.pattern = none → t.entropy.primary.state = 4 ∧ t.entropy.retestChain = s.now ∧
      t.entropy.fallback.state = if s.entropy.fallback.state = 4 then 4 else 1) ∧
    (s.entropy.pattern.isSome = true → t.entropy.primary.state = s.entropy.primary.state ∧ t.entropy.fallback = s.entropy.fallback) := by
  obtain ⟨hstate, hrct, hapt⟩ := failed_facts rct s.entropy.primary
  refine ⟨_, exec_healthTestFail_primary h0 h4, ?_⟩
  cases hp : s.entropy.pattern with
  | none =>
    obtain ⟨hfailed, hprct, hpapt, hretest, hfallback, -, -⟩ := primaryFailed_facts (s.primaryCounted rct)
    exact ⟨hprct.trans hrct, hpapt.trans hapt, State.primaryFailed_time _, fun _ => ⟨hfailed, hretest, hfallback⟩, fun h => nomatch h⟩
  | some pat =>
    obtain ⟨hkept, hprct, hpapt⟩ := evEntropy_primary (s := s.primaryCounted rct)
    exact ⟨hprct.trans hrct, hpapt.trans hapt, State.evEntropy_time .., fun h => absurd h (Option.some_ne_none pat), fun _ => ⟨hkept.trans hstate, evEntropy_primary_other⟩⟩

theorem fallbackFailed_state : s.fallbackFailed.entropy.fallback.state = 4 := evEntropy_fallback

theorem fallbackFailed_other : s.fallbackFailed.entropy.primary = s.entropy.primary := evEntropy_fallback_other

theorem healthTestFail_fallback (h0 : s.entropy.fallback.state ≠ 0) (h4 : s.entropy.fallback.state ≠ 4) : ∃ t, exec (.healthTestFail false rct) s = .next t ∧
    t.entropy.fallback.state = (if s.entropy.pattern = none then 4 else s.entropy.fallback.state) ∧ t.entropy.primary = s.entropy.primary := by
  refine ⟨_, exec_healthTestFail_fallback h0 h4, ?_⟩
  cases hp : s.entropy.pattern with
  | none => exact ⟨fallbackFailed_state, fallbackFailed_other⟩
  | some pat => exact ⟨evEntropy_fallback.trans (failed_facts rct s.entropy.fallback).1, evEntropy_fallback_other⟩

theorem exec_primaryRetest_due (h4 : s.entropy.primary.state = 4) (hdue : s.entropy.retestChain + 32768 ≤ s.now) :
    exec (.primaryRetest pass) s = .next { s with entropy := { s.entropy with
      retestChain := s.now
      primary := if pass then { s.entropy.primary with state := 3 } else s.entropy.primary
      selectNext := pass } } :=
  congrArg Host.Outcome.next (if_pos (by simp [h4, hdue]))

/-! The end of a start-up test (R265, R279). -/

/-- A source that has passed goes into use or stands by (R264, R265). -/
def State.sourcePassed (primary : Bool) (s : State) : State := { s with entropy := s.entropy.passed primary }

/-- A source is marked failed (R266). -/
def State.sourceFailed (primary : Bool) (s : State) : State := if primary then s.primaryFailed else s.fallbackFailed

/-- With both sources failed the boot ROM stops (R279). -/
def State.stopWithoutSource (s : State) : State :=
  if s.boot.stage = 0x01 && s.entropy.primary.state = 4 && s.entropy.fallback.state = 4 then s.bootStop 0xF0 fcNoEntropy else s

theorem exec_startUpTestEnd_pass (h : (if primary then s.entropy.primary else s.entropy.fallback).state = 1) :
    exec (.startUpTestEnd primary true) s = .next (if !s.entropy.instantiated && (s.entropy.passed primary).live then (s.sourcePassed primary).instantiate
      else s.sourcePassed primary) := by
  show execStartUpTestEnd primary true s = _
  simp only [execStartUpTestEnd, h, ne_eq, not_true_eq_false, if_false, if_true]
  rfl

theorem exec_startUpTestEnd_fail (h : (if primary then s.entropy.primary else s.entropy.fallback).state = 1) :
    exec (.startUpTestEnd primary false) s = .next (s.sourceFailed primary).stopWithoutSource := by
  show execStartUpTestEnd primary false s = _
  simp only [execStartUpTestEnd, h, ne_eq, not_true_eq_false, if_false, Bool.false_eq_true]
  rfl

/-- The primary in use is a live source. -/
theorem passed_primary_live {e : Entropy} : (e.passed true).live = true := by
  simp [Entropy.passed, Entropy.live]

theorem startUpTestEnd_primary (h : s.entropy.primary.state = 1) : ∃ t, exec (.startUpTestEnd true true) s = .next t ∧ t.entropy.primary.state = 2 ∧
    t.entropy.fallback = s.entropy.fallback ∧ t.entropy.instantiated = true ∧
    (s.entropy.instantiated = false → t.slotFilled 6 = true ∧ t.entropy.lastReseed = s.now) := by
  refine ⟨_, exec_startUpTestEnd_pass h, ?_⟩
  rw [passed_primary_live]
  cases hi : s.entropy.instantiated with
  | true => exact ⟨rfl, rfl, hi, fun h => nomatch h⟩
  | false =>
    obtain ⟨hprimary, hfallback, hinst, hreseed, hslot⟩ := instantiate_facts (s.sourcePassed true)
    exact ⟨congrArg Source.state hprimary, hfallback, hinst, fun _ => ⟨hslot, hreseed⟩⟩

theorem startUpTestEnd_fallback (h : s.entropy.fallback.state = 1) : ∃ t, exec (.startUpTestEnd false true) s = .next t ∧
    t.entropy.fallback.state = (if s.entropy.primary.state = 4 then 2 else 3) ∧ t.entropy.primary = s.entropy.primary := by
  refine ⟨_, exec_startUpTestEnd_pass h, ?_⟩
  split
  · obtain ⟨hprimary, hfallback, -, -, -⟩ := instantiate_facts (s.sourcePassed false)
    exact ⟨congrArg Source.state hfallback, hprimary⟩
  · exact ⟨rfl, rfl⟩

theorem sourceFailed_state : (if primary then (s.sourceFailed primary).entropy.primary else (s.sourceFailed primary).entropy.fallback).state = 4 := by
  cases primary with
  | true => exact (primaryFailed_facts s).1
  | false => exact fallbackFailed_state

/-- A source that has failed stays failed when the other one fails too. -/
theorem sourceFailed_both (h : (if primary then s.entropy.fallback else s.entropy.primary).state = 4) :
    (s.sourceFailed primary).entropy.primary.state = 4 ∧ (s.sourceFailed primary).entropy.fallback.state = 4 := by
  cases primary with
  | true =>
    obtain ⟨hstate, -, -, -, hfallback, -, -⟩ := primaryFailed_facts s
    exact ⟨hstate, hfallback.trans (if_pos h)⟩
  | false => exact ⟨(congrArg Source.state fallbackFailed_other).trans h, fallbackFailed_state⟩

theorem sourceFailed_boot : (s.sourceFailed primary).boot = s.boot := by
  cases primary with
  | true =>
    obtain ⟨-, -, -, -, -, hboot, -⟩ := primaryFailed_facts s
    exact hboot
  | false => exact evEntropy_boot ..

theorem stopWithoutSource_entropy : s.stopWithoutSource.entropy = s.entropy := by
  rw [State.stopWithoutSource]
  split
  · exact bootStop_entropy ..
  · rfl

theorem stopWithoutSource_stage (h1 : s.boot.stage = 1) (hp : s.entropy.primary.state = 4) (hf : s.entropy.fallback.state = 4) :
    s.stopWithoutSource.boot.stage = 0xF0 := by
  rw [State.stopWithoutSource, if_pos (by simp [h1, hp, hf]), bootStop_stage]

theorem startUpTestEnd_fail (h : (if primary then s.entropy.primary else s.entropy.fallback).state = 1) : ∃ t, exec (.startUpTestEnd primary false) s = .next t ∧
    (if primary then t.entropy.primary else t.entropy.fallback).state = 4 ∧
    (s.boot.stage = 1 → (if primary then s.entropy.fallback else s.entropy.primary).state = 4 → t.boot.stage = 0xF0) := by
  refine ⟨_, exec_startUpTestEnd_fail h, ?_, fun hstage hother => ?_⟩
  · rw [stopWithoutSource_entropy, sourceFailed_state]
  · obtain ⟨hp, hf⟩ := sourceFailed_both hother
    exact stopWithoutSource_stage (by rw [sourceFailed_boot, hstage]) hp hf

/-! Reseeding (R269, R270). -/

theorem live_iff {e : Entropy} : e.live = true ↔ e.pattern.isSome = true ∨ e.primary.state = 2 ∨ e.fallback.state = 2 := by
  simp only [Entropy.live, Bool.or_eq_true, beq_iff_eq, or_assoc]

theorem exec_hubReseed_due (hi : s.entropy.instantiated = true)
    (hdue : s.entropy.reseedDue = true ∨ s.entropy.stalled = true ∨ s.entropy.lastReseed + 1024 ≤ s.now ∨ 2 ^ 20 ≤ s.entropy.requests) :
    exec (.hubReseed ok) s = .next { s with entropy :=
      if ok = true ∧ (s.entropy.pattern.isSome = true ∨ s.entropy.primary.state = 2 ∨ s.entropy.fallback.state = 2)
      then { s.entropy with lastReseed := s.now, requests := 0, reseedDue := false, stalled := false } else { s.entropy with stalled := true } } := by
  refine congrArg Host.Outcome.next ((if_pos ?_).trans ?_)
  · simp only [hi, Bool.true_and, Bool.or_eq_true, decide_eq_true_eq, or_assoc]
    exact hdue
  · simp only [← live_iff, ← Bool.and_eq_true]
    split
    · rfl
    · rfl

theorem modOn_on {g : CtxCluster → CtxCluster} (h : k < x.clusters.length) : (Context.modOn k g x).on k = g (x.on k) :=
  getD_modify_self g _ h

theorem exec_clusterGeneratorReseed_due (hr : s.runner p = some (c, x)) (hg : (x.on k).generator = some n) (hk : k < x.width) (hn : n + 1024 ≤ s.now) :
    exec (.clusterGeneratorReseed p k ok) s = .next ((s.modCtx p c (Context.modOn k fun y =>
      { y with generator := if ok && s.canDraw then some s.now else none })).drawnMany (b2n (ok && s.canDraw))) := by
  show execClusterGeneratorReseed p k ok s = _
  simp only [execClusterGeneratorReseed, hr, hg, hk, hn, decide_true, Bool.and_self, if_true]

theorem clusterGeneratorReseed_due (hr : s.runner p = some (c, x)) (hg : (x.on k).generator = some n) (hk : k < x.width) (hn : n + 1024 ≤ s.now)
    (hp : p < s.parcels.length) (hc : c < (s.parcel p).contexts.length) (hl : k < (s.ctx p c).clusters.length) :
    ∃ t, exec (.clusterGeneratorReseed p k ok) s = .next t ∧
      ((t.ctx p c).on k).generator = (if ok = true ∧ s.canDraw = true then some s.now else none) ∧ t.draws = s.draws + b2n (ok && s.canDraw) := by
  refine ⟨_, exec_clusterGeneratorReseed_due hr hg hk hn, ?_, rfl⟩
  rw [State.drawnMany_ctx, State.modCtx_ctx hp hc, modOn_on hl]
  simp only [Bool.and_eq_true]

/-! The factory's fuse programming (R231, Table 10.1). -/

/-- The UDS and Vutawen's two authorities are put into their slots. -/
def State.factoryKeys (s : State) : State :=
  let t := s.drawn.fillSlot 0 (slotAttr 6 0 0 true false 1 lcWork) ((s.fresh.setWidth 384).setWidth 1024)
  let u := (t.drawn.fillSlot 8 (slotAttr 5 0 0 false true 0x23 lcWork) ((t.fresh.setWidth 776).setWidth 1024)).keepBlob 8
  (u.drawn.fillSlot 9 (slotAttr 5 0 0 false true 0x23 lcWork) ((u.fresh.setWidth 776).setWidth 1024)).keepBlob 9

/-- The module is MANUFACTURED: the fuses say so, the event is raised, and a cold reset is ordered (R231, R232). -/
def State.manufactured (n : Nat) (s : State) : State :=
  let t := (State.evPf 0x1002 [0, 1, 0] { s with flash := { s.flash with lifecycle := 1 } }).evMgmt 0x1002 [0, 1, 0]
  { t with faults := { t.faults with order := some (n, true) } }

theorem exec_factoryFuseProgramming_blank (hl : s.flash.lifecycle = 0) (hd : s.canDraw = true) (hlive : s.entropy.live = true)
    (hp : s.entropy.pattern = none) : exec .factoryFuseProgramming s = .next (s.factoryKeys.manufactured s.now) :=
  congrArg Host.Outcome.next (if_pos (by simp [hl, hd, hlive, hp]))

theorem fillSlot_filled : (s.fillSlot i attr v).slotFilled j = (j == i || s.slotFilled j) := by
  by_cases h : j = i
  · simp [h, State.slotFilled, State.fillSlot]
  · simp [h, State.slotFilled, State.fillSlot, tget_tset_ne _ _ h]

theorem keepBlob_filled : (s.keepBlob i).slotFilled j = s.slotFilled j := rfl

theorem factoryKeys_filled (h : j ∈ [0, 8, 9]) : s.factoryKeys.slotFilled j = true := by
  simp only [State.factoryKeys, keepBlob_filled, fillSlot_filled, State.drawn_slotFilled]
  simp only [List.mem_cons, List.not_mem_nil, or_false] at h
  rcases h with rfl | rfl | rfl
  · rfl
  · rfl
  · rfl

theorem factoryKeys_time : s.factoryKeys.time = s.time := rfl

theorem manufactured_lifecycle : (s.manufactured n).flash.lifecycle = 1 := by
  simp only [State.manufactured, State.evMgmt_flash, State.evPf_flash]

theorem manufactured_filled : (s.manufactured n).slotFilled j = s.slotFilled j := by
  show ((State.evPf 0x1002 [0, 1, 0] { s with flash := { s.flash with lifecycle := 1 } }).evMgmt 0x1002 [0, 1, 0]).slotFilled j = _
  rw [State.evMgmt_slotFilled, State.evPf_slotFilled]
  rfl

theorem manufactured_time : (s.manufactured n).time = s.time := by
  show ((State.evPf 0x1002 [0, 1, 0] { s with flash := { s.flash with lifecycle := 1 } }).evMgmt 0x1002 [0, 1, 0]).time = _
  rw [State.evMgmt_time, State.evPf_time]
  rfl

theorem factoryFuseProgramming_blank (hl : s.flash.lifecycle = 0) (hd : s.canDraw = true) (hlive : s.entropy.live = true) (hp : s.entropy.pattern = none) :
    ∃ t, exec .factoryFuseProgramming s = .next t ∧ t.flash.lifecycle = 1 ∧ t.faults.order = some (s.now, true) ∧
      t.slotFilled 0 = true ∧ t.slotFilled 8 = true ∧ t.slotFilled 9 = true ∧ t.time = s.time := by
  have hfilled : ∀ j ∈ [0, 8, 9], (s.factoryKeys.manufactured s.now).slotFilled j = true := fun j hj => manufactured_filled.trans (factoryKeys_filled hj)
  exact ⟨_, exec_factoryFuseProgramming_blank hl hd hlive hp, manufactured_lifecycle, rfl, hfilled 0 (by decide), hfilled 8 (by decide), hfilled 9 (by decide),
    manufactured_time.trans factoryKeys_time⟩

/-- A challenge that has run out is gone (R245). -/
theorem exec_fieldChallengeExpiry_due {d : BitVec 256} (h : s.chest.challenge = some (d, n)) (hdue : n + 67108864 ≤ s.now) :
    exec .fieldChallengeExpiry s = .next { s with chest := { s.chest with challenge := none } } := by
  show execFieldChallengeExpiry s = _
  simp only [execFieldChallengeExpiry, h, hdue, if_true]

end

/-- Settles O50: one lemma for each test that fails or ends, each reseed, the factory's programming and the expiry; what an event's estimates keep of a source
stands in `estimated_keep`. -/
theorem noiseSources : Obligations.NoiseSources := by
  intro s
  exact ⟨fun rct => healthTestFail_primary, fun rct => healthTestFail_fallback, fun pass => exec_primaryRetest_due, startUpTestEnd_primary,
    startUpTestEnd_fallback, fun p => startUpTestEnd_fail, fun ok => exec_hubReseed_due, fun p k c x n ok => clusterGeneratorReseed_due,
    factoryFuseProgramming_blank, fun c n => exec_fieldChallengeExpiry_due⟩

end Sys2Proof.Machine

/-! What management operations answer (R261, R267 to R269, R277, R324, R331, R334, R338). -/

namespace Sys2Proof.Machine

section
variable {s : State} {m : MgmtMsg} {op n st : Nat} {c : Bool} {f : Bytes → State → Nat × Bytes × State} {k : Nat × Bytes × State}

/-- The answer to an operation that came to a status, a response body and a state (R324). -/
def State.mgmtAnswered (m : MgmtMsg) (op : Nat) (r : Nat × Bytes × State) : State := r.2.2.answerMgmt m op r.1 r.2.1

/-- What a heard message is answered: what its operation comes to. -/
theorem runMgmt_answered (h : s.Hears m) : s.runMgmt m op f = State.mgmtAnswered m op (f m.body s) := runMgmt_hears h op f

/-- The same for an operation on bodies of one length. -/
theorem runMgmt_sized (h : s.Hears m) (hn : m.body.length = n) :
    s.runMgmt m op (fun b u => u.sized n b (f b u)) = State.mgmtAnswered m op (f m.body s) := by
  rw [runMgmt_answered h, sized_eq hn]

theorem checked_pass (hc : c = false) (l : List (Bool × Nat)) : s.checked ((c, st) :: l) k = s.checked l k := by
  rw [checked_cons, hc, if_neg Bool.false_ne_true]

/-- The checks refuse in their order (R324). -/
theorem answered_checked_cons {l : List (Bool × Nat)} : State.mgmtAnswered m op (s.checked ((c, st) :: l) k) =
    if c = true then s.answerMgmt m op st [] else State.mgmtAnswered m op (s.checked l k) := by
  rw [checked_cons]
  exact apply_ite ..

theorem answered_checked_one : State.mgmtAnswered m op (s.checked [(c, st)] k) = if c = true then s.answerMgmt m op st [] else State.mgmtAnswered m op k :=
  answered_checked_cons

/-! Records (R267, R324, R331, R338). -/

theorem exec_mgmtTelemetry (h : s.Hears m) (hn : m.body.length = 0) : exec (.mgmtTelemetry m) s =
    .next (s.answerMgmt m 0x01 stOk (if s.power.telemetry = [] then s.telemetryBytes else s.power.telemetry)) := by
  show Host.Outcome.next _ = _
  rw [runMgmt_sized h hn]
  simp only [State.mgmtAnswered, List.isEmpty_iff]

theorem exec_mgmtEntropy (h : s.Hears m) (hn : m.body.length = 0) : exec (.mgmtEntropy m) s =
    .next (((s.estimate false).estimate true).answerMgmt m 0x02 stOk
      (sourceBytes false ((s.estimate false).estimate true).entropy.primary ++ sourceBytes true ((s.estimate false).estimate true).entropy.fallback)) :=
  congrArg Host.Outcome.next (runMgmt_sized h hn)

theorem exec_mgmtLinkStatus (h : s.Hears m) (hn : m.body.length = 0) : exec (.mgmtLinkStatus m) s = .next (s.answerMgmt m 0x44 stOk s.linkStatus) :=
  congrArg Host.Outcome.next (runMgmt_sized h hn)

theorem exec_mgmtMeter (h : s.Hears m) (hn : m.body.length = 8) : exec (.mgmtMeter m) s =
    .next (if fld 4 4 m.body = 0 ∨ 64 < fld 4 4 m.body then s.answerMgmt m 0x12 stArg []
      else s.answerMgmt m 0x12 stOk (((s.power.records.filter fun r => fld 0 4 m.body ≤ r.index && r.index < fld 0 4 m.body + fld 4 4 m.body).take
        (mgmtMost m.path / 240)).flatMap meterBytes)) := by
  show Host.Outcome.next _ = _
  rw [runMgmt_sized h hn, answered_checked_one]
  simp only [State.mgmtAnswered, Bool.or_eq_true, decide_eq_true_eq]

/-! A parcel's profile (R261): the reserved bytes and the parcel's number pass, the grant decides. -/

theorem exec_mgmtProfile (h : s.Hears m) (hn : m.body.length = 8) (hz : allZero (m.body.drop 1) = true) (hp : fld 0 1 m.body < 16) :
    exec (.mgmtProfile m) s = .next (if (s.parcel (fld 0 1 m.body)).grant.toNat.testBit 1 = true
      then (s.drawMany 1).answerMgmt m 0x03 stOk (le 128 s.fresh.toNat) else s.answerMgmt m 0x03 stNotPermitted []) := by
  show Host.Outcome.next _ = _
  rw [runMgmt_sized h hn, checked_pass (by rw [hz]; rfl), checked_pass (decide_eq_false (Nat.not_le.2 hp)), answered_checked_one]
  cases (s.parcel (fld 0 1 m.body)).grant.toNat.testBit 1 with
  | true => rfl
  | false => rfl

/-! The schedule (R334). -/

/-- The first entry of a schedule starts before chain `c`. -/
def startsBefore (c : Nat) (l : List SchedEntry) : Bool :=
  match l with
  | e :: _ => e.startChain < c
  | [] => false

theorem startsBefore_iff {c : Nat} {l : List SchedEntry} : startsBefore c l = true ↔ ∃ e ∈ l.head?, e.startChain < c := by
  cases l with
  | nil => simp [startsBefore]
  | cons e l => simp [startsBefore]

/-- The entries of a body, each with whether a reserved bit of it is set (Table 15.5). -/
def entriesOf (b : Bytes) : List (SchedEntry × Bool) := (chunks 16 64 (b.drop 8)).map readEntry

/-- A body of whole entries without a reserved bit, with tariffs of Table 15.5, is left to the checks of order, start and caps. -/
theorem exec_mgmtSchedule_wellFormed {l : List SchedEntry} (h : s.Hears m) (hl : l = (entriesOf m.body).map (·.1)) (h8 : 8 ≤ m.body.length)
    (h64 : fld 0 4 m.body ≤ 64) (hn : m.body.length = 8 + 16 * fld 0 4 m.body) (hz : allZero (cut 4 4 m.body) = true)
    (he : ∀ e ∈ entriesOf m.body, e.2 = false ∧ e.1.tariff < 8) :
    exec (.mgmtSchedule m) s = .next (State.mgmtAnswered m 0x11 (s.checked
      [(!ascending l || startsBefore (s.now + 2) l, stSchedule), (l.any fun e => s.capBad e.capW, stCapRange)]
      (stOk, [], { s with power := { s.power with schedule := l } }))) := by
  have hreserved : (!allZero (cut 4 4 m.body) || (entriesOf m.body).any (·.2)) = false := by
    simpa [hz] using fun a c hm => (he (a, c) hm).1
  have htariff : (l.any fun e => 8 ≤ e.tariff) = false := by
    simpa [hl] using fun a c hm => (he (a, c) hm).2
  subst hl
  refine congrArg Host.Outcome.next ((runMgmt_answered h).trans (congrArg (State.mgmtAnswered m 0x11) ?_))
  exact (checked_pass (decide_eq_false (Nat.not_lt.2 h8)) _).trans <| (checked_pass (decide_eq_false (Nat.not_lt.2 h64)) _).trans <|
    (checked_pass (decide_eq_false (not_not.2 hn)) _).trans <| (checked_pass hreserved _).trans <| checked_pass htariff _

theorem exec_mgmtSchedule (l : List SchedEntry) (hl : l = (entriesOf m.body).map (·.1)) (h : s.Hears m) (h8 : 8 ≤ m.body.length)
    (h64 : fld 0 4 m.body ≤ 64) (hn : m.body.length = 8 + 16 * fld 0 4 m.body) (hz : allZero (cut 4 4 m.body) = true)
    (he : ∀ e ∈ entriesOf m.body, e.2 = false ∧ e.1.tariff < 8) :
    exec (.mgmtSchedule m) s = .next (if ascending l = false ∨ (∃ e ∈ l.head?, e.startChain < s.now + 2) then s.answerMgmt m 0x11 stSchedule []
      else if l.any (fun e => s.capBad e.capW) = true then s.answerMgmt m 0x11 stCapRange []
      else { s with power := { s.power with schedule := l } }.answerMgmt m 0x11 stOk []) := by
  rw [exec_mgmtSchedule_wellFormed h hl h8 h64 hn hz he, answered_checked_cons, answered_checked_one]
  simp only [State.mgmtAnswered, Bool.or_eq_true, Bool.not_eq_true', startsBefore_iff]

/-! Resets (R277). -/

theorem mgmtReset_ofKind {cold : Bool} (h : s.Hears m) (hn : m.body.length = 8) (hz : allZero (m.body.drop 1) = true) (hk : (fld 0 1 m.body == 1) = cold) :
    s.mgmtReset cold m = if 1 < fld 0 1 m.body then s.answerMgmt m 0x40 stArg [] else (s.orderReset cold).answerMgmt m 0x40 stOk [] := by
  unfold State.mgmtReset
  rw [if_neg (by simp [hk]), runMgmt_sized h hn, checked_pass (by rw [hz]; rfl), answered_checked_one]
  simp only [State.mgmtAnswered, decide_eq_true_eq]

theorem mgmtReset_ofOtherKind {cold : Bool} (hk : (fld 0 1 m.body == 1) ≠ cold) : s.mgmtReset cold m = s := if_pos (bne_iff_ne.2 hk)

theorem exec_moduleResetWarm (h : s.Hears m) (hn : m.body.length = 8) (hz : allZero (m.body.drop 1) = true) : exec (.moduleResetWarm m) s =
    .next (if fld 0 1 m.body = 0 then (s.orderReset false).answerMgmt m 0x40 stOk [] else if fld 0 1 m.body = 1 then s else s.answerMgmt m 0x40 stArg []) := by
  show Host.Outcome.next (s.mgmtReset false m) = _
  by_cases h1 : fld 0 1 m.body = 1
  · rw [mgmtReset_ofOtherKind (by simp [h1]), if_neg (by omega), if_pos h1]
  · rw [mgmtReset_ofKind h hn hz (by simp [h1])]
    by_cases h0 : fld 0 1 m.body = 0
    · rw [if_neg (by omega), if_pos h0]
    · rw [if_pos (by omega), if_neg h0, if_neg h1]

theorem exec_moduleResetCold (h : s.Hears m) (hn : m.body.length = 8) (hz : allZero (m.body.drop 1) = true) : exec (.moduleResetCold m) s =
    .next (if fld 0 1 m.body = 1 then (s.orderReset true).answerMgmt m 0x40 stOk [] else s) := by
  show Host.Outcome.next (s.mgmtReset true m) = _
  by_cases h1 : fld 0 1 m.body = 1
  · rw [mgmtReset_ofKind h hn hz (by simp [h1]), if_neg (by omega), if_pos h1]
  · rw [mgmtReset_ofOtherKind (by simp [h1]), if_neg h1]

/-! The generator and the test pattern (R268, R269). -/

theorem exec_drbgReseed (h : s.Hears m) (hn : m.body.length = 0) : exec (.drbgReseed m) s =
    .next ({ s with entropy := { s.entropy with reseedDue := true } }.answerMgmt m 0x41 stOk []) :=
  congrArg Host.Outcome.next (runMgmt_sized h hn)

theorem exec_entropyPattern (h : s.Hears m) (hn : m.body.length = 32) : exec (.entropyPattern m) s =
    .next (if s.flash.lifecycle = 1 ∧ s.flash.provisioned = false
      then { s with entropy := { s.entropy with pendPattern := some (BitVec.ofNat 256 (leNat m.body)) } }.answerMgmt m 0x42 stOk []
      else s.answerMgmt m 0x42 stLifecycle []) := by
  show Host.Outcome.next _ = _
  rw [runMgmt_sized h hn, answered_checked_one]
  by_cases hl : s.flash.lifecycle = 1 ∧ s.flash.provisioned = false
  · rw [if_neg (by simp [hl]), if_pos hl]
    rfl
  · rw [if_pos (by simpa [imp_iff_not_or] using hl), if_neg hl]

/-! Retraining (R141, R324). -/

theorem exec_mgmtLinkRetrain (h : s.Hears m) (hn : m.body.length = 8) (hz : allZero (m.body.drop 1) = true) : exec (.mgmtLinkRetrain m) s =
    .next (if 48 ≤ fld 0 1 m.body then s.answerMgmt m 0x43 stArg [] else if (s.link (fld 0 1 m.body)).state = 0 then s.answerMgmt m 0x43 stBusy []
      else { s.enterTraining (fld 0 1 m.body) .operator with longs := s.longs ++ [{ LongCmd.reset with link := fld 0 1 m.body, mgmt := some m }] }) := by
  show Host.Outcome.next (s.mgmtRetrain m) = _
  simp only [State.mgmtRetrain, h.path, h.flags, h.reserved, hn, hz, State.isTraining, beq_iff_eq, Bool.not_true, Bool.false_eq_true, ne_eq, not_true, decide_false,
    Bool.or_self, if_false]

end

/-- Settles O45: one lemma for each operation; a reset by the kind that the message names. -/
theorem managementAnswers : Obligations.ManagementAnswers := by
  intro s m h
  exact ⟨exec_mgmtTelemetry h, exec_mgmtEntropy h, exec_mgmtProfile h, fun l hl => exec_mgmtSchedule l hl h, exec_mgmtMeter h,
    fun hn hz => ⟨exec_moduleResetWarm h hn hz, exec_moduleResetCold h hn hz⟩, exec_drbgReseed h, exec_entropyPattern h, exec_mgmtLinkRetrain h,
    exec_mgmtLinkStatus h⟩

end Sys2Proof.Machine

/-! The effective cap and the commands that set it; the floor (R333, R334, R340). -/

namespace Sys2Proof.Machine

section
variable {s : State} {m : MgmtMsg} {cap limit : Nat} {l : List SchedEntry}

/-! The lowest cap binds (R333). -/

theorem capAt_le_limit : capAt limit cap ≤ limit := by
  unfold capAt
  split
  · exact le_rfl
  · exact min_le_left ..

theorem capAt_le_cap (h : cap ≠ 0) : capAt limit cap ≤ cap := by
  rw [capAt, if_neg h]
  exact min_le_right ..

/-- A cap leaves the limit, or binds itself. -/
theorem capAt_eq : capAt limit cap = limit ∨ (cap ≠ 0 ∧ capAt limit cap = cap) := by
  unfold capAt
  split
  · exact .inl rfl
  next h => exact (min_choice limit cap).imp id fun hmin => ⟨h, hmin⟩

theorem effectiveCap_lowest : s.effectiveCap ≤ limitWOf s.flash.variant ∧ (s.power.standingCap ≠ 0 → s.effectiveCap ≤ s.power.standingCap) ∧
    (s.power.schedCap ≠ 0 → s.effectiveCap ≤ s.power.schedCap) ∧
    (s.effectiveCap = limitWOf s.flash.variant ∨ (s.power.standingCap ≠ 0 ∧ s.effectiveCap = s.power.standingCap) ∨
      (s.power.schedCap ≠ 0 ∧ s.effectiveCap = s.power.schedCap)) := by
  have hstanding : s.effectiveCap ≤ capAt (limitWOf s.flash.variant) s.power.standingCap := capAt_le_limit
  refine ⟨hstanding.trans capAt_le_limit, fun h => hstanding.trans (capAt_le_cap h), fun h => capAt_le_cap h, ?_⟩
  rcases capAt_eq (limit := capAt (limitWOf s.flash.variant) s.power.standingCap) (cap := s.power.schedCap) with heq | hbinds
  · rw [State.effectiveCap, State.capWith, heq]
    exact capAt_eq.imp id .inl
  · exact .inr (.inr hbinds)

theorem capBad_iff : s.capBad cap = true ↔ cap ≠ 0 ∧ (limitWOf s.flash.variant < cap ∨ cap < capFloor s.flash.variant) := by
  simp [State.capBad]

/-! `mgmt.cap`. -/

theorem exec_mgmtCap (h : s.Hears m) (hn : m.body.length = 8) (hz : allZero (m.body.drop 2) = true) : exec (.mgmtCap m) s =
    .next (if s.power.fail = true then s.answerMgmt m 0x10 stPowerFail [] else if s.capBad (fld 0 2 m.body) = true then s.answerMgmt m 0x10 stCapRange []
      else (s.setCap (fld 0 2 m.body)).answerMgmt m 0x10 stOk
        (cat [le 8 (s.now + 1), le 1 ((s.setCap (fld 0 2 m.body)).clock.pendRatio.getD 0), zeros 7])) := by
  show Host.Outcome.next _ = _
  rw [runMgmt_sized h hn, checked_pass (by rw [hz]; rfl), answered_checked_cons, answered_checked_one]
  rfl

/-- A cap that is taken is in force at once, and its ratio from the next chain boundary on. -/
theorem setCap_facts : (s.setCap cap).power.standingCap = cap ∧ (s.setCap cap).clock.pendRatio = some ((s.setCap cap).clock.pendRatio.getD 0) ∧
    (s.setCap cap).time = s.time ∧ (s.setCap cap).power.schedule = s.power.schedule := ⟨rfl, rfl, rfl, rfl⟩

theorem mgmtCap_answers (hcap : cap = fld 0 2 m.body) (h : s.Hears m) (hn : m.body.length = 8) (hz : allZero (m.body.drop 2) = true) :
    (s.power.fail = true → exec (.mgmtCap m) s = .next (s.answerMgmt m 0x10 stPowerFail [])) ∧
    (s.power.fail = false → cap ≠ 0 ∧ (limitWOf s.flash.variant < cap ∨ cap < capFloor s.flash.variant) →
      exec (.mgmtCap m) s = .next (s.answerMgmt m 0x10 stCapRange [])) ∧
    (s.power.fail = false → ¬(cap ≠ 0 ∧ (limitWOf s.flash.variant < cap ∨ cap < capFloor s.flash.variant)) →
      ∃ (v : State) (r : Nat), exec (.mgmtCap m) s = .next (v.answerMgmt m 0x10 stOk (cat [le 8 (s.now + 1), le 1 r, zeros 7])) ∧
        v.power.standingCap = cap ∧ v.clock.pendRatio = some r ∧ v.time = s.time ∧ v.power.schedule = s.power.schedule) := by
  subst hcap
  rw [exec_mgmtCap h hn hz, ← capBad_iff]
  refine ⟨fun hf => ?_, fun hf hb => ?_, fun hf hb => ⟨_, _, ?_, setCap_facts⟩⟩
  · rw [if_pos hf]
  · rw [if_neg (by simp [hf]), if_pos hb]
  · rw [if_neg (by simp [hf]), if_neg hb]

/-! The caps of a schedule (R334). -/

theorem any_capBad_iff : (l.any fun e => s.capBad e.capW) = true ↔
    ∃ e ∈ l, e.capW ≠ 0 ∧ (limitWOf s.flash.variant < e.capW ∨ e.capW < capFloor s.flash.variant) := by
  simp only [List.any_eq_true, capBad_iff]

theorem mgmtSchedule_answers (hl : l = (entriesOf m.body).map (·.1)) (h : s.Hears m) (h8 : 8 ≤ m.body.length) (h64 : fld 0 4 m.body ≤ 64)
    (hn : m.body.length = 8 + 16 * fld 0 4 m.body) (hz : allZero (cut 4 4 m.body) = true) (he : ∀ e ∈ entriesOf m.body, e.2 = false ∧ e.1.tariff < 8)
    (hasc : ascending l = true) (hstart : ∀ e ∈ l.head?, s.now + 2 ≤ e.startChain) :
    ((∃ e ∈ l, e.capW ≠ 0 ∧ (limitWOf s.flash.variant < e.capW ∨ e.capW < capFloor s.flash.variant)) →
      exec (.mgmtSchedule m) s = .next (s.answerMgmt m 0x11 stCapRange [])) ∧
    ((∀ e ∈ l, e.capW = 0 ∨ (capFloor s.flash.variant ≤ e.capW ∧ e.capW ≤ limitWOf s.flash.variant)) → exec (.mgmtSchedule m) s =
      .next ({ s with power := { s.power with schedule := l } }.answerMgmt m 0x11 stOk [])) := by
  have hinTime : ¬(ascending l = false ∨ ∃ e ∈ l.head?, e.startChain < s.now + 2) := by
    rintro (hf | ⟨e, hmem, hlt⟩)
    · simp [hasc] at hf
    · exact Nat.not_lt.2 (hstart e hmem) hlt
  rw [exec_mgmtSchedule l hl h h8 h64 hn hz he, if_neg hinTime, ← any_capBad_iff]
  refine ⟨fun hbad => by rw [if_pos hbad], fun hgood => congrArg _ (if_neg ?_)⟩
  rw [any_capBad_iff]
  rintro ⟨e, hmem, hne, hout⟩
  rcases hgood e hmem with h0 | ⟨hlow, hhigh⟩
  · exact hne h0
  · omega

/-! `fw.commit` (R340). -/

theorem exec_fwCommit (h : s.Hears m) (hn : m.body.length = 0) : exec (.fwCommit m) s =
    .next (if s.boot.stage = 0x50 ∧ s.flash.fwFloor < s.boot.fwCounter
      then { s with flash := { s.flash with fwFloor := s.boot.fwCounter } }.answerMgmt m 0x23 stOk (le 4 s.boot.fwCounter ++ zeros 4)
      else s.answerMgmt m 0x23 stFwState []) := by
  show Host.Outcome.next _ = _
  rw [runMgmt_sized h hn, answered_checked_one]
  by_cases hrises : s.boot.stage = 0x50 ∧ s.flash.fwFloor < s.boot.fwCounter
  · rw [if_neg (by simpa using hrises), if_pos hrises]
    rfl
  · rw [if_pos (by simpa [imp_iff_not_or] using hrises), if_neg hrises]

end

/-- Settles O59: a cap of zero leaves what it is taken against, any other is the lower of the two; `mgmt.cap` and `mgmt.schedule` by the range of their caps. -/
theorem lowestCapBinds : Obligations.LowestCapBinds := by
  intro s m
  exact ⟨effectiveCap_lowest, fun cap => mgmtCap_answers, fun l => mgmtSchedule_answers⟩

/-- Settles O58: the floor rises in stage 0x50 by a counter above it. -/
theorem commitRaisesFloor : Obligations.CommitRaisesFloor := by
  intro s m h hbody
  rw [exec_fwCommit h (by rw [hbody]; rfl)]
  exact ⟨fun hrises => by rw [if_pos hrises], fun hstays => by rw [if_neg hstays]⟩

end Sys2Proof.Machine

/-! Staging of firmware and signed records (R275, R287, R289, R324, R339). -/

namespace Sys2Proof.Machine

section
variable {s : State} {m : MgmtMsg} {x : Bool} {l : List Bytes} {v : Survey}

/-! Staging (R339). -/

theorem exec_fwBegin (h : s.Hears m) (hn : m.body.length = 8) (hz : allZero (m.body.drop 4) = true) : exec (.fwBegin m) s =
    .next (if s.mgmt.staging.isSome = true then s.answerMgmt m 0x20 stBusy []
      else if fld 0 4 m.body = 0 ∨ 33554432 < fld 0 4 m.body then s.answerMgmt m 0x20 stArg []
      else ((s.modCopy s.stagingTarget fun _ => { FwCopy.reset with bytes := fld 0 4 m.body }).setStaging (some s.stagingTarget)).answerMgmt m 0x20 stOk
        (le 1 (b2n s.stagingTarget) ++ zeros 7)) := by
  show Host.Outcome.next _ = _
  rw [runMgmt_sized h hn, checked_pass (by rw [hz]; rfl), answered_checked_cons, answered_checked_one]
  simp only [State.mgmtAnswered, Bool.or_eq_true, decide_eq_true_eq]

theorem exec_fwData (h : s.Hears m) (hn : 8 < m.body.length) (hz : allZero (cut 4 4 m.body) = true) : exec (.fwData m) s =
    .next (match s.mgmt.staging with
      | none => s.answerMgmt m 0x21 stFwState []
      | some x => if (s.copy x).bytes < fld 0 4 m.body + (m.body.length - 8) then s.answerMgmt m 0x21 stArg []
        else (s.modCopy x fun c => { c with image := Memory.write0 (fld 0 4 m.body) (m.body.drop 8) c.image }).answerMgmt m 0x21 stOk []) := by
  show Host.Outcome.next _ = _
  rw [runMgmt_answered h, checked_pass (decide_eq_false (Nat.not_lt.2 hn)), checked_pass (by rw [hz]; rfl), answered_checked_cons, answered_checked_one,
    List.length_drop]
  cases s.mgmt.staging with
  | none => rfl
  | some x => simp only [State.mgmtAnswered, Option.isNone_some, Bool.false_eq_true, if_false, Option.getD_some, decide_eq_true_eq]

theorem exec_fwEnd_closed (h : s.Hears m) (hn : m.body.length = 0) (hx : s.mgmt.staging = none) : exec (.fwEnd m) s = .next (s.answerMgmt m 0x22 stFwState []) := by
  show Host.Outcome.next _ = _
  rw [runMgmt_sized h hn, hx]
  rfl

theorem counterBad_iff {k : Nat} {d : Digest} : s.counterBad k d = true ↔
    s.boot.stage ≠ 0x02 ∧ (k < s.boot.fwCounter ∨ k = s.boot.fwCounter ∧ d ≠ s.boot.fwDigest) := by
  simp [State.counterBad]

/-- The end of staging by the image, its counter and its digest. -/
theorem exec_fwEnd_open {img : Bytes} {k : Nat} {d : Digest} (h : s.Hears m) (hn : m.body.length = 0) (hx : s.mgmt.staging = some x)
    (himg : img = fwBytes (s.copy x)) (hk : k = Config.fwCounter img) (hd : d = Config.sha384 img) : exec (.fwEnd m) s =
    .next (if ¬(s.slotFilled 8 = true ∧ Config.fwVerifies (s.slotBytes 8 97) img = true) then (s.setStaging none).answerMgmt m 0x22 stSignature []
      else if s.boot.stage ≠ 0x02 ∧ (k < s.boot.fwCounter ∨ k = s.boot.fwCounter ∧ d ≠ s.boot.fwDigest) then
        (s.setStaging none).answerMgmt m 0x22 stCounter []
      else ((((s.setStaging none).modCopy x fun c => { c with valid := true, counter := k, digest := d, version := Config.fwVersion img }).evPf 0x1504
        [b2n x, k, (d.setWidth 128).toNat]).evMgmt 0x1504 [b2n x, k, (d.setWidth 128).toNat]).answerMgmt m 0x22 stOk
          (cat [le 1 (b2n x), zeros 3, le 4 k, le 48 d.toNat])) := by
  subst hk hd himg
  show Host.Outcome.next _ = _
  rw [runMgmt_sized h hn, hx]
  simp only [← counterBad_iff, ← Bool.and_eq_true, Bool.not_eq_true, Bool.not_eq_true']
  rw [apply_ite (State.mgmtAnswered m 0x22), apply_ite (State.mgmtAnswered m 0x22)]
  rfl

/-! Signed records (R275, R287, R289). -/

theorem exec_settingsWrite (h : s.Hears m) (hn : m.body.length = 128) (hz : allZero (cut 7 1 m.body ++ cut 12 4 m.body ++ cut 24 8 m.body) = true)
    (hmagic : fld 0 4 m.body = 0x0A5EB5E7) (hversion : fld 4 1 m.body = 1) (hprofile : fld 5 1 m.body ≤ 1) (hearly : fld 6 1 m.body ≤ 1)
    (hlow : 31250 ≤ fld 8 4 m.body) (hhigh : fld 8 4 m.body ≤ 1048576) : exec (.settingsWrite m) s =
    .next (if ¬(s.slotFilled 10 = true ∧ Config.ecdsaVerify (s.slotBytes 10 97) (m.body.take 32) (m.body.drop 32) = true) then s.answerMgmt m 0x30 stSignature []
      else if fld 16 8 m.body ≤ s.flash.settingsCounter then s.answerMgmt m 0x30 stCounter []
      else { s with flash := { s.flash with
        settings := { profile := fld 5 1 m.body, early := fld 6 1 m.body = 1, surveyWait := fld 8 4 m.body, counter := fld 16 8 m.body }
        settingsCounter := fld 16 8 m.body
        settingsBad := false } }.answerMgmt m 0x30 stOk []) := by
  show Host.Outcome.next _ = _
  rw [runMgmt_sized h hn, checked_pass (by rw [hz]; rfl), checked_pass (by simp [*]), answered_checked_cons, answered_checked_one]
  simp only [State.mgmtAnswered, Bool.not_eq_true', decide_eq_true_eq, ← Bool.and_eq_true, Bool.not_eq_true]

/-- A survey is stored, and takes effect at the next chain boundary unless it must wait for a reset (R289). -/
def State.surveyStored (v : Survey) (s : State) : State :=
  let t := { s with flash := { s.flash with survey := some v, surveyCounter := v.counter, surveyBad := false } }
  if s.surveyWaits v then t else { t with boot := { t.boot with pendSurvey := some v } }

theorem exec_surveyWrite (h : s.Hears m) (hv : v = parseSurvey m.body) (hn : m.body.length = 64 + 112 * fld 12 4 m.body + 96) (hz : surveyReserved m.body v = false)
    (hmagic : fld 0 4 m.body = 0x0A5E5E70) (hversion : fld 4 2 m.body = 1) (hhead : fld 6 2 m.body = 64)
    (hgroups : 0 < v.groups) (hgroups' : v.groups ≤ 512) (hcount : 0 < fld 12 4 m.body) (hcount' : fld 12 4 m.body ≤ 16384) (hwf : v.wellFormed = true) :
    exec (.surveyWrite m) s =
    .next (if s.surveySigned m.body = false then s.answerMgmt m 0x31 stSignature []
      else if v.counter ≤ s.flash.surveyCounter then s.answerMgmt m 0x31 stCounter []
      else (s.surveyStored v).answerMgmt m 0x31 stOk []) := by
  subst hv
  show Host.Outcome.next _ = _
  rw [runMgmt_answered h, checked_pass (by simp [hn]), checked_pass hz, checked_pass (by simp [*]; omega), answered_checked_cons, answered_checked_one]
  simp only [State.mgmtAnswered, Bool.not_eq_true', decide_eq_true_eq]
  rfl

/-! A TLS chain (R324). -/

theorem exec_tlsCert (h : s.Hears m) (hl : certList 65536 m.body = some l) (hne : l ≠ []) : exec (.tlsCert m) s =
    .next (if s.slotFilled 11 = true ∧ s.slotFilled 10 = true ∧ Config.certLeafKey l = s.tlsPub ∧ Config.certSignedBy l (s.slotBytes 10 97) = true
      then { s with chest := { s.chest with tlsChain := m.body } }.answerMgmt m 0x33 stOk [] else s.answerMgmt m 0x33 stSignature []) := by
  show Host.Outcome.next _ = _
  rw [runMgmt_answered h, hl]
  dsimp only
  rw [checked_pass (by simpa using hne), answered_checked_one]
  by_cases hgood : s.slotFilled 11 = true ∧ s.slotFilled 10 = true ∧ Config.certLeafKey l = s.tlsPub ∧ Config.certSignedBy l (s.slotBytes 10 97) = true
  · rw [if_neg (by simp [hgood]), if_pos hgood]
    rfl
  · rw [if_pos (by simpa [imp_iff_not_or, or_assoc] using hgood), if_neg hgood]

end

/-- Settles O46: one lemma for each message; the end of staging by whether a copy is staged. -/
theorem stagingAndRecords : Obligations.StagingAndRecords := by
  intro s m h
  exact ⟨exec_fwBegin h, exec_fwData h, exec_fwEnd_closed h, fun x img k d => exec_fwEnd_open h, exec_settingsWrite h, fun v => exec_surveyWrite h,
    fun l => exec_tlsCert h⟩

end Sys2Proof.Machine

/-! Votes between the members of a pair (R312). -/

namespace Sys2Proof.Machine

/-- A pair stalls no longer. -/
def State.unstalled (p k : Nat) (s : State) : State := s.modLogical p k fun u => { u with pairStall := false }

/-- The result `w` of a vote lands, and the spare's stores are invalidated. -/
def State.voted (p k m : Nat) (w : ShelfWrite) (s : State) : State := (((s.unstalled p k).popLanding p k).landOne p k w).clearSpare m

section
variable {s : State} {p k m0 m1 n c : Nat} {x : Context} {w0 w1 : ShelfWrite} {agree eq0 eq1 : Bool}
  (hlive : s.live p k = [m0, m1]) (hpend : s.votePending p k = true) (hahead : s.voteAhead (min m0 m1) = false)
include hlive hpend hahead

/-- The spare's results differ, or neither member's output equals them: the context is faulted. -/
theorem exec_pairVote_split (hr : s.runner p = some (c, x)) (h : agree = false ∨ eq0 = false ∧ eq1 = false) : exec (.pairVote p k agree eq0 eq1) s =
    .next ((((s.unstalled p k).faultCtx p c fcPairSplit).clearSpare m0).evVote p (min m0 m1) 3) := by
  have hsplit : (!agree || (s.spareCluster (dieOf m0)).isNone || (!eq0 && !eq1)) = true := by
    rcases h with rfl | ⟨rfl, rfl⟩
    · rfl
    · simp
  show Host.Outcome.next (s.pairVote p k agree eq0 eq1) = _
  simp only [State.pairVote, hlive, hpend, hahead, hsplit, hr, Bool.not_true, Bool.or_self, Bool.false_eq_true, if_false, if_true]
  rfl

/-- The spare's result equals the output of one member or of both: it lands, and a member that is outvoted is faulted. -/
theorem exec_pairVote_decided (hspare : s.spareCluster (dieOf m0) = some n) (h0 : (s.cluster m0).inflight.head? = some w0)
    (h1 : (s.cluster m1).inflight.head? = some w1) (h : eq0 = true ∨ eq1 = true) : exec (.pairVote p k true eq0 eq1) s =
    .next (if (eq0 && eq1) = true then (s.voted p k m0 w0).evVote p (min m0 m1) 0
      else if eq0 = true then ((s.voted p k m0 w0).clusterFault m1 fcPairOutvoted none).evVote p (min m0 m1) 2
      else ((s.voted p k m0 w1).clusterFault m0 fcPairOutvoted none).evVote p (min m0 m1) 1) := by
  have hone : (!eq0 && !eq1) = false := by
    rcases h with rfl | rfl
    · rfl
    · simp
  show Host.Outcome.next (s.pairVote p k true eq0 eq1) = _
  simp only [State.pairVote, hlive, hpend, hahead, hspare, hone, h0, h1, Option.isNone_some, Bool.not_true, Bool.or_self, Bool.false_eq_true, if_false]
  rfl

end

/-- Settles O18: by whether the spare's result decides for a member. -/
theorem voteDecides : Obligations.VoteDecides := by
  intro s p k m0 m1 n w0 w1 hlive hpend hahead hspare h0 h1
  have hdecided := fun {eq0 eq1} => exec_pairVote_decided (eq0 := eq0) (eq1 := eq1) hlive hpend hahead hspare h0 h1
  exact ⟨⟨hdecided (.inl rfl), hdecided (.inl rfl), hdecided (.inr rfl)⟩, fun c x agree eq0 eq1 => exec_pairVote_split hlive hpend hahead⟩

end Sys2Proof.Machine

/-! TLS sessions and packets of the management port (R320, R321). -/

namespace Sys2Proof.Machine

section
variable {s : State} {k : Nat} {h : TlsHello}

/-- A port that has its key and its chain takes a hello that keeps the rules (R321). -/
theorem tlsOpens_iff (hoff : s.power.off = false) : (s.tlsReady && s.tlsAccepts h) = true ↔
    (s.slotUse 11 1 = true ∧ s.slotFilled 10 = true ∧ s.chest.tlsChain ≠ []) ∧ h.tls13 = true ∧ h.aes256GcmSha384 = true ∧ h.groupOk = true ∧
      h.p384Sha384 = true ∧ Config.tlsChainVerifies (s.slotBytes 10 97) (h.clientChain ++ h.chainSig) = true := by
  simp [State.tlsReady, State.tlsAccepts, hoff, and_assoc]

/-- The lowest free session opens, if the hello is one that opens it. -/
theorem exec_tlsHandshake_free (hoff : s.power.off = false) (hk : k < 4) (hfree : s.mgmt.tls.contains k = false) (htaken : ∀ i < k, s.mgmt.tls.contains i = true) :
    exec (.tlsHandshake h) s = .next (
      if (s.slotUse 11 1 = true ∧ s.slotFilled 10 = true ∧ s.chest.tlsChain ≠ []) ∧ h.tls13 = true ∧ h.aes256GcmSha384 = true ∧ h.groupOk = true ∧
        h.p384Sha384 = true ∧ Config.tlsChainVerifies (s.slotBytes 10 97) (h.clientChain ++ h.chainSig) = true
      then { s with mgmt := { s.mgmt with tls := s.mgmt.tls ++ [k] } }.emit (.tls (some k)) else s.emit (.tls none)) := by
  have hlowest : ((List.range 4).find? fun i => !s.mgmt.tls.contains i) = some k :=
    find_least hk (by rw [hfree]; rfl) fun i hi => by rw [htaken i hi]; rfl
  show execTlsHandshake h s = _
  simp only [execTlsHandshake, hoff, hlowest, tlsOpens_iff hoff, Bool.false_eq_true, if_false]

theorem exec_tlsHandshake_full (hoff : s.power.off = false) (htaken : ∀ i < 4, s.mgmt.tls.contains i = true) :
    exec (.tlsHandshake h) s = .next (s.emit (.tls none)) := by
  have hnone : ((List.range 4).find? fun i => !s.mgmt.tls.contains i) = none :=
    List.find?_eq_none.2 fun i hi => by rw [htaken i (List.mem_range.1 hi)]; exact Bool.false_ne_true
  show execTlsHandshake h s = _
  simp only [execTlsHandshake, hoff, hnone, Bool.false_eq_true, if_false]

/-! Packets (R320). -/

/-- An address that a router advertises is one of the port's from then on. -/
def State.withIpv6 (a : BitVec 128) (s : State) : State :=
  if s.mgmt.ipv6.contains a then s else { s with mgmt := { s.mgmt with ipv6 := s.mgmt.ipv6 ++ [a] } }

theorem withIpv6_facts {a : BitVec 128} : a ∈ (s.withIpv6 a).mgmt.ipv6 ∧ (∀ b ∈ s.mgmt.ipv6, b ∈ (s.withIpv6 a).mgmt.ipv6) ∧
    (s.withIpv6 a).time = s.time := by
  unfold State.withIpv6
  split
  next hknown => exact ⟨List.contains_iff_mem.1 hknown, fun _ hb => hb, rfl⟩
  · exact ⟨List.mem_append_right _ (List.mem_singleton_self a), fun _ hb => List.mem_append_left _ hb, rfl⟩

/-- What a port with power does with a packet. -/
def State.portTakes (pkt : EthPacket) (s : State) : State :=
  match pkt with
  | .icmpEcho d => s.emit (.eth 0 d)
  | .neighbourSolicit a => if a = Config.linkLocal ∨ a ∈ s.mgmt.ipv6 then s.emit (.eth 1 (le 6 Config.macAddress.toNat)) else s
  | .dhcpOffer a => { s with mgmt := { s.mgmt with ipv4 := some a } }.emit (.eth 2 (le 4 a.toNat))
  | .raPrefix a => s.withIpv6 a
  | .tcp6416 => s
  | .other => s

theorem exec_ethPacket (hoff : s.power.off = false) (pkt : EthPacket) : exec (.ethPacket pkt) s = .next (s.portTakes pkt) := by
  refine congrArg Host.Outcome.next ((if_neg (by simp [hoff])).trans ?_)
  cases pkt with
  | neighbourSolicit a => simp only [State.portTakes, Bool.or_eq_true, decide_eq_true_eq, List.contains_iff_mem]
  | _ => rfl

end

/-- Settles O49: a hello by whether a session is free, a packet by its kind. -/
theorem portTalks : Obligations.PortTalks := by
  intro s hoff
  have hpacket := exec_ethPacket hoff
  exact ⟨fun h k => exec_tlsHandshake_free hoff, fun h => exec_tlsHandshake_full hoff, fun d => hpacket _, fun a => hpacket _, fun a => hpacket _,
    fun a => ⟨_, hpacket _, withIpv6_facts⟩, hpacket _, hpacket _⟩

end Sys2Proof.Machine

/-! Answers over the SMBus: MCTP control and SPDM (R229, R325 to R327, R330). -/

namespace Sys2Proof.Machine

/-- What goes out for the answer that an MCTP command comes to. -/
def State.mctpAnswered (msgType : Nat) (r : Bytes × State) : Host.Outcome State Fault Refusal :=
  .next (r.2.sendSmbus (.mctp msgType r.1) (BitVec.ofNat 8 msgType :: r.1))

/-- The message types that the module accepts (R325). -/
theorem mctpAccepts_iff {t : Nat} : mctpAccepts t = true ↔ t = 0x00 ∨ t = 0x05 ∨ t = 0x7F := by
  simp only [mctpAccepts, Bool.or_eq_true, beq_iff_eq, or_assoc]

section
variable {s : State}

theorem spdm_eq (code p1 p2 : Nat) (b : Bytes) : spdm code p1 p2 b = [0x12, BitVec.ofNat 8 code, BitVec.ofNat 8 p1, BitVec.ofNat 8 p2] ++ b := by
  simp [spdm, cat, le]

/-- With a key that may sign and a hub that can draw, the request is signed together with the answer, which carries a drawn nonce. -/
theorem spdmSign_signs {key : Nat} {request : Bytes} {answer : Bytes → Bytes} (hkey : s.slotUse key 1 = true) (hdraw : s.canDraw = true) :
    s.spdmSign key request answer =
      let b := answer (le 32 (s.fresh.setWidth 256).toNat)
      (b ++ signature ((s.drawn.slotVal key).setWidth 384) (request ++ b) s.drawn.draws, s.drawn.drawn) :=
  if_pos (by rw [hkey, hdraw]; rfl)

theorem spdmSign_cannot {key : Nat} {request : Bytes} {answer : Bytes → Bytes} (h : ¬(s.slotUse key 1 = true ∧ s.canDraw = true)) :
    s.spdmSign key request answer = (spdmError 0x05 0, s) :=
  if_neg (by simpa using h)

/-- The blocks that an index asks for (Table 15.3). -/
def measuredBlocks (index : Nat) : List Nat := if index = 0xFF then [1, 2, 3, 4, 5] else if index = 0 then [] else [index]

theorem measuredBlocks_eq {i : Nat} {l : List Nat} (h : i = 0 ∧ l = [] ∨ (1 ≤ i ∧ i ≤ 5) ∧ l = [i] ∨ i = 0xFF ∧ l = [1, 2, 3, 4, 5]) :
    measuredBlocks i = l ∧ (i ≤ 5 ∨ i = 0xFF) := by
  unfold measuredBlocks
  rcases h with ⟨rfl, rfl⟩ | ⟨⟨h1, h5⟩, rfl⟩ | ⟨rfl, rfl⟩
  · decide
  · exact ⟨by rw [if_neg (by omega), if_neg (by omega)], .inl h5⟩
  · decide

variable (hon : s.busOn = true)
include hon

/-- A port that is open takes the message, whose sender is there, and answers it (R330). -/
theorem answerMctp_answered (msgType : Nat) (f : State → Bytes × State) :
    Host.Outcome.next (s.answerMctp msgType f) = State.mctpAnswered msgType (f s.partnerBack) :=
  congrArg Host.Outcome.next (mctp_open hon msgType f)

/-! MCTP control (R325, R327). -/

theorem exec_setEndpointId (src eid : Nat) : exec (.setEndpointId src eid) s =
    let v := s.partnerBack
    if 8 ≤ eid ∧ eid ≤ 254 then
      State.mctpAnswered 0x00 ([0x01, 0x00, 0x00, BitVec.ofNat 8 eid, 0x00], { v with smbus := { v.smbus with partner := src, eid := eid } })
    else State.mctpAnswered 0x00 ([0x01, 0x02], { v with smbus := { v.smbus with partner := src } }) := by
  refine (answerMctp_answered hon ..).trans ?_
  simp only [Bool.and_eq_true, decide_eq_true_eq]
  exact apply_ite (State.mctpAnswered 0x00) ..

theorem exec_getMctpVersionSupport (t : Nat) : exec (.getMctpVersionSupport t) s =
    if t = 0xFF ∨ t = 0x00 then State.mctpAnswered 0x00 ([0x04, 0x00, 0x01, 0xF1, 0xF3, 0xFF, 0x00], s.partnerBack)
    else if t = 0x05 ∨ t = 0x7F then State.mctpAnswered 0x00 ([0x04, 0x00, 0x01] ++ be 4 (Config.mctpVersion t).toNat, s.partnerBack)
    else State.mctpAnswered 0x00 ([0x04, 0x80], s.partnerBack) := by
  refine (answerMctp_answered hon ..).trans ?_
  simp only [Bool.or_eq_true, decide_eq_true_eq]
  by_cases hcontrol : t = 0xFF ∨ t = 0x00
  · rw [if_pos hcontrol, if_pos hcontrol]
    rfl
  · have haccepts : mctpAccepts t = true ↔ t = 0x05 ∨ t = 0x7F := by
      rw [mctpAccepts_iff]
      omega
    simp only [if_neg hcontrol, haccepts]
    exact apply_ite (State.mctpAnswered 0x00) ..

theorem exec_getVendorMessageSupport (n : Nat) : exec (.getVendorMessageSupport n) s =
    if n = 0 then State.mctpAnswered 0x00 ([0x06, 0x00, 0xFF, 0x01] ++ be 4 Config.enterpriseNumber ++ be 2 Config.vendorSet.toNat, s.partnerBack)
    else State.mctpAnswered 0x00 ([0x06, 0x02], s.partnerBack) :=
  (answerMctp_answered hon ..).trans (apply_ite (State.mctpAnswered 0x00) ..)

/-! SPDM (R229, R326). -/

theorem exec_negotiateAlgorithms (ok : Bool) : exec (.negotiateAlgorithms ok) s =
    let v := s.partnerBack
    if ok = true then State.mctpAnswered 0x05 ([0x12, 0x63, 0x00, 0x00, 36, 0, 1, 0, 4, 0, 0, 0, 0x80, 0, 0, 0, 2, 0, 0, 0] ++ zeros 16,
      { v with mgmt := { v.mgmt with spdmNegotiated := true } })
    else State.mctpAnswered 0x05 ([0x12, 0x7F, 0x01, 0x00], v) :=
  (answerMctp_answered hon ..).trans (apply_ite (State.mctpAnswered 0x05) ..)

theorem exec_getDigests : exec .getDigests s =
    let v := s.partnerBack
    State.mctpAnswered 0x05 ([0x12, 0x01, 0x00, 0x03] ++ le 48 (Config.sha384 (v.spdmChain 0)).toNat ++ le 48 (Config.sha384 (v.spdmChain 1)).toNat, v) := by
  refine (answerMctp_answered hon ..).trans ?_
  rw [spdm_eq]
  rfl

theorem exec_getCertificate (k o l : Nat) : exec (.getCertificate k o l) s =
    let v := s.partnerBack
    if 2 ≤ k ∨ (v.spdmChain k).length ≤ o then State.mctpAnswered 0x05 ([0x12, 0x7F, 0x01, 0x00], v)
    else State.mctpAnswered 0x05 ([0x12, 0x02, BitVec.ofNat 8 k, 0x00] ++ le 2 (cut o l (v.spdmChain k)).length ++
      le 2 ((v.spdmChain k).length - o - (cut o l (v.spdmChain k)).length) ++ cut o l (v.spdmChain k), v) := by
  refine (answerMctp_answered hon ..).trans ?_
  simp only [Bool.or_eq_true, decide_eq_true_eq, spdm_eq, cat, List.flatten_cons, List.flatten_nil, List.append_nil, List.append_assoc]
  exact apply_ite (State.mctpAnswered 0x05) ..

theorem exec_challenge_signed {k : Nat} (nonce : BitVec 256) {b : Bytes} (hk : k < 2) (hkey : s.partnerBack.slotUse (3 + k) 1 = true)
    (hdraw : s.partnerBack.canDraw = true)
    (hb : b = [0x12, 0x03, BitVec.ofNat 8 k, BitVec.ofNat 8 (2 ^ k)] ++ le 48 (Config.sha384 (s.partnerBack.spdmChain k)).toNat ++
      le 32 (s.partnerBack.fresh.setWidth 256).toNat ++ [0, 0]) :
    exec (.challenge k nonce) s =
      let v := s.partnerBack
      State.mctpAnswered 0x05 (b ++ signature ((v.drawn.slotVal (3 + k)).setWidth 384) ([0x12, 0x83, BitVec.ofNat 8 k, 0] ++ le 32 nonce.toNat ++ b) v.drawn.draws,
        v.drawn.drawn) := by
  subst hb
  refine (answerMctp_answered hon ..).trans ?_
  rw [if_neg (Nat.not_le.2 hk), spdmSign_signs hkey hdraw]
  simp only [spdm_eq, cat, List.flatten_cons, List.flatten_nil, List.append_nil, List.append_assoc]
  rfl

theorem exec_challenge_refused (k : Nat) (nonce : BitVec 256) :
    exec (.challenge k nonce) s = State.mctpAnswered 0x05 ([0x12, 0x7F, if 2 ≤ k then 0x01 else 0x05, 0x00], s.partnerBack) ∨
      (k < 2 ∧ s.partnerBack.slotUse (3 + k) 1 = true ∧ s.partnerBack.canDraw = true) := by
  refine or_iff_not_imp_right.2 fun hcannot => (answerMctp_answered hon ..).trans ?_
  by_cases hk : 2 ≤ k
  · rw [if_pos hk, if_pos hk]
    rfl
  · rw [if_neg hk, if_neg hk, spdmSign_cannot fun h => hcannot ⟨Nat.lt_of_not_le hk, h⟩]
    rfl

theorem exec_getMeasurements_signed {i : Nat} (nonce : BitVec 256) {l : List Nat} {r b : Bytes}
    (hl : i = 0 ∧ l = [] ∨ (1 ≤ i ∧ i ≤ 5) ∧ l = [i] ∨ i = 0xFF ∧ l = [1, 2, 3, 4, 5]) (hr : r = l.flatMap fun i => s.partnerBack.blockBytes i)
    (hkey : s.partnerBack.slotUse 3 1 = true) (hdraw : s.partnerBack.canDraw = true)
    (hb : b = [0x12, 0x60, if i = 0 then 5 else 0, 0, BitVec.ofNat 8 l.length] ++ le 3 r.length ++ r ++ le 32 (s.partnerBack.fresh.setWidth 256).toNat ++ [0, 0]) :
    exec (.getMeasurements i nonce) s =
      let v := s.partnerBack
      State.mctpAnswered 0x05 (b ++ signature ((v.drawn.slotVal 3).setWidth 384) ([0x12, 0xE0, 1, BitVec.ofNat 8 i] ++ le 32 nonce.toNat ++ b) v.drawn.draws,
        v.drawn.drawn) := by
  obtain ⟨hblocks, hindex⟩ := measuredBlocks_eq hl
  subst hb hr hblocks
  refine (answerMctp_answered hon ..).trans ?_
  rw [if_neg (by simp; omega), spdmSign_signs hkey hdraw]
  simp only [spdm_eq, cat, List.flatten_cons, List.flatten_nil, List.append_nil, List.append_assoc, apply_ite (BitVec.ofNat 8)]
  rfl

theorem exec_getMeasurements_refused {i : Nat} (nonce : BitVec 256) (h5 : 5 < i) (hall : i ≠ 0xFF) :
    exec (.getMeasurements i nonce) s = State.mctpAnswered 0x05 ([0x12, 0x7F, 0x01, 0x00], s.partnerBack) := by
  refine (answerMctp_answered hon ..).trans ?_
  rw [if_pos (by simp [h5, hall])]
  rfl

end

/-- Settles O47: every answer by what its command comes to on a port that is open; a signed one by whether its key may sign and the hub can draw. -/
theorem smbusAnswers : Obligations.SmbusAnswers := by
  refine ⟨fun s hon => ?_, fun s hon => ?_⟩
  · exact ⟨exec_setEndpointId hon, answerMctp_answered hon .., answerMctp_answered hon .., exec_getMctpVersionSupport hon, answerMctp_answered hon ..,
      exec_getVendorMessageSupport hon, fun c => answerMctp_answered hon ..⟩
  · exact ⟨answerMctp_answered hon .., answerMctp_answered hon .., exec_negotiateAlgorithms hon true, exec_negotiateAlgorithms hon false, exec_getDigests hon,
      exec_getCertificate hon, fun k nonce b => exec_challenge_signed hon nonce, exec_challenge_refused hon,
      fun i nonce l r b => exec_getMeasurements_signed hon nonce, fun i nonce => exec_getMeasurements_refused hon nonce, fun c => answerMctp_answered hon ..⟩

end Sys2Proof.Machine

/-! The SMBus port: its lines, its fence, its retries and its probes (R327 to R330). -/

namespace Sys2Proof.Machine

section
variable {s : State} {n a c : Nat} {b : Bytes} {l : List Bytes}

theorem evSmbus_time {st line : Nat} : (s.evSmbus st line).time = s.time := time_of_clock (ev_smbus ..).2

/-- A packet ends the no-partner state, if it stands, and counts nothing as discarded (R330). -/
theorem partnerBack_partner : s.partnerBack.smbus.noPartner = false ∧ s.partnerBack.smbus.discards = s.smbus.discards := by
  cases h : s.smbus.noPartner with
  | true =>
    rw [(partnerBack_facts s h).1]
    exact ⟨rfl, rfl⟩
  | false =>
    rw [State.partnerBack, if_neg (by simp [h])]
    exact ⟨h, rfl⟩

/-! The fence is lifted once the lines have been high long enough (R329). -/

/-- The fenced lines are sampled. -/
def State.linesSampled (s : State) : State := { s with smbus := { s.smbus with probeChain := s.now } }

theorem exec_smbusUnfence_due (hf : s.smbus.fenced = true) (hdue : s.smbus.probeChain + 32768 ≤ s.now) : exec (.smbusUnfence n) s =
    .next (if 35000 ≤ n then { s.linesSampled with smbus := { s.linesSampled.smbus with fenced := false } }.evSmbus 1 2 else s.linesSampled) :=
  congrArg Host.Outcome.next (if_pos (by simp [hf, hdue]))

theorem smbusUnfence_due (hf : s.smbus.fenced = true) (hdue : s.smbus.probeChain + 32768 ≤ s.now) : ∃ t, exec (.smbusUnfence n) s = .next t ∧
    t.smbus = { s.smbus with probeChain := s.now, fenced := decide (n < 35000) } := by
  refine ⟨_, exec_smbusUnfence_due hf hdue, ?_⟩
  by_cases hn : 35000 ≤ n
  · rw [if_pos hn, (ev_smbus ..).1, decide_eq_false (Nat.not_lt.2 hn)]
    rfl
  · rw [if_neg hn, decide_eq_true (Nat.lt_of_not_le hn), ← hf]
    rfl

/-! A port that takes part in the bus. -/

/-- The transfer that the line check has held back is retried (R328). -/
def State.transferRetried (s : State) : State := match s.smbus.transfer with | some b => s.emit (.smbus 1 b) | none => s

theorem transferRetried_facts : s.transferRetried.smbus = s.smbus ∧ s.transferRetried.outbox = s.outbox ++ s.smbus.transfer.toList.map (.smbus 1 ·) := by
  unfold State.transferRetried
  cases s.smbus.transfer with
  | none => exact ⟨rfl, (List.append_nil _).symm⟩
  | some b => exact ⟨rfl, rfl⟩

variable (hon : s.busOn = true)
include hon

theorem exec_smbusLineRecovery_freed (hn : n ≤ 9) : exec (.smbusLineRecovery (some n)) s =
    .next ({ s with smbus := { s.smbus with recovering := false } }.emit (.smbus 2 (le 1 n))).transferRetried := by
  refine congrArg Host.Outcome.next ((if_neg (by simp [hon])).trans ?_)
  exact if_pos hn

theorem smbusLineRecovery_freed (hn : n ≤ 9) : ∃ t, exec (.smbusLineRecovery (some n)) s = .next t ∧ t.smbus = { s.smbus with recovering := false } ∧
    t.outbox = s.outbox ++ (.smbus 2 [BitVec.ofNat 8 n] :: s.smbus.transfer.toList.map (.smbus 1 ·)) := by
  obtain ⟨hsmbus, houtbox⟩ := transferRetried_facts (s := { s with smbus := { s.smbus with recovering := false } }.emit (.smbus 2 (le 1 n)))
  exact ⟨_, exec_smbusLineRecovery_freed hon hn, hsmbus, houtbox.trans (List.append_assoc ..)⟩

theorem exec_smbusLineRecovery_held {high : Option Nat} (h : high = none ∨ ∃ n ∈ high, 9 < n) : exec (.smbusLineRecovery high) s =
    .next ({ s with smbus := { s.smbus with recovering := true } }.emit (.smbus 2 (le 1 9))) := by
  refine congrArg Host.Outcome.next ((if_neg (by simp [hon])).trans ?_)
  rcases h with rfl | ⟨n, rfl, hn⟩
  · rfl
  · exact if_neg (Nat.not_le.2 hn)

theorem exec_smbusTargetTimeout_on : exec (.smbusTargetTimeout a c) s = .next (if 25000 < a ∨ 35000 ≤ c then s.emit (.smbus 4 []) else s) := by
  show Host.Outcome.next _ = _
  simp only [hon, Bool.true_and, Bool.or_eq_true, decide_eq_true_eq]

/-- The port is fenced, and what waits is discarded (R329). -/
def State.portFenced (s : State) : State :=
  { s with smbus := { s.smbus with
    fenced := true
    recovering := false
    discards := s.smbus.discards + s.smbus.queue.length
    queue := []
    transfer := none
    retries := 0
    probeChain := s.now } }

theorem exec_smbusFence_due {sda : Bool} (hn : 32768 ≤ n) : exec (.smbusFence sda n) s = .next (s.portFenced.evSmbus 0 (if sda then 0 else 1)) :=
  congrArg Host.Outcome.next (if_pos (by simp [hon, hn]))

/-! Retries (R330). -/

/-- The third failure of a transfer: it is discarded, and there is no partner. -/
def State.partnerLost (s : State) : State :=
  { s with smbus := { s.smbus with transfer := none, retries := 0, discards := s.smbus.discards + 1, noPartner := true, probeChain := s.now } }

theorem exec_smbusRetry_sent {acked : Bool} (hp : s.smbus.noPartner = false) (ht : s.smbus.transfer = some b) : exec (.smbusRetry acked) s =
    .next (if acked then { s.emit (.smbus 1 b) with smbus := { s.smbus with transfer := none, retries := 0 } }
      else if s.smbus.retries + 1 < 3 then { s.emit (.smbus 1 b) with smbus := { s.smbus with retries := s.smbus.retries + 1 } }
      else (s.emit (.smbus 1 b)).partnerLost.evSmbus 2 2) := by
  show Host.Outcome.next (s.retried acked) = _
  rw [State.retried, ht]
  exact congrArg _ (if_neg (by simp [hon, hp]))

theorem exec_smbusRetry_failed (hp : s.smbus.noPartner = false) (ht : s.smbus.transfer = some b) : exec (.smbusRetry false) s =
    .next (if s.smbus.retries + 1 < 3 then { s.emit (.smbus 1 b) with smbus := { s.smbus with retries := s.smbus.retries + 1 } }
      else (s.emit (.smbus 1 b)).partnerLost.evSmbus 2 2) := exec_smbusRetry_sent hon hp ht

/-! Probes (R330). -/

/-- A probe carries the oldest queued message. -/
def State.probed (b : Bytes) (s : State) : State := { s with smbus := { s.smbus with probeChain := s.now } }.emit (.smbus 3 b)

theorem exec_smbusProbe_due {acked : Bool} (hp : s.smbus.noPartner = true) (hq : s.smbus.queue = b :: l) (hdue : s.smbus.probeChain + 32768 ≤ s.now) :
    exec (.smbusProbe acked) s = .next (if acked then { s.probed b with smbus := { (s.probed b).smbus with queue := l } }.partnerBack else s.probed b) := by
  show execSmbusProbe acked s = _
  rw [execSmbusProbe, hq]
  exact congrArg _ (if_pos (by simp [hon, hp, hdue]))

theorem smbusProbe_acked (hp : s.smbus.noPartner = true) (hq : s.smbus.queue = b :: l) (hdue : s.smbus.probeChain + 32768 ≤ s.now) :
    ∃ t e, exec (.smbusProbe true) s = .next t ∧
      t.smbus = { s.smbus with probeChain := s.now, noPartner := false, queue := [], retries := 0, transfer := l.getLast? } ∧
      t.outbox = s.outbox ++ .smbus 3 b :: l.map (.smbus 0 ·) ++ [e] := by
  obtain ⟨hsmbus, e, houtbox⟩ := partnerBack_facts { s.probed b with smbus := { (s.probed b).smbus with queue := l } } hp
  exact ⟨_, e, exec_smbusProbe_due hon hp hq hdue, hsmbus, houtbox.trans (by simp [State.probed, State.emit])⟩

/-! Transfers and packets (R325, R327). -/

theorem exec_transferAbandon_due (ht : s.smbus.transfer.isSome = true) (hn : 35 ≤ n) :
    exec (.transferAbandon n) s = .next { s with smbus := { s.smbus with recovering := true } } :=
  congrArg Host.Outcome.next (if_pos (by simp [hon, ht, hn]))

theorem exec_smbusPacket_bad {pkt : SmbusPacket} (hpec : pkt.pecOk = false) :
    exec (.smbusPacket pkt) s = .next { s with smbus := { s.smbus with pecErrors := s.smbus.pecErrors + 1 } } :=
  congrArg Host.Outcome.next ((if_neg (by simp [hon])).trans (if_pos (by rw [hpec]; rfl)))

theorem exec_smbusPacket_good {pkt : SmbusPacket} (hpec : pkt.pecOk = true) : exec (.smbusPacket pkt) s =
    .next (if mctpAccepts pkt.msgType = true then s.partnerBack
      else { s.partnerBack with smbus := { s.partnerBack.smbus with discards := s.partnerBack.smbus.discards + 1 } }) :=
  congrArg Host.Outcome.next ((if_neg (by simp [hon])).trans (if_neg (by simp [hpec])))

theorem smbusPacket_good {pkt : SmbusPacket} (hpec : pkt.pecOk = true) : ∃ t, exec (.smbusPacket pkt) s = .next t ∧ t.smbus.noPartner = false ∧
    t.smbus.discards = s.smbus.discards + (if pkt.msgType = 0x00 ∨ pkt.msgType = 0x05 ∨ pkt.msgType = 0x7F then 0 else 1) := by
  obtain ⟨hpartner, hdiscards⟩ := partnerBack_partner (s := s)
  refine ⟨_, exec_smbusPacket_good hon hpec, ?_⟩
  simp only [mctpAccepts_iff]
  split
  · exact ⟨hpartner, hdiscards⟩
  · exact ⟨hpartner, congrArg (· + 1) hdiscards⟩

end

/-- Settles O48: one lemma for each command of the port, by whether it is fenced and has a partner. -/
theorem busRecovers : Obligations.BusRecovers := by
  intro s hoff
  have hon : s.smbus.fenced = false → s.busOn = true := fun hf => by rw [State.busOn, hoff, hf]; rfl
  refine ⟨fun n hf => smbusLineRecovery_freed (hon hf), fun h hf hh => ⟨_, exec_smbusLineRecovery_held (hon hf) hh, rfl, rfl⟩,
    fun a c hf => exec_smbusTargetTimeout_on (hon hf), fun sda n hf hn => ⟨_, exec_smbusFence_due (hon hf) hn, (ev_smbus ..).1, evSmbus_time⟩,
    fun n => smbusUnfence_due, fun b hf hp ht => ⟨?_, fun hr => ?_, fun hr => ?_⟩,
    fun b l hf hp hq hdue => ⟨⟨_, exec_smbusProbe_due (hon hf) hp hq hdue, rfl, rfl⟩, smbusProbe_acked (hon hf) hp hq hdue⟩,
    fun n hf => exec_transferAbandon_due (hon hf), fun p hf => exec_smbusPacket_bad (hon hf), fun p hf => smbusPacket_good (hon hf)⟩
  · exact ⟨_, exec_smbusRetry_sent (hon hf) hp ht, rfl, rfl⟩
  · exact ⟨_, (exec_smbusRetry_failed (hon hf) hp ht).trans (congrArg _ (if_pos (by omega))), rfl, rfl⟩
  · exact ⟨_, (exec_smbusRetry_failed (hon hf) hp ht).trans (congrArg _ (if_neg (by omega))), (ev_smbus ..).1⟩

end Sys2Proof.Machine

/-! Input power and power-fail handling (R336, R338, R341, R347, R350). -/

namespace Sys2Proof.Machine

section
variable {s : State} {mv us ms mj : Nat} {low : Bool}

/-! What begins power-fail handling (R336). -/

theorem pwrWarn_asserted : ∃ t, exec (.pwrWarn true) s = .next t ∧ t.power.warn = true ∧ (s.power.off = false → t.power.fail = true) ∧
    (s.power.off = false → s.power.fail = false → t.power.failDue = true) ∧ t.parcels = s.parcels ∧ t.clusters = s.clusters ∧ t.time = s.time := by
  obtain ⟨hwarn, hfail, hdue, hparcels, hclusters, hclock⟩ :=
    beginFail_facts { s with power := { s.power with warn := true } } (fun p => p.warn = true) (fun _ _ _ _ _ h => h) rfl
  exact ⟨_, rfl, hwarn, hfail, hdue, hparcels, hclusters, time_of_clock hclock⟩

theorem exec_inputUndervoltage_low (h : mv < 40000) : exec (.inputUndervoltage mv us) s = .next (if us < 10 then s else (s.seeJ1 mv).beginFail) :=
  congrArg Host.Outcome.next (if_neg (Nat.not_le.2 h))

theorem inputUndervoltage_low (h : mv < 40000) (hus : 10 ≤ us) (hoff : s.power.off = false) :
    ∃ t, exec (.inputUndervoltage mv us) s = .next t ∧ t.power.fail = true ∧ t.power.sensors.j1Mv = mv ∧ t.parcels = s.parcels ∧
      t.clusters = s.clusters ∧ t.time = s.time := by
  obtain ⟨hj1, hfail, -, hparcels, hclusters, hclock⟩ := beginFail_facts (s.seeJ1 mv) (fun p => p.sensors.j1Mv = mv) (fun _ _ _ _ _ h => h) rfl
  exact ⟨_, (exec_inputUndervoltage_low h).trans (congrArg _ (if_neg (Nat.not_lt.2 hus))), hfail hoff, hj1, hparcels, hclusters, time_of_clock hclock⟩

/-- A voltage says whether it lies outside 42 to 60 V, and begins nothing. -/
theorem seeJ1_facts : (s.seeJ1 mv).power.fail = s.power.fail ∧ (s.seeJ1 mv).power.sensors.j1Mv = mv ∧
    ((s.seeJ1 mv).power.uv = true ↔ mv < 42000 ∨ 60000 < mv) ∧ (s.seeJ1 mv).power.switch = s.power.switch :=
  ⟨rfl, rfl, by simp [State.seeJ1], rfl⟩

theorem inputUndervoltage_high (h : 40000 ≤ mv) : ∃ t, exec (.inputUndervoltage mv us) s = .next t ∧ t.power.fail = s.power.fail ∧
    t.power.sensors.j1Mv = mv ∧ (t.power.uv = true ↔ mv < 42000 ∨ 60000 < mv) := by
  obtain ⟨hfail, hj1, huv, -⟩ := seeJ1_facts (s := s) (mv := mv)
  exact ⟨_, congrArg Host.Outcome.next (if_pos h), hfail, hj1, huv⟩

/-! How it ends (R336). -/

/-- Power-fail handling is over; the thermal idle may still hold. -/
def State.powerRecovered (s : State) : State :=
  { s.drawMany 1 with power := { s.power with fail := false, failDue := false, clearRun := 0 }, clock := { s.clock with forced := s.power.thermal } }

theorem powerFailRecovered_clear (hf : s.power.fail = true) (hrun : 32 ≤ s.power.clearRun) (hrod : s.clock.rod = 0) :
    ∃ t, exec .powerFailRecovered s = .next t ∧ t.power.fail = false ∧ t.clock.forced = s.power.thermal ∧ t.time = s.time ∧ t.parcels = s.parcels := by
  obtain ⟨hpower, hparcels, -, hclock, -⟩ := evPower_frames 1 (s.fresh.toNat % 2 ^ 32) s.powerRecovered
  exact ⟨s.powerRecovered.evPower 1 (s.fresh.toNat % 2 ^ 32), congrArg Host.Outcome.next (if_pos (by simp [hf, hrun, hrod])), congrArg Power.fail hpower,
    congrArg Clock.forced hclock, (time_of_clock hclock).trans rfl, hparcels⟩

theorem powerFailStop_empty (h : mj ≤ 250) (hf : s.power.fail = true) (hoff : s.power.off = false) : ∃ t, exec (.powerFailStop mj) s = .next t ∧
    t.power.off = true ∧ t.faults.mgmtWord = faultWord 4 6 0x1501 ∧ t.flash.meterSaved = s.power.meter := by
  obtain ⟨hpower, -, -, -, -⟩ := evPower_frames 2 mj s
  obtain ⟨hoff', hmeter, hword⟩ := powerStop_facts (faultWord 4 6 fcPowerFail) (s.evPower 2 mj)
  exact ⟨_, congrArg Host.Outcome.next (if_pos (by simp [hf, hoff, h])), hoff', hword, hmeter.trans (congrArg Power.meter hpower)⟩

/-! Overvoltage (R347). -/

theorem exec_inputOvervoltage_surge (hmv : 80000 < mv) (hus : 100 < us) : exec (.inputOvervoltage mv us) s = .fault .surgeUndefined :=
  if_pos (by simp [hmv, hus])

theorem exec_inputOvervoltage_defined (h : ¬(80000 < mv ∧ 100 < us)) : exec (.inputOvervoltage mv us) s =
    .next (if 62000 < mv ∧ 10 ≤ us then { s.seeJ1 mv with power := { (s.seeJ1 mv).power with ovOpen := true } }.openSwitch
      else if 60000 < mv then s.seeJ1 mv else s) := by
  refine (if_neg (by simpa using h)).trans ?_
  simp only [Bool.and_eq_true, decide_eq_true_eq]

theorem inputOvervoltage_opens (hmv : 62000 < mv) (hus : 10 ≤ us) (h : ¬(80000 < mv ∧ 100 < us)) : ∃ t, exec (.inputOvervoltage mv us) s = .next t ∧
    t.power.switch = false ∧ t.power.ovOpen = true ∧ (s.power.off = false → t.power.fail = true) := by
  obtain ⟨hswitch, -, hov, -, hfail⟩ := openSwitch_facts { s.seeJ1 mv with power := { (s.seeJ1 mv).power with ovOpen := true } }
  exact ⟨_, (exec_inputOvervoltage_defined h).trans (congrArg _ (if_pos ⟨hmv, hus⟩)), hswitch, hov, hfail⟩

theorem inputOvervoltage_stays (hlow : ¬(62000 < mv ∧ 10 ≤ us)) (h : ¬(80000 < mv ∧ 100 < us)) : ∃ t, exec (.inputOvervoltage mv us) s = .next t ∧
    t.power.switch = s.power.switch ∧ t.power.fail = s.power.fail := by
  refine ⟨_, (exec_inputOvervoltage_defined h).trans (congrArg _ (if_neg hlow)), ?_⟩
  obtain ⟨hfail, -, -, hswitch⟩ := seeJ1_facts (s := s) (mv := mv)
  split
  · exact ⟨hswitch, hfail⟩
  · exact ⟨rfl, rfl⟩

theorem overvoltageRecovery_below (hopen : s.power.ovOpen = true) (h : mv < 60000) : ∃ t, exec (.overvoltageRecovery mv) s = .next t ∧
    t.power.ovOpen = false ∧ t.power.switch = (s.power.present && !s.power.cycleLow) :=
  ⟨_, congrArg Host.Outcome.next (if_pos (by simp [hopen, h])), rfl, rfl⟩

/-! The cycle line and the contacts (R341, R350). -/

theorem pwrCycle_held (h : 10 ≤ ms) : ∃ t, exec (.pwrCycle true ms) s = .next t ∧ t.power.switch = false ∧ t.power.cycleLow = true ∧
    (s.power.off = false → t.power.fail = true) := by
  obtain ⟨hswitch, -, -, hlow, hfail⟩ := openSwitch_facts { s with power := { s.power with cycleLow := true } }
  exact ⟨_, congrArg Host.Outcome.next (if_neg (Nat.not_lt.2 h)), hswitch, hlow, hfail⟩

theorem presentJ1Break_mated (h : s.power.present = true) : ∃ t, exec .presentJ1Break s = .next t ∧ t.power.present = false ∧ t.power.switch = false ∧
    (s.power.off = false → t.power.fail = true) := by
  obtain ⟨hswitch, hpresent, -, -, hfail⟩ := openSwitch_facts { s with power := { s.power with present := false } }
  exact ⟨_, congrArg Host.Outcome.next (if_pos h), hpresent, hswitch, hfail⟩

end

/-- Settles O42: one lemma for each event of the input, by its voltage and how long it lasts. -/
theorem inputPower : Obligations.InputPower := by
  intro s
  exact ⟨pwrWarn_asserted, rfl, fun mv us => inputUndervoltage_low, fun mv us h hus => (exec_inputUndervoltage_low h).trans (congrArg _ (if_pos hus)),
    fun mv us => inputUndervoltage_high, powerFailRecovered_clear, fun mj => powerFailStop_empty, fun mv us => exec_inputOvervoltage_surge,
    fun mv us => inputOvervoltage_opens, fun mv us => inputOvervoltage_stays, fun mv => overvoltageRecovery_below, fun ms => pwrCycle_held,
    fun ms h => congrArg Host.Outcome.next (if_pos h), fun ms => rfl, presentJ1Break_mated, fun h => congrArg Host.Outcome.next (if_pos h)⟩

end Sys2Proof.Machine

/-! Bring-up to readiness (R277 to R282, R285, R290, R291, R349). -/

namespace Sys2Proof.Machine

section
variable {s : State} {n w d c l : Nat} {failed : List Nat} {failedBenches : List (Nat × Nat)}

theorem exec_ebxelStart_ready (hoff : s.power.off = false) (hstage : s.boot.stage = 1) (hdrbg : s.entropy.instantiated = true)
    (hrail : s.boot.railFailed = false) : ∃ t, exec .ebxelStart s = .next t ∧ t.boot.stage = 0x10 ∧ t.time = (0, 0, true) ∧ t.power.recOpen = true :=
  ⟨_, congrArg Host.Outcome.next (if_pos (by simp [hoff, hstage, hdrbg, hrail])), rfl, rfl, rfl⟩

/-! The dies (R349). -/

/-- The core rail of a die is up. -/
def State.railUp (d : Nat) (s : State) : State := { s with boot := { s.boot with diesUp := d + 1 } }

theorem exec_diePowerUp_turn (hb : s.bringing = true) (hturn : d = s.boot.diesUp) (hd : d < 4) :
    exec (.diePowerUp d) s = .next ((span (12 * d) 12).foldl trainIf (s.railUp d)) :=
  congrArg Host.Outcome.next (if_pos (by simp [hb, ← hturn, hd]))

/-- The links of the die that has come up may train, if their cables are there and supplied. -/
theorem railUp_trains : (l ∈ span (12 * d) 12 ∧ (s.railUp d).mayTrain l = true) ↔
    s.power.off = false ∧ l / 12 = d ∧ (s.link l).cable = true ∧ (s.link l).supply = true := by
  have hmay : (s.railUp d).mayTrain l = true ↔ s.power.off = false ∧ l / 12 < d + 1 ∧ (s.link l).cable = true ∧ (s.link l).supply = true := by
    simp [State.mayTrain, State.railUp, State.link, and_assoc]
  rw [memSpan, hmay]
  constructor
  · rintro ⟨hspan, hoff, -, hcable, hsupply⟩
    exact ⟨hoff, by omega, hcable, hsupply⟩
  · rintro ⟨hoff, hdie, hcable, hsupply⟩
    exact ⟨by omega, hoff, by omega, hcable, hsupply⟩

theorem diePowerUp_turn (hb : s.bringing = true) (hturn : d = s.boot.diesUp) (hd : d < 4) (hlinks : s.links.length = 48) :
    ∃ t, exec (.diePowerUp d) s = .next t ∧ t.boot.diesUp = d + 1 ∧ t.time = s.time ∧ ∀ l < 48, (t.link l).state =
      if s.power.off = false ∧ l / 12 = d ∧ (s.link l).cable = true ∧ (s.link l).supply = true then 0 else (s.link l).state := by
  obtain ⟨hboot, htime, hstate⟩ := fold_train (span (12 * d) 12) (s.railUp d) fun l hl => by
    show l < s.links.length
    rw [memSpan] at hl
    omega
  refine ⟨_, exec_diePowerUp_turn hb hturn hd, congrArg Boot.diesUp hboot, htime, fun l _ => (hstate l).trans ?_⟩
  simp only [railUp_trains]
  rfl

/-! The waves and their tests (R280, R285). -/

/-- The clusters of a wave that are neither failed nor retired. -/
def State.waking (w : Nat) (s : State) : List Nat := (List.range 64).filter fun c => waveOf c == w && [0, 1, 4].contains (s.platCluster c).state

theorem mem_waking (hc : c < 64) : c ∈ s.waking w ↔ waveOf c = w ∧ (s.platCluster c).state ∈ [0, 1, 4] := by
  rw [State.waking, List.mem_filter, List.mem_range, Bool.and_eq_true, beq_iff_eq, List.contains_iff_mem]
  exact and_iff_right hc

/-- The boot record once a wave is awake. -/
def Boot.waveAwake (w : Nat) (b : Boot) : Boot :=
  { b with wavesAwake := w, waves := if b.cold then b.waves else w, stage := if b.stage = 0x10 then 0x20 else b.stage }

theorem exec_waveWake_turn (hb : s.bringing = true) (hdies : s.boot.diesUp = 4) (hturn : w = s.boot.wavesAwake + 1) (hw : w ≤ 8) :
    exec (.waveWake w) s = .next { s.modClusters (s.waking w) fun k => { k with awake := true } with
      boot := (s.modClusters (s.waking w) fun k => { k with awake := true }).boot.waveAwake w } :=
  congrArg Host.Outcome.next (if_pos (by simp [hb, hdies, ← hturn, hw]))

theorem waveWake_turn (hb : s.bringing = true) (hdies : s.boot.diesUp = 4) (hturn : w = s.boot.wavesAwake + 1) (hw : w ≤ 8) (hclusters : s.clusters.length = 64) :
    ∃ t, exec (.waveWake w) s = .next t ∧ t.boot.wavesAwake = w ∧ t.time = s.time ∧ t.boot.waves = (if s.boot.cold = true then s.boot.waves else w) ∧
      t.boot.stage = (if s.boot.stage = 0x10 then 0x20 else s.boot.stage) ∧
      ∀ c < 64, (t.cluster c).awake = if waveOf c = w ∧ (s.platCluster c).state ∈ [0, 1, 4] then true else (s.cluster c).awake := by
  refine ⟨_, exec_waveWake_turn hb hdies hturn hw, rfl, State.modClusters_time .., ?_, ?_, fun c hc => ?_⟩
  · rw [State.modClusters_boot]
    rfl
  · rw [State.modClusters_boot]
    rfl
  · refine (modClusters_awake (s.waking w) s c (by omega)).trans ?_
    simp only [mem_waking hc]

/-- What a wave's tests say of a cluster: its failed benches leave their mask, and it works or has failed. `s` is the state before the tests. -/
def State.clusterTested (s : State) (failed : List Nat) (failedBenches : List (Nat × Nat)) (t : State) (c : Nat) : State :=
  let gone := (failedBenches.filter fun b => b.1 == c && b.2 < 64).map (·.2)
  let u := if gone.isEmpty then t else t.platPend 2 c ((s.platCluster c).benchMask.toNat &&& (2 ^ 64 - 1 - maskOf gone))
  u.tested 0 c (failed.contains c)

theorem clusterTested_time {t : State} : (s.clusterTested failed failedBenches t c).time = t.time := by
  unfold State.clusterTested
  dsimp only
  split
  · rfl
  · rfl

theorem clusterTested_pending {t : State} : ∃ l, (s.clusterTested failed failedBenches t c).plat.pending =
    t.plat.pending ++ l ++ [(0, c, if failed.contains c then 2 else 0)] := by
  unfold State.clusterTested
  dsimp only
  split
  · exact ⟨[], by rw [List.append_nil]; rfl⟩
  · exact ⟨[_], rfl⟩

/-- The clusters of a wave that wait for their test. -/
def State.untested (w : Nat) (s : State) : List Nat := (List.range 64).filter fun c => waveOf c == w && (s.platCluster c).state == 4

theorem mem_untested (hc : c < 64) (hw : waveOf c = w) (h4 : (s.platCluster c).state = 4) : c ∈ s.untested w := by
  rw [State.untested, List.mem_filter, List.mem_range, hw, h4]
  exact ⟨hc, by simp⟩

/-- A wave's tests are done. -/
def State.waveTested (w : Nat) (failed : List Nat) (failedBenches : List (Nat × Nat)) (s : State) : State :=
  let t := (s.untested w).foldl (s.clusterTested failed failedBenches) s
  { t with boot := { t.boot with waves := w } }

theorem exec_waveTestDone_turn (hb : s.bringing = true) (hcold : s.boot.cold = true) (hturn : w = s.boot.waves + 1) (hw : w ≤ s.boot.wavesAwake) :
    exec (.waveTestDone w failed failedBenches) s = .next (s.waveTested w failed failedBenches).toStage40 :=
  congrArg Host.Outcome.next (if_pos (by simp [hb, hcold, ← hturn, hw]))

theorem waveTested_time : (s.waveTested w failed failedBenches).time = s.time :=
  foldl_app State.time (fun _ _ => clusterTested_time) s

theorem waveTested_pending (hmem : c ∈ s.untested w) : (0, c, if failed.contains c then 2 else 0) ∈ (s.waveTested w failed failedBenches).plat.pending := by
  refine (fold_pend (g := s.clusterTested failed failedBenches) (v := fun c => (0, c, if failed.contains c then 2 else 0))
    (fun t x y hy => ?_) (fun t x => ?_) _ s).2 c hmem
  · obtain ⟨l, hl⟩ := clusterTested_pending (s := s) (failed := failed) (failedBenches := failedBenches) (t := t) (c := x)
    rw [hl, List.append_assoc]
    exact List.mem_append_left _ hy
  · obtain ⟨l, hl⟩ := clusterTested_pending (s := s) (failed := failed) (failedBenches := failedBenches) (t := t) (c := x)
    rw [hl]
    exact List.mem_append_right _ (List.mem_singleton_self _)

theorem waveTestDone_turn (hb : s.bringing = true) (hcold : s.boot.cold = true) (hturn : w = s.boot.waves + 1) (hw : w ≤ s.boot.wavesAwake) :
    ∃ t, exec (.waveTestDone w failed failedBenches) s = .next t ∧ t.boot.waves = w ∧ t.time = s.time ∧
      ∀ c < 64, waveOf c = w → (s.platCluster c).state = 4 → (0, c, if c ∈ failed then 2 else 0) ∈ t.plat.pending := by
  obtain ⟨hwaves, -, -, htime, hpending⟩ := toStage40_facts (s.waveTested w failed failedBenches)
  refine ⟨_, exec_waveTestDone_turn hb hcold hturn hw, hwaves, htime.trans waveTested_time, fun c hc hwave h4 => ?_⟩
  rw [hpending]
  simpa only [List.contains_iff_mem] using waveTested_pending (failed := failed) (failedBenches := failedBenches) (mem_untested hc hwave h4)

/-! The memory devices (R278). -/

/-- What the training and the test of a device say of a subchannel. `s` is the state before them. -/
def State.subchTested (s : State) (failed : List Nat) (t : State) (x : Nat) : State :=
  if s.boot.cold then (if s.plat.subchs.getD x 2 = 4 then t.tested 1 x (failed.contains x) else t)
  else if failed.contains x && s.plat.subchs.getD x 2 ≤ 1 then t.platPend 1 x 3 else t

theorem subchTested_keeps {t : State} : (s.subchTested failed t n).boot = t.boot ∧ (s.subchTested failed t n).time = t.time := by
  unfold State.subchTested
  split
  · split
    · exact ⟨rfl, rfl⟩
    · exact ⟨rfl, rfl⟩
  · split
    · exact ⟨rfl, rfl⟩
    · exact ⟨rfl, rfl⟩

/-- The subchannels of a device have been trained, and tested on the cold path. -/
def State.deviceTested (d : Nat) (failed : List Nat) (s : State) : State := (span (4 * d) 4).foldl (s.subchTested failed) s

theorem deviceTested_keeps : (s.deviceTested d failed).boot = s.boot ∧ (s.deviceTested d failed).time = s.time :=
  ⟨foldl_app State.boot (fun _ _ => subchTested_keeps.1) s, foldl_app State.time (fun _ _ => subchTested_keeps.2) s⟩

theorem exec_deviceReady_new (hb : s.bringing = true) (hwake : 0 < s.boot.wavesAwake) (hd : d < 16) (hnew : d ∉ s.boot.devicesReady) :
    exec (.deviceReady d failed) s = .next ({ s.deviceTested d failed with boot := { (s.deviceTested d failed).boot with
      devicesReady := (s.deviceTested d failed).boot.devicesReady ++ [d] } } : State).toStage40 :=
  congrArg Host.Outcome.next (if_pos (by simp [hb, hwake, hd, hnew]))

theorem deviceReady_new (hb : s.bringing = true) (hwake : 0 < s.boot.wavesAwake) (hd : d < 16) (hnew : d ∉ s.boot.devicesReady) :
    ∃ t, exec (.deviceReady d failed) s = .next t ∧ t.boot.devicesReady = s.boot.devicesReady ++ [d] ∧
      (t.boot.stage = s.boot.stage ∨ t.boot.stage = 0x40) ∧ t.time = s.time := by
  obtain ⟨hboot, htime⟩ := deviceTested_keeps (s := s) (d := d) (failed := failed)
  refine ⟨_, exec_deviceReady_new hb hwake hd hnew, ?_⟩
  rw [hboot]
  obtain ⟨-, hdevices, hstage, htime', -⟩ := toStage40_facts { s.deviceTested d failed with
    boot := { s.boot with devicesReady := s.boot.devicesReady ++ [d] } }
  exact ⟨hdevices, hstage, htime'.trans htime⟩

/-! Early service (R282). -/

/-- Early service has begun: the drawers that were held open. -/
def State.earlyServed (s : State) : State := State.openHeldDrawers { s with boot := { s.boot with stage := 0x30 } }

theorem earlyServed_boot : s.earlyServed.boot = { s.boot with stage := 0x30 } := by
  unfold State.earlyServed State.openHeldDrawers
  split
  · rfl
  · rfl

theorem earlyServed_time : s.earlyServed.time = s.time := State.openHeldDrawers_time _

theorem toStage40_early (h : s.boot.stage = 0x30) : s.toStage40.boot.stage = if s.unitsReady = true then 0x40 else 0x30 := by
  unfold State.toStage40
  by_cases hready : s.unitsReady = true
  · rw [if_pos (by simp [hready, h]), if_pos hready]
  · rw [if_neg (by simp [hready]), if_neg hready, h]

theorem unitsReady_congr {t : State} (hwaves : t.boot.waves = s.boot.waves) (hdevices : t.boot.devicesReady = s.boot.devicesReady) :
    t.unitsReady = s.unitsReady := by
  rw [State.unitsReady, State.unitsReady, hwaves, hdevices]

theorem exec_earlyService_due (hb : s.bringing = true) (hearly : s.boot.early = true) (hstage : s.boot.stage = 0x20) (hwave : 1 ≤ s.boot.waves)
    (hdevices : ∀ d ∈ [0, 4, 8, 12], d ∈ s.boot.devicesReady) :
    exec .earlyService s = .next s.earlyServed.toStage40 := by
  have hall : ([0, 4, 8, 12].all (s.boot.devicesReady.contains ·)) = true := List.all_eq_true.2 fun d hd => List.contains_iff_mem.2 (hdevices d hd)
  exact congrArg Host.Outcome.next (if_pos (by rw [hb, hearly, hstage, decide_eq_true hwave, hall]; rfl))

theorem earlyService_due (hb : s.bringing = true) (hearly : s.boot.early = true) (hstage : s.boot.stage = 0x20) (hwave : 1 ≤ s.boot.waves)
    (hdevices : ∀ d ∈ [0, 4, 8, 12], d ∈ s.boot.devicesReady) :
    ∃ t, exec .earlyService s = .next t ∧ t.boot.stage = (if s.unitsReady = true then 0x40 else 0x30) ∧ t.time = s.time := by
  have hunits : s.earlyServed.unitsReady = s.unitsReady := unitsReady_congr (by rw [earlyServed_boot]) (by rw [earlyServed_boot])
  refine ⟨_, exec_earlyService_due hb hearly hstage hwave hdevices, ?_, (State.toStage40_time _).trans earlyServed_time⟩
  rw [toStage40_early (by rw [earlyServed_boot]), hunits]

/-! Agreement (R290, R291). -/

theorem settled_iff : s.settled l = true ↔ (s.link l).state ∈ [1, 3, 4, 5] := List.contains_iff_mem

/-- Agreement has been judged. -/
def State.agreementJudged (s : State) : State := { s with boot := { s.boot with judged := true } }

theorem exec_topologyJudge_due (hrun : s.clock.running = true) (hstage : s.boot.stage = 0x40) (hrod : s.clock.rod = 0) (hnew : s.boot.stage40 ≠ s.now)
    (hdue : s.boot.judged = true ∨ (∀ l ∈ s.linkMask, (s.link l).state ∈ [1, 3, 4, 5]) ∨ s.boot.stage40 + s.boot.surveyWait ≤ s.now) :
    exec .topologyJudge s = .next (if s.disagreement = 0 then s.agreementJudged.becomeReady else s.agreementJudged.reportMismatch) := by
  refine congrArg Host.Outcome.next (if_pos ?_)
  simp only [hrun, hstage, hrod, hnew, ne_eq, not_false_eq_true, decide_true, Bool.and_self, Bool.true_and, Bool.or_eq_true, decide_eq_true_eq, List.all_eq_true,
    settled_iff, or_assoc]
  exact hdue

theorem topologyJudge_due (hrun : s.clock.running = true) (hstage : s.boot.stage = 0x40) (hrod : s.clock.rod = 0) (hnew : s.boot.stage40 ≠ s.now)
    (hdue : s.boot.judged = true ∨ (∀ l ∈ s.linkMask, (s.link l).state ∈ [1, 3, 4, 5]) ∨ s.boot.stage40 + s.boot.surveyWait ≤ s.now) :
    ∃ t, exec .topologyJudge s = .next t ∧ t.time = s.time ∧
      (s.disagreement = 0 → t.boot.stage = 0x50 ∧ t.boot.ready = true ∧ t.flash.warmRow = 0 ∧ t.faults.trayCycles = 0) ∧
      (s.disagreement ≠ 0 → t.boot.stage = 0x40 ∧ t.boot.judged = true ∧ t.boot.ready = s.boot.ready) := by
  refine ⟨_, exec_topologyJudge_due hrun hstage hrod hnew hdue, ?_⟩
  by_cases hagrees : s.disagreement = 0
  · rw [if_pos hagrees]
    exact ⟨State.becomeReady_time _, fun _ => becomeReady_facts _, fun hne => absurd hagrees hne⟩
  · rw [if_neg hagrees]
    obtain ⟨hstage', hjudged, hready⟩ := mismatch_facts s.agreementJudged
    exact ⟨State.reportMismatch_time _, fun h => absurd h hagrees, fun _ => ⟨hstage'.trans hstage, hjudged, hready⟩⟩

end

/-- Settles O51: one lemma for each stage of bring-up; agreement by what `State.becomeReady` and `State.reportMismatch` leave. -/
theorem bringUp : Obligations.BringUp := by
  intro s
  exact ⟨exec_ebxelStart_ready, fun d => diePowerUp_turn, fun w => waveWake_turn, fun w f b => waveTestDone_turn, fun d f => deviceReady_new, earlyService_due,
    topologyJudge_due⟩

end Sys2Proof.Machine
